-- ==== Sys2Proof/Word.lean ====
section
/-!
DEFINITION. The word types of the ATK-9620 (R7, R81, R180) and nothing else: lane words of 32 bits, uniform
registers and instruction words of 64 bits, bytes.
-/
namespace Sys2Proof

/-- A lane word, the unit of coherence (R81). -/
abbrev Word := BitVec 32

/-- A uniform register, an instruction word, a 64-bit address operand. -/
abbrev DWord := BitVec 64

/-- A byte of memory. -/
abbrev Byte := BitVec 8

/-- A set of lanes of one rod: bit l is lane l. -/
abbrev Mask := BitVec 32

end Sys2Proof
end

