-- ==== Sys2Proof/Syntax.lean ====
section
/-!
DEFINITION. The steps of the ATK-9620 as syntax: the operands and fields of the Daxvis instructions (chapter 07 and the
instruction chapters), and the hardware and host events of spec/opcode_table.json with the agents and values each names.
One constructor of `Instr` per row of the table.
-/
namespace Sys2Proof

/-! ### Fields of instructions -/

/-- Guard conditions GC (R212); code 111 is illegal and has no constructor. -/
inductive GuardCond where
  | always | isT | isF | isU | notT | notF | notU
  deriving DecidableEq, Repr

/-- The guard of an instruction (R211, R212): the predicate GQ and the condition GC. -/
structure Guard where
  q : BitVec 4
  c : GuardCond
  deriving DecidableEq, Repr

/-- Special registers of R221, in code order from 0x180. -/
inductive SReg where
  | lane | active | place | chain | role | iflags | mflags
  | cause | skid | agelimit | compat | holdlimit | cycle | flags
  deriving DecidableEq, Repr

/-- Ports of R219, in code order from 0x160. -/
inductive Port where
  | mx | cp | nb | gx
  deriving DecidableEq, Repr

/-- Inline constants without an integer value (R222), in code order from 0x1E0. -/
inductive IConst where
  | half | quarter | negHalf | pi | e | ln2 | entire | empty | unit | sym
  deriving DecidableEq, Repr

/-- What a 9-bit operand field names (R219). -/
inductive Operand where
  /-- lane word wn -/
  | w (n : BitVec 8)
  /-- uniform register sn -/
  | s (n : BitVec 6)
  /-- predicate qn -/
  | q (n : BitVec 4)
  /-- index register kn -/
  | k (n : BitVec 2)
  | port (p : Port)
  | sr (r : SReg)
  /-- inline integer constant: the signed value of the five bits, −16 to 15 (R222) -/
  | int (n : BitVec 5)
  | ic (c : IConst)
  deriving DecidableEq, Repr

/-- Kinds of source modifier (R223). -/
inductive ModKind where
  | rot | bfly | bcast
  deriving DecidableEq, Repr

/-- The source a modifier moves (R223). -/
inductive ModSrc where
  | a | b | c
  deriving DecidableEq, Repr

/-- A source modifier that is present (R223): segment size 2^z, distance, and the source it moves. -/
structure SrcMod where
  kind : ModKind
  z    : BitVec 3
  dist : BitVec 5
  src  : ModSrc
  deriving DecidableEq, Repr

/-- TYPE codes (R215), in code order. -/
inductive Ty where
  | i8 | i16 | i32 | i64 | n8 | n16 | n32 | n64 | h | f | y | e4m3 | e5m2 | hf | bf | sf
  deriving DecidableEq, Repr

/-- The interval views (R180). -/
inductive View where
  | h | f | y
  deriving DecidableEq, Repr

/-- The point formats of matrix operands (R341). -/
inductive PFmt where
  | e4m3 | e5m2 | hf | bf | sf
  deriving DecidableEq, Repr

/-- SUBOP of `ldi` (R239). -/
inductive LdiMode where
  | sext | zext | hi
  deriving DecidableEq, Repr

/-- Relations of `cmp` (R246). -/
inductive CmpRel where
  | eq | ne | lt | le | gt | ge
  deriving DecidableEq, Repr

/-- Relations of `icmp` (R282). -/
inductive IRel where
  | lt | le | gt | ge | eq | ne | sub | disj | has
  deriving DecidableEq, Repr

/-- Classes of `icls` (R283). -/
inductive ICls where
  | empty | entire | point | bnd | zero
  deriving DecidableEq, Repr

/-- Modes of `qvote` (R248). -/
inductive VoteMode where
  | all | any | same
  deriving DecidableEq, Repr

/-- Modes of `qmask` (R249). -/
inductive MaskMode where
  | t | f | u | word
  deriving DecidableEq, Repr

/-- Modes of `qfrom` (R250). -/
inductive FromMode where
  | nz | code | bit | word
  deriving DecidableEq, Repr

/-- Word counts of `rdx` and `wrx` (R245). -/
inductive NWords where
  | n1 | n2 | n4
  deriving DecidableEq, Repr

/-- Access sizes x1 to x16 (R308). -/
inductive Size where
  | x1 | x2 | x4 | x8 | x16
  deriving DecidableEq, Repr

/-- Scopes 0 to 9 (R113); codes 10 to 15 are rejected. -/
inductive Scope where
  | lane | rod | chain | furlong | core | die | package | host | node | fabric
  deriving DecidableEq, Repr

/-- The order field (R116). -/
inductive Order where
  | plain | acq | rel | ar
  deriving DecidableEq, Repr

/-- Cache hints (R70). -/
inductive Hint where
  | normal | stream | near | l2only | evict | noalloc | last | keepl2
  deriving DecidableEq, Repr

/-- The address fields of format M (R217). -/
structure MAddr where
  base  : Operand
  index : Operand
  ofs   : BitVec 12
  deriving DecidableEq, Repr

/-- Operations of `atom` and `red` (R316). -/
inductive AmoOp where
  | add | and | or | xor | min | max | minn | maxn | exch | cas | ihull
  deriving DecidableEq, Repr

/-- Sizes of `atom` and `red` (R316). -/
inductive AmoSize where
  | b32 | b64
  deriving DecidableEq, Repr

/-- Barrier levels (R323). -/
inductive BarLevel where
  | chain | furlong | launch
  deriving DecidableEq, Repr

/-- Levels of completion and cancel (R328, R390). -/
inductive Level where
  | launch | graph | phase | job
  deriving DecidableEq, Repr

/-- The barrier field of a copy (R329): BLV 01 or 10, and BNO. -/
structure CopyBar where
  furlong : Bool
  no      : BitVec 4
  deriving DecidableEq, Repr

/-- Operand spaces of the matrix engine (R341). -/
inductive MxSpace where
  | mem | sp | fl
  deriving DecidableEq, Repr

/-- The fields of `mxmm`, `mxim` and `mxcv` (R341). -/
structure MxFields where
  tile : BitVec 3
  af   : PFmt
  bf   : PFmt
  ara  : Bool
  bra  : Bool
  asp  : MxSpace
  bsp  : MxSpace
  deriving DecidableEq, Repr

/-! ### Agents and messages named by events -/

/-- A core: compute die 0–7 and core 0–47 (R1). -/
structure CoreId where
  die  : Nat
  core : Nat
  deriving DecidableEq, Repr

/-- A rod: the chain that holds it and its index in the chain. -/
structure RodId where
  chain : Nat
  rod   : Nat
  deriving DecidableEq, Repr

/-- The two program-counter slots of a rod (R156). -/
inductive SlotId where
  | a | b
  deriving DecidableEq, Repr

/-- An ordered party of the coherence protocol (R81): a core, or a die's L2 acting for its cores. -/
inductive Party where
  | core (c : CoreId)
  | l2 (die : Nat)
  deriving DecidableEq, Repr

/-- Who reads a word: a core, either through its own home slice or through its die's non-home slice. -/
structure Reader where
  core  : CoreId
  viaL2 : Bool
  deriving DecidableEq, Repr

/-- To whom a revoked L1 answers: the home slice, the home slice through the die's own slice, or the die's own slice, which
then records another local core (R96). -/
inductive RevokeTo where
  | home
  | homeVia (die : Nat)
  | toLocal (die core : Nat) (fetch : Bool)
  deriving DecidableEq, Repr

/-- What one access of a home-performed request does (R100). Values are little-endian numbers of the access's bytes. -/
inductive HomeAct where
  | read
  | write (v : Nat)
  | amo (op : AmoOp) (v v2 : Nat)
  | xsAdd (lo hi : Word)
  | xsRead
  /-- push a free block at a list's head: the link at its address takes the old head, and the head the block's virtual address (R50) -/
  | push (va link : Nat)
  deriving DecidableEq, Repr

/-- One access of a home-performed request: the lane it serves, its physical address, its size in bytes, its cache hint
(R71), and whether its page holds counters (R25). -/
structure HomeAcc where
  lane : Nat
  pa   : Nat
  size : Nat
  act  : HomeAct
  hint : Hint := .normal
  cnt  : Bool := false
  deriving DecidableEq, Repr

/-- A home-performed request (R100): the outstanding operation it answers, its accesses in the order they are applied, the queue whose event
ring the record it writes joins (R386), the ring stop of the die whose unit makes it (R5, R106), whether its data came with a link's poison
indication (R77), and the die whose sample buffer it fills (R446). -/
structure HomeReq where
  op   : Nat
  accs : List HomeAcc
  post : Option Nat := none
  stop : Option Nat := none
  bad  : Bool := false
  sample : Option Nat := none
  deriving DecidableEq, Repr

/-- A barrier of a chain, a furlong or a launch (R323). -/
inductive BarId where
  | chain (cid : Nat) (n : Nat)
  | furlong (fid : Nat) (n : Nat)
  | launch (lid : Nat) (n : Nat)
  deriving DecidableEq, Repr

/-- Kinds of access that walk the page tables (R26). -/
inductive XKind where
  | read | write | fetch
  deriving DecidableEq, Repr

/-- What the patrol scrubber finds in a granule (R78). -/
inductive ScrubFind where
  | clean | corrected | uncorrectable
  deriving DecidableEq, Repr

/-- Snoops the host sends under CXL.cache (R111, R424). -/
inductive SnoopKind where
  | data | inv | cur
  deriving DecidableEq, Repr

/-- An offset in the BAR2 window of an I/O die's host link (R423). -/
structure Bar2At where
  io  : Nat
  off : Nat
  deriving DecidableEq, Repr

/-- A flit at a ring stop (R411): header, encrypted payload, tag and CRC; and the message that its payload is (an index of the state's table of
messages on the ring), if any. -/
structure Flit where
  hdr : DWord
  pay : List Byte
  tag : BitVec 96
  crc : Word
  msg : Option Nat
  deriving DecidableEq, Repr

/-- What a RoCEv2 peer brings on a queue pair (R425): the pair coming up or going down, or a request; a write says whether its data came with the
link's poison indication (R77). -/
inductive PeerReq where
  | connect
  | disconnect
  | write (pa : Nat) (bytes : List Byte) (bad : Bool)
  | writeImm (pa : Nat) (bytes : List Byte) (imm : Word) (bad : Bool)
  | read (pa n : Nat)
  | send (bytes : List Byte)
  | fetchAdd (pa : Nat) (v : DWord)
  | cmpSwap (pa : Nat) (old new : DWord)
  deriving DecidableEq, Repr

/-- Registers of the host's blocks (R8): those whose writes have no behaviour beyond their access codes, the read-only ones, and those whose
writes are events of their own; the write-only ones read 0. -/
inductive HostReg where
  | astb | xlia | xlic | diestat | canc | pvac | preq
  | brkcfg | brkva | brkpa | brklen
  | qbase | qcfg | widx | ridx | evq | evidx | qstat
  | ppdb | nmctl | merrs | merra | l2occ
  | hwcfg | hwaddr | hwthr | msix | bar2
  | dbgctl | holdmap | attach | dbgwin | dbgwho | dbgring
  | smpbase | smpctl | smpwr | smprd
  | pgrsp | poolpush | qpush | prel | dlack | brksync | dbghalt | dbgrel | diectl | perfctl
  deriving DecidableEq, Repr

/-! ### Steps -/

/-- One step of the part: a Daxvis instruction of the issuing rod, or an event of the hardware or the host. One constructor
for each row of spec/opcode_table.json. -/
inductive Instr where
  -- group 0 (R234 to R245)
  | add (g : Guard) (d a b : Operand) (m : Option SrcMod)
  | sub (g : Guard) (d a b : Operand) (m : Option SrcMod)
  | mul (g : Guard) (d a b : Operand) (m : Option SrcMod)
  | mulh (g : Guard) (d a b : Operand) (m : Option SrcMod)
  | mulhn (g : Guard) (d a b : Operand) (m : Option SrcMod)
  | mad (g : Guard) (d a b c : Operand) (m : Option SrcMod)
  | madh (g : Guard) (d a b c : Operand) (m : Option SrcMod)
  | div (g : Guard) (d a b : Operand) (m : Option SrcMod)
  | divn (g : Guard) (d a b : Operand) (m : Option SrcMod)
  | rem (g : Guard) (d a b : Operand) (m : Option SrcMod)
  | remn (g : Guard) (d a b : Operand) (m : Option SrcMod)
  | neg (g : Guard) (d a : Operand) (m : Option SrcMod)
  | abs (g : Guard) (d a : Operand) (m : Option SrcMod)
  | min (g : Guard) (d a b : Operand) (m : Option SrcMod)
  | minn (g : Guard) (d a b : Operand) (m : Option SrcMod)
  | max (g : Guard) (d a b : Operand) (m : Option SrcMod)
  | maxn (g : Guard) (d a b : Operand) (m : Option SrcMod)
  | and (g : Guard) (d a b : Operand) (m : Option SrcMod)
  | or (g : Guard) (d a b : Operand) (m : Option SrcMod)
  | xor (g : Guard) (d a b : Operand) (m : Option SrcMod)
  | andn (g : Guard) (d a b : Operand) (m : Option SrcMod)
  | not (g : Guard) (d a : Operand) (m : Option SrcMod)
  | shl (g : Guard) (d a b : Operand) (m : Option SrcMod)
  | shr (g : Guard) (d a b : Operand) (m : Option SrcMod)
  | sar (g : Guard) (d a b : Operand) (m : Option SrcMod)
  | rol (g : Guard) (d a b : Operand) (m : Option SrcMod)
  | bfx (g : Guard) (d a b : Operand) (m : Option SrcMod)
  | bfxn (g : Guard) (d a b : Operand) (m : Option SrcMod)
  | bfi (g : Guard) (d a b c : Operand) (m : Option SrcMod)
  | popc (g : Guard) (d a : Operand) (m : Option SrcMod)
  | clz (g : Guard) (d a : Operand) (m : Option SrcMod)
  | ctz (g : Guard) (d a : Operand) (m : Option SrcMod)
  | brev (g : Guard) (d a : Operand) (m : Option SrcMod)
  | sel (g : Guard) (d a b : Operand) (q : BitVec 4) (m : Option SrcMod)
  | mov (g : Guard) (d a : Operand) (m : Option SrcMod)
  | ldi (g : Guard) (mode : LdiMode) (d : Operand) (imm : Word)
  | cvt (g : Guard) (dt st : Ty) (sat : Bool) (d a : Operand) (m : Option SrcMod)
  | lea (g : Guard) (d a b c : Operand) (m : Option SrcMod)
  | perm (g : Guard) (d a b : Operand) (m : Option SrcMod)
  | kset (g : Guard) (k : BitVec 2) (imm : BitVec 10)
  | kadd (g : Guard) (k : BitVec 2) (a b : Operand) (m : Option SrcMod)
  | rdx (g : Guard) (d base : BitVec 8) (k : BitVec 2) (n : NWords)
  | wrx (g : Guard) (base : BitVec 8) (k : BitVec 2) (b : BitVec 8) (n : NWords)
  -- group 1 (R246 to R260)
  | cmp (g : Guard) (ty : Ty) (rel : CmpRel) (q : BitVec 4) (a b : Operand) (m : Option SrcMod)
  | qand (g : Guard) (qd qa qb : BitVec 4)
  | qor (g : Guard) (qd qa qb : BitVec 4)
  | qxor (g : Guard) (qd qa qb : BitVec 4)
  | qnot (g : Guard) (qd qa : BitVec 4)
  | qsure (g : Guard) (qd qa : BitVec 4)
  | qmaybe (g : Guard) (qd qa : BitVec 4)
  | qmov (g : Guard) (qd qa : BitVec 4)
  | qvote (g : Guard) (mode : VoteMode) (qd qa : BitVec 4)
  | qmask (g : Guard) (mode : MaskMode) (d : Operand) (qa : BitVec 4)
  | qfrom (g : Guard) (mode : FromMode) (qd : BitVec 4) (a : Operand) (m : Option SrcMod)
  | br (g : Guard) (off : BitVec 48)
  | br3 (q : BitVec 4) (offT offF offU : BitVec 16)
  | join (off : BitVec 48)
  | call (g : Guard) (off : BitVec 48)
  | ret (g : Guard)
  | jmpi (g : Guard) (a : Operand)
  | exit (g : Guard)
  | yield (g : Guard)
  | sleep (g : Guard) (a : Operand)
  | nop (g : Guard)
  -- register claim and work pool (R261 to R269)
  | rgive (g : Guard) (a : Operand)
  | rtake (g : Guard) (a : Operand)
  | split (g : Guard) (v : View) (x : BitVec 8) (q : BitVec 4) (b : BitVec 8) (n : BitVec 4)
  | fork (g : Guard) (q : BitVec 4) (b : BitVec 8) (n : BitVec 4)
  | take (g : Guard) (d : BitVec 8) (q : BitVec 4)
  | poolcfg (g : Guard) (a : Operand)
  | poolst (g : Guard) (d : BitVec 8)
  -- group 2 (R270 to R286)
  | iadd (g : Guard) (v : View) (d a b : Operand) (m : Option SrcMod)
  | isub (g : Guard) (v : View) (d a b : Operand) (m : Option SrcMod)
  | imul (g : Guard) (v : View) (d a b : Operand) (m : Option SrcMod)
  | ifma (g : Guard) (v : View) (d a b c : Operand) (m : Option SrcMod)
  | idiv (g : Guard) (v : View) (d a b : Operand) (m : Option SrcMod)
  | idiv2 (g : Guard) (v : View) (d a b : Operand) (q : BitVec 4) (m : Option SrcMod)
  | ircp (g : Guard) (v : View) (d a : Operand) (m : Option SrcMod)
  | isqr (g : Guard) (v : View) (d a : Operand) (m : Option SrcMod)
  | isqrt (g : Guard) (v : View) (d a : Operand) (m : Option SrcMod)
  | iabs (g : Guard) (v : View) (d a : Operand) (m : Option SrcMod)
  | ineg (g : Guard) (v : View) (d a : Operand) (m : Option SrcMod)
  | imin (g : Guard) (v : View) (d a b : Operand) (m : Option SrcMod)
  | imax (g : Guard) (v : View) (d a b : Operand) (m : Option SrcMod)
  | ihull (g : Guard) (v : View) (d a b : Operand) (m : Option SrcMod)
  | imeet (g : Guard) (v : View) (d a b : Operand) (m : Option SrcMod)
  | imid (g : Guard) (v : View) (d a : Operand) (m : Option SrcMod)
  | irad (g : Guard) (v : View) (d a : Operand) (m : Option SrcMod)
  | iwid (g : Guard) (v : View) (d a : Operand) (m : Option SrcMod)
  | imag (g : Guard) (v : View) (d a : Operand) (m : Option SrcMod)
  | imig (g : Guard) (v : View) (d a : Operand) (m : Option SrcMod)
  | iinf (g : Guard) (v : View) (d a : Operand) (m : Option SrcMod)
  | isup (g : Guard) (v : View) (d a : Operand) (m : Option SrcMod)
  | imk (g : Guard) (v : View) (d a b : Operand) (m : Option SrcMod)
  | ipt (g : Guard) (v : View) (d a : Operand) (m : Option SrcMod)
  | ibis (g : Guard) (v : View) (d a : Operand) (q : BitVec 4) (m : Option SrcMod)
  | iscl (g : Guard) (v : View) (d a b : Operand) (m : Option SrcMod)
  | iflr (g : Guard) (v : View) (d a : Operand) (m : Option SrcMod)
  | iceil (g : Guard) (v : View) (d a : Operand) (m : Option SrcMod)
  | icmp (g : Guard) (v : View) (rel : IRel) (q : BitVec 4) (a b : Operand) (m : Option SrcMod)
  | icls (g : Guard) (v : View) (cls : ICls) (q : BitVec 4) (a : Operand) (m : Option SrcMod)
  | icvt (g : Guard) (dt st : Ty) (hi : Bool) (d a : Operand) (m : Option SrcMod)
  | imr (g : Guard) (v : View) (plane : Option (PFmt × Operand)) (d a : Operand) (m : Option SrcMod)
  | ixr (g : Guard) (v : View) (d a : Operand) (m : Option SrcMod)
  -- group 3 (R287 to R304)
  | iexp2 (g : Guard) (v : View) (d a : Operand) (m : Option SrcMod)
  | ilog2 (g : Guard) (v : View) (d a : Operand) (m : Option SrcMod)
  | irsqrt (g : Guard) (v : View) (d a : Operand) (m : Option SrcMod)
  | ifn (g : Guard) (v : View) (tid : BitVec 4) (d a : Operand) (m : Option SrcMod)
  | ifnc (g : Guard) (tid : BitVec 4) (d a : Operand) (m : Option SrcMod)
  | tblld (g : Guard) (a : Operand) (tid : BitVec 4) (slot : BitVec 8)
  | tblldComplete (op : Nat)
  | tblsw (g : Guard)
  | tblq (g : Guard) (d : Operand) (tid : BitVec 4)
  | segmax (g : Guard) (v : View) (z : BitVec 3) (d a : Operand) (b : Option Operand) (m : Option SrcMod)
  | segmin (g : Guard) (v : View) (z : BitVec 3) (d a : Operand) (b : Option Operand) (m : Option SrcMod)
  | segsum (g : Guard) (v : View) (z : BitVec 3) (d a : Operand) (b : Option Operand) (m : Option SrcMod)
  | segnorm (g : Guard) (v : View) (z : BitVec 3) (d a : Operand) (b : Option Operand) (m : Option SrcMod)
  | smxexp (g : Guard) (v : View) (z : BitVec 3) (d a : Operand) (m : Option SrcMod)
  | smxnorm (g : Guard) (v : View) (z : BitVec 3) (d a : Operand) (q : BitVec 4) (m : Option SrcMod)
  -- memory (R308 to R315)
  | ld (g : Guard) (sz : Size) (d : Operand) (ad : MAddr) (sc : Scope) (o : Order) (h : Hint)
  | loadComplete (op : Nat)
  | st (g : Guard) (sz : Size) (a : Operand) (ad : MAddr) (sc : Scope) (o : Order) (h : Hint)
  | ldmr (g : Guard) (v : View) (d : Operand) (ad : MAddr) (sc : Scope) (o : Order) (h : Hint)
  | stmr (g : Guard) (v : View) (a : Operand) (ad : MAddr) (sc : Scope) (o : Order) (h : Hint)
  | ldXs (g : Guard) (v : View) (d : Operand) (ad : MAddr) (sc : Scope) (o : Order)
  | redXs (g : Guard) (a : Operand) (ad : MAddr) (sc : Scope) (o : Order)
  | lds (g : Guard) (sz : Size) (d : Operand) (ad : MAddr) (sc : Scope) (o : Order) (h : Hint)
  | sts (g : Guard) (sz : Size) (a : Operand) (ad : MAddr) (sc : Scope) (o : Order) (h : Hint)
  | ldtk (g : Guard) (sz : Size) (d : Operand) (ad : MAddr) (sc : Scope) (o : Order) (h : Hint)
  | stfl (g : Guard) (sz : Size) (a : Operand) (ad : MAddr) (sc : Scope) (o : Order) (h : Hint)
  | fullEmptyRelease (r : RodId) (sl : SlotId)
  | fest (g : Guard) (full : Bool) (ad : MAddr) (h : Hint)
  | feq (g : Guard) (d : Operand) (ad : MAddr) (h : Hint)
  | gth (g : Guard) (sz : Size) (ad : MAddr) (h : Hint)
  | gatherRowArrive (op : Nat)
  | prf (g : Guard) (ad : MAddr) (h : Hint)
  | inv (g : Guard) (n : Operand) (ad : MAddr) (h : Hint)
  | wbk (g : Guard) (n : Operand) (ad : MAddr) (h : Hint)
  | own (g : Guard) (ad : MAddr) (h : Hint)
  | pgcm (g : Guard) (d : Operand) (ad : MAddr) (h : Hint)
  | pgdc (g : Guard) (d : Operand) (ad : MAddr) (h : Hint)
  | pgq (g : Guard) (d : Operand) (ad : MAddr) (h : Hint)
  | dalloc (g : Guard) (d n : Operand) (h : Hint)
  | dfree (g : Guard) (n : Operand) (ad : MAddr) (h : Hint)
  -- atomics, fences, waits (R316 to R322)
  | atom (g : Guard) (op : AmoOp) (sz : AmoSize) (d : Operand) (ad : MAddr) (sc : Scope) (o : Order) (h : Hint)
  | red (g : Guard) (op : AmoOp) (sz : AmoSize) (a : Operand) (ad : MAddr) (sc : Scope) (o : Order) (h : Hint)
  | fenceAcq (g : Guard) (sc : Scope)
  | fenceRel (g : Guard) (sc : Scope)
  | fenceAcqRel (g : Guard) (sc : Scope)
  | fenceSc (g : Guard) (sc : Scope)
  | fenceEngine (g : Guard) (sc : Scope)
  | xfence (g : Guard)
  | acqr (g : Guard) (sc : Scope) (a : Operand)
  | waitany (g : Guard) (d : Operand) (ad : MAddr) (h : Hint)
  | waitanyWake (r : RodId) (sl : SlotId) (wd : Nat)
  | waitanyTimeout (r : RodId) (sl : SlotId)
  -- barriers, counters, launch, cancel (R323 to R328)
  | barv (g : Guard) (n : Operand) (lvl : BarLevel)
  | barw (g : Guard) (n : Operand) (lvl : BarLevel)
  | bars (g : Guard) (n : Operand) (lvl : BarLevel)
  | barb (g : Guard) (n : Operand) (bytes : Operand) (lvl : BarLevel)
  | barrierPhaseComplete (b : BarId)
  | furlongRemotePhase (b : BarId)
  | seqinc (g : Guard) (a : Operand) (ad : MAddr) (sc : Scope) (o : Order) (h : Hint)
  | seqwt (g : Guard) (d : Operand) (ad : MAddr) (sc : Scope) (o : Order) (h : Hint)
  | seqwtWake (r : RodId) (sl : SlotId)
  | launch (g : Guard) (c a b : Operand)
  | cancel (g : Guard) (lvl : Level)
  -- copies (R329 to R333)
  | cpy (g : Guard) (a b c : Operand) (bar : Option CopyBar) (h : Hint)
  | cpyo (g : Guard) (a b c : Operand) (bar : Option CopyBar) (h : Hint) (seq : Option (BitVec 6))
  | copyLineLand (op : Nat) (line : Nat)
  | copyComplete (op : Nat)
  -- matrix engine (R334 to R359)
  | mxgang (g : Guard) (a : Operand)
  | mxwin (g : Guard) (t : BitVec 3) (a : Operand)
  | mxclr (g : Guard) (t : BitVec 3) (a : Operand)
  | mxmm (g : Guard) (x : MxFields) (a b c : Operand)
  | mxim (g : Guard) (x : MxFields) (a b c : Operand)
  | mxcv (g : Guard) (x : MxFields) (a b c : Operand)
  | mxKStep (op : Nat)
  | mxOpComplete (op : Nat)
  | mxrd (g : Guard) (v : View) (t : BitVec 3) (d row col : Operand)
  | mxst (g : Guard) (v : View) (space : MxSpace) (t : BitVec 3) (a : Operand)
  | mxsv (g : Guard) (t : BitVec 3) (a : Operand)
  | mxrs (g : Guard) (t : BitVec 3) (a : Operand)
  | mxsp (g : Guard) (t : BitVec 3) (a : Operand)
  -- neighbour engine (R361 to R382)
  | nbgrid (g : Guard) (gid : BitVec 2) (a : Operand)
  | nbbin (g : Guard) (gid : BitVec 2) (a b : Operand)
  | nbpair (g : Guard) (gid : BitVec 2) (a b : Operand)
  | nbPairRecord (r : RodId)
  | nbStreamEnd (r : RodId)
  | nbstat (g : Guard) (gid : BitVec 2) (d : Operand)
  | nbmove (g : Guard) (gid : BitVec 2) (d b c : Operand)
  | nbclr (g : Guard) (gid : BitVec 2)
  | nbOpComplete (op : Nat)
  -- group 7 (R404 to R407, R441, R448)
  | trap (g : Guard) (n : BitVec 8)
  | tret (g : Guard)
  | tclr (g : Guard) (m : BitVec 24)
  | hold (g : Guard)
  | ebrk (g : Guard) (n : BitVec 8)
  | sysrd (g : Guard) (d : Operand) (item : BitVec 2)
  | syswr (g : Guard) (r : SReg) (a : Operand)
  | prmark (g : Guard) (imm : Word)
  | smpl (g : Guard) (a : BitVec 8) (n : BitVec 4)
  | csave (g : Guard) (a : Operand)
  | crest (g : Guard) (a : Operand)
  -- issue, paths and waits
  | clauseStart (r : RodId) (sl : SlotId)
  | breakBitHit (r : RodId) (sl : SlotId)
  | sleepExpire (r : RodId) (sl : SlotId)
  | rtakeGrant (r : RodId) (sl : SlotId)
  -- translation
  | translationReplay (r : RodId) (sl : SlotId)
  | walkComplete (die asid vpn : Nat) (k : XKind)
  | commit (die asid vpn : Nat) (q : Nat := 0)
  -- coherence
  | l1DieGrant (c : CoreId) (wd : Nat)
  | l1PackageGrant (c : CoreId) (wd : Nat) (val : Option Word)
  | l1Forward (c : CoreId) (wd : Nat) (dest : Reader)
  | l1Revoke (c : CoreId) (wd : Nat) (dest : RevokeTo)
  | l1Eviction (c : CoreId) (line : Nat)
  | homeRead (rd : Reader) (wd : Nat)
  | homeRegister (p : Party) (wd : Nat)
  | homeRegisterFetch (p : Party) (wd : Nat)
  | homeWriteBack (p : Party) (wd : Nat) (val : Word)
  | homeOwnerAnswer (p : Party) (wd : Nat) (val : Option Word)
  | homePerformedAccess (req : HomeReq)
  | nonhomeRead (c : CoreId) (wd : Nat)
  | nonhomeRegistration (c : CoreId) (wd : Nat) (fetch : Bool)
  | nonhomePackageGrant (die wd : Nat) (val : Option Word)
  | nonhomeForward (die wd : Nat) (dest : Reader)
  | nonhomeRevoke (die wd : Nat)
  | nonhomeWriteBack (c : CoreId) (wd : Nat) (val : Word)
  | promotion (c : CoreId) (r : RodId) (sl : SlotId) (sc : Scope)
  | lossNotice (die : Nat)
  -- queues and scheduling
  | slotFetch (q : Nat)
  | launchReady (lid : Nat)
  | levelComplete (lvl : Level) (cmd : Nat)
  | neighbourCommand (cmd : Nat)
  | dmaCopy (cmd : Nat)
  | dmaFill (cmd : Nat)
  | dmaRdmaWrite (cmd : Nat)
  | dmaSend (cmd : Nat)
  | dmaComplete (cmd : Nat) (code : Nat)
  | stealRequest (lid victim : Nat) (thief : CoreId)
  | stolenItemReturn (lid : Nat) (pusher : CoreId) (item : List Word)
  | haltReceive (r : RodId)
  | handlerEntry (r : RodId)
  -- package
  | ringFlitReceive (link : Nat) (up : Bool) (f : Flit)
  -- debug and profiling
  -- what the host, the links and the clocks bring
  | pgrspRetry (iod : Bool) (die tag : Nat)
  | pgrspDeny (iod : Bool) (die tag : Nat)
  | xlicInvalidatePages (count : Word)
  | poolpush (die : Nat) (v : DWord)
  | hostSnoop (line : Nat) (k : SnoopKind)
  | backInvalidateResponse (line : Nat)
  | hostCxlMemAccess (req : HomeReq)
  | bar2Read (a : Bar2At) (n : Nat)
  | bar2Write (a : Bar2At) (bytes : List Byte) (bad : Bool := false)
  | patrolScrub (pa : Nat) (found : ScrubFind)
  | widxWrite (q : Nat) (v : DWord)
  | qpush (q : Nat) (v : DWord)
  | cancLaunch (queue : BitVec 16) (idx : Word)
  | cancGraph (id asid : BitVec 16)
  | cancPhase (id asid : BitVec 16)
  | cancJob (id asid : BitVec 16)
  | preqVacate (v : DWord)
  | prel (v : DWord)
  | dlack (iod : Nat) (v : DWord)
  | nmctlEnable (die : Nat)
  | hwArm (iod i : Nat)
  | diectlReset (v : BitVec 10)
  | diectlRetry (v : BitVec 10)
  | attestation (stop : Nat) (ok : Bool)
  | linkKeyInstall (link : Nat) (up : Bool)
  | keyRollover (link : Nat) (up : Bool)
  | linkRestore (link : Nat)
  | hostSpdmRequest (nonce : List Byte)
  | dbghalt (die : Nat) (v : DWord)
  | dbgrelResume (die : Nat) (core : BitVec 6)
  | dbgrelKill (die : Nat) (core : BitVec 6)
  | rodWindowWrite (die : Nat) (off : Nat) (bytes : List Byte)
  | perfctlClear (die : Nat)
  | perfctlSnapshot (die : Nat)
  | registerWrite (r : HostReg) (i : Nat) (v : DWord)
  | peerRdmaRequest (q : Nat) (req : PeerReq)
  | stampScrubber (l2 : Bool) (c : CoreId) (line : Nat)
  | dmaRdmaRead (cmd : Nat) (bytes : List Byte) (bad : Bool := false)
  | standbyHandBack (die : Nat)
  | xlicInvalidateAsid (count : Word := 0)
  | xlicInvalidateAll (count : Word := 0)
  | invalidationComplete
  | schedulerRound
  | schedulerRoundTimer
  | powerOn
  | moduleReset
  | brksync
  | pcSample
  | holdLimitExpire
  | ageingSwap (r : RodId)
  deriving DecidableEq, Repr

end Sys2Proof
end

