-- ==== Sys2Proof/Machine/Bits.lean ====
section
/-!
DEFINITION. Bit fields, lane masks and byte order, as functions on bit vectors and numbers.
-/
namespace Sys2Proof

/-- Bits [h:l] of a number. -/
def bitsOf (x h l : Nat) : Nat := (x >>> l) % 2 ^ (h + 1 - l)

/-- Bits [h:l] of a 64-bit word as a number. -/
def DWord.bits (x : DWord) (h l : Nat) : Nat := bitsOf x.toNat h l

/-- Bits [h:l] of a 32-bit word as a number. -/
def Word.bits (x : Word) (h l : Nat) : Nat := bitsOf x.toNat h l

/-- Byte i of a word, i = 0 least significant (R7). -/
def Word.byte (x : Word) (i : Nat) : Byte := x.extractLsb' (8 * i) 8

/-- Lane l is in the mask. -/
def Mask.has (m : Mask) (l : Nat) : Bool := m.getLsbD l

/-- The other slot of a rod (R156). -/
def SlotId.other : SlotId → SlotId
  | .a => .b
  | .b => .a

/-- Retention of a hint in L2 (R70): 0 lowest, 1 normal, 2 highest. -/
def Hint.l2Retention : Hint → Nat
  | .evict | .noalloc | .last => 0
  | .keepl2 => 2
  | _ => 1

/-- Retention of a line that an access with the hint brings into an L1 (R70). -/
def Hint.l1Retention : Hint → Nat
  | .stream | .l2only | .noalloc | .last => 0
  | .near => 2
  | _ => 1

/-- A load takes an L1 copy under the hint (R70). -/
def Hint.allocL1 : Hint → Bool
  | .l2only | .noalloc => false
  | _ => true

/-- A load takes an L2 copy under the hint (R70). -/
def Hint.allocL2 : Hint → Bool
  | .noalloc => false
  | _ => true

/-- The retention at which a read under the hint takes its line into the home slice; none when it allocates nothing there (R70, R71). -/
def Hint.home (h : Hint) : Option Nat := if h.allocL2 then some h.l2Retention else none

namespace Machine

/-- x with the bits of mask taken from y. -/
def merge64 (mask x y : DWord) : DWord := (x &&& ~~~mask) ||| (y &&& mask)

def merge32 (mask x y : Word) : Word := (x &&& ~~~mask) ||| (y &&& mask)

/-- The 64-bit mask of bits [h:l]. -/
def mask64 (h l : Nat) : DWord := BitVec.ofNat 64 ((2 ^ (h + 1 - l) - 1) <<< l)

/-- The low and high words of a 64-bit value. -/
def loWord (x : DWord) : Word := x.setWidth 32
def hiWord (x : DWord) : Word := (x >>> 32).setWidth 32

/-- A 64-bit value from its words. -/
def dword (lo hi : Word) : DWord := hi ++ lo

/-- A word from four bytes, least significant first (R7). -/
def wordOf (b0 b1 b2 b3 : Byte) : Word := b3 ++ b2 ++ b1 ++ b0

/-- n bytes of a number, least significant first. -/
def bytesOf (n v : Nat) : List Byte := (List.range n).map (fun i => BitVec.ofNat 8 (v >>> (8 * i)))

/-- The number whose bytes, least significant first, are given. -/
def ofBytes : List Byte → Nat
  | [] => 0
  | b :: r => b.toNat + 256 * ofBytes r

/-- The number whose words, least significant first, are given. -/
def ofWords : List Word → Nat
  | [] => 0
  | w :: r => w.toNat + 2 ^ 32 * ofWords r

/-- Word i of a number. -/
def wordAt (v i : Nat) : Word := BitVec.ofNat 32 (v >>> (32 * i))

/-- The lanes 0 to 31 for which p holds, as a mask. -/
def maskOf (p : Nat → Bool) : Mask := (List.range 32).foldl (fun m l => if p l then m ||| (1#32 <<< l) else m) 0

/-- The lanes of a mask, in ascending order. -/
def lanes (m : Mask) : List Nat := (List.range 32).filter (fun l => m.getLsbD l)

/-- The lowest lane of a mask; 32 for none. -/
def lowest (m : Mask) : Nat := (lanes m).headD 32

/-- The number of lanes in a mask. -/
def count (m : Mask) : Nat := (lanes m).length

/-- The signed value of bits [h:l]. -/
def sbits (x h l : Nat) : Int :=
  let n := h + 1 - l
  let v := bitsOf x h l
  if v < 2 ^ (n - 1) then (v : Int) else (v : Int) - 2 ^ n

/-- x truncated to n bits, two's complement. -/
def truncInt (n : Nat) (x : Int) : Nat := (x % (2 ^ n : Int)).toNat

/-- x clamped to [lo, hi]. -/
def clampInt (lo hi x : Int) : Int := if x < lo then lo else if hi < x then hi else x

/-- The least multiple of k at or above n. -/
def roundUpTo (k n : Nat) : Nat := (n + k - 1) / k * k

/-- Insert into a rising list without repeats. -/
def insertNat (n : Nat) : List Nat → List Nat
  | [] => [n]
  | x :: r => if n < x then n :: x :: r else if n = x then x :: r else x :: insertNat n r

end Machine

end Sys2Proof
end

