-- ==== Sys2Proof/Config.lean ====
section
/-!
DEFINITION. What a model of one ATK-9620 fixes beside its state: the sizes the spec states, and the free values, which have
no body: no theorem can depend on what they are.
-/
namespace Sys2Proof

/-- What a die certificate names: the serial number, the kind (compute or I/O) and the ring stop (R416). -/
structure DieName where
  serial : BitVec 64
  io     : Bool
  stop   : Nat
  deriving DecidableEq, Repr

/-- A certificate (R416): the public key it is signed with, the public key and, for a die, the name that it certifies, and the signature. -/
structure Cert where
  issuer  : Nat
  key     : Nat
  name    : Option DieName
  sig     : Nat
  deriving DecidableEq, Repr

/-- Capabilities that SPDM step 2 asks for (R418). -/
inductive SpdmCap where
  | cert | chal | measSig | keyEx | encrypt | mac | keyUpd
  deriving DecidableEq, Repr

/-- Algorithms that SPDM step 3 negotiates (R418). -/
inductive SpdmAlg where
  | rsassa3072 | sha256 | ffdhe3072 | aes256gcm | other (n : Nat)
  deriving DecidableEq, Repr

end Sys2Proof

namespace Sys2Proof.Config

/-- Bytes of one scratchpad unit (R55). -/
def scrUnit : Nat := 3072

/-- Scratchpad units of a core: 384 KiB (R53, R55). -/
def scrUnits : Nat := 128

/-- Accumulator elements of a core (R334). -/
def accElems : Nat := 16384

/-- Registrations a core may have pending (R99). -/
def pendingRegs : Nat := 256

/-- Words a gather queue holds per lane (R313). -/
def gatherWords : Nat := 64

/-- Records a pair queue holds (R371). -/
def pairRecords : Nat := 64

/-- Words of a die's grid store (R361). -/
def gridStore : Nat := 1048576

/-- Operations the copy streamer of a core holds (R332). -/
def copyOps : Nat := 32

/-- Operations the matrix engine of a core holds (R354). -/
def mxOps : Nat := 16

/-- FREE VALUE (log 12): the enclosure step of an elementary function whose rounding the model's bounded search did not
decide. The arguments are the function's number and the operand's bits. -/
opaque undecidedBound : Nat → Nat → Int

/-! What every die is made with (R416, R418); FREE VALUES (log 13), by ring stop. -/

/-- The fused private key, and the public key of a private key. -/
opaque privateKey : Nat → Nat
opaque publicKey : Nat → Nat

/-- The certificate chain: the Vexmen root, the Atulrik product authority, the die certificate. -/
opaque certChain : Nat → List Cert

/-- The measurements of the die: index 1 boot ROM, 2 die firmware, 3 fuse configuration, 4 debug state. -/
opaque measurement : Nat → Nat → BitVec 256

/-- SPDM versions, capabilities and algorithms of the die. -/
opaque spdmVersions : Nat → List (Nat × Nat)
opaque spdmCaps : Nat → List SpdmCap
opaque spdmAlgs : Nat → List SpdmAlg

/-! What the package root holds (R418); FREE VALUES (log 13). -/

/-- The public key of the Vexmen root, and the signed reference manifest for a compute or (true) an I/O die. -/
opaque vexmenKey : Nat
opaque manifest : Bool → List (BitVec 256)

/-- The root's random source, by draw (R418, R419). -/
opaque random : Nat → BitVec 256

/-! Cryptography that the manual names and does not define (R411, R416, R418, R419); FREE VALUES (log 13). -/

/-- SHA-256; an RSASSA-3072 signature under a private key, and its check under a public key. -/
opaque sha256 : List (BitVec 8) → BitVec 256
opaque sign : Nat → List (BitVec 8) → Nat
opaque verify : Nat → List (BitVec 8) → Nat → Bool

/-- The secret of an ffdhe3072 exchange, from the root's draw and a die's key. -/
opaque dheSecret : BitVec 256 → Nat → BitVec 256

/-- AES-256-GCM under a key and a nonce: the 232 payload bytes of a message by its number, and the tag over header and payload. -/
opaque gcmSeal : BitVec 256 → BitVec 96 → Nat → List (BitVec 8)
opaque gcmTag : BitVec 256 → BitVec 96 → List (BitVec 8) → BitVec 96

/-- CRC-32, and the class-specific header bits of a message by its number. -/
opaque crc32 : List (BitVec 8) → BitVec 32
opaque flitInfo : Nat → BitVec 52

/-! What chance decides at bring-up (R418, R421); FREE VALUES (log 13), by draw. -/

/-- A die answers an SPDM step with an error; a root passes its self-test. -/
opaque answersError : Nat → Bool
opaque selfTest : Nat → Bool

/-- FREE VALUE (log 14): a bound of `smxnorm` of the form 0/0, which R304 does not state, by width, lane and side. -/
opaque softmaxOpen : Nat → Nat → Bool → BitVec 64

/-- FREE VALUE (log 52): whether a die that is lost still answers for its home slices (R109), by the cycle of the loss. -/
opaque lossAnswers : Nat → Bool

end Sys2Proof.Config
end

