-- ==== Sys2Proof/Machine/Tbl.lean ====
section
/-!
DEFINITION. Sparse tables as plain data: lists of (key, value) pairs in one canonical form, keys strictly rising and no entry
equal to what an unlisted key reads as. Memory is such a table of bytes.
-/
namespace Sys2Proof.Machine

/-- A sparse table. -/
abbrev Tbl (α : Type) := List (Nat × α)

namespace Tbl

variable {α : Type}

/-- The entry at k, if listed. -/
def find (t : Tbl α) (k : Nat) : Option α :=
  match t with
  | [] => none
  | (i, v) :: r => if i = k then some v else find r k

/-- The value at k; an unlisted key reads as d. -/
def get (t : Tbl α) (k : Nat) (d : α) : α := (find t k).getD d

/-- t without k. -/
def erase (t : Tbl α) (k : Nat) : Tbl α := t.filter (fun e => e.1 != k)

/-- t with v listed at k. -/
def put (t : Tbl α) (k : Nat) (v : α) : Tbl α :=
  match t with
  | [] => [(k, v)]
  | (i, x) :: r => if i = k then (k, v) :: r else if k < i then (k, v) :: (i, x) :: r else (i, x) :: put r k v

/-- t with value v at k, where an unlisted key reads as d. -/
def set [DecidableEq α] (t : Tbl α) (k : Nat) (v d : α) : Tbl α := if v = d then erase t k else put t k v

/-- Every key listed is above n, and keys rise strictly. -/
def above (n : Nat) : Tbl α → Bool
  | [] => true
  | (i, _) :: r => decide (n < i) && above i r

/-- Keys rise strictly. -/
def sorted : Tbl α → Bool
  | [] => true
  | (i, _) :: r => above i r

/-- The canonical form of a table whose unlisted keys read as d. -/
def wf [DecidableEq α] (t : Tbl α) (d : α) : Bool := sorted t && t.all (fun e => decide (e.2 ≠ d))

/-- Keep the entries whose key and value satisfy p. -/
def keep (t : Tbl α) (p : Nat → α → Bool) : Tbl α := t.filter (fun e => p e.1 e.2)

/-- The keys listed, in rising order. -/
def keys (t : Tbl α) : List Nat := t.map Prod.fst

/-- The values listed, in rising order of key. -/
def vals (t : Tbl α) : List α := t.map Prod.snd

end Tbl

end Sys2Proof.Machine
end

