-- ==== Sys2Proof/Machine/State.lean ====
section
/-!
DEFINITION. The state of the package as plain data: every register, flag, queue, cache state, engine state and memory the
manual names, and the state after reset. INVENTORY.md lists each field with its rule and its reset value.
-/
namespace Sys2Proof.Machine

/-- Why a step stops. -/
inductive Fault where
  /-- Raised by a meaning of a Daxvis instruction when no resident (rod, slot) pair is issuing; `step` never asks for that.
  Safe: the hardware issues no instruction then. -/
  | noIssuer
  deriving DecidableEq, Repr

/-- Why the model gives a step no meaning. -/
inductive Refusal where
  /-- Raised by exec alone for a constructor that has no meaning yet. Safe. -/
  | notModelled (mnemonic : String)
  /-- Raised when a rod or an engine addresses the device register space, whose address map the manual does not give (R17).
  Safe: the model stops where the hardware goes on. -/
  | deviceRegisters
  deriving DecidableEq, Repr

/-! ### Rods -/

/-- A path in a slot, in the shadow or on the divergence stack (R156, R161); `wait` is the cycle since which it has waited, `nap` the cycle
until which it still sleeps (R259). -/
structure Path where
  pc    : DWord
  idx   : Nat
  mask  : Mask
  frame : Option Nat
  wait  : Nat
  nap   : Nat := 0
  /-- the instruction it stands at has broken, and issues once in spite of its break bit (R438) -/
  broke : Bool := false
  deriving DecidableEq, Repr

/-- An entry of the divergence stack (R157, R161). -/
inductive SEntry where
  | free
  | path (p : Path)
  | frame (pc : DWord) (expect arrived : Mask) (parent : Option Nat)
  deriving DecidableEq, Repr

/-- A clause a slot has started: the flags of set-A and set-B, the words with their break bits (R155, R203, R437). -/
structure Clause where
  count : Nat
  a     : Option (BitVec 4)
  b     : Option (BitVec 4)
  body  : List DWord
  brk   : List Bool
  deriving DecidableEq, Repr

/-- A full/empty line a wait names: its chain, its line and the state waited for (R57). -/
structure LineWait where
  chain : Nat
  line  : Nat
  full  : Bool
  deriving DecidableEq, Repr

/-- What a part of a load through the furlong aperture has read at its scratchpad: a lane, its bytes as a number, and whether a word was
poisoned (R58). -/
structure Fetched where
  lane : Nat
  val  : Nat
  bad  : Bool
  deriving DecidableEq, Repr

/-- An armed word of `waitany`: its word number (2^60 and the virtual word number on an uncommitted sparse page), and its position
among the arming lanes (R144, R322). -/
structure Armed where
  word : Nat
  pos  : Nat
  deriving DecidableEq, Repr

/-- What a slot's next instruction waits for (R155). -/
inductive Wait where
  /-- the completion flags of a clause's WAIT mask (R208) -/
  | flags (mask : BitVec 12)
  /-- a result in flight: operations of the rod, a completion flag that counts all that it can (`control`), grants of its stores, a port, an engine
  queue (R85, R134, R313, R332, R354) -/
  | memory | matrix | copy | neighbour | control
  /-- every outstanding operation of the rod (R134) -/
  | ops
  | barrier (b : BarId) (phase : Nat)
  | fullEmpty (ls : List LineWait) (got : List Fetched)
  | rtake
  | rgive
  | rendezvous
  | sleep (til : Nat)
  /-- the counter's address, or 2^60 and its virtual address on an uncommitted page -/
  | seqwt (pa : Nat) (thr : DWord)
  /-- the words armed; none when the instruction arms again and keeps its time (R36) -/
  | waitany (arm : List Armed) (til : Option Nat)
  /-- suspended on translation (R28) -/
  | translation
  /-- a `take` that has issued and waits for a pop from the spill area or a promotion (R266) -/
  | take
  /-- the slot forgoes its next turn of clause starts (R258) -/
  | turn
  /-- an `acqr` whose promotion has not been answered (R104) -/
  | promotion
  /-- an `acqr` or (true) a `take` whose promotion has arrived: words that the target core had pending then, not yet granted (R104) -/
  | promoted (ws : List Nat) (take : Bool)
  deriving DecidableEq, Repr

/-- The waiting instruction has issued, and a stop lets it finish (R266, R402). -/
def Wait.issued : Wait → Bool
  | .take | .promoted _ true => true
  | _ => false

/-- A PC slot that holds a path (R156): the path, the clause it has started, what it waits for, the cycle at which the path
took the slot, whether a halt has stopped it (R402), and what `sleep` and `yield` do when the clause ends (R258, R259). -/
structure Slot where
  path    : Path
  started : Option Clause
  wait    : Option Wait
  since   : Nat
  stopped : Bool
  napFor  : Option Nat
  yields  : Bool
  deriving DecidableEq, Repr

/-- One column of the gather queue: one word for every lane, or a place reserved for a `gth` in flight (R312, R313). -/
structure GxWord where
  op   : Option Nat
  vals : List Word
  /-- lanes whose word is poisoned (R77) -/
  bad  : Mask := 0
  deriving DecidableEq, Repr

/-- A pair record (R369). -/
structure PairRec where
  i  : Word
  j  : Word
  d2 : Word
  w3 : Word
  deriving DecidableEq, Repr

/-- The pair stream of a rod (R371, R382). -/
structure Stream where
  queue : List PairRec
  dealt : Tbl PairRec
  cur   : Tbl (BitVec 2)
  gid   : Nat
  opened : Bool
  ended : Bool
  last  : Nat
  cell  : Nat
  ipos  : Nat
  jpos  : Nat
  nrec  : Nat
  stat  : Word
  op    : Option Nat
  deriving DecidableEq, Repr

/-- How far a rod runs. -/
inductive RunState where
  /-- issues -/
  | running
  /-- a sibling's halt has reached it: its slots finish the clauses they have started (R402) -/
  | halting
  /-- it has trapped: the slot of the trap point is stopped, the other obeys the same rule (R402) -/
  | trapping
  /-- both slots stopped; the handler entry is due (R403) -/
  | halted
  deriving DecidableEq, Repr

/-- A page that an access was denied (R30): its number, the kind of access, and for a rod's instruction the slot that waited. -/
structure Denied where
  vpn  : Nat
  kind : XKind
  sl   : SlotId := .a
  deriving DecidableEq, Repr

/-- A rod (R151, R156, R399). Lane word i of lane l has key 32·i + l, predicate n of lane l key 16·l + n, index register n of
lane l key 4·l + n. -/
structure Rod where
  role      : BitVec 4
  window    : Nat
  w         : Tbl Word
  u         : Tbl DWord
  q         : Tbl (BitVec 2)
  k         : Tbl (BitVec 10)
  slotA     : Option Slot
  slotB     : Option Slot
  depth     : Nat
  stack     : Tbl SEntry
  shadowA   : Option Path
  shadowB   : Option Path
  cause     : Word
  skid      : DWord
  iflags    : Word
  mflags    : Word
  agelimit  : Word
  compat    : Word
  holdlimit : Word
  flags     : Tbl Nat
  gang      : Word
  held      : Mask
  gx        : List GxWord
  mxIn      : List Word
  mxOut     : List Word
  cpIn      : List Word
  cpOut     : List Word
  stream    : Stream
  /-- words whose registration a release of the rod waits for: its own stores, stores of its core that it has read before their grant, and
  stores pending on its core and die when it acquired (R85, R125) -/
  stores    : List Nat
  /-- words of `stores` that the rod has asked to be fetched, by a store of fewer than four bytes or by `own` (R76, R107) -/
  parts     : List Nat
  run       : RunState
  /-- stopped in place by a hold (R440) -/
  frozen    : Bool
  lastSlot  : SlotId
  /-- stack entries that stood at handler entry; none of them runs in the handler (R403) -/
  oldStack  : List Nat
  denied    : List Denied
  rslot     : Nat
  /-- register words with an uncorrectable error: lane words by key, half h of uniform register n as 8192 + 2·n + h (R73, R76) -/
  regBad    : List Nat
  /-- bytes that the rod window has written while the core is held to parts of the image that are not in use (R410, R439), by offset: they count when
  the part comes into use -/
  stage     : Tbl Byte := []
  deriving DecidableEq, Repr

/-! ### Chains, furlongs and launches -/

/-- A barrier's state for its current phase (R324). -/
structure Bar where
  phase   : Nat
  arrived : List Nat
  bytes   : Int
  posted  : Bool
  tagged  : Bool
  /-- rods that have arrived since their last `barw`, with the phase of that arrival -/
  last    : Tbl Nat
  /-- how many phases before the current one have completed and have still to release their waiters; on two dies the remote step comes first
  (R166) -/
  open'   : Nat
  /-- phases that waiting `bars` have arrived in, by rod and lanes: key 2^32·rod + mask -/
  mid     : Tbl Nat
  deriving DecidableEq, Repr

/-- A rendezvous latch (R339). -/
structure Latch where
  gang    : Word
  word    : DWord
  aval    : DWord
  bval    : DWord
  cval    : DWord
  arrived : List Nat
  done    : Bool
  deriving DecidableEq, Repr

/-- A long accumulator element with its radius word (R193, R334). -/
structure Acc where
  val : Int
  ovf : Bool
  lst : Bool
  spc : BitVec 3
  rad : Word
  deriving DecidableEq, Repr

/-- A tile-table entry (R335). -/
structure Tile where
  valid : Bool
  off   : Nat
  mq    : Nat
  nq    : Nat
  gr    : Nat
  gc    : Nat
  pr    : Nat
  pc    : Nat
  win   : Int
  terms : Nat
  prog  : Nat
  deriving DecidableEq, Repr

/-- Where a chain stands. -/
inductive ChainState where
  | resident
  /-- queued, with its image in save slot n of its launch (R398) -/
  | saved (n : Nat)
  /-- chosen by a pre-emption request and being saved into slot n -/
  | saving (n : Nat)
  deriving DecidableEq, Repr

/-- A chain that has been dispatched and has not retired (R150, R151, R154, R335). -/
structure Chain where
  launch  : Nat
  num     : Nat
  core    : CoreId
  furlong : Nat
  fchn    : Nat
  nrod    : Nat
  pool    : Tbl Nat
  rtakeQ  : List (Nat × SlotId)
  scrBase : Nat
  scrSize : Nat
  /-- scratchpad units of the divergence stacks (R150) -/
  units   : List Nat
  scr     : Tbl Byte
  scrBad  : List Nat
  fe      : Tbl Bool
  bars    : Tbl Bar
  accBase : Nat
  accUnits : Nat
  acc     : Tbl Acc
  tiles   : Tbl Tile
  latches : Tbl Latch
  resumes : Nat
  state   : ChainState
  charge  : Nat
  /-- while saved: the core that pushed the receive item its image holds (R173, R409) -/
  recvBy  : Option CoreId
  deriving DecidableEq, Repr

/-- A furlong (R165, R166): its chains by furlong chain number, the barriers, the dies it lies on. -/
structure Furlong where
  launch : Nat
  first  : Nat
  size   : Nat
  dieLo  : Nat
  dieHi  : Nat
  bars   : Tbl Bar
  deriving DecidableEq, Repr

/-- A launch packet as read (R388). -/
structure Packet where
  entry   : DWord
  handler : DWord
  chains  : Nat
  asid    : Nat
  nrod    : Nat
  furl    : Nat
  poolK   : Nat
  window  : Nat
  depth   : Nat
  scr     : Nat
  acc     : Nat
  cor     : Bool
  rst     : Bool
  roles   : List (BitVec 4)
  spBase  : DWord
  spCap   : Nat
  spStr   : Nat
  args    : List DWord
  ctr     : List (DWord × DWord)
  rd      : List (DWord × DWord)
  wr      : List (DWord × DWord)
  cbar    : List (BitVec 32)
  fbar    : List (BitVec 16 × BitVec 32)
  lbar    : List (BitVec 32)
  ids     : DWord
  ldone   : DWord
  gdone   : DWord
  pdone   : DWord
  jdone   : DWord
  svBase  : DWord
  svSlots : Nat
  svStr   : Nat
  deriving DecidableEq, Repr

/-- A DMA command packet (R426). -/
structure DmaPkt where
  src  : DWord
  dst  : DWord
  len  : Nat
  op   : Nat
  qp   : Nat
  arg  : Word
  done : DWord
  ids  : DWord
  rst  : Bool
  deriving DecidableEq, Repr

/-- A neighbour command packet (R393). -/
structure NbPkt where
  desc : DWord
  die  : Nat
  done : DWord
  ids  : DWord
  deriving DecidableEq, Repr

/-- What a fetched command is (R385). -/
inductive CmdKind where
  | launch (p : Packet)
  | dma (p : DmaPkt)
  | neighbour (p : NbPkt)
  /-- a command that has no packet to trust: TYPE 0 and refusals 6 and 7 -/
  | none
  deriving DecidableEq, Repr

/-- Where a fetched command stands. -/
inductive CmdState where
  | fetched
  | ready
  | running
  /-- complete, and not yet published in its queue's order (R430) -/
  | complete
  | published
  deriving DecidableEq, Repr

/-- A pool segment of a launch on a core (R150, R170, R268): E entries at most, the newest first. -/
structure Segment where
  entries : List (List Word)
  spill   : Bool
  steal   : Bool
  /-- the receive slot: the stolen item and the core that pushed it (R173) -/
  recv    : Option (List Word × CoreId)
  /-- scratchpad units of the segment (R150) -/
  units : List Nat
  deriving DecidableEq, Repr

/-- A fetched command and, for a launch, its run (R174, R390, R394). -/
structure Cmd where
  queue    : Nat
  ring     : Nat
  asid     : Nat
  kind     : CmdKind
  state    : CmdState
  code     : Nat
  reason   : Nat
  /-- appended by a device launch (R327) -/
  dev      : Bool
  /-- number of commands of all queues appended when this END command was fetched (R390) -/
  waitSeq  : Nat
  seq      : Nat
  nextChain : Nat
  retired  : Nat
  /-- furlongs to run again from their start: first chain number and size (R431) -/
  requeue  : List (Nat × Nat)
  /-- bytes a DMA command has moved, the poison and violations it has met, and the bytes read and still to be stored or sent, with their poison -/
  moved    : Nat
  fouls    : Word
  recv     : List (Byte × Bool)
  /-- the DMA engine that serves the command (R426), and whether its read request has gone to the peer -/
  engine   : Option Nat := none
  asked    : Bool := false
  cancelled : Bool
  /-- the launch has lost chains with a die, and the host has not acknowledged it (R431, R432) -/
  lost     : Bool := false
  /-- chains dispatched or saved and not retired -/
  live     : List Nat
  /-- save slots taken (R398) -/
  slots    : List Nat
  charges  : List Nat
  outstanding : Nat
  segs     : Tbl Segment
  lbars    : Tbl Bar
  /-- words that retired chains have stored and that may still be pending registration, with their core (R146) -/
  owed     : List (CoreId × Nat)
  /-- END levels whose completion this command has published (R390) -/
  pubs     : List Level
  /-- a neighbour or DMA command, or what a launch does without a rod, waits for pages: whether it is suspended, the pages and kinds of access,
  and those the host has denied it (R30, R32) -/
  susp     : Bool := false
  pages    : List (Nat × XKind) := []
  denied   : List Denied
  deriving DecidableEq, Repr

/-! ### Engine operations -/

/-- A word a load waits for: its lane, its place in the register side, its word index, and how it is read. -/
structure LoadPart where
  lane : Nat
  pos  : Nat
  word : Nat
  /-- a word of an access of 8 or 16 bytes, bound with the others of its lane in one step (R118) -/
  grp  : Bool := false
  deriving DecidableEq, Repr

/-- What a load writes its register from: bytes already bound, by lane, as one number, and the words still to come. -/
inductive LoadKind where
  | plain (sz : Size)
  | mr (v : View)
  | xs (v : View)
  | atom (sz : AmoSize)
  deriving DecidableEq, Repr

/-- A load, atomic or exact-sum read in flight (R207, R209). -/
structure LoadOp where
  kind  : LoadKind
  dst   : Operand
  lanes : Mask
  /-- byte offset of a sub-word load in its word, per lane; 4 for a lane whose whole words stand -/
  offs  : Tbl Nat
  /-- words still to be bound -/
  need  : List LoadPart
  /-- words bound, key 64·lane + position -/
  got   : Tbl Word
  sc    : Scope
  ord   : Order
  hint  : Hint
  /-- interval flags the lanes have set so far (R201) -/
  iflags : Word := 0
  deriving DecidableEq, Repr

/-- A gather in flight (R58, R77, R312): the words of its row; what it has still to read, as a lane, a word of its access and the access's
address, one entry for a whole access of memory and one for each word of a scratchpad's; the words read, and those that are poisoned, by
16·lane + word; its cache hint. -/
structure GatherOp where
  words : Nat
  reads : List (Nat × Nat × DWord)
  got   : Tbl Word := []
  bad   : List Nat := []
  hint  : Hint
  deriving DecidableEq, Repr

/-- A layout record (R330). -/
structure Layout where
  base   : DWord
  dim    : List Nat
  org    : List Int
  str1   : Int
  str2   : Int
  box    : List Nat
  spitch : Nat
  splane : Nat
  pscale : Int
  fill   : Nat
  esz    : Nat
  deriving DecidableEq, Repr

/-- A copy in flight (R331, R332): its record, operands, the barrier phase it is tagged with, the lines still to land, the
next line, and whether it raised a cause. -/
structure CopyOp where
  out   : Bool
  lay   : Layout
  b     : DWord
  c     : Nat
  bar   : Option (BarId × Nat)
  seq   : Option DWord
  raw   : Bool
  lines : List Nat
  caused : Bool
  hint  : Hint
  deriving DecidableEq, Repr

/-- A convolution record (R346). -/
structure Conv where
  kw : Nat
  kh : Nat
  cin : Nat
  sx : Nat
  sy : Nat
  dx : Nat
  dy : Nat
  px : Int
  py : Int
  ow : Nat
  orow : Nat
  deriving DecidableEq, Repr

/-- What a matrix operation does (R336 to R353). -/
inductive MxKind where
  | clr (mq nq off : Nat)
  | win (v : Int)
  | prod (x : MxFields) (conv : Option Conv) (k0 klen : Nat) (ra rb : Layout) (rra rrb : Option Layout)
  | rd (v : View) (d : Operand) (lanes : Mask) (row col : Tbl Nat)
  | st (v : View) (space : MxSpace) (lay : Layout)
  | sv (a : DWord)
  | rs (a : DWord)
  /-- an operation that only raises its cause and completes (R342) -/
  | bad
  deriving DecidableEq, Repr

/-- A line of a chain's scratchpad as an operation found it: 128 bytes as a number, and its words with an error. -/
structure HeldLine where
  chain : Nat
  line  : Nat
  val   : Nat
  bad   : List Nat
  deriving DecidableEq, Repr

/-- A matrix operation the engine holds (R354, R357): its tile, what it does, its gang members, the operands of its descriptor
and whether it raised a cause. -/
structure MxOp where
  tile   : Nat
  kind   : MxKind
  gang   : List Nat
  word   : DWord
  aval   : DWord
  bval   : DWord
  cval   : DWord
  /-- the records at a to a + 256 as read at issue, by index (R357) -/
  snap   : Tbl Nat
  /-- the front-end fields of its tile as it issued (R335) -/
  shape  : Tile
  prog   : Nat
  raw    : Bool
  caused : Bool
  /-- the scratchpad lines that the step under way has waited for, as it found them (R58, R355) -/
  held   : List HeldLine := []
  /-- the elements that an `mxst` has written (R351) -/
  wrote  : Nat := 0
  deriving DecidableEq, Repr

/-- A particle as a stream has read it (R368): its position words, or none where it is treated as absent. -/
structure Seen where
  pos : Option (List Word)
  deriving DecidableEq, Repr

/-- A neighbour operation in flight (R374 to R378). -/
inductive NbKind where
  | bin (first count : Nat)
  /-- the stream's cells stand in its rod; `seen` holds the particles read so far -/
  | pair (seen : Tbl Seen)
  | move (first count : Nat) (d : Operand) (lanes : Mask)
  | clr
  | stat (d : Operand) (lanes : Mask)
  deriving DecidableEq, Repr

/-- What an outstanding operation of a rod is. -/
inductive OpKind where
  | load (l : LoadOp)
  | gather (g : GatherOp)
  | copy (c : CopyOp)
  | mx (m : MxOp)
  | nb (die gid : Nat) (k : NbKind)
  /-- a table load, with the records it has read so far: header first (R292) -/
  | table (va : DWord) (tid slot : Nat) (recs : List Nat)
  /-- registrations of words of the rod's core still to complete (`own`, R103) -/
  | words (ws : List Nat)
  /-- `wbk` (R102): words whose grant it waits for, and words whose write-back has still to reach home -/
  | wbk (ws gone : List Nat)
  /-- a reduction or uncached store performed after the rod has gone on (R317) -/
  | posted
  /-- a `dfree` that the load/store unit holds (R315): its pushes, until the words that it releases are granted and the operations before it
  are done; none once they are under way -/
  | free (req : Option HomeReq) (ws ops : List Nat)
  deriving DecidableEq, Repr

/-- An outstanding operation: the rod that issued it, the completion flags it counts in (rod index and flag, for every member
of a gang), what it is, whether a suspension holds it, the pages and kinds of access that it waits for, and those it has been denied (R30, R32,
R208). -/
structure Op where
  rod   : RodId
  flags : List (Nat × BitVec 4)
  kind  : OpKind
  susp  : Bool
  denied : List Denied
  pages : List (Nat × XKind) := []
  deriving DecidableEq, Repr

/-! ### Caches -/

/-- L1 states (R82). -/
inductive L1St where
  | i | v | gp | gd | g
  deriving DecidableEq, Repr

/-- A word of an L1 (R82, R84): its state, its value, which of its bytes are known (all four but in a partial store that waits for its
fetch), and its poison (R75). A word in I keeps the last value of the data array (R105). -/
structure L1Word where
  st    : L1St
  val   : Word
  known : BitVec 4
  bad   : Bool
  /-- while it registers: a store has written all four bytes, so the fetched value's poison goes (R75) -/
  whole : Bool := false
  /-- the cycle at which the value of a V word was current: words of one cycle hold values of one moment (R118) -/
  fill  : Nat := 0
  /-- the L2 retention that the store or `own` which registers it asks for: 0 lowest, 1 normal, 2 highest (R70) -/
  ret   : Nat := 1
  deriving DecidableEq, Repr

/-- Non-home L2 states (R95). -/
inductive L2St where
  | i | v | xp | x
  deriving DecidableEq, Repr

/-- A word of a non-home slice (R95): state, value, local owner, poison, and for a copy the cycle at which its value was current (R118). -/
structure L2Word where
  st  : L2St
  val : Word
  own : Nat
  bad : Bool
  fill : Nat := 0
  deriving DecidableEq, Repr

/-- An owner record (R90). -/
inductive Owner where
  | core (c : CoreId)
  | die (d : Nat)
  | host
  deriving DecidableEq, Repr

/-- A request queued at a home slice (R91). -/
inductive HomeMsg where
  | read (rd : Reader)
  | reg (p : Party) (fetch : Bool)
  | perform (req : HomeReq)
  /-- the slice needs the line's room (R98), or a host snoop or hand-back takes the word home (R109, R111) -/
  | recall
  deriving DecidableEq, Repr

/-- A home word that is not in D (R89): owned, waiting on an owner for the request at the head of the queue, or lost. -/
inductive HomeSt where
  | owned (o : Owner)
  | waiting (o : Owner)
  | lost
  deriving DecidableEq, Repr

/-- Host-line states at a home slice (R111). -/
inductive HostSt where
  | invalid | shared | owned
  deriving DecidableEq, Repr

/-- A translation an entry of a TLB holds (R33): a frame with its attributes, or a zero translation. -/
structure Xlat where
  asid : Nat
  vpn  : Nat
  /-- page size in 64 KiB pages: 1, 32 or 16384 -/
  span : Nat
  /-- page-table entry of the leaf or of the sparse range -/
  ent  : DWord
  zero : Bool
  deriving DecidableEq, Repr

/-- An entry of a walk cache: the table entry read at a level for the addresses with a prefix (R33). -/
structure WalkEnt where
  asid   : Nat
  level  : Nat
  pre : Nat
  ent    : DWord
  deriving DecidableEq, Repr

/-- An address-space table entry with the ASTB it was read under (R20 to R22). -/
structure AstUse where
  astb : DWord
  lo   : DWord
  hi   : DWord
  deriving DecidableEq, Repr

/-! ### Cores, dies, I/O dies -/

/-- A segment of a table (R291). -/
structure Seg where
  start : Word
  coef  : List Word
  err   : Word
  rlo   : Word
  rhi   : Word
  deg   : Nat
  mono  : Nat
  deriving DecidableEq, Repr

/-- A table entry (R289, R290). -/
structure TabEntry where
  owner : Nat
  slot  : Nat
  nseg  : Nat
  domlo : Word
  domhi : Word
  glo   : Word
  ghi   : Word
  deriving DecidableEq, Repr

/-- A bank of the table store (R288). -/
structure Bank where
  segs    : Tbl Seg
  entries : Tbl TabEntry
  deriving DecidableEq, Repr

/-- A core (R53, R59, R60, R82, R288, R440). Word keys are physical word indices PA / 4, line keys PA / 128. -/
structure Core where
  l1      : Tbl L1Word
  stamp   : BitVec 4
  stamps  : Tbl (BitVec 4)
  /-- lines of the L1, least recently used first (R60) -/
  lru     : List Nat
  /-- retention of the L1's lines: 0 lowest, 1 normal, 2 highest (R70) -/
  rets    : Tbl Nat
  /-- instruction-cache lines: the words, the break bits, and the late causes of words that were poisoned (R59, R76, R437) -/
  icache  : Tbl (List DWord × List Bool × List Word)
  /-- lines of the instruction cache, least recently used first (R53) -/
  icLru   : List Nat
  /-- the address space and virtual line that a held line was filled for (R436) -/
  icTags  : Tbl (Nat × Nat)
  itlb    : List Xlat
  dtlb    : List Xlat
  lastLaunch : Option Nat
  /-- the active bank, the inactive bank, and the active bank's number (R288, R294) -/
  bank0   : Bank
  bank1   : Bank
  bankNo  : Bool
  isHeld  : Bool
  holdRod : Option RodId
  /-- cycle at which the hold limit passes, when the timer runs (R442) -/
  holdEnd : Option Nat
  vacated : Bool
  /-- the launch for which the core has a steal request pending, and the direction of the next one (R172) -/
  stealFor : Option Nat
  stealUp : Bool
  deriving DecidableEq, Repr

/-- A page request a die has outstanding (R29, R30). -/
structure PageReq where
  tag  : Nat
  asid : Nat
  vpn  : Nat
  kind : Nat
  deriving DecidableEq, Repr

/-- A grid descriptor (R362). -/
structure GridDesc where
  pos : DWord
  ref : DWord
  spill : DWord
  stat : DWord
  done : DWord
  scap : Nat
  npart : Nat
  per : BitVec 3
  cap : Nat
  pstr : Nat
  org : List Word
  ext : List Word
  skin : Word
  cut : Word
  edge : Word
  deriving DecidableEq, Repr

/-- A grid slot (R361, R364 to R366). -/
structure Grid where
  owner  : Nat
  asid   : Nat
  desc   : GridDesc
  cells  : Tbl (List Nat)
  status : DWord
  deriving DecidableEq, Repr

/-- A steal request in a victim die's mailbox (R172). -/
structure Steal where
  launch : Nat
  thief  : CoreId
  deriving DecidableEq, Repr

/-- A compute die (R42, R79, R87, R106, R110, R439, R445, R446). -/
structure Die where
  l2      : Tbl L2Word
  l2stamp : BitVec 4
  l2stamps : Tbl (BitVec 4)
  home    : Tbl HomeSt
  homeQ   : Tbl (List HomeMsg)
  /-- lines resident in the die's L2, oldest first, with their retention (R61, R62, R65, R70) -/
  resident : List (Nat × Nat)
  /-- per slice, the set at which the round-robin for room goes on (R62, R98) -/
  roundAt : Tbl Nat
  hostHeld : Tbl HostSt
  mayHold : List Nat
  /-- lines whose back-invalidate snoop the host has not answered (R112) -/
  snooped : List Nat
  /-- the L2 TLB, newest first, and its entries of 1 GiB (R33) -/
  l2tlb   : List Xlat
  l2big   : List Xlat
  walkc   : List WalkEnt
  reqs    : List PageReq
  tagNext : Nat
  ppdb    : DWord
  low     : Tbl Bool
  merrs   : DWord
  merra   : DWord
  nmctl   : DWord
  /-- a reset of the die has lost near memory, which has not been enabled since (R110) -/
  nearLost : Bool
  /-- queues, with their ASIDs, whose launches had chains on the die when it was lost (R421) -/
  lostQueues : List (Nat × Nat)
  resetAt : Nat
  dbgctl  : DWord
  attach  : DWord
  dbgwin  : DWord
  smpbase : DWord
  smpctl  : DWord
  smpwr   : Word
  /-- words given a place in the sample buffer; SMPWR follows once they are in memory (R446) -/
  smpAt   : Word
  smprd   : Word
  smpD    : Nat
  smpG    : Bool
  /-- top-down counters but for leaf 19, the cycles that had been counted at the last clear, their copies and the cycles counted since the clear at
  the copy; leaf 19 makes up the rest (R445) -/
  leaves  : Tbl Nat
  cleared : Nat
  shadow  : Tbl Nat
  shadowSpan : Nat
  grids   : Tbl Grid
  mailbox : List Steal
  deriving DecidableEq, Repr

/-- A counter watch (R428). -/
structure Watch where
  en    : Bool
  fired : Bool
  asid  : BitVec 16
  va    : DWord
  thr   : DWord
  /-- a check could not be made, since something is under way at a word that it needs, and comes again -/
  late  : Bool := false
  deriving DecidableEq, Repr

/-- An I/O die (R29, R79, R384, R423, R428, R429). -/
structure IoDie where
  reqs    : List PageReq
  tagNext : Nat
  merrs   : DWord
  merra   : DWord
  watches : Tbl Watch
  /-- MSI-X vectors sent on the die's link, oldest first; those that are not masked, and those pending while masked (R429) -/
  vectors : List Nat
  unmasked : List Nat
  pending : List Nat
  /-- size of the link's BAR2 window: 2^bar2 GiB (R423) -/
  bar2    : Nat
  tlb     : List Xlat
  walkc   : List WalkEnt
  /-- page requests the host has denied, until the access that waited has taken the denial (R30) -/
  denied  : List PageReq
  deriving DecidableEq, Repr

/-- A command queue's registers (R384). -/
structure Queue where
  qbase : DWord
  qcfg  : DWord
  widx  : Word
  ridx  : Word
  evq   : DWord
  evwr  : Word
  evrd  : Word
  evovf : Bool
  dlwait : Bool
  def'  : Int
  /-- sequence number of each appended slot, oldest unfetched first (R390) -/
  seqs  : List Nat
  /-- shadow packets of accepted device launches, by ring index (R385) -/
  shadows : Tbl (List Byte)
  deriving DecidableEq, Repr

/-- A cancel in force (R396). `upTo`: the level's END command had been fetched when it came, and it reaches the commands appended
before that number. -/
structure Cancel where
  level : Level
  id    : Nat
  asid  : Nat
  queue : Nat
  idx   : Nat
  upTo  : Option Nat
  deriving DecidableEq, Repr

/-- Die states of R417. -/
inductive DieSt where
  | off | quarantined | attesting | keyed | inService | failed
  deriving DecidableEq, Repr

/-- A key of a link direction with its salt (R419). -/
structure LinkKey where
  key  : BitVec 256
  salt : Word
  deriving DecidableEq, Repr

/-- One key phase of a link direction: its key, while the receiver holds it, and the flits sent under it (R419, R420). -/
structure Phase where
  key   : Option LinkKey
  count : Nat
  deriving DecidableEq, Repr

/-- How far the root has brought a fresh key of a link direction (R419, R420): none under way, delivered to both ends, installed and confirmed by
the receiver, in use by the sender with the old key still held. -/
inductive KeyStage where
  | none | delivered | confirmed | switched
  deriving DecidableEq, Repr

/-- One direction of a ring link (R415, R419, R420): keyed, the key phase in use by the sender, the two phases, a key under way, the cycle
since which the key is in use, retries in succession. -/
structure LinkDir where
  keyed   : Bool
  kp      : Bool
  ph0     : Phase
  ph1     : Phase
  stage   : KeyStage
  since   : Nat
  retries : Nat
  /-- the key phase and the count of the flit being retried, whether a flit of the next phase has come in behind it, and the messages held -/
  retry   : Option (Bool × Nat)
  newSeen : Bool
  held    : List Nat
  /-- flits queued at the sending stop for this direction, by class (control, request, response, bulk) and virtual channel; 16 at most in a
  control queue (R411 to R413) -/
  waiting : List (List Nat)
  /-- control flits that hold no credit for the control queue yet (R413) -/
  inject  : List Nat
  /-- the slot of the ring cycle due, and the class the next free slot goes to (R411, R413) -/
  slot    : Nat
  turn    : Nat
  deriving DecidableEq, Repr

/-- The root's exchange with a die (R418): the steps done, the digest of its chain, the public key of its certificate, the challenge's nonce, the
session's secret while the die is in service, and the key updates made on it (R420). -/
structure Spdm where
  step    : Nat
  digest  : BitVec 256
  peer    : Nat
  nonce   : BitVec 256
  session : Option (BitVec 256)
  updates : Nat
  deriving DecidableEq, Repr

/-- CXL.cache requests of the device (R424). -/
inductive CxlReq where
  | rdShared | rdOwn | rdOwnNoData | cleanEvict | dirtyEvict | itoMWr
  deriving DecidableEq, Repr

/-- What the part sends to the outside: host and CXL read data with its poison indication, an SPDM answer, and messages of a queue
pair (RDMA WRITE and READ with their remote key and address, SEND, and the answer to a peer's request). -/
inductive OutMsg where
  | data (poison : Bool) (bytes : List Byte)
  | spdm (bytes : List Byte)
  | rdmaWrite (qp : Nat) (key : Word) (va : DWord) (bytes : List Byte)
  | rdmaRead (qp : Nat) (key : Word) (va : DWord) (len : Nat)
  | send (qp : Nat) (bytes : List Byte)
  | answer (qp : Nat) (bytes : List Byte)
  /-- a peer's request is turned away -/
  | refusal (qp : Nat)
  /-- a back-invalidate snoop of a line (R112) -/
  | backInvalidate (line : Nat)
  /-- a request for a host line under CXL.cache (R424) -/
  | cxl (req : CxlReq) (line : Nat)
  deriving DecidableEq, Repr

/-- A message crossing the ring: its source and destination stops, its class, whether it has crossed the dateline, and the step it asks
for (R411, R412). -/
structure RingMsg where
  src : Nat
  dst : Nat
  msg : Instr
  cls : BitVec 2 := 0
  dl  : Bool := false
  /-- it travels upward in stop number -/
  up  : Bool := true
  deriving DecidableEq, Repr

/-- Where a soft error strikes (R73): a lane word or half a uniform register of a rod, with its byte address in the register file; a
scratchpad bank word; an L1 word; a 16-byte L2 unit; an L2 tag; a flit at a stop; an 8-byte granule of memory; a flit of a host link. -/
inductive UpsetAt where
  | reg (r : RodId) (key addr : Nat)
  | scratch (chain off : Nat)
  | l1 (c : CoreId) (wd : Nat)
  | l2 (die wd : Nat)
  | tag (die line : Nat)
  | ring (stop pa : Nat)
  | mem (pa : Nat)
  | link (io pa : Nat)
  deriving DecidableEq, Repr

/-- A soft error that nature brings: the cycle in which a check finds it, where, and whether the code corrects it (R73, R74). -/
structure Upset where
  cycle : Nat
  place : UpsetAt
  fixed : Bool
  deriving DecidableEq, Repr

/-- A range of host or CXL addresses that a link or HDM decoder of an I/O die claims, and whether the link runs CXL.cache (R17, R19, R111). -/
structure Claim where
  first : Nat
  last  : Nat
  cache : Bool
  io    : Nat
  deriving DecidableEq, Repr

/-! ### The whole state -/

/-- The package. -/
structure State where
  /-- cycles since power-on -/
  cycle    : Nat
  /-- cycles that every quadrant has counted (R444) -/
  counted  : Nat
  /-- the model's own supply of fresh identities -/
  nextId   : Nat
  /-- the model's own: the (rod, slot) pair whose instruction is issuing -/
  cur      : Option (RodId × SlotId)
  /-- the model's own: the key of the (rod, slot) pair that the round-robin comes to next (R155) -/
  rr       : Nat
  /-- events the host, the links and the hardware bring, in order -/
  inputs   : List Instr
  /-- soft errors still to come (R73) -/
  upsets   : List Upset
  /-- protocol messages and engine steps under way, oldest first -/
  inflight : List Instr
  /-- messages on the ring, by number, and those of them that wait at their source for their way (R415) -/
  ring     : Tbl RingMsg
  parked   : List Nat
  mem      : List Host.Cell
  /-- poisoned words, and those whose syndrome records owner-lost (R75, R108), rising -/
  poison   : List Nat
  poisonLost : List Nat
  /-- far lines whose home-held bit is set (R109) -/
  homeHeld : List Nat
  /-- 64 KiB frames whose page, as last translated, has its sectors stored raw: CMP = 0, CNT = 1 or a class other than cached (R64) -/
  rawFrames : List Nat
  cores    : Tbl Core
  dies     : Tbl Die
  iods     : Tbl IoDie
  queues   : Tbl Queue
  cmds     : Tbl Cmd
  chains   : Tbl Chain
  rods     : Tbl Rod
  furlongs : Tbl Furlong
  ops      : Tbl Op
  cancels  : List Cancel
  /-- round of the scheduler due, and the start of the last one (R470) -/
  roundDue : Bool
  lastRound : Nat
  /-- number of commands appended to all queues (R390) -/
  appended : Nat
  astb     : DWord
  /-- per ASID, the ASTB and table entry in use until an invalidation covers the ASID (R22) -/
  ast      : Tbl AstUse
  xlia     : DWord
  xlic     : DWord
  /-- the accesses under way when the invalidation began: operations, and words of cores that were pending (R36) -/
  xlicOps  : List Nat
  xlicWords : List (CoreId × Nat)
  canc     : DWord
  preq     : DWord
  brkcfg   : DWord
  brkva    : DWord
  brkpa    : DWord
  brklen   : DWord
  /-- power is good (R417) -/
  powered  : Bool
  diest    : Tbl DieSt
  /-- the root's exchanges and sessions, by ring stop (R418) -/
  spdm     : Tbl Spdm
  /-- 2·k + 0: from stop k up to stop k+1; 2·k + 1: back down -/
  links    : Tbl LinkDir
  /-- ring links taken down (R415) -/
  linkDown : List Nat
  /-- the queues are open: every compute die has once been in service or failed since power-on -/
  queuesOpen : Bool
  /-- messages sent to the outside, oldest first -/
  outbox   : List OutMsg
  /-- queue pairs that are live: 16,384·(I/O die) + number (R425) -/
  qps      : List Nat
  /-- the host and CXL ranges that links and decoders claim (R19) -/
  claimed  : List Claim
  deriving DecidableEq, Repr

/-! ### Values at creation -/

def Stream.reset : Stream :=
  { queue := [], dealt := [], cur := [], gid := 0, opened := false, ended := true, last := 0, cell := 0, ipos := 0, jpos := 0,
    nrec := 0, stat := 4, op := none }

def Bar.reset : Bar :=
  { phase := 0, arrived := [], bytes := 0, posted := false, tagged := false, last := [], open' := 0, mid := [] }

def Acc.reset : Acc := { val := 0, ovf := false, lst := false, spc := 0, rad := 0 }

def Tile.reset : Tile :=
  { valid := false, off := 0, mq := 0, nq := 0, gr := 0, gc := 0, pr := 0, pc := 0, win := 0, terms := 0, prog := 0 }

def Bank.reset : Bank := { segs := [], entries := [] }

def L1Word.reset : L1Word := { st := .i, val := 0, known := 0, bad := false }

def L2Word.reset : L2Word := { st := .i, val := 0, own := 0, bad := false }

/-- A core with empty caches; its stamps start at 0 (log 44). -/
def Core.reset : Core :=
  { l1 := [], stamp := 0, stamps := [], lru := [], rets := [], icache := [], icLru := [], icTags := [], itlb := [], dtlb := [], lastLaunch := none,
    bank0 := Bank.reset, bank1 := Bank.reset, bankNo := false, isHeld := false, holdRod := none, holdEnd := none,
    vacated := false, stealFor := none, stealUp := false }

/-- A compute die after a reset of the die alone (R110 clears NMCTL.EN). -/
def Die.reset : Die :=
  { l2 := [], l2stamp := 0, l2stamps := [], home := [], homeQ := [], resident := [], roundAt := [], hostHeld := [], mayHold := [], snooped := [],
    l2tlb := [], l2big := [], walkc := [], reqs := [], tagNext := 0, ppdb := 0, low := [], merrs := 0, merra := 0,
    nmctl := 0, nearLost := false, lostQueues := [], resetAt := 0, dbgctl := 0, attach := 0,
    dbgwin := 0, smpbase := 0, smpctl := 0, smpwr := 0, smpAt := 0, smprd := 0, smpD := 0, smpG := false, leaves := [], cleared := 0, shadow := [], shadowSpan := 0,
    grids := [], mailbox := [] }

/-- A compute die after module reset: near memory is in use (R110). -/
def Die.moduleReset : Die := { Die.reset with nmctl := 1 }

def Watch.reset : Watch := { en := false, fired := false, asid := 0, va := 0, thr := 0 }

def IoDie.reset : IoDie :=
  { reqs := [], tagNext := 0, merrs := 0, merra := 0, watches := [], vectors := [], unmasked := [],
    pending := [], bar2 := 0, tlb := [], walkc := [], denied := [] }

def Queue.reset : Queue :=
  { qbase := 0, qcfg := 0, widx := 0, ridx := 0, evq := 0, evwr := 0, evrd := 0, evovf := false, dlwait := false, def' := 0,
    seqs := [], shadows := [] }

def LinkDir.reset : LinkDir :=
  { keyed := false, kp := false, ph0 := ⟨none, 0⟩, ph1 := ⟨none, 0⟩, stage := .none, since := 0, retries := 0, retry := none, newSeen := false,
    held := [], waiting := [], inject := [], slot := 0, turn := 0 }

def Spdm.reset : Spdm := { step := 0, digest := 0, peer := 0, nonce := 0, session := none, updates := 0 }

/-- The module right after reset: every die off, no command fetched, nothing resident, memory with nothing listed. -/
def State.reset : State :=
  { cycle := 0, counted := 0, nextId := 1, cur := none, rr := 0, inputs := [], upsets := [], inflight := [], ring := [], parked := [], mem := [], poison := [],
    poisonLost := [], homeHeld := [], rawFrames := [], cores := [], dies := [], iods := [], queues := [], cmds := [], chains := [], rods := [],
    furlongs := [], ops := [], cancels := [], roundDue := false, lastRound := 0, appended := 0, astb := 0, ast := [], xlia := 0,
    xlic := 0, xlicOps := [], xlicWords := [], canc := 0, preq := 0, brkcfg := 0, brkva := 0, brkpa := 0, brklen := 0,
    powered := false, diest := [], spdm := [], links := [],
    linkDown := [], queuesOpen := false, outbox := [], qps := [], claimed := [] }

end Sys2Proof.Machine
end

