-- ==== Sys2Proof/Machine/Access.lean ====
section
/-!
DEFINITION. Named reads and updates of the state's parts: cores, dies, queues, commands, chains, rods and their registers.
-/
namespace Sys2Proof.Machine

abbrev Res := Host.Outcome State Fault Refusal

/-! ### Dies and stops (R2, R3) -/

/-- The ring stop of compute die d (R2). -/
def stopOf (d : Nat) : Nat := if d < 4 then d else d + 1

/-- The ring stop of I/O die i (R2). -/
def ioStop (i : Nat) : Nat := if i = 0 then 4 else 9

/-- The compute die at a stop, if any (R2). -/
def dieOfStop (k : Nat) : Option Nat := if k < 4 then some k else if 4 < k ∧ k < 9 then some (k - 1) else none

/-- Compute dies that are ring neighbours with no I/O die between them (R3). -/
def adjacent (a b : Nat) : Bool := (a + 1 == b || b + 1 == a) && !(Nat.min a b == 3)

def State.dieState (s : State) (stop : Nat) : DieSt := s.diest.get stop .off

/-- Compute die d is in service (R417). -/
def State.inService (s : State) (d : Nat) : Bool := s.dieState (stopOf d) == .inService

def State.setDieState (s : State) (stop : Nat) (x : DieSt) : State := { s with diest := s.diest.set stop x .off }

/-! ### Parts of the state -/

def coreKey (c : CoreId) : Nat := 64 * c.die + c.core

def coreOfKey (k : Nat) : CoreId := ⟨k / 64, k % 64⟩

def State.core (s : State) (c : CoreId) : Core := s.cores.get (coreKey c) Core.reset

def State.setCore (s : State) (c : CoreId) (x : Core) : State := { s with cores := s.cores.set (coreKey c) x Core.reset }

def State.die (s : State) (d : Nat) : Die := s.dies.get d Die.moduleReset

def State.setDie (s : State) (d : Nat) (x : Die) : State := { s with dies := s.dies.set d x Die.moduleReset }

def State.iod (s : State) (i : Nat) : IoDie := s.iods.get i IoDie.reset

def State.setIod (s : State) (i : Nat) (x : IoDie) : State := { s with iods := s.iods.set i x IoDie.reset }

def State.queue (s : State) (q : Nat) : Queue := s.queues.get q Queue.reset

def State.setQueue (s : State) (q : Nat) (x : Queue) : State := { s with queues := s.queues.set q x Queue.reset }

def State.cmd (s : State) (n : Nat) : Option Cmd := s.cmds.find n

def State.setCmd (s : State) (n : Nat) (x : Cmd) : State := { s with cmds := s.cmds.put n x }

def State.modCmd (s : State) (n : Nat) (f : Cmd → Cmd) : State :=
  match s.cmd n with
  | some c => s.setCmd n (f c)
  | none => s

def Cmd.packet (c : Cmd) : Option Packet :=
  match c.kind with
  | .launch p => some p
  | _ => none

/-- The packet of a fetched launch. -/
def State.packet (s : State) (lid : Nat) : Option Packet := (s.cmd lid).bind Cmd.packet

def State.chain (s : State) (n : Nat) : Option Chain := s.chains.find n

def State.setChain (s : State) (n : Nat) (x : Chain) : State := { s with chains := s.chains.put n x }

def State.modChain (s : State) (n : Nat) (f : Chain → Chain) : State :=
  match s.chain n with
  | some c => s.setChain n (f c)
  | none => s

def State.furlong (s : State) (n : Nat) : Option Furlong := s.furlongs.find n

def rodKey (r : RodId) : Nat := 32 * r.chain + r.rod

def rodOfKey (k : Nat) : RodId := ⟨k / 32, k % 32⟩

def State.rod (s : State) (r : RodId) : Option Rod := s.rods.find (rodKey r)

def State.setRod (s : State) (r : RodId) (x : Rod) : State := { s with rods := s.rods.put (rodKey r) x }

def State.modRod (s : State) (r : RodId) (f : Rod → Rod) : State :=
  match s.rod r with
  | some x => s.setRod r (f x)
  | none => s

def State.op (s : State) (n : Nat) : Option Op := s.ops.find n

def State.setOp (s : State) (n : Nat) (x : Op) : State := { s with ops := s.ops.put n x }

/-- A fresh identity. -/
def State.fresh (s : State) : Nat × State := (s.nextId, { s with nextId := s.nextId + 1 })

/-- Add a step to what is under way; steps are taken up in the order they were added. -/
def State.send (s : State) (i : Instr) : State := { s with inflight := s.inflight ++ [i] }

/-- The chain, launch and address space a rod works in. -/
def State.launchOf (s : State) (r : RodId) : Nat :=
  match s.chain r.chain with
  | some c => c.launch
  | none => 0

/-- The rod's launch is cancelled (R328, R396). -/
def State.cancelledFor (s : State) (r : RodId) : Bool := ((s.cmd (s.launchOf r)).map (·.cancelled)).getD false

def State.asidOf (s : State) (r : RodId) : Nat :=
  match s.cmd (s.launchOf r) with
  | some c => c.asid
  | none => 0

def State.coreOf (s : State) (r : RodId) : CoreId :=
  match s.chain r.chain with
  | some c => c.core
  | none => ⟨0, 0⟩

/-- The rods of a chain, by index (R149). -/
def Chain.rodIds (c : Chain) (n : Nat) : List RodId := (List.range c.nrod).map (fun k => ⟨n, k⟩)

/-- Every (rod, slot) pair of the package, in order of chain and rod. -/
def State.pairs (s : State) : List (RodId × SlotId) :=
  s.rods.keys.flatMap (fun k => [(rodOfKey k, SlotId.a), (rodOfKey k, SlotId.b)])

/-- The chain holds its core's resources: it is not saved. -/
def Chain.here (c : Chain) : Bool :=
  match c.state with
  | .saved _ => false
  | _ => true

/-- The resident chains of a core, in order of identity. -/
def State.residents (s : State) (c : CoreId) : List (Nat × Chain) :=
  s.chains.filter (fun e => e.2.core == c && e.2.here)

/-! ### Registers of a rod -/

def Rod.lw (r : Rod) (i l : Nat) : Word := if r.regBad.contains (32 * i + l) then 0xFFFFFFFF else r.w.get (32 * i + l) 0

/-- Write word i of lane l (R54); a written word has no error any more (R76). -/
def Rod.setLw (r : Rod) (i l : Nat) (v : Word) : Rod :=
  { r with w := r.w.set (32 * i + l) v 0, regBad := r.regBad.filter (· ≠ 32 * i + l) }

/-- Write word i of every lane of m. -/
def Rod.setLws (r : Rod) (m : Mask) (i : Nat) (v : Nat → Word) : Rod := (lanes m).foldl (fun x l => x.setLw i l (v l)) r

/-- A uniform register; a half with an error reads 0xFFFF_FFFF (R73, R76). -/
def Rod.un (r : Rod) (n : Nat) : DWord :=
  let v := r.u.get n 0
  let v := if r.regBad.contains (8192 + 2 * n) then v ||| 0xFFFFFFFF else v
  if r.regBad.contains (8192 + 2 * n + 1) then v ||| 0xFFFFFFFF00000000 else v

def Rod.setUn (r : Rod) (n : Nat) (v : DWord) : Rod :=
  { r with u := r.u.set n v 0, regBad := r.regBad.filter (fun k => k ≠ 8192 + 2 * n ∧ k ≠ 8192 + 2 * n + 1) }

/-- Predicate n of lane l; q0 reads T (R185). -/
def Rod.pred (r : Rod) (n l : Nat) : BitVec 2 := if n = 0 then 1 else r.q.get (16 * l + n) 0

/-- Write predicate n of lane l; a write that names q0 is discarded (R185). -/
def Rod.setPred (r : Rod) (n l : Nat) (v : BitVec 2) : Rod := if n = 0 then r else { r with q := r.q.set (16 * l + n) v 0 }

def Rod.setPreds (r : Rod) (m : Mask) (n : Nat) (v : Nat → BitVec 2) : Rod :=
  (lanes m).foldl (fun x l => x.setPred n l (v l)) r

def Rod.kreg (r : Rod) (n l : Nat) : BitVec 10 := r.k.get (4 * l + n) 0

def Rod.setK (r : Rod) (n l : Nat) (v : BitVec 10) : Rod := { r with k := r.k.set (4 * l + n) v 0 }

def Rod.slot (r : Rod) : SlotId → Option Slot
  | .a => r.slotA
  | .b => r.slotB

def Rod.setSlot (r : Rod) (sl : SlotId) (x : Option Slot) : Rod :=
  match sl with
  | .a => { r with slotA := x }
  | .b => { r with slotB := x }

/-- Outstanding count of completion flag n (R208). -/
def Rod.flagCount (r : Rod) (n : Nat) : Nat := r.flags.get n 0

def Rod.setFlag (r : Rod) (n v : Nat) : Rod := { r with flags := r.flags.set n v 0 }

/-- The lanes of a rod that have not exited: every live lane is on one path or has arrived at a frame (R156). -/
def Rod.live (r : Rod) : Mask :=
  let slotMask : Option Slot → Mask := fun x => match x with | some y => y.path.mask | none => 0
  r.stack.foldl (fun m e => match e.2 with
    | .path p => m ||| p.mask
    | .frame _ _ arr _ => m ||| arr
    | .free => m) (slotMask r.slotA ||| slotMask r.slotB) |||
  (match r.shadowA with | some p => p.mask | none => 0) ||| (match r.shadowB with | some p => p.mask | none => 0)

/-- Set bits of sr.cause (R399). -/
def Rod.raise (r : Rod) (bits : Word) : Rod := { r with cause := r.cause ||| bits }

/-- Bits of sr.cause (R399). -/
def Cause.illegal : Word := 0x1
def Cause.regidx : Word := 0x2
def Cause.copyr : Word := 0x4
def Cause.gang : Word := 0x8
def Cause.strap : Word := 0x10
def Cause.brk : Word := 0x20
def Cause.divovf : Word := 0x40
def Cause.accv : Word := 0x100
def Cause.umem : Word := 0x200
def Cause.olost : Word := 0x400
def Cause.bover : Word := 0x800
def Cause.tblf : Word := 0x1000
def Cause.creg : Word := 0x2000
def Cause.poolovf : Word := 0x4000
def Cause.inh : Word := 0x10000
def Cause.haltp : Word := 0x20000

/-- The late causes (R399, R400). -/
def Cause.late : Word := 0x7F00

/-- The rod is in its trap handler (R399). -/
def Rod.inHandler (r : Rod) : Bool := r.cause.getLsbD 16

/-- Raise causes in a rod, if it is there. -/
def State.raise (s : State) (r : RodId) (bits : Word) : State := if bits = 0 then s else s.modRod r (·.raise bits)

/-- Set bits of sr.mflags (R39). -/
def State.mflag (s : State) (r : RodId) (bits : Word) : State := s.modRod r (fun x => { x with mflags := x.mflags ||| bits })

/-! ### Physical addresses (R17, R18) -/

/-- What a physical address reaches (R17). -/
inductive Region where
  | near (die : Nat)
  | far (io : Nat)
  | reserved
  | registers
  | cxl
  | host (io : Nat)
  deriving DecidableEq, Repr

def region (pa : Nat) : Region :=
  if pa < 0x0001000000000 then .near (bitsOf pa 35 33)
  else if pa < 0x0010000000000 then .reserved
  else if pa < 0x001C000000000 then .far 0
  else if pa < 0x0028000000000 then .far 1
  else if pa < 0x0FF0000000000 then .reserved
  else if pa < 0x1000000000000 then .registers
  else if pa < 0x8000000000000 then .cxl
  else if pa < 0xC000000000000 then .host 0
  else if pa < 0x10000000000000 then .host 1
  else .reserved

/-- The compute die in service at or after d in the cyclic order CD0 to CD7 (R109). -/
def State.standby (s : State) (d : Nat) : Nat :=
  (((List.range 8).map (fun i => (d + i) % 8)).find? (fun x => s.inService x)).getD d

/-- The home die of a cacheable address (R18), or its standby (R109). -/
def State.homeDie (s : State) (pa : Nat) : Nat :=
  match region pa with
  | .near d => d
  | _ => s.standby (bitsOf pa 18 16)

/-- The I/O die's links carry data: it is in service (R5, R417). -/
def State.ioUp (s : State) (io : Nat) : Bool := s.dieState (ioStop io) == .inService

/-- The link or decoder that claims a host or CXL address (R19). -/
def State.claimAt (s : State) (pa : Nat) : Option Claim := s.claimed.find? (fun c => decide (c.first ≤ pa) && decide (pa ≤ c.last))

/-- A claimed host or CXL address (R19), and whether its link runs CXL.cache (R111). -/
def State.claim (s : State) (pa : Nat) : Option Bool := (s.claimAt pa).map (·.cache)

/-- The I/O die that an address lies behind (R4, R17); none for near memory and what nothing claims. -/
def State.ioOf (s : State) (pa : Nat) : Option Nat :=
  match region pa with
  | .far io | .host io => some io
  | .cxl => (s.claimAt pa).map (·.io)
  | _ => none

/-- The line of a word, and the words of a line (R82). -/
def lineOf (wd : Nat) : Nat := wd / 32
def lineWords (line : Nat) : List Nat := (List.range 32).map (fun i => 32 * line + i)

/-! ### Bytes of memory (R7) -/

/-- A byte of memory; an address nothing has written reads 0 (log 2). -/
def State.byte (s : State) (pa : Nat) : Byte := Tbl.get s.mem pa 0

def State.setByte (s : State) (pa : Nat) (v : Byte) : State := { s with mem := Tbl.set s.mem pa v 0 }

/-- The word of memory with index wd, little-endian (R7). -/
def State.memWord (s : State) (wd : Nat) : Word :=
  wordOf (s.byte (4 * wd)) (s.byte (4 * wd + 1)) (s.byte (4 * wd + 2)) (s.byte (4 * wd + 3))

def State.setMemWord (s : State) (wd : Nat) (v : Word) : State :=
  (((s.setByte (4 * wd) (Word.byte v 0)).setByte (4 * wd + 1) (Word.byte v 1)).setByte (4 * wd + 2) (Word.byte v 2)).setByte
    (4 * wd + 3) (Word.byte v 3)

/-- The canonical form of memory: addresses rising strictly and no byte listed that is 0. -/
def Memory.wf (m : List Host.Cell) : Bool := Tbl.wf m 0

end Sys2Proof.Machine
end

