-- ==== Sys2Proof/Machine/Ring.lean ====
section
/-!
DEFINITION. The errors that a die finds and reports (R74, R79, R429), and the Wilon ring as a carrier of messages (R2, R92, R411 to R415): the links
of the ring, the class and the way of a message, the queues of a stop, the credits of the control class, and the slots of a ring cycle.
-/
namespace Sys2Proof

/-- Messages that the control class carries whatever they serve (R92, R413); a load is one only with an acquire at package scope or wider. -/
def Instr.control : Instr → Bool
  | .homeRegister _ _ | .homeRegisterFetch _ _ | .homeWriteBack _ _ _ | .homeOwnerAnswer _ _ _ | .nonhomePackageGrant _ _ _
  | .nonhomeForward _ _ _ | .nonhomeRevoke _ _ | .l1Forward _ _ _ | .l1Revoke _ _ _ | .l1DieGrant _ _ | .l1PackageGrant _ _ _
  | .barrierPhaseComplete _ | .furlongRemotePhase _ | .seqwtWake _ _ | .stealRequest _ _ _ | .stolenItemReturn _ _ _
  | .lossNotice _ => true
  | _ => false

end Sys2Proof

namespace Sys2Proof.Machine

/-! ### Errors that a die finds (R73, R74, R79) -/

/-- A vector on one link (R429): sent, or pending there while it is masked, as all are at reset (log 62). -/
def State.vector (s : State) (io v : Nat) : State :=
  let d := s.iod io
  s.setIod io (if d.unmasked.contains v then { d with vectors := d.vectors ++ [v] } else { d with pending := insertNat v d.pending })

/-- A vector of a link is masked or unmasked; one that is pending goes out (R429). -/
def State.maskVector (s : State) (io v : Nat) (mask : Bool) : State :=
  let d := s.iod io
  if mask then s.setIod io { d with unmasked := d.unmasked.filter (· ≠ v) }
  else
    let s := s.setIod io { d with unmasked := insertNat v d.unmasked, pending := d.pending.filter (· ≠ v) }
    if d.pending.contains v then s.vector io v else s

/-- Send a package-wide vector on both links (R429). -/
def State.vectorAll (s : State) (v : Nat) : State := (s.vector 0 v).vector 1 v

/-- MERRS and MERRA after an uncorrectable error, and whether the memory-error interrupt is raised (R79). -/
def merrNext (merrs merra : DWord) (dom core addr : Nat) : DWord × DWord × Bool :=
  if merrs.getLsbD 63 then (merrs ||| (1 <<< 62), merra, false)
  else
    (merge64 (mask64 61 53 ||| mask64 63 63) merrs (BitVec.ofNat 64 (2 ^ 63 + dom * 2 ^ 59 + core * 2 ^ 53)),
     BitVec.ofNat 64 (addr % 2 ^ 52), true)

/-- Record an error on a compute die (R79). -/
def State.recordDie (s : State) (d dom core addr : Nat) : State :=
  let x := s.die d
  let (a, b, i) := merrNext x.merrs x.merra dom core addr
  let s := s.setDie d { x with merrs := a, merra := b }
  if i then s.vectorAll 0 else s

/-- Record an error on an I/O die (R79). -/
def State.recordIo (s : State) (io dom addr : Nat) : State :=
  let x := s.iod io
  let (a, b, i) := merrNext x.merrs x.merra dom 0 addr
  let s := s.setIod io { x with merrs := a, merra := b }
  if i then s.vectorAll 0 else s

/-- CECNT after one more correctable error; it saturates (R79). -/
def cecntNext (merrs : DWord) : DWord := if merrs.bits 31 0 = 2 ^ 32 - 1 then merrs else merrs + 1

/-- A correctable error is counted by the die of a ring stop (R74, R79). -/
def State.countFixed (s : State) (stop : Nat) : State :=
  match dieOfStop stop with
  | some d => s.setDie d { s.die d with merrs := cecntNext (s.die d).merrs }
  | none => let i := stop / 9; s.setIod i { s.iod i with merrs := cecntNext (s.iod i).merrs }

/-- An error is recorded by the die of a ring stop (R79). -/
def State.recordAt (s : State) (stop dom core addr : Nat) : State :=
  match dieOfStop stop with
  | some d => s.recordDie d dom core addr
  | none => s.recordIo (stop / 9) dom addr

/-- An uncorrectable error on the ring or on a host link strikes the next transfer of its 64-byte sector that arrives there (R74; log 55). -/
def Upset.onWay (u : Upset) : Bool := !u.fixed && (match u.place with | .ring _ _ | .link _ _ => true | _ => false)

/-- The error strikes a word that arrives at a ring stop, or (`link`) over the host link of an I/O die. -/
def Upset.meets (u : Upset) (now : Nat) (link : Bool) (k wd : Nat) : Bool :=
  u.onWay && decide (u.cycle ≤ now) && (match u.place with
    | .ring stop pa => !link && stop == k && pa / 64 == wd / 16
    | .link io pa => link && io == k && pa / 64 == wd / 16
    | _ => false)

/-- Words of one transfer arrive at a stop, or over a host link: those that arrive damaged, with the record of the error (R74, R75, R79). -/
def State.flawed (s : State) (link : Bool) (k : Nat) (ws : List Nat) : List Nat × State :=
  match s.upsets.find? (fun u => ws.any (u.meets s.cycle link k)) with
  | none => ([], s)
  | some u =>
    let hit := ws.filter (u.meets s.cycle link k)
    let s := { s with upsets := s.upsets.erase u }
    (hit, if link then s.recordIo k 7 (4 * hit.headD 0) else s.recordAt k 4 0 (4 * hit.headD 0))

/-! ### Links (R3, R415, R419) -/

def State.link (s : State) (k : Nat) (up : Bool) : LinkDir := s.links.get (2 * k + (if up then 0 else 1)) LinkDir.reset

def State.setLink (s : State) (k : Nat) (up : Bool) (x : LinkDir) : State :=
  { s with links := s.links.set (2 * k + (if up then 0 else 1)) x LinkDir.reset }

/-- Both directions of the link from stop k to stop k + 1 are keyed (R419). -/
def State.linkKeyed (s : State) (k : Nat) : Bool := (s.link k true).keyed && (s.link k false).keyed

/-- The link carries traffic of every class: keyed, not taken down, the dies at both ends in service (R5, R415, R417, R421). -/
def State.linkUp (s : State) (k : Nat) : Bool :=
  s.linkKeyed k && !s.linkDown.contains k && s.dieState k == .inService && s.dieState ((k + 1) % 10) == .inService

/-- The link that leads from stop k onward. -/
def onward (k : Nat) (up : Bool) : Nat := if up then k else (k + 9) % 10

/-- The stop a link direction leads to. -/
def linkEnd (link : Nat) (up : Bool) : Nat := if up then (link + 1) % 10 else link

/-- Hops from one stop to another, upward (R412). -/
def hopsUp (src dst : Nat) : Nat := (dst + 10 - src) % 10

/-- Every link of the way carries traffic. -/
def State.wayOpen (s : State) (src dst : Nat) (up : Bool) : Bool :=
  if up then (List.range (hopsUp src dst)).all (fun i => s.linkUp ((src + i) % 10))
  else (List.range (hopsUp dst src)).all (fun i => s.linkUp ((src + 9 - i) % 10))

/-- The direction a message takes (R412, R415): the shorter, upward when both are 5 hops, the other when the first has a link down. -/
def State.goesUp (s : State) (src dst : Nat) : Bool :=
  let short := decide (hopsUp src dst ≤ 5)
  if s.wayOpen src dst short then short else if s.wayOpen src dst (!short) then !short else short

/-- Data can go from one stop to another (R5). -/
def State.reaches (s : State) (src dst : Nat) : Bool := src == dst || s.wayOpen src dst true || s.wayOpen src dst false

/-- Data can go between a stop and a word: to its home die, and on to the I/O die that it lies behind (R4, R5, R67). -/
def State.homeNear (s : State) (stop wd : Nat) : Bool :=
  let home := stopOf (s.homeDie (4 * wd))
  s.reaches stop home && (match s.ioOf (4 * wd) with | some io => s.reaches home (ioStop io) | none => true)

/-! ### What an address reaches (R4, R5, R19) -/

/-- How an access to an address ends: memory, the outcome of R19, the VIOLATION of lost near memory (R110), or a device
register. -/
inductive Reach where
  | memory | nothing | lost | registers
  deriving DecidableEq, Repr

/-- The home die of an address and the I/O die that it lies behind are in service (R4, R5). -/
def State.served (s : State) (pa : Nat) : Bool :=
  s.inService (s.homeDie pa) && (match s.ioOf pa with | some io => s.ioUp io | none => true)

/-- What an address reaches (R4, R5, R17, R19, R110): near memory of a die in service whose NMCTL.EN is set, far memory and host space of an I/O
die in service, what a link or decoder of one claims. -/
def State.reach (s : State) (pa : Nat) : Reach :=
  match region pa with
  | .near d => if (s.die d).nmctl.getLsbD 0 && s.inService d then .memory else .lost
  | .far _ => if s.served pa then .memory else .nothing
  | .reserved => .nothing
  | .registers => .registers
  | .cxl | .host _ => if (s.claim pa).isSome && s.served pa then .memory else .nothing

/-! ### Keys of a link direction (R419, R420) -/

def LinkDir.phase (x : LinkDir) (kp : Bool) : Phase := if kp then x.ph1 else x.ph0

def LinkDir.setPhase (x : LinkDir) (kp : Bool) (p : Phase) : LinkDir := if kp then { x with ph1 := p } else { x with ph0 := p }

/-! ### The queues of a stop (R412, R413) -/

/-- The queue of a class and a virtual channel. -/
def channel (cls : BitVec 2) (dl : Bool) : Nat := 2 * cls.toNat + (if dl then 1 else 0)

def LinkDir.queue (x : LinkDir) (q : Nat) : List Nat := x.waiting.getD q []

def LinkDir.setQueue (x : LinkDir) (q : Nat) (l : List Nat) : LinkDir :=
  { x with waiting := (List.range 8).map (fun k => if k = q then l else x.queue k) }

/-- A flit in transit joins its queue. -/
def LinkDir.enqueue (x : LinkDir) (q n : Nat) : LinkDir := x.setQueue q (x.queue q ++ [n])

/-- A flit joins its queue at its source; a control flit with no credit waits to be injected (R413). -/
def LinkDir.enter (x : LinkDir) (cls : BitVec 2) (n : Nat) : LinkDir :=
  if cls = 0 ∧ (16 ≤ (x.queue 0).length ∨ x.inject ≠ []) then { x with inject := x.inject ++ [n] } else x.enqueue (channel cls false) n

/-- A flit has left: its credit lets the next control flit in. -/
def LinkDir.dequeue (x : LinkDir) (n : Nat) : LinkDir :=
  let x := { x with waiting := (List.range 8).map (fun k => (x.queue k).filter (· ≠ n)), inject := x.inject.filter (· ≠ n), held := x.held.filter (· ≠ n) }
  match x.inject with
  | m :: rest => if (x.queue 0).length < 16 then { x.enqueue 0 m with inject := rest } else x
  | [] => x

/-- The flit waits at the stop for this direction. -/
def LinkDir.has (x : LinkDir) (n : Nat) : Bool := x.inject.contains n || x.waiting.any (fun l => l.contains n)

/-- The class the slot due goes to, among those with a flit that may go: the first slot of a ring cycle to control, the others
round-robin (R413). -/
def LinkDir.pick (x : LinkDir) (may : Nat → Bool) : Option Nat :=
  if x.slot % 8 = 0 ∧ may 0 then some 0 else ([0, 1, 2, 3].map (fun k => (x.turn + k) % 4)).find? may

/-- The slot has been used by a class. -/
def LinkDir.used (x : LinkDir) (cls : Nat) : LinkDir :=
  { x with slot := (x.slot + 1) % 8, turn := if x.slot % 8 = 0 ∧ cls = 0 then x.turn else (cls + 1) % 4 }

/-! ### Sending (R412, R415) -/

/-- Flits of a pair of stops that are in flight. -/
def State.onRoute (s : State) (src dst : Nat) : Option RingMsg :=
  (s.ring.find? (fun (e : Nat × RingMsg) => e.2.src == src && e.2.dst == dst && !s.parked.contains e.1)).map Prod.snd

/-- The direction in which a flit of a pair of stops can start now: that of its flits in flight, so that they stay in order, or else the one to
take; none while no way is open (R412, R415). -/
def State.startUp (s : State) (src dst : Nat) : Option Bool :=
  let up := match s.onRoute src dst with | some m => m.up | none => s.goesUp src dst
  if s.wayOpen src dst up then some up else none

/-- A flit enters the ring at its source with DL = 0 (R412). -/
def State.inject (s : State) (n : Nat) (m : RingMsg) (up : Bool) : State :=
  let k := onward m.src up
  let s := s.setLink k up ((s.link k up).enter m.cls n)
  { s with ring := s.ring.put n { m with dl := false, up := up }, parked := s.parked.filter (· ≠ n) }

/-- A flit of a pair of stops starts, unless its way is closed or an earlier flit of the pair waits: then it waits at its source (R415). -/
def State.start (s : State) (n : Nat) (m : RingMsg) : State :=
  let before := s.parked.any (fun k => k != n && decide (k < n) && ((s.ring.find k).map (fun e => e.src == m.src && e.dst == m.dst)).getD false)
  match (if before then none else s.startUp m.src m.dst) with
  | some up => s.inject n m up
  | none => { s with ring := s.ring.put n m, parked := insertNat n s.parked }

/-- Flits that wait at their source start where their way is open (R415). -/
def State.release (s : State) : State :=
  s.parked.foldl (fun s n => match s.ring.find n with
    | some m => s.start n m
    | none => { s with parked := s.parked.filter (· ≠ n) }) s

/-- A message starts on the ring from one stop to another (R412). -/
def State.toStop (s : State) (src dst : Nat) (cls : BitVec 2) (m : Instr) : State :=
  let (n, s) := s.fresh
  s.start n { src := src, dst := dst, msg := m, cls := cls }

/-- A message from a stop to another, or within one. -/
def State.carry (s : State) (src dst : Nat) (cls : BitVec 2) (m : Instr) : State := if src = dst then s.send m else s.toStop src dst cls m

/-- A message from a compute die to another: over the ring, in the control class or the request class (R413). -/
def State.toDie (s : State) (src dst : Nat) (m : Instr) : State := s.carry (stopOf src) (stopOf dst) (if m.control then 0 else 1) m

/-- Every message under way, on a die or on the ring. -/
def State.under (s : State) : List Instr := s.inflight ++ s.ring.vals.map (·.msg)

/-- Flits leave the queues of the stops. -/
def State.unqueue (s : State) (gone : List Nat) : State :=
  { s with links := s.links.map (fun (e : Nat × LinkDir) => (e.1, gone.foldl (fun (x : LinkDir) n => x.dequeue n) e.2)) }

/-- Flits leave the ring. -/
def State.unflit (s : State) (gone : List Nat) : State :=
  { s.unqueue gone with ring := s.ring.keep (fun k _ => !gone.contains k), parked := s.parked.filter (fun n => !gone.contains n) }

/-- Messages under way that satisfy p go. -/
def State.dropMessages (s : State) (p : Instr → Bool) : State :=
  { s.unflit ((s.ring.filter (fun (e : Nat × RingMsg) => p e.2.msg)).map Prod.fst) with inflight := s.inflight.filter (fun m => !p m) }

/-! ### Crossing a link (R412, R413) -/

/-- DL of a flit that has crossed a link: the hop between stops 9 and 0 sets it (R412). -/
def RingMsg.after (m : RingMsg) (link : Nat) : Bool := m.dl || link == 9

/-- The control queue at the end of a hop has room for the flit: it ends there, or goes on. -/
def State.credit (s : State) (link : Nat) (up : Bool) (n : Nat) : Bool :=
  match s.ring.find n with
  | none => true
  | some m =>
    let here := linkEnd link up
    m.dst == here || m.cls != 0 || decide (((s.link (onward here m.up) m.up).queue (channel 0 (m.after link))).length < 16)

/-- The flit that crosses a link direction next (R413); of a class's two virtual channels the one past the dateline first. -/
def State.nextFlit (s : State) (link : Nat) (up : Bool) : Option Nat :=
  let x := s.link link up
  if ¬ s.linkUp link then none
  else
    let head := fun k => ([2 * k + 1, 2 * k].filterMap (fun q => (x.queue q).head?)).find? (fun n => s.credit link up n)
    (x.pick (fun k => (head k).isSome)).bind head

/-- A flit that has crossed a hop: it is delivered, or queues for the next hop (R412). -/
def State.arrive (s : State) (link : Nat) (up : Bool) (n : Nat) : State :=
  match s.ring.find n with
  | none => s
  | some m =>
    let here := linkEnd link up
    if m.dst = here then ({ s with ring := s.ring.erase n }.send m.msg).release
    else
      let m := { m with dl := m.after link }
      let k := onward here m.up
      let s := s.setLink k m.up ((s.link k m.up).enqueue (channel m.cls m.dl) n)
      { s with ring := s.ring.put n m }

/-- The link direction that a flit waits to cross, if it is in a queue. -/
def State.flitAt (s : State) (n : Nat) : Option (Nat × Bool) :=
  (s.links.find? (fun (e : Nat × LinkDir) => e.2.has n)).map (fun e => (e.1 / 2, e.1 % 2 == 0))

/-- The rest of a flit's way carries traffic. -/
def State.canGoOn (s : State) (n : Nat) (m : RingMsg) : Bool :=
  match s.flitAt n with
  | some (k, up) => s.wayOpen (if up then k else (k + 1) % 10) m.dst up
  | none => false

/-- After links have stopped or started to carry traffic (R415): flits before a link that does not go back to their source and wait there, in
the order they were sent, until no flit of their pair is in flight on the old way; those past it go on. -/
def State.reroute (s : State) : State :=
  let l := ((s.ring.filter (fun (e : Nat × RingMsg) => !s.parked.contains e.1 && !s.canGoOn e.1 e.2)).map Prod.fst)
  let s := s.unqueue l
  { s with parked := l.foldl (fun p n => insertNat n p) s.parked }.release

end Sys2Proof.Machine
end

