-- ==== Sys2Proof/Machine/Words.lean ====
section
/-!
DEFINITION. Words as the caches and the home slices hold them (R18, R61 to R65, R70 to R72, R75, R81 to R101), with the transfers that an
engine, a walker or a home-performed access makes as one step once nothing is under way at its words: a forward from the owner, a recall, a
fill, a registration.
-/
namespace Sys2Proof

/-- The word whose owner, or whose value at home, a protocol message under way may still change (R83, R91, R96); reads and forwards change
neither. -/
def Instr.settles : Instr → Option Nat
  | .l1DieGrant _ wd | .l1PackageGrant _ wd _ | .l1Revoke _ wd _ | .homeRegister _ wd | .homeRegisterFetch _ wd
  | .homeWriteBack _ wd _ | .homeOwnerAnswer _ wd _ | .nonhomeRegistration _ wd _ | .nonhomePackageGrant _ wd _
  | .nonhomeRevoke _ wd | .nonhomeWriteBack _ wd _ => some wd
  | _ => none

/-- The words that bytes at an address touch. -/
def wordsOf (pa n : Nat) : List Nat := (List.range ((pa % 4 + n + 3) / 4)).map (fun i => pa / 4 + i)

end Sys2Proof

namespace Sys2Proof.Machine

/-- A word as a reader finds it: its value, whether it is poisoned (R76), whether it is owner-lost (R107), whether it lay in near memory that
has become inaccessible (R110). -/
structure WordRead where
  val  : Word
  bad  : Bool
  lost : Bool
  viol : Bool := false
  deriving DecidableEq, Repr

/-- What the lane sees: 0xFFFF_FFFF for a poisoned, lost or inaccessible word (R27, R76, R107). -/
def WordRead.seen (w : WordRead) : Word := if w.bad || w.lost || w.viol then 0xFFFFFFFF else w.val

/-- The late causes that reading the word raises (R76, R107, R108, R110). -/
def WordRead.cause (w : WordRead) : Word :=
  (if w.viol then Cause.accv else 0) ||| (if w.lost then Cause.olost else 0) ||| (if w.bad && !w.lost then Cause.umem else 0)

/-! ### Poison (R75, R108) -/

def State.setPoison (s : State) (wd : Nat) (bad : Bool) : State :=
  { s with poison := if bad then insertNat wd s.poison else s.poison.filter (· ≠ wd),
           poisonLost := s.poisonLost.filter (· ≠ wd) }

/-! ### L1 words -/

def Core.l1Word (c : Core) (wd : Nat) : L1Word := c.l1.get wd L1Word.reset

def Core.setL1 (c : Core) (wd : Nat) (x : L1Word) : Core := { c with l1 := c.l1.set wd x L1Word.reset }

/-- A word goes to I; the data array keeps its last value (R105). -/
def L1Word.gone (x : L1Word) : L1Word := { L1Word.reset with val := x.val, bad := x.bad }

def Core.dropL1 (c : Core) (wd : Nat) : Core := c.setL1 wd (c.l1Word wd).gone

/-- The stamp of a line (R82). -/
def Core.lineStamp (c : Core) (line : Nat) : BitVec 4 := c.stamps.get line 0

/-- The state a word reads as: V only while the line's stamp is current (R82). -/
def Core.l1State (c : Core) (wd : Nat) : L1St :=
  let x := c.l1Word wd
  if x.st = .v ∧ c.lineStamp (lineOf wd) ≠ c.stamp then .i else x.st

/-- The core owns the word or has asked to (R82). -/
def L1St.owned : L1St → Bool
  | .gp | .gd | .g => true
  | _ => false

/-- The registration of the word is pending (R99). -/
def L1St.pending : L1St → Bool
  | .gp | .gd => true
  | _ => false

/-- V words of a line become I (R82). -/
def Core.dropV (c : Core) (line : Nat) : Core :=
  (lineWords line).foldl (fun x wd => if (x.l1Word wd).st = .v then x.dropL1 wd else x) c

/-- A line about to take a word: V words under an old stamp go, and the stamp becomes current (R82); the line moves to most recently used, and
takes the retention asked for, unless it is in the L1 and no other than normal is asked (R60, R70; log 6). -/
def Core.openLine (c : Core) (line ret : Nat) : Core :=
  let c := if c.lineStamp line = c.stamp then c else (c.dropV line)
  { c with stamps := c.stamps.set line c.stamp 0, lru := c.lru.filter (· ≠ line) ++ [line],
           rets := if c.lru.contains line && ret == 1 then c.rets else c.rets.set line ret 1 }

/-- A hit moves a line to most recently used (R60); a last use moves it to lowest retention (R70). -/
def Core.touch (c : Core) (line : Nat) (h : Hint) : Core :=
  if c.lru.contains line then
    { c with lru := c.lru.filter (· ≠ line) ++ [line], rets := if h = .last then c.rets.set line 0 1 else c.rets }
  else c

/-- Registrations pending at a core (R99). -/
def Core.pending (c : Core) : Nat := (c.l1.filter (fun e => e.2.st.pending)).length

/-- A line with registered words, or words that ask for it. -/
def Core.ownsIn (c : Core) (line : Nat) : Bool := (lineWords line).any (fun wd => (c.l1Word wd).st.owned)

/-- The first line of a list that has a retention, lowest first. -/
def byRetention (ret : Nat → Nat) (l : List Nat) : Option Nat :=
  (l.find? (fun x => ret x == 0)).or ((l.find? (fun x => ret x == 1)).or l.head?)

/-- The line that the set of a line must lose (R60, R70, R97): the set holds more than 8; among the others than the newest, those without owned
words, lowest retention first and least recently used first, or else the least recently used. -/
def Core.victim (c : Core) (line : Nat) : Option Nat :=
  let set := c.lru.filter (fun x => x % 256 == line % 256)
  if set.length ≤ 8 then none
  else
    let others := set.dropLast
    (byRetention (fun x => c.rets.get x 1) (others.filter (fun x => !c.ownsIn x))).or others.head?

/-- Ask for the replacement that a line's set needs, unless one is under way. -/
def State.evictFor (s : State) (c : CoreId) (line : Nat) : State :=
  match (s.core c).victim line with
  | some v =>
    if s.under.any (fun m => match m with | .l1Eviction k l => k == c && l % 256 == line % 256 | _ => false) then s else s.send (.l1Eviction c v)
  | none => s

/-- Fill a V word of an L1 with a value of a cycle, its line at a retention; a line that must go is evicted next (R60, R70, R82, R97). -/
def State.fillL1 (s : State) (c : CoreId) (wd : Nat) (w : WordRead) (ret time : Nat) : State :=
  let x := (s.core c).openLine (lineOf wd) ret
  let x := if (x.l1Word wd).st.owned then x else x.setL1 wd { st := .v, val := w.val, known := 15, bad := w.bad, fill := time }
  (s.setCore c x).evictFor c (lineOf wd)

/-- A copy in V that a core's L1 holds takes a value that the core has read (R126). -/
def State.renewL1 (s : State) (c : CoreId) (wd : Nat) (w : WordRead) : State :=
  let k := s.core c
  if (k.l1Word wd).st = .v then s.setCore c (k.setL1 wd { k.l1Word wd with val := w.val, bad := w.bad, fill := s.cycle }) else s

/-! ### L2 words -/

def Die.l2Word (d : Die) (wd : Nat) : L2Word := d.l2.get wd L2Word.reset

def Die.setL2 (d : Die) (wd : Nat) (x : L2Word) : Die := { d with l2 := d.l2.set wd x L2Word.reset }

/-- The state a non-home word reads as: V only under the current stamp (R87). -/
def Die.l2State (d : Die) (wd : Nat) : L2St :=
  let x := d.l2Word wd
  if x.st = .v ∧ d.l2stamps.get (lineOf wd) 0 ≠ d.l2stamp then .i else x.st

/-- A local core owns the word or has asked to (R95). -/
def L2St.owned : L2St → Bool
  | .x | .xp => true
  | _ => false

/-- A non-home line about to take a word (R87). -/
def Die.openLine (d : Die) (line : Nat) : Die :=
  let d := if d.l2stamps.get line 0 = d.l2stamp then d
    else (lineWords line).foldl (fun x wd => if (x.l2Word wd).st = .v then x.setL2 wd L2Word.reset else x) d
  { d with l2stamps := d.l2stamps.set line d.l2stamp 0 }

def Die.homeState (d : Die) (wd : Nat) : Option HomeSt := d.home.find wd

/-- The data field of a home word in O or W (R90): H bit 10, T bit 9, DIE bits 8:6, CORE bits 5:0. -/
def Owner.record : Owner → Word
  | .host => 0x400
  | .die d => BitVec.ofNat 32 (0x200 + d % 8 * 64)
  | .core c => BitVec.ofNat 32 (c.die % 8 * 64 + c.core % 64)

/-- The owner a record names (R90). -/
def Owner.ofRecord (w : Word) : Owner :=
  if w.getLsbD 10 then .host else if w.getLsbD 9 then .die (w.bits 8 6) else .core ⟨w.bits 8 6, w.bits 5 0⟩

/-! ### Slices, encodings and units (R61 to R65) -/

/-- The line number v that R61 takes a slice and a set from. -/
def sliceLine (line : Nat) : Nat :=
  match region (128 * line) with
  | .near _ => bitsOf (128 * line) 32 7
  | _ => (bitsOf (128 * line) 51 19) * 512 + bitsOf (128 * line) 15 7

/-- The slice and set of a line (R61). -/
def sliceOf (line : Nat) : Nat := sliceLine line % 48
def lineSet (line : Nat) : Nat := sliceLine line / 48 % 2048

/-- A delta of R63's encodings. -/
def deltaOk (base w : Word) : Bool := let d := (w - base).toInt; decide (-128 ≤ d) && decide (d ≤ 127)

/-- The encoding code of a sector and its 16-byte units (R63). -/
def sectorCode (ws : List Word) : Nat × Nat :=
  let w0 := ws.getD 0 0
  let w1 := ws.getD 1 0
  let evens := (List.range 8).map (fun i => ws.getD (2 * i) 0)
  let odds := (List.range 8).map (fun i => ws.getD (2 * i + 1) 0)
  if ws.all (· == 0) then (1, 0)
  else if ws.all (· == w0) then (2, 1)
  else if ws.all (deltaOk w0) then (3, 2)
  else if evens.all (deltaOk w0) && odds.all (deltaOk w1) then (4, 2)
  else (0, 4)

def State.homeOf (s : State) (wd : Nat) : Option HomeSt := (s.die (s.homeDie (4 * wd))).homeState wd

/-- Die d is the home of a line. -/
def State.homes (s : State) (d line : Nat) : Bool := s.homeDie (128 * line) == d

/-- A word of a line in the slice of die d is registered there: O or W at its home, X or Xp elsewhere (R64, R98). -/
def State.registeredAt (s : State) (d wd : Nat) : Bool :=
  (match (s.die d).homeState wd with | some (.owned _) | some (.waiting _) => true | _ => false) || ((s.die d).l2Word wd).st.owned

/-- Every sector of the line is stored raw (R64): its page says so, or a word of it is registered at this slice. -/
def State.lineRaw (s : State) (d line : Nat) : Bool :=
  s.rawFrames.contains (line / 512) || (lineWords line).any (s.registeredAt d)

/-- The data field of a word at its home slice (R89). -/
def State.homeField (s : State) (wd : Nat) : Word :=
  match s.homeOf wd with
  | none => s.memWord wd
  | some (.owned o) | some (.waiting o) => o.record
  | some .lost => 0xFFFFFFFF

/-- A word as the slice's data array holds it (R89): value and poison. -/
def State.sliceWord (s : State) (d wd : Nat) : Word × Bool :=
  if s.homes d (lineOf wd) then (s.homeField wd, s.poison.contains wd || s.poisonLost.contains wd)
  else (((s.die d).l2Word wd).val, ((s.die d).l2Word wd).bad)

/-- Units that a resident line takes (R63, R64). -/
def State.lineUnits (s : State) (d line : Nat) : Nat :=
  if s.lineRaw d line then 8
  else
    let ws := (lineWords line).map (s.sliceWord d)
    let units := fun (l : List (Word × Bool)) => if l.any (·.2) then 4 else (sectorCode (l.map (·.1))).2
    units (ws.take 16) + units (ws.drop 16)

/-- L2OCC of a die (R65): every resident line counts two sectors (log 65). -/
def State.l2occ (s : State) (d : Nat) : DWord :=
  let ls := (s.die d).resident.map Prod.fst
  BitVec.ofNat 64 ((ls.map (s.lineUnits d)).sum * 2 ^ 23 + 2 * ls.length)

/-! ### Lost words and the home-held bit (R108, R109) -/

/-- Words in L leave the slice with the owner-lost mark (R108), and the marks of a line that comes back are words in L. -/
def State.spillLost (s : State) (d line : Nat) : State :=
  let lost := (lineWords line).filter (fun wd => (s.die d).homeState wd == some .lost)
  let dd := s.die d
  { s.setDie d { dd with home := dd.home.keep (fun k _ => !lost.contains k) } with
      poisonLost := lost.foldl (fun l wd => insertNat wd l) s.poisonLost }

def State.restoreLost (s : State) (d line : Nat) : State :=
  let lost := (lineWords line).filter s.poisonLost.contains
  let dd := s.die d
  { s.setDie d { dd with home := lost.foldl (fun h wd => h.put wd .lost) dd.home } with
      poisonLost := s.poisonLost.filter (fun wd => !lost.contains wd) }

/-- The home-held bit of a far line (R109): a word of it is in O, W or L, or its slice holds data newer than memory. -/
def State.markHeld (s : State) (wd : Nat) : State :=
  match region (4 * wd) with
  | .far _ => { s with homeHeld := insertNat (lineOf wd) s.homeHeld }
  | _ => s

/-- A line has left its home slice, and memory is current (R109). -/
def State.clearHeld (s : State) (line : Nat) : State := { s with homeHeld := s.homeHeld.filter (· ≠ line) }

def State.setHome (s : State) (wd : Nat) (x : Option HomeSt) : State :=
  let d := s.homeDie (4 * wd)
  let dd := s.die d
  match x with
  | some h => (s.setDie d { dd with home := dd.home.put wd h }).markHeld wd
  | none => s.setDie d { dd with home := dd.home.erase wd }

/-! ### The queue of a word at home, and what waits on it (R91, R112) -/

def State.homeQ (s : State) (wd : Nat) : List HomeMsg := (s.die (s.homeDie (4 * wd))).homeQ.get wd []

def State.setHomeQ (s : State) (wd : Nat) (l : List HomeMsg) : State :=
  let d := s.homeDie (4 * wd)
  s.setDie d { s.die d with homeQ := (s.die d).homeQ.set wd l [] }

/-- The word waits on an owner (R89). -/
def State.waitingHome (s : State) (wd : Nat) : Bool := match s.homeOf wd with | some (.waiting _) => true | _ => false

/-- The host may hold the line of a word (R112). -/
def State.hostMay (s : State) (wd : Nat) : Bool := (s.die (s.homeDie (4 * wd))).mayHold.contains (lineOf wd)

/-- A back-invalidate snoop of a line goes to the host, unless one is out (R112). -/
def State.snoopHost (s : State) (line : Nat) : State :=
  let d := s.homeDie (128 * line)
  if (s.die d).snooped.contains line then s
  else { s.setDie d { s.die d with snooped := insertNat line (s.die d).snooped } with outbox := s.outbox ++ [.backInvalidate line] }

def Owner.isOf (x : Nat) : Owner → Bool
  | .core c => c.die == x
  | .die d => d == x
  | .host => false

def HomeSt.isOf (x : Nat) : HomeSt → Bool
  | .owned o | .waiting o => o.isOf x
  | .lost => false

/-- The natural home of an address, whatever the dies in service (R18). -/
def naturalHome (pa : Nat) : Nat := match region pa with | .near d => d | _ => bitsOf pa 18 16

def isNear (pa : Nat) : Bool := match region pa with | .near _ => true | _ => false

/-- A word is homed on die x while x is in service: by its address, or because x stands by for another die (R109). -/
def State.homedOn (s : State) (x wd : Nat) : Bool :=
  match region (4 * wd) with
  | .near d => d == x
  | _ => (((List.range 8).map (fun i => (naturalHome (4 * wd) + i) % 8)).find? (fun y => s.inService y || y == x)) == some x

/-- The loss notice of a die that the word is homed on, or registered to, is on its way (R106, R109). -/
def State.losing (s : State) (wd : Nat) : Bool :=
  s.under.any (fun m => match m with
    | .lossNotice x => s.homedOn x wd || ((s.homeOf wd).map (HomeSt.isOf x)).getD false
    | _ => false)

/-- Nothing is under way at a word: no message may change its owner or its value, and no request waits for it at home. A transfer made
as one step is then the whole transaction of R83, R91 and R96. -/
def State.quiet (s : State) (wd : Nat) : Bool :=
  s.under.all (fun m => m.settles != some wd) && !s.waitingHome wd && (s.homeQ wd).isEmpty && !s.losing wd

/-- n bytes at an address can be read, or read and written, at home in one step (R100, R112). -/
def State.readable (s : State) (pa n : Nat) : Bool := (wordsOf pa n).all s.quiet
def State.writable (s : State) (pa n : Nat) : Bool := (wordsOf pa n).all (fun wd => s.quiet wd && !s.hostMay wd)

/-- Data can go between a stop and every word of n bytes (R4, R5). -/
def State.wayTo (s : State) (stop pa n : Nat) : Bool := (wordsOf pa n).all (s.homeNear stop)

/-- Bytes can be read at their home from a stop: nothing is under way there, and data can go between the two. -/
def State.canGet (s : State) (stop pa n : Nat) : Bool := s.readable pa n && s.wayTo stop pa n

/-- Bytes can be written at their home from a stop. -/
def State.canPut (s : State) (stop pa n : Nat) : Bool := s.writable pa n && s.wayTo stop pa n

/-- A write that waits for the host asks it to give its lines up (R112). -/
def State.clearWay (s : State) (pa n : Nat) : State :=
  (((wordsOf pa n).filter s.hostMay).map lineOf).eraseDups.foldl (fun s l => s.snoopHost l) s

/-! ### Room in a slice (R62, R98) -/

/-- A host line leaves its home slice: the host takes it back, written where it was owned (R111, R424). -/
def State.hostLeave (s : State) (d line : Nat) : State :=
  match (s.die d).hostHeld.get line .invalid with
  | .invalid => s
  | x => { s.setDie d { s.die d with hostHeld := s.die d |>.hostHeld.erase line } with
             outbox := s.outbox ++ [.cxl (if x = .owned then .dirtyEvict else .cleanEvict) line] }

/-- A line leaves the slice of die d: its words in L are marked, its copies go, memory is current, and a host line goes back to the host; the slice's
round-robin goes on at the next set (log 6). -/
def State.dropLine (s : State) (d line : Nat) : State :=
  let s := if s.homes d line then ((s.spillLost d line).clearHeld line).hostLeave d line else s
  let dd := s.die d
  s.setDie d { dd with resident := dd.resident.filter (fun x => x.1 ≠ line), l2 := dd.l2.keep (fun k _ => lineOf k != line),
                       roundAt := dd.roundAt.set (sliceOf line) ((lineSet line + 1) % 2048) 0 }

/-- Sets from the round-robin position of the slice to a line's set. -/
def Die.setsAhead (d : Die) (line : Nat) : Nat := (lineSet line + 2048 - d.roundAt.get (sliceOf line) 0) % 2048

/-- The line of a list whose set the round-robin reaches first (R62, R98). -/
def Die.roundFirst (d : Die) (l : List Nat) : Option Nat :=
  l.foldl (fun a x => match a with
    | some y => if d.setsAhead x < d.setsAhead y then some x else a
    | none => some x) none

/-- What must go before a line can have its place, with the units that it takes after a change: none with room; a line to replace (true), or to
recall first (false). The target set goes first, and data units that are then still short come from other sets in round-robin order (R62, R98). -/
def State.mustGo (s : State) (d line : Nat) (after : State → State) : Option (Nat × Bool) :=
  let dd := s.die d
  let inSlice := dd.resident.filter (fun e => sliceOf e.1 == sliceOf line && e.1 != line)
  let inSet := inSlice.filter (fun e => lineSet e.1 == lineSet line)
  let excess := decide (16 ≤ inSet.length)
  let short := decide (16384 ≤ inSlice.length) &&
    decide (131072 < (inSlice.map (fun e => s.lineUnits d e.1)).sum + (after s).lineUnits d line)
  if !excess && !short then none
  else
    let free := fun (l : List (Nat × Nat)) => (l.filter (fun e => !((lineWords e.1).any (s.registeredAt d)))).map Prod.fst
    let ret := fun (x : Nat) => ((dd.resident.find? (fun e => e.1 == x)).map Prod.snd).getD 1
    match byRetention ret (free inSet) with
    | some l => some (l, true)
    | none =>
      if excess then (dd.roundFirst (inSet.map Prod.fst)).map (fun l => (l, false))
      else
        match dd.roundFirst (free inSlice) with
        | some l => (byRetention ret ((free inSlice).filter (fun x => lineSet x == lineSet l))).map (fun x => (x, true))
        | none => (dd.roundFirst (inSlice.map Prod.fst)).map (fun l => (l, false))

/-- A revoke goes to the owner of a word, which waits with the request at the head of its queue (R91); the host is asked by a snoop
(R112). -/
def State.startRevoke (s : State) (wd : Nat) (o : Owner) (m : HomeMsg) : State :=
  let d := s.homeDie (4 * wd)
  let s := (s.setHome wd (some (.waiting o))).setHomeQ wd (m :: s.homeQ wd)
  match o with
  | .core c => s.send (.l1Revoke c wd .home)
  | .die x => s.toDie d x (.nonhomeRevoke x wd)
  | .host => s.snoopHost (lineOf wd)

/-- The registered words of a line are called in (R96, R98): a home slice recalls them, another slice revokes its local owners, and the line
can be replaced once none is registered. -/
def State.callIn (s : State) (d line : Nat) : State :=
  if s.homes d line then
    (lineWords line).foldl (fun s wd => match s.homeOf wd with
      | some (.owned o) => s.startRevoke wd o .recall
      | _ => s) s
  else
    (lineWords line).foldl (fun s wd =>
      if ((s.die d).l2Word wd).st.owned ∧ ¬ s.under.any (fun m => m.settles == some wd) then s.send (.nonhomeRevoke d wd) else s) s

/-- Make room for a line in a slice of die d (R62, R98); false while owned words of another line are called in. -/
def State.makeRoom (s : State) (d line : Nat) (after : State → State) : Nat → Bool × State
  | 0 => (false, s)
  | fuel + 1 =>
    match s.mustGo d line after with
    | none => (true, s)
    | some (l, true) => (s.dropLine d l).makeRoom d line after fuel
    | some (l, false) => (false, s.callIn d l)

/-- A line comes to its home slice from the I/O die that it lies behind, by a host link first where it is the host's: a sector that arrives
damaged is poisoned (R74). -/
def State.fetched (s : State) (d line : Nat) : State :=
  match s.ioOf (128 * line) with
  | none => s
  | some io =>
    let outer := !(region (128 * line) == .far io)
    [(lineWords line).take 16, (lineWords line).drop 16].foldl (fun (s : State) (ws : List Nat) =>
      let (a, s) := if outer then s.flawed true io ws else ([], s)
      let (b, s) := s.flawed false (stopOf d) ws
      (a ++ b).foldl (fun s wd => if s.homeOf wd = none then s.setPoison wd true else s) s) s

/-- A line has its place in the slice of die d at a retention: one that is there keeps its place and takes a retention other than normal; one
that joins brings its words in L with it (R61, R70, R108). -/
def State.joinSlice (s : State) (d line ret : Nat) : State :=
  let dd := s.die d
  if dd.resident.any (fun e => e.1 == line) then
    (if ret = 1 then s else s.setDie d { dd with resident := dd.resident.map (fun e => if e.1 = line then (line, ret) else e) })
  else
    let s := s.setDie d { dd with resident := dd.resident ++ [(line, ret)] }
    if s.homes d line then (s.restoreLost d line).fetched d line else s

/-- Bring a line into the slice of die d at a retention, or keep it there, with room for the units that it takes after a change (R61, R62, R70):
false while there is no room. -/
def State.reside (s : State) (d line ret : Nat) (after : State → State := id) : Bool × State :=
  match s.makeRoom d line after ((s.die d).resident.length + 1) with
  | (false, s) => (false, s)
  | (true, s) => (true, s.joinSlice d line ret)

/-- An access uses a line of a core's L1: it moves to most recently used, and a last use takes it to lowest retention there and in the slices
that hold it (R60, R70). -/
def State.useLine (s : State) (c : CoreId) (line : Nat) (h : Hint) : State :=
  let s := s.setCore c ((s.core c).touch line h)
  if h ≠ .last then s
  else [c.die, s.homeDie (128 * line)].eraseDups.foldl (fun s d =>
    if (s.die d).resident.any (fun e => e.1 == line) then (s.reside d line 0).2 else s) s

/-! ### The current value of a word -/

/-- An L1's word over what lies at home: the bytes the core has written, and the others from home (R84). -/
def L1Word.over (x : L1Word) (h : Word) : Word :=
  let b := fun i => if x.known.getLsbD i then Word.byte x.val i else Word.byte h i
  wordOf (b 0) (b 1) (b 2) (b 3)

/-- The core that owns a word at home, if one does (R90, R95). -/
def State.ownerCore (s : State) (wd : Nat) : Option CoreId :=
  match s.homeOf wd with
  | some (.owned (.core c)) | some (.waiting (.core c)) => some c
  | some (.owned (.die d)) | some (.waiting (.die d)) => some ⟨d, ((s.die d).l2Word wd).own⟩
  | _ => none

/-- The stop that a read of a word brings its value from: the owner's, or the home's. -/
def State.sourceStop (s : State) (wd : Nat) : Nat := stopOf (match s.ownerCore wd with | some c => c.die | none => s.homeDie (4 * wd))

/-- Words written from a stop have arrived at their homes; those that a transfer has damaged are poisoned (R74). -/
def State.arrived (s : State) (stop : Nat) (ws : List Nat) : State :=
  (ws.filter (fun wd => stopOf (s.homeDie (4 * wd)) != stop)).foldl (fun s wd =>
    let (hit, s) := s.flawed false (stopOf (s.homeDie (4 * wd))) [wd]
    if hit = [] then s else s.setPoison wd true) s

/-- The value a home-performed read of a quiet word finds: the owner's, by a forward, or the word at home (R89, R91, R100). -/
def State.curWord (s : State) (wd : Nat) : WordRead :=
  let m := s.memWord wd
  match s.homeOf wd with
  | some .lost => { val := 0xFFFFFFFF, bad := false, lost := true }
  | _ =>
    match s.ownerCore wd with
    | some c => let x := (s.core c).l1Word wd; { val := x.over m, bad := x.bad, lost := false }
    | none => { val := m, bad := s.poison.contains wd || s.poisonLost.contains wd, lost := s.poisonLost.contains wd }

/-- Take a quiet word home: the owner's copy goes and home holds the value in D (R91: a revoke and its answer). -/
def State.recall (s : State) (wd : Nat) : State :=
  match s.ownerCore wd with
  | none => s
  | some c =>
    let w := s.curWord wd
    let s := s.setCore c ((s.core c).dropL1 wd)
    let s := match s.homeOf wd with
      | some (.owned (.die d)) | some (.waiting (.die d)) => s.setDie d ((s.die d).setL2 wd L2Word.reset)
      | _ => s
    ((s.setHome wd none).setMemWord wd w.val).setPoison wd w.bad

/-- Make room for a line as part of an access made in one step: owned words of another line at which nothing is under way are recalled in the same
step (R62, R98). -/
def State.roomNow (s : State) (d line : Nat) (after : State → State) : Nat → State
  | 0 => s
  | fuel + 1 =>
    match s.mustGo d line after with
    | none => s
    | some (l, true) => (s.dropLine d l).roomNow d line after fuel
    | some (l, false) => if (lineWords l).all s.quiet then ((lineWords l).foldl (fun s wd => s.recall wd) s).roomNow d line after fuel else s

/-- The line of an access made in one step has its place in the slice of die d (R61, R62; log 50). -/
def State.resideNow (s : State) (d line ret : Nat) (after : State → State := id) : State :=
  (s.roomNow d line after (2 * (s.die d).resident.length + 1)).joinSlice d line ret

/-- The words of an access of several words of a line are taken home before it is performed (R100). -/
def State.callHome (s : State) (ws : List Nat) : State := if ws.length ≤ 1 then s else ws.foldl (fun s wd => s.recall wd) s

/-- The host's state of a host line at its home slice rises to at least x, by a request to the host (R111, R424); `whole` says that the line is
about to be written whole. Which request goes is DEDUCED (log 63). -/
def State.hostLine (s : State) (wd : Nat) (x : HostSt) (whole : Bool := false) : State :=
  match region (4 * wd) with
  | .host _ =>
    if s.claim (4 * wd) = some true then
      let d := s.homeDie (4 * wd)
      let old := (s.die d).hostHeld.get (lineOf wd) .invalid
      if old = .owned ∨ old = x then s
      else
        let req : CxlReq := if x = .shared then .rdShared else if old = .shared then .rdOwnNoData else if whole then .itoMWr else .rdOwn
        { s.setDie d { s.die d with hostHeld := (s.die d).hostHeld.set (lineOf wd) x .invalid } with outbox := s.outbox ++ [.cxl req (lineOf wd)] }
    else s
  | _ => s

/-- A write to a word takes its place in the coherence order: the `waitany`s of some cores that have armed its line wake (R144). -/
def State.noteWriteOn (s : State) (p : CoreId → Bool) (wd : Nat) : State :=
  s.rods.foldl (fun s (e : Nat × Rod) =>
    if ¬ p (s.coreOf (rodOfKey e.1)) then s
    else [SlotId.a, SlotId.b].foldl (fun s sl =>
      match (e.2.slot sl).bind (·.wait) with
      | some (.waitany arm _) => if arm.any (fun a => lineOf a.word == lineOf wd) then s.send (.waitanyWake (rodOfKey e.1) sl wd) else s
      | _ => s) s) s

/-- A write that stands in the coherence order at once: every `waitany` on the line wakes (R144). -/
def State.noteWrite (s : State) (wd : Nat) : State := s.noteWriteOn (fun _ => true) wd

/-- A home-performed write of bytes of a quiet word (R75, R91, R100): mask bit i writes byte i. A write of all four bytes ends poison
and L; a partial write of a poisoned word has no effect, and of a word in L merges into 0xFFFF_FFFF (R76, R107). -/
def State.putWord (s : State) (wd : Nat) (v : Word) (mask : BitVec 4) : State :=
  let s := (((s.hostLine wd .owned).recall wd).noteWrite wd).markHeld wd
  let w := s.curWord wd
  if mask = 15 then
    ((match s.homeOf wd with | some .lost => s.setHome wd none | _ => s).setMemWord wd v).setPoison wd false
  else if w.lost then ((s.setHome wd none).setMemWord wd ((L1Word.mk .g v mask false false 0 1).over 0xFFFFFFFF)).setPoison wd false
  else if w.bad then s
  else s.setMemWord wd ((L1Word.mk .g v mask false false 0 1).over w.val)

/-- A home-performed access takes a word in L to D, on 0xFFFF_FFFF (R91). -/
def State.findLost (s : State) (wd : Nat) : State :=
  if (s.curWord wd).lost then
    ((if s.homeOf wd = some .lost then s.setHome wd none else s).setMemWord wd 0xFFFFFFFF).setPoison wd false
  else s

/-- The home side of a read made in one step: the line takes a place in its slice at a retention, and the host's line is shared (R61, R111). -/
def State.homeSide (s : State) (wd : Nat) (ret : Option Nat) : State :=
  let s := match ret with
    | some r => s.resideNow (s.homeDie (4 * wd)) (lineOf wd) r
    | none => s
  s.hostLine wd .shared

/-- Words read at their home as one step from a stop (R69, R91, R100): their lines take a place in its slice at a retention; a word that a
transfer has damaged arrives poisoned (R74). -/
def State.homeReads (s : State) (ws : List Nat) (ret : Option Nat) (stop : Nat) : List WordRead × State :=
  let (hit, s) := s.flawed false stop (ws.filter (fun wd => stopOf (s.homeDie (4 * wd)) != stop))
  ws.foldl (fun (acc : List WordRead × State) wd =>
    let s := acc.2.homeSide wd ret
    let w := s.curWord wd
    (acc.1 ++ [{ w with bad := w.bad || hit.contains wd }], s.findLost wd)) ([], s.callHome ws)

/-- The late causes of words read. -/
def readCause (ws : List WordRead) : Word := ws.foldl (fun k w => k ||| w.cause) 0

/-- The n bytes at an address among the words read there, each with whether its word is poisoned or lost. -/
def readBytes (pa n : Nat) (ws : List WordRead) : List (Byte × Bool) :=
  (List.range n).map (fun i =>
    let w := ws.getD ((pa + i) / 4 - pa / 4) { val := 0, bad := false, lost := false }
    (Word.byte w.seen ((pa + i) % 4), w.bad || w.lost))

/-- A little-endian number of n bytes read at its home from a stop, with its late causes. -/
def State.homeNat (s : State) (stop pa n : Nat) (ret : Option Nat := some 1) : Nat × Word × State :=
  let (ws, s) := s.homeReads (wordsOf pa n) ret stop
  (ofBytes ((readBytes pa n ws).map Prod.fst), readCause ws, s)

/-! ### Bytes at a physical address, as one step -/

/-- A byte as home-performed reads find it. -/
def State.curByte (s : State) (pa : Nat) : Byte := Word.byte (s.curWord (pa / 4)).seen (pa % 4)

/-- n bytes from pa, as home-performed reads find them. -/
def State.curBytes (s : State) (pa n : Nat) : List Byte := (List.range n).map (fun i => s.curByte (pa + i))

/-- The little-endian number of n bytes at pa. -/
def State.curNat (s : State) (pa n : Nat) : Nat := ofBytes (s.curBytes pa n)

/-- The bytes of a word that n bytes at pa cover. -/
def byteMask (pa n wd : Nat) : BitVec 4 :=
  let inside := fun i => decide (pa ≤ 4 * wd + i) && decide (4 * wd + i < pa + n)
  BitVec.ofBool (inside 3) ++ BitVec.ofBool (inside 2) ++ BitVec.ofBool (inside 1) ++ BitVec.ofBool (inside 0)

/-- The bytes of a word that a list of bytes at pa gives, the others 0. -/
def bytesIn (pa : Nat) (bs : List Byte) (wd : Nat) : Word :=
  let b := fun i => if pa ≤ 4 * wd + i ∧ 4 * wd + i < pa + bs.length then bs.getD (4 * wd + i - pa) 0 else 0
  wordOf (b 0) (b 1) (b 2) (b 3)

/-- A home-performed write of bytes at pa. -/
def State.putBytes (s : State) (pa : Nat) (bs : List Byte) : State :=
  (wordsOf pa bs.length).foldl (fun s wd => s.putWord wd (bytesIn pa bs wd) (byteMask pa bs.length wd)) s

/-- A home-performed write of an n-byte number. -/
def State.putNat (s : State) (pa n v : Nat) : State := s.putBytes pa (bytesOf n v)

/-- A home-performed write of bytes at pa from a stop, whose lines take their place in the home slices at a retention (R61, R71). -/
def State.writeHome (s : State) (stop pa : Nat) (bs : List Byte) (ret : Option Nat := some 1) : State :=
  let s := match ret with
    | some r => ((wordsOf pa bs.length).map lineOf).eraseDups.foldl (fun (s : State) l => s.resideNow (s.homeDie (128 * l)) l r (fun (s : State) => s.putBytes pa bs)) s
    | none => s
  let whole := ((wordsOf pa bs.length).map lineOf).eraseDups.filter (fun l => decide (pa ≤ 128 * l) && decide (128 * l + 128 ≤ pa + bs.length))
  let s := whole.foldl (fun (s : State) l => s.hostLine (32 * l) .owned true) s
  (s.putBytes pa bs).arrived stop (wordsOf pa bs.length)

/-! ### Reads and writes of an engine through its core's L1 (R101, R118) -/

/-- A word of an L1, when its bytes in a mask hit (R83). -/
def Core.hit (k : Core) (wd : Nat) (mask : BitVec 4) : Option WordRead :=
  let x := k.l1Word wd
  match k.l1State wd with
  | .v | .g => some { val := x.val, bad := x.bad, lost := false }
  | .gp | .gd => if mask &&& ~~~x.known = 0 then some { val := x.val, bad := x.bad, lost := false } else none
  | .i => none

/-- Words of one single-copy atomic access, when all hit with values of one moment (R118): owned words, or copies of one fill. -/
def Core.hits (k : Core) (ws : List Nat) : Option (List WordRead) :=
  let hs := ws.filterMap (fun wd => k.hit wd 15)
  let own := ws.all (fun wd => (k.l1State wd).owned)
  let same := ws.all (fun wd => k.l1State wd == .v && (k.l1Word wd).fill == (k.l1Word (ws.headD 0)).fill)
  if hs.length = ws.length ∧ (ws.length ≤ 1 ∨ own ∨ same) then some hs else none

/-- A word that is current in the core's L1 at this moment: all its bytes owned, or a copy taken in this step (R83, R118). -/
def State.fresh1 (s : State) (c : CoreId) (wd : Nat) : Bool :=
  let k := s.core c
  ((k.l1State wd).owned && (k.hit wd 15).isSome) || (k.l1State wd == .v && (k.l1Word wd).fill == s.cycle)

/-- The words can be read through the core's L1 in one step: they hit with values of one moment, or each is current there, or nothing is under
way at it and the ring leads to its home. -/
def State.coreCan (s : State) (c : CoreId) (ws : List Nat) : Bool :=
  ((s.core c).hits ws).isSome || ws.all (fun wd => s.fresh1 c wd || (s.quiet wd && s.homeNear (stopOf c.die) wd))

/-- A slice away from home holds a copy of a word, current in a cycle (R95, R96). -/
def State.fillL2 (s : State) (d wd : Nat) (w : WordRead) (ret time : Nat) : State :=
  let y : L2Word := { st := .v, val := w.val, own := 0, bad := w.bad, fill := time }
  let put := fun (s : State) => s.setDie d (((s.die d).openLine (lineOf wd)).setL2 wd y)
  match s.reside d (lineOf wd) ret put with
  | (true, s) => put s
  | (false, s) => s

/-- One word of a miss: the core's own, the die's slice's copy for a lone word, or the current value; the slices and the L1 take a copy in V as
the hint asks, and a copy that stays takes the value (R70, R83, R96, R126). -/
def State.coreMiss (s : State) (c : CoreId) (wd : Nat) (alone : Bool) (h : Hint) : WordRead × State :=
  let x := (s.core c).l1Word wd
  if x.st.owned then ({ val := x.over (s.curWord wd).val, bad := x.bad, lost := false }, s)
  else
    let remote := s.homeDie (4 * wd) ≠ c.die
    let d := s.die c.die
    let old := decide remote && alone && d.l2State wd == .v
    let w : WordRead := if old then { val := (d.l2Word wd).val, bad := (d.l2Word wd).bad, lost := false } else s.curWord wd
    let time := if old then (d.l2Word wd).fill else s.cycle
    let (hit, s) := if old || s.sourceStop wd == stopOf c.die then ([], s) else s.flawed false (stopOf c.die) [wd]
    let w := { w with bad := w.bad || hit != [] }
    let s := if old then s else s.homeSide wd h.home
    if w.lost then (w, s)
    else
      let s := if ¬ remote ∨ (d.l2State wd).owned ∨ (¬ h.allocL2 ∧ d.l2State wd = .i) then s else s.fillL2 c.die wd w h.l2Retention time
      (w, if h.allocL1 then s.fillL1 c wd w h.l1Retention time else s.renewL1 c wd w)

/-- Words of one single-copy atomic read through an L1 (R83, R101, R118), with what the hint asks of their lines (R70). -/
def State.coreReads (s : State) (c : CoreId) (ws : List Nat) (h : Hint) : List WordRead × State :=
  let (l, s) := match (s.core c).hits ws with
    | some l => (l, s)
    | none =>
      ws.foldl (fun (acc : List WordRead × State) wd =>
        let (w, s) := acc.2.coreMiss c wd (ws.length == 1) h
        (acc.1 ++ [w], s)) ([], s)
  (l, (ws.map lineOf).eraseDups.foldl (fun s x => s.useLine c x h) s)

/-- A word read through an L1 (R83, R101). -/
def State.coreRead (s : State) (c : CoreId) (wd : Nat) : WordRead × State :=
  let (l, s) := s.coreReads c [wd] .normal
  (l.headD { val := 0, bad := false, lost := false }, s)

/-- The word can be written through the core's L1 in one step: it is registered there, or nothing is under way at it and the host does not
hold its line (R91, R112). -/
def State.coreMay (s : State) (c : CoreId) (wd : Nat) : Bool :=
  ((s.core c).l1Word wd).st == .g || (s.quiet wd && !s.hostMay wd && s.homeNear (stopOf c.die) wd)

/-- The late causes of storing bytes of a word through an L1 (R76, R107). -/
def State.storeCause (s : State) (wd : Nat) (mask : BitVec 4) : Word := if mask = 15 then 0 else (s.curWord wd).cause

/-- The core registers a word in one step (R91, R96, R101): its line has its place at home and in the core's own slice, the host's line is owned, and
the word is the core's. -/
def State.takeOwner (s : State) (c : CoreId) (wd ret : Nat) : State :=
  let home := s.homeDie (4 * wd)
  let owner : Owner := if home = c.die then .core c else .die c.die
  let atHome := fun (s : State) => s.setHome wd (some (.owned owner))
  let s := atHome ((s.resideNow home (lineOf wd) ret atHome).hostLine wd .owned)
  if home = c.die then s
  else
    let put := fun (s : State) => s.setDie c.die (((s.die c.die).openLine (lineOf wd)).setL2 wd { st := .x, val := 0, own := c.core, bad := false })
    put (s.resideNow c.die (lineOf wd) ret put)

/-- A word written through an L1, registered to the core in the same step unless the core holds it in G, its line kept as the hint asks (R70, R83,
R91, R101). -/
def State.coreWrite (s : State) (c : CoreId) (wd : Nat) (v : Word) (mask : BitVec 4) (h : Hint := .normal) : State :=
  let x := (s.core c).l1Word wd
  let (hit, s) := if mask = 15 ∨ x.st = .g ∨ s.sourceStop wd = stopOf c.die then ([], s) else s.flawed false (stopOf c.die) [wd]
  let w := s.curWord wd
  let w := { w with bad := w.bad || hit != [] }
  let old : Word := if w.lost then 0xFFFFFFFF else w.val
  if x.st = .g then
    if mask ≠ 15 ∧ x.bad then s
    else
      let y : L1Word := { x with val := (L1Word.mk .g v mask false false 0 1).over x.val, bad := false }
      ((s.setCore c (((s.core c).openLine (lineOf wd) h.l1Retention).setL1 wd y)).noteWrite wd).useLine c (lineOf wd) h
  else if mask ≠ 15 ∧ w.bad ∧ ¬ w.lost then s
  else
    let s := (s.recall wd).takeOwner c wd h.l2Retention
    let y : L1Word := { st := .g, val := (L1Word.mk .g v mask false false 0 1).over old, known := 15, bad := false }
    let s := s.setCore c (((s.core c).openLine (lineOf wd) h.l1Retention).setL1 wd y)
    (((s.setPoison wd false).noteWrite wd).evictFor c (lineOf wd)).useLine c (lineOf wd) h

end Sys2Proof.Machine
end

