-- ==== Sys2Proof/Machine/Records.lean ====
section
/-!
DEFINITION. What the device tells the host and the debugger: MSI-X vectors (R429), event rings (R384, R386, R387), memory-error
registers (R79) and the sample buffer (R446 to R449).
-/
namespace Sys2Proof.Machine

/-! ### Events (R386) -/

/-- LOG2 of a queue's event ring, when it has one (R384, R386). -/
def Queue.evLog (q : Queue) : Option Nat := let n := q.evq.bits 4 0; if 4 ≤ n ∧ n ≤ 16 then some n else none

/-- EVIDX.WR advances past a record that has been written, and the queue's vector is sent when its ring was empty (R386, R429). -/
def State.evAdvance (s : State) (q : Nat) : State :=
  let x := s.queue q
  let s := s.setQueue q { x with evwr := x.evwr + 1 }
  if x.evwr = x.evrd then s.vector (q / 512) (512 + q % 512) else s

/-- The requests, on their way or waiting at home, that satisfy p. -/
def State.requests (s : State) (p : HomeReq → Bool) : Nat :=
  (s.under.filter (fun m => match m with | .homePerformedAccess r => p r | _ => false)).length +
  (s.dies.map (fun (e : Nat × Die) => (e.2.homeQ.map (fun (h : Nat × List HomeMsg) =>
    (h.2.filter (fun m => match m with | .perform r => p r | _ => false)).length)).sum)).sum

/-- Records of a queue's event ring that wait at home to be written. -/
def State.evPosted (s : State) (q : Nat) : Nat := s.requests (fun r => r.post == some q)

/-- Post a 16-byte record to a queue's event ring (R386): written whole before EVIDX.WR advances, dropped with EVOVF when there
is no room or no ring; the queue's vector is sent when the ring goes from empty to non-empty (R429). -/
def State.event (s : State) (q : Nat) (record : Nat) : State :=
  let x := s.queue q
  match x.evLog with
  | none => s.setQueue q { x with evovf := true }
  | some n =>
    let k := s.evPosted q
    if 2 ^ n ≤ (x.evwr - x.evrd).toNat + k then s.setQueue q { x with evovf := true }
    else
      let pa := 4096 * x.evq.bits 51 12 + 16 * ((x.evwr.toNat + k) % 2 ^ n)
      if s.reach pa ≠ .memory then s.evAdvance q
      else if k = 0 ∧ s.canPut (ioStop (q / 512)) pa 16 then (s.writeHome (ioStop (q / 512)) pa (bytesOf 16 record)).evAdvance q
      else s.send (.homePerformedAccess { op := 0, accs := [{ lane := 0, pa := pa, size := 16, act := .write record }], post := some q, stop := some (ioStop (q / 512)) })

/-- A record of kinds 0x10 to 0x18 (R386). -/
def eventRecord (asid die kind info : Nat) : Nat := asid * 2 ^ 96 + die * 2 ^ 88 + kind * 2 ^ 64 + info % 2 ^ 64

/-- A page-request record (R29). -/
def pageRecord (tag asid : Nat) (iod : Bool) (die kind vpn : Nat) : Nat :=
  tag * 2 ^ 112 + asid * 2 ^ 96 + (if iod then 2 ^ 91 else 0) + die * 2 ^ 88 + kind * 2 ^ 64 + vpn * 2 ^ 16

/-! ### Memory errors (R78, R79) -/

/-- Record an error found in the memory that holds a physical address (R78, R79). -/
def State.recordMem (s : State) (pa : Nat) : State :=
  match region pa with
  | .near d => s.recordDie d 5 0 pa
  | .far io => s.recordIo io 6 pa
  | .host io => s.recordIo io 7 pa
  | _ => s.recordIo 0 7 pa

/-! ### Top-down counters (R445) -/

/-- The key of a counter: its offset in 8-byte words (R445). -/
def leafKey (core quad leaf : Nat) : Nat := 32 * (4 * core + quad) + leaf

/-! ### The sample buffer (R446 to R449) -/

/-- LOGSZ when records can be written (R446). -/
def Die.logSize (d : Die) : Option Nat := let n := d.smpctl.bits 12 8; if 8 ≤ n ∧ n ≤ 28 then some n else none

/-- SMPWR advances past the words that have a place once all are in memory (R446). -/
def State.smpSettle (s : State) (d : Nat) : State :=
  if s.requests (fun r => r.sample == some d) = 0 then s.setDie d { s.die d with smpwr := (s.die d).smpAt } else s

/-- A word of the buffer is written: at once, or as a request that waits at home for what is under way (R91, R112). -/
def State.smpWord (s : State) (d pa : Nat) (w : Word) : State :=
  if s.reach pa ≠ .memory then s
  else if s.canPut (stopOf d) pa 4 then s.writeHome (stopOf d) pa (bytesOf 4 w.toNat)
  else s.send (.homePerformedAccess { op := 0, accs := [{ lane := 0, pa := pa, size := 4, act := .write w.toNat }], stop := some (stopOf d), sample := some d })

/-- Give words a place in the buffer and write them (R446). -/
def State.smpPut (s : State) (d : Nat) (ws : List Word) : State :=
  match (s.die d).logSize with
  | none => s
  | some n =>
    let base := 64 * (s.die d).smpbase.bits 51 6
    let wr := (s.die d).smpAt.toNat
    let s := (ws.zipIdx).foldl (fun s e => s.smpWord d (base + 4 * ((wr + e.2) % 2 ^ n)) e.1) s
    (s.setDie d { s.die d with smpAt := BitVec.ofNat 32 (wr + ws.length) }).smpSettle d

/-- A record's header word (R447). -/
def recordHead (len type aux : Nat) : Word := BitVec.ofNat 32 (0xA5 * 2 ^ 24 + len * 2 ^ 16 + type * 2 ^ 12 + aux)

/-- Emit a record, or account for its drop by gaps (R449); F counts the words given a place. The record's words follow the header. -/
def State.emit (s : State) (d : Nat) (type aux : Nat) (body : List Word) : State :=
  let x := s.die d
  match x.logSize with
  | none => s
  | some n =>
    let rec' := recordHead (body.length + 1) type aux :: body
    let l := body.length + 1
    let free := 2 ^ n - (x.smpAt - x.smprd).toNat
    if x.smpD = 0 ∧ l + 1 ≤ free then
      let s := s.smpPut d rec'
      s.setDie d { s.die d with smpG := false }
    else if 0 < x.smpD ∧ l + 2 ≤ free then
      let s := (s.smpPut d [recordHead 1 15 x.smpD]).smpPut d rec'
      s.setDie d { s.die d with smpD := 0, smpG := false }
    else if x.smpG = false then
      let s := s.smpPut d [recordHead 1 15 1]
      s.setDie d { s.die d with smpG := true }
    else s.setDie d { x with smpD := Nat.min (x.smpD + 1) 0xFFF }

end Sys2Proof.Machine
end

