-- ==== Sys2Proof/Machine/Xlat.lean ====
section
/-!
DEFINITION. Virtual addresses (R11 to R16), address spaces and page tables (R20 to R27), TLBs and walks (R33, R34), page
requests (R29), and the commit unit with its pools (R40 to R43).
-/
namespace Sys2Proof.Machine

/-! ### What a virtual address names (R11 to R13) -/

inductive VaKind where
  /-- bits [63:56] set, or a reserved range -/
  | bad
  | scratch (off : Nat)
  | furlong (off : Nat)
  | translated
  deriving DecidableEq, Repr

def vaKind (va : DWord) : VaKind :=
  let n := va.toNat
  if 2 ^ 56 ≤ n then .bad
  else if n < 0xFF000000000000 then .translated
  else
    let o := n - 0xFF000000000000
    if o < 0x60000 then .scratch o
    else if 0x1000000 ≤ o ∧ o < 0x2000000 then .furlong (o - 0x1000000)
    else .bad

/-! ### Entries (R21, R24) -/

def Pte.v (p : DWord) : Bool := p.getLsbD 0
def Pte.leaf (p : DWord) : Bool := p.getLsbD 1
def Pte.cls (p : DWord) : Nat := p.bits 3 2
def Pte.w (p : DWord) : Bool := p.getLsbD 4
def Pte.x (p : DWord) : Bool := p.getLsbD 5
def Pte.cnt (p : DWord) : Bool := p.getLsbD 6
def Pte.cmp (p : DWord) : Bool := p.getLsbD 8
def Pte.spr (p : DWord) : Bool := p.getLsbD 7
def Pte.tier (p : DWord) : Bool := p.getLsbD 9
def Pte.oa (p : DWord) : Nat := p.bits 51 12

/-- How a page's lines are cached: CLS, with CNT = 1 uncached whatever the class (R25, R69). -/
inductive PageClass where
  | cached | uncached | device
  deriving DecidableEq, Repr

def Pte.pageClass (p : DWord) : PageClass :=
  if Pte.cnt p then .uncached
  else if Pte.cls p = 0 then .cached
  else if Pte.cls p = 2 then .device
  else .uncached

/-- How the lines of a frame behave (R69, R111): host space is cached only through a link that runs CXL.cache, and is otherwise uncached
whatever its class. -/
def State.classOf (s : State) (pa : Nat) (p : DWord) : PageClass :=
  match region pa with
  | .host _ => if s.claim pa = some true then Pte.pageClass p else .uncached
  | _ => Pte.pageClass p

/-- The page's sectors are stored raw in L2 (R64, R69). -/
def Pte.raw (p : DWord) : Bool := !Pte.cmp p || Pte.cnt p || Pte.cls p != 0

/-! ### Outcomes (R27) -/

inductive XOut where
  | frame (pa : Nat) (ent : DWord)
  | violation
  | missing
  | sparse (ent : DWord) (level : Nat)
  /-- a table word of the walk cannot be read, or its A and D bits set, yet: something is under way at it -/
  | busy (pa n : Nat)
  deriving DecidableEq, Repr

/-- The walker a translation uses: a core of a compute die, a die's own engines, or an I/O die (R33, R427). -/
inductive Walker where
  | core (c : CoreId)
  | die (d : Nat)
  | io (i : Nat)
  deriving DecidableEq, Repr

/-! ### Words of tables and descriptors, at their home (R5, R19, R100) -/

/-- The stop of a unit (R2). -/
def Walker.stop : Walker → Nat
  | .core c => stopOf c.die
  | .die d => stopOf d
  | .io i => ioStop i

/-- A number in memory as a unit of the device reads it; what reaches no memory reads as ones (R19). The error is the range that something is
under way at, or that the ring does not lead to. -/
def State.readPhys (s : State) (u : Walker) (pa n : Nat) : Except (Nat × Nat) (Nat × State) :=
  if s.reach pa ≠ .memory then .ok (2 ^ (8 * n) - 1, s)
  else if s.readable pa n && s.wayTo u.stop pa n then let (v, _, s) := s.homeNat u.stop pa n; .ok (v, s)
  else .error (pa, n)

/-- A number written by a unit of the device; what reaches no memory takes nothing (R19). -/
def State.writePhys (s : State) (u : Walker) (pa n v : Nat) : Except (Nat × Nat) State :=
  if s.reach pa ≠ .memory then .ok s
  else if s.writable pa n && s.wayTo u.stop pa n then .ok (s.writeHome u.stop pa (bytesOf n v)) else .error (pa, n)

/-! ### The address-space table (R20 to R22) -/

/-- The table entry in use for an ASID: the one read before the last invalidation that covered it, or read now (R22). -/
def State.astEntry (s : State) (u : Walker) (asid : Nat) : Except (Nat × Nat) (AstUse × State) :=
  match s.ast.find asid with
  | some e => .ok (e, s)
  | none => do
    let pa := 1048576 * s.astb.bits 51 20 + 16 * asid
    let (lo, s) ← s.readPhys u pa 8
    let (hi, s) ← s.readPhys u (pa + 8) 8
    let e : AstUse := { astb := s.astb, lo := BitVec.ofNat 64 lo, hi := BitVec.ofNat 64 hi }
    .ok (e, { s with ast := s.ast.put asid e })

def AstUse.span (e : AstUse) : Nat := e.lo.bits 11 8
def AstUse.root (e : AstUse) : Nat := e.lo.bits 51 12
def AstUse.aen (e : AstUse) : Bool := e.hi.getLsbD 0
def AstUse.adesc (e : AstUse) : Nat := 64 * e.hi.bits 55 6

/-- The entry passes the checks of R22 and R26. -/
def AstUse.ok (e : AstUse) : Bool :=
  e.astb.getLsbD 0 && e.lo.getLsbD 0 && decide (e.span ≤ 8) && decide (e.root % 2 ^ e.span = 0)

/-! ### Walks (R23, R26) -/

/-- Byte offset of a level's entry in its table (R23). -/
def pteOffset (level span va : Nat) : Nat :=
  match level with
  | 0 => 8 * bitsOf va (47 + span) 39
  | 1 => 8 * bitsOf va 38 30
  | 2 => 8 * bitsOf va 29 21
  | _ => 128 * bitsOf va 20 16

/-- Bytes one leaf of a level covers (R23). -/
def pageBytes (level : Nat) : Nat := if level = 1 then 2 ^ 30 else if level = 2 then 2 ^ 21 else 2 ^ 16

/-- The bits of the address that select a level's entry. -/
def walkPrefix (level va : Nat) : Nat := va >>> (if level = 0 then 39 else if level = 1 then 30 else if level = 2 then 21 else 16)

def State.walkCache (s : State) : Walker → List WalkEnt
  | .core c => (s.die c.die).walkc
  | .die d => (s.die d).walkc
  | .io i => (s.iod i).walkc

def State.setWalkCache (s : State) (u : Walker) (l : List WalkEnt) : State :=
  match u with
  | .core c => s.setDie c.die { s.die c.die with walkc := l }
  | .die d => s.setDie d { s.die d with walkc := l }
  | .io i => s.setIod i { s.iod i with walkc := l }

/-- A table entry of level 0 to 2 from the walk cache, or read at its home and cached (R33). -/
def State.tableEntry (s : State) (u : Walker) (asid level va pa : Nat) : Except (Nat × Nat) (DWord × State) :=
  match (s.walkCache u).find? (fun e => e.asid == asid && e.level == level && e.pre == walkPrefix level va) with
  | some e => .ok (e.ent, s)
  | none =>
    match s.readPhys u pa 8 with
    | .error x => .error x
    | .ok (n, s) =>
      let p := BitVec.ofNat 64 n
      if level ≤ 2 ∧ Pte.v p ∧ ¬ Pte.leaf p then
        .ok (p, s.setWalkCache u (({ asid := asid, level := level, pre := walkPrefix level va, ent := p } :: s.walkCache u).take 512))
      else .ok (p, s)

/-- A valid entry that R26 makes a VIOLATION at its level, whatever the access: CLS = 11 is tested before L (log 51), a leaf at level 0, a
level-3 entry that is none, a leaf with SPR above level 3, a leaf whose OA is not aligned to its page. -/
def Pte.malformed (level : Nat) (p : DWord) : Bool :=
  Pte.cls p == 3 || (level == 0 && Pte.leaf p) || (level == 3 && !Pte.leaf p) ||
    (Pte.leaf p && ((Pte.spr p && level != 3) || (4096 * Pte.oa p) % pageBytes level != 0))

/-- A leaf admits the access (R26). -/
def leafAllows (kind : XKind) (p : DWord) : Bool :=
  match kind with
  | .read => true
  | .write => Pte.w p
  | .fetch => Pte.x p

/-- The levels of a walk from `level` down (R26); fuel counts the levels left. On a frame, A and for a write D are set in the
entry at its home, and the entry, its level and its address are answered. -/
def State.walkFrom (s : State) (u : Walker) (asid va : Nat) (kind : XKind) (span t level : Nat) :
    Nat → XOut × Nat × State
  | 0 => (.violation, level, s)
  | fuel + 1 =>
    let pa := t + pteOffset level span va
    match s.tableEntry u asid level va pa with
    | .error x => (.busy x.1 x.2, level, s)
    | .ok (p, s) =>
      if ¬ Pte.v p then (if Pte.spr p then .sparse p level else .missing, level, s)
      else if Pte.malformed level p then (.violation, level, s)
      else if Pte.leaf p then
        if ¬ leafAllows kind p then (.violation, level, s)
        else
          let p' : DWord := p ||| (1 <<< 10) ||| (if kind = .write then (1 <<< 11) else 0)
          if p' = p then (.frame (4096 * Pte.oa p + va % pageBytes level) p', level, s)
          else
            match s.writePhys u pa 8 p'.toNat with
            | .ok s => (.frame (4096 * Pte.oa p + va % pageBytes level) p', level, s)
            | .error x => (.busy x.1 x.2, level, s)
      else s.walkFrom u asid va kind span (4096 * Pte.oa p) (level + 1) fuel

/-- A walk (R26): outcome, level reached, state. -/
def State.walk (s : State) (u : Walker) (asid va : Nat) (kind : XKind) : XOut × Nat × State :=
  match s.astEntry u asid with
  | .error x => (.busy x.1 x.2, 0, s)
  | .ok (e, s) =>
    if ¬ e.ok then (.violation, 0, s)
    else if e.span < 8 ∧ bitsOf va 55 (48 + e.span) ≠ 0 then (.violation, 0, s)
    else s.walkFrom u asid va kind e.span (4096 * e.root) 0 4

/-! ### TLBs (R33) -/

def Xlat.covers (x : Xlat) (asid vpn : Nat) : Bool := x.asid == asid && decide (vpn / x.span = x.vpn / x.span)

/-- TLBs a unit consults, nearest first; a fetch uses the instruction TLB. -/
def State.tlbs (s : State) (u : Walker) (kind : XKind) : List Xlat :=
  match u with
  | .core c => (if kind = .fetch then (s.core c).itlb else (s.core c).dtlb) ++ (s.die c.die).l2tlb ++ (s.die c.die).l2big
  | .die d => (s.die d).l2tlb ++ (s.die d).l2big
  | .io i => (s.iod i).tlb

/-- The set of the L2 TLB that a translation takes (R33; log 5). -/
def Xlat.set (x : Xlat) : Nat := x.vpn / x.span % 1024

/-- A die's L2 TLB with a translation added (R33): 1 GiB pages have 256 entries of their own, the others 8 ways of 1,024 sets. -/
def Die.tlbAdd (d : Die) (x : Xlat) : Die :=
  let old := fun (l : List Xlat) => l.filter (fun y => !y.covers x.asid x.vpn)
  if x.span = 16384 then { d with l2big := (x :: old d.l2big).take 256 }
  else
    let l := x :: old d.l2tlb
    let excess := (l.filter (fun y => y.set == x.set)).drop 8
    { d with l2tlb := l.filter (fun y => !excess.contains y) }

/-- Add a translation to the TLBs of a unit, oldest leaving (R33). -/
def State.tlbFill (s : State) (u : Walker) (kind : XKind) (x : Xlat) : State :=
  let add := fun (n : Nat) (l : List Xlat) => (x :: l.filter (fun y => !y.covers x.asid x.vpn)).take n
  match u with
  | .core c =>
    let k := s.core c
    let s := s.setCore c (if kind = .fetch then { k with itlb := add 32 k.itlb } else { k with dtlb := add 128 k.dtlb })
    s.setDie c.die ((s.die c.die).tlbAdd x)
  | .die d => s.setDie d ((s.die d).tlbAdd x)
  | .io i => s.setIod i { s.iod i with tlb := add 8192 (s.iod i).tlb }

/-- The L2 slices learn from a translation whether the frame's sectors are stored raw (R64). -/
def State.notePage (s : State) (pa : Nat) (p : DWord) : State :=
  let f := pa / 65536
  if Pte.raw p then (if s.rawFrames.contains f then s else { s with rawFrames := insertNat f s.rawFrames })
  else (if s.rawFrames.contains f then { s with rawFrames := s.rawFrames.filter (· ≠ f) } else s)

/-- What a cached translation answers for an access, or none where the access must walk: a leaf that does not admit it, or a
write through a leaf whose D is not set. -/
def Xlat.answer (x : Xlat) (va : Nat) (kind : XKind) : Option XOut :=
  if x.zero then some (.sparse x.ent 3)
  else if leafAllows kind x.ent && (kind != .write || x.ent.getLsbD 11) then
    some (.frame (4096 * Pte.oa x.ent + va % (65536 * x.span)) x.ent)
  else none

/-- Translate a 56-bit address (R26, R27, R33). A fetch from a sparse range, and a write to one whose entry lacks W, is a
VIOLATION; a frame in lost near memory is one too (R110). -/
def State.translate (s : State) (u : Walker) (asid va : Nat) (kind : XKind) : XOut × State :=
  let vpn := va / 65536
  let fin : XOut × State → XOut × State := fun o => match o with
    | (.sparse p l, s) => (if kind = .fetch ∨ (kind = .write ∧ ¬ Pte.w p) then .violation else .sparse p l, s)
    | (.frame pa p, s) => if s.reach pa = .lost then (.violation, s) else (.frame pa p, s.notePage pa p)
    | o => o
  match ((s.tlbs u kind).find? (·.covers asid vpn)).bind (·.answer va kind) with
  | some o => fin (o, s)
  | none =>
    match s.walk u asid va kind with
    | (.frame pa p, l, s) =>
      let span := pageBytes l / 65536
      fin (.frame pa p, s.tlbFill u kind { asid := asid, vpn := vpn / span * span, span := span, ent := p, zero := false })
    | (.sparse p l, _, s) =>
      fin (.sparse p l, s.tlbFill u kind { asid := asid, vpn := vpn, span := 1, ent := p, zero := true })
    | (o, _, s) => (o, s)

/-! ### Page requests (R29, R387) -/

def pageKind : XKind → Nat
  | .read => 1
  | .write => 2
  | .fetch => 3

/-- The requests of a unit's die. -/
def State.reqsOf (s : State) : Walker → List PageReq
  | .core c => (s.die c.die).reqs
  | .die d => (s.die d).reqs
  | .io i => (s.iod i).reqs

/-- The first tag from the die's counter on that no outstanding request has (R29). -/
def freeTag (reqs : List PageReq) (from' : Nat) : Nat :=
  (((List.range (reqs.length + 1)).map (fun i => (from' + i) % 65536)).find? (fun t => !reqs.any (fun r => r.tag == t))).getD from'

/-- Post a page request of a kind unless the unit's die has one outstanding for the page and kind (R29, R387). -/
def State.request (s : State) (u : Walker) (asid vpn kind q : Nat) : State :=
  let reqs := s.reqsOf u
  if reqs.any (fun r => r.asid == asid && r.vpn == vpn && r.kind == kind) then s
  else
    match u with
    | .core ⟨d, _⟩ | .die d =>
      let x := s.die d
      let t := freeTag reqs x.tagNext
      let s := s.setDie d { x with tagNext := (t + 1) % 65536, reqs := x.reqs ++ [{ tag := t, asid := asid, vpn := vpn, kind := kind }] }
      s.event q (pageRecord t asid false d kind vpn)
    | .io i =>
      let x := s.iod i
      let t := freeTag reqs x.tagNext
      let s := s.setIod i { x with tagNext := (t + 1) % 65536, reqs := x.reqs ++ [{ tag := t, asid := asid, vpn := vpn, kind := kind }] }
      s.event q (pageRecord t asid true i kind vpn)

/-! ### Invalidation (R35, R36) -/

/-- Drop every cached translation that p holds of, package-wide, and the table entries of the address spaces that it touches. -/
def State.discardXlat (s : State) (p : Xlat → Bool) (w : WalkEnt → Bool) (a : Nat → Bool) : State :=
  let drop := fun (l : List Xlat) => l.filter (fun x => !p x)
  let dropW := fun (l : List WalkEnt) => l.filter (fun x => !w x)
  { s with
    cores := s.cores.map (fun e => (e.1, { e.2 with itlb := drop e.2.itlb, dtlb := drop e.2.dtlb })),
    dies := s.dies.map (fun e => (e.1, { e.2 with l2tlb := drop e.2.l2tlb, l2big := drop e.2.l2big, walkc := dropW e.2.walkc })),
    iods := s.iods.map (fun e => (e.1, { e.2 with tlb := drop e.2.tlb, walkc := dropW e.2.walkc })),
    ast := s.ast.keep (fun k _ => !a k) }

/-- Discard one page's translations package-wide, as commit and decommit do (R40, R45). -/
def State.discardPage (s : State) (asid vpn : Nat) : State :=
  s.discardXlat (fun x => x.covers asid vpn)
    (fun e => e.asid == asid && e.pre == walkPrefix e.level (65536 * vpn)) (fun _ => false)

/-! ### The device page pool (R42, R43) -/

/-- A list of the pool: 0 near, 1 far, 2 table. -/
abbrev PoolList := Nat

def Die.poolEn (d : Die) : Bool := d.ppdb.getLsbD 0
def Die.poolBase (d : Die) : Nat := 64 * d.ppdb.bits 51 6

/-- Byte offsets in the descriptor of a list's stack address, count and capacity (R42). -/
def stackAt : PoolList → Nat
  | 0 => 0 | 1 => 16 | _ => 32
def countAt : PoolList → Nat
  | 0 => 8 | 1 => 24 | _ => 40
def capAt : PoolList → Nat
  | 0 => 12 | 1 => 28 | _ => 44

/-- The pool-low state of a list whose count has become n (R43): the interrupt is raised once when the count falls below LOW, and again only
after it has risen to LOW. -/
def State.poolLow (s : State) (d : Nat) (l : PoolList) (n low : Nat) (fell : Bool) : State :=
  let x := s.die d
  if low ≤ n then s.setDie d { x with low := x.low.set l false false }
  else if fell ∧ x.low.get l false = false then (s.setDie d { x with low := x.low.set l true false }).vectorAll 1
  else s

/-- Pop a list of a die's pool (R40, R42). -/
def State.poolPop (s : State) (d : Nat) (l : PoolList) : Except (Nat × Nat) (Option Nat × State) :=
  let x := s.die d
  if ¬ x.poolEn then .ok (none, s)
  else do
    let (n, s) ← s.readPhys (.die d) (x.poolBase + countAt l) 4
    if n = 0 then .ok (none, s)
    else
      let (stk, s) ← s.readPhys (.die d) (x.poolBase + stackAt l) 8
      let (low, s) ← s.readPhys (.die d) (x.poolBase + 48) 4
      let (f, s) ← s.readPhys (.die d) (stk + 8 * (n - 1)) 8
      let s ← s.writePhys (.die d) (x.poolBase + countAt l) 4 (n - 1)
      .ok (some f, s.poolLow d l (n - 1) low true)

/-- Push a frame when the list has room (R43, R45). -/
def State.poolPush (s : State) (d : Nat) (l : PoolList) (f : Nat) : Except (Nat × Nat) (Bool × State) :=
  let x := s.die d
  if ¬ x.poolEn then .ok (false, s)
  else do
    let (n, s) ← s.readPhys (.die d) (x.poolBase + countAt l) 4
    let (cap, s) ← s.readPhys (.die d) (x.poolBase + capAt l) 4
    if cap ≤ n then .ok (false, s)
    else
      let (stk, s) ← s.readPhys (.die d) (x.poolBase + stackAt l) 8
      let (low, s) ← s.readPhys (.die d) (x.poolBase + 48) 4
      let s ← s.writePhys (.die d) (stk + 8 * n) 8 f
      let s ← s.writePhys (.die d) (x.poolBase + countAt l) 4 (n + 1)
      .ok (true, s.poolLow d l (n + 1) low false)

/-- Increment a 32-bit field of the descriptor (DROP at 60, PREQ at 56). -/
def State.poolCount (s : State) (d off : Nat) : Except (Nat × Nat) State := do
  let pa := (s.die d).poolBase + off
  let (n, s) ← s.readPhys (.die d) pa 4
  s.writePhys (.die d) pa 4 ((n + 1) % 2 ^ 32)

/-! ### Commit (R40) -/

inductive CommitOut where
  /-- this commit installed the frame -/
  | installed
  /-- DONE without installing: an earlier commit won -/
  | won
  /-- DONE without installing: the sparse entry has lost W -/
  | readOnly
  /-- DONE without installing: the page is no longer sparse: mapped with SPR = 0, or not mapped, or a VIOLATION -/
  | mapped
  | absent
  | poolEmpty
  deriving DecidableEq, Repr

/-- A walk that stops at the entry it ends in: the entry, its level and its address; none for a walk that R26 makes a VIOLATION. -/
def State.entryFrom (s : State) (u : Walker) (va span t level : Nat) : Nat → Except (Nat × Nat) (Option (DWord × Nat × Nat) × State)
  | 0 => .ok (none, s)
  | fuel + 1 => do
    let pa := t + pteOffset level span va
    let (n, s) ← s.readPhys u pa 8
    let p := BitVec.ofNat 64 n
    if Pte.v p ∧ Pte.malformed level p then .ok (none, s)
    else if level = 3 ∨ ¬ Pte.v p ∨ Pte.leaf p then .ok (some (p, level, pa), s)
    else s.entryFrom u va span (4096 * Pte.oa p) (level + 1) fuel

def State.entryOf (s : State) (u : Walker) (asid va : Nat) : Except (Nat × Nat) (Option (DWord × Nat × Nat) × State) := do
  let (e, s) ← s.astEntry u asid
  if ¬ e.ok ∨ (e.span < 8 ∧ bitsOf va 55 (48 + e.span) ≠ 0) then .ok (none, s)
  else s.entryFrom u va e.span (4096 * e.root) 0 4

/-- Install table granules until the entry of the page is a level-3 entry (R40). -/
def State.commitTables (s : State) (asid va die : Nat) : Nat → Except (Nat × Nat) (Bool × State)
  | 0 => .ok (true, s)
  | fuel + 1 => do
    let (x, s) ← s.entryOf (.die die) asid va
    match x with
    | some (p, level, pa) =>
      if ¬ Pte.v p ∧ Pte.spr p ∧ level < 3 then
        let (g, s) ← s.poolPop die 2
        match g with
        | none => .ok (false, s)
        | some g =>
          let s ← (List.range 512).foldlM (fun (s : State) i => s.writePhys (.die die) (g + 8 * i) 8 p.toNat) s
          let p' := merge64 (mask64 51 12 ||| 3) p (BitVec.ofNat 64 (g / 4096 * 4096 + 1))
          let s ← s.writePhys (.die die) pa 8 p'.toNat
          s.commitTables asid va die fuel
      else .ok (true, s)
    | none => .ok (true, s)

/-- Nothing is under way at any word of a frame, and the host holds none of its lines. -/
def State.frameQuiet (s : State) (f : Nat) : Bool :=
  let inF := fun (wd : Nat) => decide (f ≤ 4 * wd) && decide (4 * wd < f + 65536)
  s.under.all (fun m => match m.settles with | some wd => !inF wd | none => true) &&
    s.dies.all (fun (e : Nat × Die) => e.2.homeQ.all (fun q => !inF q.1) && e.2.mayHold.all (fun l => !inF (32 * l)))

/-- Write 0 to the 65,536 bytes of a frame (R40): the words' owners and marks go with their values. -/
def State.zeroFrame (s : State) (f : Nat) : State :=
  let inF := fun (wd : Nat) => decide (f ≤ 4 * wd) && decide (4 * wd < f + 65536)
  { s with
    mem := s.mem.filter (fun e => !(decide (f ≤ e.1) && decide (e.1 < f + 65536))),
    poison := s.poison.filter (fun w => !inF w), poisonLost := s.poisonLost.filter (fun w => !inF w),
    cores := s.cores.map (fun e => (e.1, { e.2 with l1 := e.2.l1.keep (fun k x => !(inF k && x.st.owned)) })),
    dies := s.dies.map (fun e => (e.1, { e.2 with home := e.2.home.keep (fun k _ => !inF k),
                                                  l2 := e.2.l2.keep (fun k x => !(inF k && x.st != .v)) })) }

/-- The zero-fill of a frame as home-performed writes (R40, R100). -/
def State.fillFrame (s : State) (u : Walker) (f : Nat) : Except (Nat × Nat) State :=
  if s.reach f ≠ .memory then .ok s
  else if s.frameQuiet f && s.homeNear u.stop (f / 4) then .ok (s.zeroFrame f) else .error (f, 65536)

/-- The commit sequence of R40 on one page, under its lock; with EN = 0 a commit that gets as far as a pop finds the pool empty (R42; log 50). The
error is a range of memory at which something is under way: nothing has been done. -/
def State.commit (s : State) (asid vpn die : Nat) : Except (Nat × Nat) (CommitOut × State) := do
  let va := 65536 * vpn
  let (x, s) ← s.entryOf (.die die) asid va
  match x with
  | none => .ok (.absent, s)
  | some (p, _, _) =>
    if ¬ Pte.v p ∧ Pte.spr p ∧ ¬ Pte.w p then .ok (.readOnly, s)
    else if ¬ Pte.v p ∧ ¬ Pte.spr p then .ok (.absent, s)
    else if Pte.v p then .ok (if Pte.spr p then .won else .mapped, s)
    else
      let (room, s') ← s.commitTables asid va die 3
      if ¬ room then .ok (.poolEmpty, s')
      else
        let (x, s) ← s'.entryOf (.die die) asid va
        match x with
        | some (p, 3, pa) =>
          let first := if Pte.tier p then 1 else 0
          let (f, s) ← (do
            let (f, s) ← s.poolPop die first
            match f with
            | some f => Except.ok (some f, s)
            | none => s.poolPop die (1 - first))
          match f with
          | none => .ok (.poolEmpty, s)
          | some f =>
            let s ← s.fillFrame (.die die) f
            let p' := merge64 (mask64 51 10 ||| 3) p (BitVec.ofNat 64 (f / 65536 * 65536 + 0xC03))
            let s ← s.writePhys (.die die) pa 8 p'.toNat
            .ok (.installed, s.discardPage asid vpn)
        | _ => .ok (.absent, s)

end Sys2Proof.Machine
end

