-- ==== Sys2Proof/Machine/Counters.lean ====
section
/-!
DEFINITION. Sequence counters as they are watched: the launches, the waiting rods and the hardware watches that a counter releases,
and counter regression (R143, R387, R399, R428).
-/
namespace Sys2Proof.Machine

/-- Where a counter named by a virtual address lies. -/
inductive CounterPlace where
  | at' (pa : Nat)
  /-- on an uncommitted page with CNT = 1, which reads 0 (R38) -/
  | zero
  | nowhere
  /-- something is under way at a word that its walk needs -/
  | busy (pa n : Nat)
  deriving DecidableEq, Repr

/-- A counter is 8-byte aligned on a page with CNT = 1 (R25, R176, R325). -/
def State.counterPlace (s : State) (u : Walker) (asid va : Nat) (kind : XKind) : CounterPlace :=
  if va % 8 ≠ 0 then .nowhere
  else
    match vaKind (BitVec.ofNat 64 va) with
    | .translated =>
      match (s.translate u asid va kind).1 with
      | .frame pa ent => if Pte.cnt ent ∧ s.reach pa = .memory then .at' pa else .nowhere
      | .sparse p _ => if Pte.cnt p then .zero else .nowhere
      | .busy pa n => .busy pa n
      | _ => .nowhere
    | _ => .nowhere

/-- The physical address of a counter, when it has one. -/
def State.counterAt (s : State) (u : Walker) (asid va : Nat) (kind : XKind) : Option Nat :=
  match s.counterPlace u asid va kind with
  | .at' pa => some pa
  | _ => none

/-- Every counter of a launch has reached its threshold (R176). -/
def State.countersReached (s : State) (c : Cmd) (p : Packet) : Bool :=
  p.ctr.all (fun e => e.1 == 0 || (match s.counterPlace (.io (c.queue / 512)) c.asid e.1.toNat .read with
    | .at' pa => s.canGet (ioStop (c.queue / 512)) pa 8 && decide (e.2.toNat ≤ s.curNat pa 8)
    | .zero => e.2 == 0
    | _ => false))

/-- The queues that hold a fetched launch, not yet counter-ready, that names the counter, each with the address that its first such launch
names (R387). -/
def State.counterQueues (s : State) (pa : Nat) : List (Nat × Nat) :=
  s.cmds.foldl (fun (l : List (Nat × Nat)) (e : Nat × Cmd) =>
    match e.2.kind, e.2.state with
    | .launch p, .fetched =>
      match p.ctr.find? (fun c => c.1 != 0 && s.counterAt (.io (e.2.queue / 512)) e.2.asid c.1.toNat .read == some pa) with
      | some c => if s.countersReached e.2 p ∨ l.any (fun x => x.1 == e.2.queue) then l else l ++ [(e.2.queue, c.1.toNat)]
      | none => l
    | _, _ => l) []

/-- Where an armed watch's counter lies (R428). -/
def State.watchPlace (s : State) (io : Nat) (w : Watch) : CounterPlace := s.counterPlace (.io io) w.asid.toNat w.va.toNat .read

/-- The armed watches on a counter (R428), and those of which it cannot yet be told. -/
def State.watchesOn (s : State) (pa : Nat) : List (Nat × Nat) :=
  [0, 1].flatMap (fun io => ((s.iod io).watches.filter (fun (e : Nat × Watch) =>
    e.2.en && (match s.watchPlace io e.2 with | .at' q => q == pa | .busy _ _ => true | _ => false))).map (fun e => (io, e.1)))

/-- A rod waits in `seqwt` on the counter. -/
def State.seqWaits (s : State) (pa : Nat) : Bool :=
  s.rods.any (fun (e : Nat × Rod) => [e.2.slotA, e.2.slotB].any (fun x =>
    match x.bind (·.wait) with
    | some (.seqwt q _) => q == pa
    | _ => false))

/-- The counter that a `seqwt` waits on can be read, and has reached its threshold (R326). -/
def State.seqReached (s : State) (pa : Nat) (thr : DWord) : Bool := decide (pa < 2 ^ 60) && s.readable pa 8 && decide (thr.toNat ≤ s.curNat pa 8)

def State.setWatch (s : State) (io i : Nat) (w : Watch) : State :=
  let d := s.iod io
  s.setIod io { d with watches := d.watches.set i w Watch.reset }

/-- A watch is checked: one that its counter has reached fires, with FIRED set, EN clear and its vector sent (R428, R429); a counter on an
uncommitted page reads 0 (R38); a check that cannot be made yet comes again. -/
def State.checkWatch (s : State) (io i : Nat) : State :=
  let w := (s.iod io).watches.get i Watch.reset
  let seen := fun (v : Nat) =>
    if v < w.thr.toNat then s.setWatch io i { w with late := false }
    else (s.setWatch io i { w with en := false, fired := true, late := false }).vector io (64 + i)
  if ¬ w.en then s
  else
    match s.watchPlace io w with
    | .at' pa => seen (s.curNat pa 8)
    | .zero => seen 0
    | .nowhere => s.setWatch io i { w with late := false }
    | .busy _ _ => s.setWatch io i { w with late := true }

/-- The checks that had to wait are made again. -/
def State.checkLate (s : State) : State :=
  [0, 1].foldl (fun (s : State) io => (s.iod io).watches.foldl (fun (s : State) e => if e.2.late then s.checkWatch io e.1 else s) s) s

/-- After a write: an 8-byte word of a counter page that the write lowered raises counter regression in the rod that wrote (R25, R399), with an
event where a launch waits on the counter (R143, R387), and watches are checked (R428). `before` is the state before the write; `r` the rod
that wrote, if a rod did; `cnt` says that the page written has CNT = 1. A word that something names as its counter is on such a page. -/
def State.noteCounters (s : State) (before : State) (r : Option RodId) (pa n : Nat) (cnt : Bool := false) : State :=
  (List.range ((pa % 8 + n + 7) / 8)).foldl (fun s k =>
    let c := 8 * (pa / 8 + k)
    let qs := before.counterQueues c
    let ws := before.watchesOn c
    if ¬ (cnt || qs != [] || ws != [] || before.seqWaits c) then s
    else
      let s :=
        if s.curNat c 8 < before.curNat c 8 then
          let s := match r with | some r => s.raise r Cause.creg | none => s
          qs.foldl (fun s q => s.event q.1 (eventRecord ((s.queue q.1).qcfg.bits 47 32) 0 0x10 q.2)) s
        else s
      ws.foldl (fun s w => s.checkWatch w.1 w.2) s) s

end Sys2Proof.Machine
end

