-- ==== Sys2Proof/Machine/Fp.lean ====
section
/-!
DEFINITION. Floating formats (R178), extended reals, and rounding in a format: downward, upward (R183) and to nearest with ties
to even; exact for rationals and square roots, and by refined enclosures for the elementary functions (R287, R303).
-/
namespace Sys2Proof.Machine

/-! ### Formats (R178) -/

/-- A binary floating format: widths of exponent and fraction, bias, and whether the all-ones exponent is kept for infinities
and NaNs (e4m3 keeps only the one code with all fraction bits set). -/
structure Fmt where
  e    : Nat
  m    : Nat
  bias : Nat
  ieee : Bool
  deriving DecidableEq, Repr

def fp16 : Fmt := ⟨5, 10, 15, true⟩
def bf16 : Fmt := ⟨8, 7, 127, true⟩
def fp32 : Fmt := ⟨8, 23, 127, true⟩
def fp64 : Fmt := ⟨11, 52, 1023, true⟩
def e4m3 : Fmt := ⟨4, 3, 7, false⟩
def e5m2 : Fmt := ⟨5, 2, 15, true⟩

/-- The format's width in bits. -/
def Fmt.width (f : Fmt) : Nat := 1 + f.e + f.m

/-- The magnitude code of infinity, or for e4m3 of NaN: the first code above the finite ones. -/
def Fmt.infCode (f : Fmt) : Nat := if f.ieee then (2 ^ f.e - 1) * 2 ^ f.m else 2 ^ (f.e + f.m) - 1

/-- The magnitude code of the largest finite value. -/
def Fmt.maxCode (f : Fmt) : Nat := f.infCode - 1

/-- The magnitude of the canonical quiet NaN (R278). -/
def Fmt.nanCode (f : Fmt) : Nat := if f.ieee then f.infCode + 2 ^ (f.m - 1) else f.infCode

def Fmt.signBit (f : Fmt) : Nat := 2 ^ (f.e + f.m)

/-- 2^z as a rational. -/
def two (z : Int) : Rat := if 0 ≤ z then ((2 ^ z.toNat : Nat) : Rat) else 1 / ((2 ^ (-z).toNat : Nat) : Rat)

/-- The value of a finite magnitude code. -/
def Fmt.magValue (f : Fmt) (c : Nat) : Rat :=
  let e := c / 2 ^ f.m
  let k := c % 2 ^ f.m
  if e = 0 then (k : Rat) * two (1 - f.bias - f.m) else ((2 ^ f.m + k : Nat) : Rat) * two ((e : Int) - f.bias - f.m)

/-- The extended reals. -/
inductive XR where
  | ninf
  | fin (q : Rat)
  | pinf
  deriving DecidableEq, Repr

/-- A floating code as a number: none for a NaN. -/
def Fmt.value (f : Fmt) (bits : Nat) : Option XR :=
  let c := bits % f.signBit
  let neg := bits / f.signBit % 2 = 1
  if c < f.infCode then some (.fin (if neg then -(f.magValue c) else f.magValue c))
  else if f.ieee ∧ c = f.infCode then some (if neg then .ninf else .pinf)
  else none

/-- The largest finite value. -/
def Fmt.maxValue (f : Fmt) : Rat := f.magValue f.maxCode

/-! ### Order and arithmetic of extended reals -/

def XR.le : XR → XR → Bool
  | .ninf, _ => true
  | _, .pinf => true
  | .fin a, .fin b => decide (a ≤ b)
  | _, _ => false

def XR.lt (a b : XR) : Bool := !XR.le b a

def XR.min (a b : XR) : XR := if a.le b then a else b
def XR.max (a b : XR) : XR := if a.le b then b else a

def XR.neg : XR → XR
  | .ninf => .pinf
  | .pinf => .ninf
  | .fin q => .fin (-q)

def XR.isFin : XR → Bool
  | .fin _ => true
  | _ => false

/-- Sum for a lower bound: −∞ prevails. -/
def XR.addLo : XR → XR → XR
  | .fin a, .fin b => .fin (a + b)
  | .ninf, _ | _, .ninf => .ninf
  | _, _ => .pinf

/-- Sum for an upper bound: +∞ prevails. -/
def XR.addHi : XR → XR → XR
  | .fin a, .fin b => .fin (a + b)
  | .pinf, _ | _, .pinf => .pinf
  | _, _ => .ninf

def XR.sign : XR → Int
  | .ninf => -1
  | .pinf => 1
  | .fin q => if q < 0 then -1 else if q = 0 then 0 else 1

/-- Product with 0·∞ = 0 (R272). -/
def XR.mul (a b : XR) : XR :=
  match a, b with
  | .fin x, .fin y => .fin (x * y)
  | _, _ =>
    let s := a.sign * b.sign
    if s = 0 then .fin 0 else if s < 0 then .ninf else .pinf

/-- The reciprocal of a nonzero number, with 1/∞ = 0. -/
def XR.inv : XR → XR
  | .fin q => .fin (1 / q)
  | _ => .fin 0

def XR.abs (a : XR) : XR := if a.sign < 0 then a.neg else a

/-! ### Rounding magnitudes -/

/-- floor(q / 2^z) for q ≥ 0. -/
def floorAt (q : Rat) (z : Int) : Nat :=
  if 0 ≤ z then q.num.toNat / (q.den * 2 ^ z.toNat) else q.num.toNat * 2 ^ (-z).toNat / q.den

/-- The greatest e with 2^e ≤ q, for q > 0. -/
def ilog2q (q : Rat) : Int :=
  let e : Int := (Nat.log2 q.num.toNat : Int) - Nat.log2 q.den
  if two e ≤ q then e else e - 1

/-- The weight, as a power of two, of the last place of a magnitude whose leading power is e. -/
def Fmt.ulpExp (f : Fmt) (e : Int) : Int := (if e < 1 - (f.bias : Int) then 1 - (f.bias : Int) else e) - f.m

/-- The code of k units of the last place at leading power e. -/
def Fmt.codeAt (f : Fmt) (e : Int) (k : Nat) : Nat := (f.ulpExp e + f.m + f.bias - 1).toNat * 2 ^ f.m + k

/-- The magnitude code of q ≥ 0 rounded toward zero. -/
def Fmt.magDown (f : Fmt) (q : Rat) : Nat :=
  if q ≤ 0 then 0 else Nat.min f.maxCode (f.codeAt (ilog2q q) (floorAt q (f.ulpExp (ilog2q q))))

/-- The magnitude code of q ≥ 0 rounded away from zero. -/
def Fmt.magUp (f : Fmt) (q : Rat) : Nat :=
  if q ≤ 0 then 0
  else
    let z := f.ulpExp (ilog2q q)
    let k := floorAt q z
    Nat.min f.infCode (f.codeAt (ilog2q q) (if (k : Rat) * two z = q then k else k + 1))

/-- The magnitude code of q ≥ 0 rounded to nearest, ties to even; a value beyond the finite ones gives the infinity code. -/
def Fmt.magNear (f : Fmt) (q : Rat) : Nat :=
  if q ≤ 0 then 0
  else
    let z := f.ulpExp (ilog2q q)
    let k := floorAt q z
    let r := 2 * (q / two z - k)
    let k := if r < 1 then k else if 1 < r then k + 1 else if k % 2 = 0 then k else k + 1
    Nat.min f.infCode (f.codeAt (ilog2q q) k)

/-! ### Rounding (R183) -/

/-- The code with a sign; zero is +0 (R182). -/
def Fmt.signed (f : Fmt) (neg : Bool) (c : Nat) : Nat := if neg && c != 0 then f.signBit + c else c

def Fmt.posInf (f : Fmt) : Nat := f.infCode
def Fmt.negInf (f : Fmt) : Nat := f.signBit + f.infCode

/-- round_down (R183). -/
def Fmt.down (f : Fmt) : XR → Nat
  | .ninf => f.negInf
  | .pinf => f.posInf
  | .fin q => if q < 0 then f.signed true (f.magUp (-q)) else f.magDown q

/-- round_up (R183). -/
def Fmt.up (f : Fmt) : XR → Nat
  | .ninf => f.negInf
  | .pinf => f.posInf
  | .fin q => if q < 0 then f.signed true (f.magDown (-q)) else f.magUp q

/-- Nearest, ties to even, of a rational. -/
def Fmt.near (f : Fmt) (q : Rat) : Nat := if q < 0 then f.signed true (f.magNear (-q)) else f.magNear q

/-! ### Square roots -/

/-- The integer square root of n, its bits settled from bit b − 1 down. -/
def natRoot (n : Nat) : Nat → Nat → Nat
  | 0, r => r
  | b + 1, r => if (r + 2 ^ b) * (r + 2 ^ b) ≤ n then natRoot n b (r + 2 ^ b) else natRoot n b r

/-- The root of q > 0 rounded toward zero, and whether it is exact in the format's last place. -/
def Fmt.rootParts (f : Fmt) (q : Rat) : Int × Nat × Bool :=
  let e := ilog2q q / 2
  let z := f.ulpExp e
  let n := q / two (2 * z)
  let w := n.num.toNat / n.den
  let k := natRoot w (Nat.log2 w / 2 + 1) 0
  (e, k, decide (((k * k : Nat) : Rat) = n))

def Fmt.rootDown (f : Fmt) (q : Rat) : Nat :=
  if q ≤ 0 then 0 else let (e, k, _) := f.rootParts q; Nat.min f.maxCode (f.codeAt e k)

def Fmt.rootUp (f : Fmt) (q : Rat) : Nat :=
  if q ≤ 0 then 0 else let (e, k, x) := f.rootParts q; Nat.min f.infCode (f.codeAt e (if x then k else k + 1))

/-! ### Elementary functions (R287, R303)

Each value is enclosed between two rationals whose distance falls with the precision p; a bound is decided when both ends round
to the same code. The values asked for here are irrational, so some precision decides; one that the three tried do not decide
takes the free value of Config (log 12). -/

/-- Σ t^(2i+1)/(2i+1) scaled by 2^p, rounded down: the inverse hyperbolic tangent of t = num/den ≤ 1/3. -/
def atanhSum (p num den : Nat) : Nat → Nat → Nat → Nat
  | 0, _, acc => acc
  | n + 1, term, acc =>
    let k := p / 3 + 8 - (n + 1)
    atanhSum p num den n (term * (num * num) / (den * den)) (acc + term / (2 * k + 1))

/-- An enclosure of 2·atanh(t)·2^p for 0 ≤ t ≤ 1/3. -/
def logEncl (p : Nat) (t : Rat) : Nat × Nat :=
  let n := p / 3 + 8
  let s := atanhSum p t.num.toNat t.den n (t.num.toNat * 2 ^ p / t.den) 0
  (2 * s, 2 * s + 4 * n + 8)

/-- An enclosure of ln 2 scaled by 2^p. -/
def ln2Encl (p : Nat) : Nat × Nat := logEncl p (1 / 3)

/-- Σ y^i/i! scaled by 2^p for 0 ≤ y, rounded down at each term. -/
def expSum (p y : Nat) : Nat → Nat → Nat → Nat → Nat
  | 0, _, _, acc => acc
  | n + 1, i, term, acc => expSum p y n (i + 1) (term * y / 2 ^ p / (i + 1)) (acc + term)

/-- An enclosure of e^y for 0 ≤ y < 2, y between y1 and y2 scaled by 2^p. -/
def expEncl (p y1 y2 : Nat) : Rat × Rat :=
  let n := p / 2 + 16
  let lo := expSum p y1 n 0 (2 ^ p) 0
  let hi := expSum p (y2 + 1) n 0 (2 ^ p) 0 + 8 * n + 8
  ((lo : Rat) / (2 ^ p : Nat), (hi : Rat) / (2 ^ p : Nat))

/-- An enclosure of 2^q. -/
def exp2Encl (q : Rat) (p : Nat) : Rat × Rat :=
  let n := q.floor
  let f := q - n
  let (l1, l2) := ln2Encl p
  let y1 := (f * (l1 : Rat)).floor.toNat
  let y2 := (f * (l2 : Rat)).floor.toNat + 1
  let (a, b) := expEncl p y1 y2
  (a * two n, b * two n)

/-- An enclosure of e^q: q = n·ln 2 + r with 0 ≤ r < 1. -/
def expqEncl (q : Rat) (p : Nat) : Rat × Rat :=
  let (l1, l2) := ln2Encl p
  let s : Rat := ((2 ^ p : Nat) : Rat)
  let n := (q * s / (if q < 0 then (l1 : Rat) else (l2 : Rat))).floor - 1
  let r1 := q * s - (n : Rat) * (if 0 ≤ n then (l2 : Rat) else (l1 : Rat))
  let r2 := q * s - (n : Rat) * (if 0 ≤ n then (l1 : Rat) else (l2 : Rat))
  let (a, b) := expEncl p r1.floor.toNat (r2.floor.toNat + 1)
  (a * two n, b * two n)

/-- An enclosure of log₂ q for q > 0. -/
def log2Encl (q : Rat) (p : Nat) : Rat × Rat :=
  let e := ilog2q q
  let m := q / two e
  let (a1, a2) := logEncl p ((m - 1) / (m + 1))
  let (l1, l2) := ln2Encl p
  ((e : Rat) + (a1 : Rat) / (l2 : Rat), (e : Rat) + (a2 : Rat) / (l1 : Rat))

/-- The code both ends of an enclosure round to, at the first of the precisions that decides. -/
def decideCode (encl : Nat → Rat × Rat) (rnd : XR → Nat) (ps : List Nat) (open' : Nat) : Nat :=
  match ps with
  | [] => open'
  | p :: rest =>
    let (a, b) := encl p
    if rnd (.fin a) = rnd (.fin b) then rnd (.fin a) else decideCode encl rnd rest open'

/-- The precisions tried. -/
def precisions : List Nat := [160, 640, 2600]

/-- The free code for a bound that stays undecided. -/
def Fmt.undecided (f : Fmt) (fn : Nat) (q : Rat) (upward : Bool) : Nat :=
  (Config.undecidedBound (4 * fn + (if upward then 1 else 0) + 2 * f.width) (Int.toNat (q.num * 2 ^ 16 + q.den))).toNat % 2 ^ f.width

/-- 2^q rounded (R287); exact for an integer q. -/
def Fmt.exp2 (f : Fmt) (q : Rat) (upward : Bool) : Nat :=
  let rnd := fun x => if upward then f.up x else f.down x
  if q.den = 1 ∧ -4000 < q ∧ q < 4000 then rnd (.fin (two q.num))
  else if 4000 ≤ q then rnd (.fin (two 4000))
  else if q ≤ -4000 then rnd (.fin (two (-4000)))
  else decideCode (exp2Encl q) rnd precisions (f.undecided 1 q upward)

/-- e^q rounded (R303). -/
def Fmt.expq (f : Fmt) (q : Rat) (upward : Bool) : Nat :=
  let rnd := fun x => if upward then f.up x else f.down x
  if q = 0 then rnd (.fin 1)
  else if 4000 ≤ q then rnd (.fin (two 4000))
  else if q ≤ -4000 then rnd (.fin (two (-4000)))
  else decideCode (expqEncl q) rnd precisions (f.undecided 2 q upward)

/-- log₂ q rounded, for q > 0 (R287); exact for a power of two. -/
def Fmt.log2q (f : Fmt) (q : Rat) (upward : Bool) : Nat :=
  let rnd := fun x => if upward then f.up x else f.down x
  if two (ilog2q q) = q then rnd (.fin (ilog2q q))
  else decideCode (log2Encl q) rnd precisions (f.undecided 3 q upward)

end Sys2Proof.Machine
end

