-- ==== Sys2Proof/WellFormed.lean ====
section
/-!
DEFINITION. Which instruction terms the encoding admits: the operand kinds, alignments and field limits whose breach rejects
a clause with cause illegal (R180, R205, R212, R219, R220, R223, R224, R232, R270, R306 and the rules of each instruction).
An event is well formed when its agents exist (R1).
-/
namespace Sys2Proof

/-- GC 000 needs GQ 0 (R212). -/
def Guard.wf (g : Guard) : Bool := g.c != .always || g.q == 0

/-- An integer source of R232. -/
def Operand.isInt : Operand → Bool
  | .w _ | .s _ | .k _ | .port _ | .sr _ | .int _ => true
  | _ => false

/-- An integer source that is a lane word, a uniform register or an integer inline constant (R270, R329, R341). -/
def Operand.isPlainInt : Operand → Bool
  | .w _ | .s _ | .int _ => true
  | _ => false

/-- A uniform register or an integer inline constant (R261). -/
def Operand.isUniInt : Operand → Bool
  | .s _ | .int _ => true
  | _ => false

def Operand.isW : Operand → Bool
  | .w _ => true
  | _ => false

def Operand.isS : Operand → Bool
  | .s _ => true
  | _ => false

/-- A lane word whose number is a multiple of n. -/
def Operand.isWAl (n : Nat) : Operand → Bool
  | .w i => i.toNat % n == 0
  | _ => false

/-- A value destination of a group-0 or group-1 instruction: lane word, uniform register, or port.mx or port.cp (R219, R220). -/
def Operand.isDst : Operand → Bool
  | .w _ | .s _ | .port .mx | .port .cp => true
  | _ => false

/-- A 64-bit address source: uniform register or even lane pair. -/
def Operand.isAddr (o : Operand) : Bool := o.isS || o.isWAl 2

def Operand.isNb : Operand → Bool
  | .port .nb => true
  | _ => false

/-- port.nb is a source only where the destination is a lane word (R371). -/
def nbOk (d : Operand) (srcs : List Operand) : Bool := d.isW || srcs.all (fun o => !o.isNb)

/-- The modifier names a lane-word source and a segment size 2 to 32 (R223, R224). Absent fields are none. -/
def modWf (m : Option SrcMod) (a b c : Option Operand) : Bool :=
  match m with
  | none => true
  | some x =>
    decide (1 ≤ x.z.toNat) && decide (x.z.toNat ≤ 5) &&
    (match x.src with
     | .a => a.any Operand.isW
     | .b => b.any Operand.isW
     | .c => c.any Operand.isW)

/-- The number of words of a view's interval (R180). -/
def View.words : View → Nat
  | .h => 1
  | .f => 2
  | .y => 4

/-- An interval source (R270). -/
def Operand.isIv (v : View) : Operand → Bool
  | .w n => n.toNat % v.words == 0
  | .s _ => v != .y
  | .int _ | .ic _ => true
  | _ => false

/-- An interval destination (R270). -/
def Operand.isIvDst (v : View) (o : Operand) : Bool := o.isWAl v.words

def Ty.isInteger : Ty → Bool
  | .i8 | .i16 | .i32 | .i64 | .n8 | .n16 | .n32 | .n64 => true
  | _ => false

def Ty.isView : Ty → Bool
  | .h | .f | .y => true
  | _ => false

def Ty.isPoint : Ty → Bool
  | .e4m3 | .e5m2 | .hf | .bf | .sf => true
  | _ => false

def Ty.is64 : Ty → Bool
  | .i64 | .n64 => true
  | _ => false

/-- The view that a type code names. -/
def Ty.view : Ty → View
  | .h => .h
  | .y => .y
  | _ => .f

/-- Words of an access's register side (R308). -/
def Size.words : Size → Nat
  | .x1 | .x2 | .x4 => 1
  | .x8 => 2
  | .x16 => 4

def Size.bytes : Size → Nat
  | .x1 => 1
  | .x2 => 2
  | .x4 => 4
  | .x8 => 8
  | .x16 => 16

def AmoSize.words : AmoSize → Nat
  | .b32 => 1
  | .b64 => 2

/-- BASE and INDEX (R306). -/
def MAddr.wf (a : MAddr) : Bool :=
  (a.base.isS || a.base.isWAl 2 || a.base == .int 0) && (a.index.isW || a.index.isS || a.index == .int 0)

/-- BASE and INDEX of a form whose bits [11:0] are not an offset (R217): the offset field of the term is 0. -/
def MAddr.wfNoOfs (a : MAddr) : Bool := a.wf && a.ofs == 0

/-- DATA of a sized form: an aligned lane word, or a uniform register for `ld` and `st` up to x8 with a uniform INDEX (R306), not for
the scratchpad forms (DEDUCED, log 15). -/
def dataWf (uni : Bool) (sz : Size) (d : Operand) (ad : MAddr) : Bool :=
  d.isWAl sz.words || (uni && d.isS && sz != .x16 && !ad.index.isW)

/-- A table slot range or rod index in a barrier number operand (R323). -/
def barNoWf (n : Operand) : Bool := n.isUniInt

def NWords.toNat : NWords → Nat
  | .n1 => 1
  | .n2 => 2
  | .n4 => 4

/-- The three source fields of group-0 arithmetic (R232). -/
def arith3 (g : Guard) (d a b : Operand) (m : Option SrcMod) : Bool :=
  g.wf && d.isDst && a.isInt && b.isInt && nbOk d [a, b] && modWf m (some a) (some b) none

def arith2 (g : Guard) (d a : Operand) (m : Option SrcMod) : Bool :=
  g.wf && d.isDst && a.isInt && nbOk d [a] && modWf m (some a) none none

def arith4 (g : Guard) (d a b c : Operand) (m : Option SrcMod) : Bool :=
  g.wf && d.isDst && a.isInt && b.isInt && c.isInt && nbOk d [a, b, c] && modWf m (some a) (some b) (some c)

/-- Interval forms with one, two and three sources (R270). -/
def iv1 (g : Guard) (v : View) (d a : Operand) (m : Option SrcMod) : Bool :=
  g.wf && d.isIvDst v && a.isIv v && modWf m (some a) none none

def iv2 (g : Guard) (v : View) (d a b : Operand) (m : Option SrcMod) : Bool :=
  g.wf && d.isIvDst v && a.isIv v && b.isIv v && modWf m (some a) (some b) none

def iv3 (g : Guard) (v : View) (d a b c : Operand) (m : Option SrcMod) : Bool :=
  g.wf && d.isIvDst v && a.isIv v && b.isIv v && c.isIv v && modWf m (some a) (some b) (some c)

/-- Row statistics (R299, R300): lane mode with Z 1 to 5 and no b; row mode with Z 0 and integer sources. -/
def rowWf (g : Guard) (v : View) (z : BitVec 3) (d a : Operand) (b : Option Operand) (m : Option SrcMod) : Bool :=
  g.wf && d.isIvDst v &&
  (match b with
   | some n => z == 0 && a.isPlainInt && n.isPlainInt && modWf m (some a) (some n) none
   | none => decide (1 ≤ z.toNat) && decide (z.toNat ≤ 5) && a.isIv v && modWf m (some a) none none)

/-- The pairs `icvt` accepts (R284). -/
def icvtWf (dt st : Ty) (hi : Bool) (d a : Operand) : Bool :=
  if dt.isView then
    d.isIvDst dt.view && !hi &&
    (if st.isView then a.isIv st.view
     else if st.isInteger then (if st.is64 then a.isWAl 2 || a.isS || (match a with | .int _ => true | _ => false) else a.isPlainInt)
     else a.isW)
  else dt.isInteger && st.isView && a.isIv st.view && d.isWAl (if dt.is64 then 2 else 1)

/-- Products (R341): ARAD and BRAD are 0 in `mxmm`. -/
def mxOps (g : Guard) (a b c : Operand) : Bool := g.wf && a.isPlainInt && b.isPlainInt && c.isPlainInt

def CoreId.wf (c : CoreId) : Bool := decide (c.die < 8) && decide (c.core < 48)

/-- The encoding admits the term (for an instruction), or the agents it names exist (for an event). -/
def Instr.wf : Instr → Bool
  | .add g d a b m | .sub g d a b m | .mul g d a b m | .mulh g d a b m | .mulhn g d a b m
  | .div g d a b m | .divn g d a b m | .rem g d a b m | .remn g d a b m
  | .min g d a b m | .minn g d a b m | .max g d a b m | .maxn g d a b m
  | .and g d a b m | .or g d a b m | .xor g d a b m | .andn g d a b m
  | .shl g d a b m | .shr g d a b m | .sar g d a b m | .rol g d a b m
  | .bfx g d a b m | .bfxn g d a b m => arith3 g d a b m
  | .mad g d a b c m | .madh g d a b c m | .bfi g d a b c m => arith4 g d a b c m
  | .neg g d a m | .abs g d a m | .not g d a m | .popc g d a m | .clz g d a m | .ctz g d a m
  | .brev g d a m | .mov g d a m => arith2 g d a m
  | .sel g d a b _ m => arith3 g d a b m
  | .ldi g mode d _ => g.wf && d.isDst && (mode != .hi || d.isS)
  | .cvt g dt sty _ d a m => arith2 g d a m && dt.isInteger && sty.isInteger && (!dt.is64 || d.isS)
  | .lea g d a b c m =>
    g.wf && d.isAddr && a.isAddr && b.isInt && c.isInt && nbOk d [b, c] && modWf m (some a) (some b) (some c)
  | .perm g d a b m => arith3 g d a b m && !d.isS
  | .kset g _ _ => g.wf
  | .kadd g _ a b m => g.wf && a.isInt && b.isInt && !a.isNb && !b.isNb && modWf m (some a) (some b) none
  | .rdx g d _ _ n => g.wf && d.toNat % n.toNat == 0
  | .wrx g _ _ b n => g.wf && b.toNat % n.toNat == 0
  | .cmp g ty _ _ a b m => g.wf && ty.isInteger && a.isInt && b.isInt && !a.isNb && !b.isNb && modWf m (some a) (some b) none
  | .qand g _ _ _ | .qor g _ _ _ | .qxor g _ _ _ => g.wf
  | .qnot g _ _ | .qsure g _ _ | .qmaybe g _ _ | .qmov g _ _ => g.wf
  | .qvote g _ _ _ => g.wf
  | .qmask g mode d qa => g.wf && d.isDst && (mode != .word || (qa == 0 && d.isW))
  | .qfrom g mode qd a m => g.wf && a.isInt && !a.isNb && modWf m (some a) none none && (mode != .word || qd == 0)
  | .br g _ | .call g _ => g.wf
  | .br3 _ _ _ _ | .join _ => true
  | .ret g | .exit g | .yield g | .nop g => g.wf
  | .jmpi g a => g.wf && a.isAddr
  | .sleep g a => g.wf && a.isInt && !a.isNb
  | .rgive g a | .rtake g a => g.wf && a.isUniInt
  | .split g v x _ b n =>
    g.wf && x.toNat % v.words == 0 && decide (n.toNat ≤ 12) && decide (b.toNat + n.toNat ≤ 256) && (n != 0 || b == 0)
  | .fork g _ b n => g.wf && decide (b.toNat + n.toNat < 256)
  | .take g d _ => g.wf && d.toNat % 4 == 0
  | .poolcfg g a => g.wf && a.isUniInt
  | .poolst g _ => g.wf
  | .iadd g v d a b m | .isub g v d a b m | .imul g v d a b m | .idiv g v d a b m | .imin g v d a b m
  | .imax g v d a b m | .ihull g v d a b m | .imeet g v d a b m | .imk g v d a b m => iv2 g v d a b m
  | .ifma g v d a b c m => iv3 g v d a b c m
  | .idiv2 g v d a b _ m => iv2 g v d a b m
  | .ircp g v d a m | .isqr g v d a m | .isqrt g v d a m | .iabs g v d a m | .ineg g v d a m
  | .imid g v d a m | .irad g v d a m | .iwid g v d a m | .imag g v d a m | .imig g v d a m | .iinf g v d a m
  | .isup g v d a m | .iflr g v d a m | .iceil g v d a m
  | .iexp2 g v d a m | .ilog2 g v d a m | .irsqrt g v d a m => iv1 g v d a m
  | .ipt g v d a m => g.wf && d.isIvDst v && a.isWAl (if v == .y then 2 else 1) && modWf m (some a) none none
  | .ibis g v d a _ m => iv1 g v d a m
  | .iscl g v d a b m => g.wf && d.isIvDst v && a.isIv v && b.isPlainInt && modWf m (some a) (some b) none
  | .icmp g v _ _ a b m => g.wf && a.isIv v && b.isIv v && modWf m (some a) (some b) none
  | .icls g v _ _ a m => g.wf && a.isIv v && modWf m (some a) none none
  | .icvt g dt sty hi d a m => g.wf && icvtWf dt sty hi d a && modWf m (some a) none none
  | .imr g v none d a m => g.wf && v != .h && d.isWAl (if v == .y then 2 else 1) && a.isIv v && modWf m (some a) none none
  | .imr g v (some (_, b)) d a m => g.wf && d.isWAl 2 && a.isIv v && b.isPlainInt && modWf m (some a) (some b) none
  | .ixr g v d a m => g.wf && v != .h && d.isIvDst v && a.isWAl (if v == .y then 2 else 1) && modWf m (some a) none none
  | .ifn g v _ d a m => iv1 g v d a m
  | .ifnc g _ d a m => iv1 g .f d a m
  | .tblld g a _ _ => g.wf && a.isAddr
  | .tblsw g => g.wf
  | .tblq g d _ => g.wf && d.isW
  | .segmax g v z d a b m | .segmin g v z d a b m | .segsum g v z d a b m | .segnorm g v z d a b m => rowWf g v z d a b m
  | .smxexp g v z d a m | .smxnorm g v z d a _ m => rowWf g v z d a none m
  | .ld g sz d ad _ _ _ => g.wf && ad.wf && dataWf true sz d ad
  | .st g sz a ad _ _ _ => g.wf && ad.wf && dataWf true sz a ad
  | .ldmr g v d ad _ _ _ | .stmr g v d ad _ _ _ => g.wf && ad.wf && v != .h && d.isWAl v.words
  | .ldXs g v d ad _ _ => g.wf && ad.wf && v != .h && d.isWAl v.words
  | .redXs g a ad _ _ => g.wf && ad.wf && a.isWAl 2
  | .lds g sz d ad _ _ _ | .sts g sz d ad _ _ _ => g.wf && ad.wf && dataWf false sz d ad
  | .ldtk g sz d ad _ _ _ | .stfl g sz d ad _ _ _ => g.wf && ad.wf && decide (4 ≤ sz.bytes) && dataWf false sz d ad
  | .fest g _ ad _ => g.wf && ad.wf
  | .feq g d ad _ => g.wf && ad.wf && d.isW
  | .gth g sz ad _ => g.wf && ad.wf && decide (4 ≤ sz.bytes)
  | .prf g ad _ => g.wf && ad.wf
  | .inv g n ad _ | .wbk g n ad _ => g.wf && ad.wf && n.isPlainInt
  | .own g ad _ => g.wf && ad.wf
  | .pgcm g d ad _ | .pgdc g d ad _ | .pgq g d ad _ => g.wf && ad.wf && d.isW
  | .dalloc g d n _ => g.wf && (d.isWAl 2 || d.isS) && (n.isW || n.isS || n == .int 0)
  | .dfree g n ad _ => g.wf && ad.wf && n.isPlainInt
  | .atom g op sz d ad _ _ _ => g.wf && ad.wfNoOfs && d.isWAl sz.words && (op != .ihull || sz == .b64)
  | .red g op sz a ad _ _ _ =>
    g.wf && ad.wfNoOfs && a.isWAl sz.words && (op != .ihull || sz == .b64) && op != .exch && op != .cas
  | .fenceAcq g _ | .fenceRel g _ | .fenceAcqRel g _ | .fenceSc g _ | .fenceEngine g _ => g.wf
  | .xfence g => g.wf
  | .acqr g _ a => g.wf && a.isPlainInt
  | .waitany g d ad _ => g.wf && ad.wf && d.isW
  | .barv g n _ | .barw g n _ | .bars g n _ => g.wf && barNoWf n
  | .barb g n b _ => g.wf && barNoWf n && b.isPlainInt
  | .seqinc g a ad _ _ _ => g.wf && ad.wfNoOfs && (a.isUniInt || a.isWAl 2)
  | .seqwt g d ad _ _ _ => g.wf && ad.wfNoOfs && d.isS
  | .launch g c a b => g.wf && (c.isW || c.isS) && a.isAddr && b.isUniInt
  | .cancel g _ => g.wf
  | .cpy g a b c _ _ | .cpyo g a b c _ _ _ => g.wf && a.isPlainInt && (b.isAddr || b == .int 0) && c.isPlainInt
  | .mxgang g a | .mxwin g _ a | .mxclr g _ a | .mxsp g _ a => g.wf && a.isPlainInt
  | .mxmm g x a b c => mxOps g a b c && !x.ara && !x.bra
  | .mxim g _ a b c | .mxcv g _ a b c => mxOps g a b c
  | .mxrd g v _ d r c => g.wf && d.isWAl v.words && r.isInt && c.isInt
  | .mxst g _ _ _ a => g.wf && a.isPlainInt
  | .mxsv g _ a | .mxrs g _ a => g.wf && a.isAddr
  | .nbgrid g _ a => g.wf && a.isAddr
  | .nbbin g _ a b | .nbpair g _ a b => g.wf && a.isPlainInt && b.isPlainInt
  | .nbstat g _ d => g.wf && (d.isW || d.isS)
  | .nbmove g _ d b c => g.wf && (d.isW || d.isS) && b.isPlainInt && c.isPlainInt
  | .nbclr g _ => g.wf
  | .trap g _ | .tret g | .tclr g _ | .hold g | .ebrk g _ | .prmark g _ => g.wf
  | .sysrd g d _ => g.wf && (d.isW || d.isS)
  | .syswr g _ a => g.wf && a.isInt && !a.isNb
  | .smpl g _ n => g.wf && decide (1 ≤ n.toNat) && decide (n.toNat ≤ 8)
  | .csave g a | .crest g a => g.wf && a.isAddr
  | .l1DieGrant c _ | .l1PackageGrant c _ _ | .l1Forward c _ _ | .l1Revoke c _ _ | .l1Eviction c _ | .nonhomeRead c _
  | .nonhomeRegistration c _ _ | .nonhomeWriteBack c _ _ | .promotion c _ _ _
  | .stampScrubber _ c _ => c.wf
  | .nonhomePackageGrant d _ _ | .nonhomeForward d _ _ | .nonhomeRevoke d _ | .lossNotice d | .standbyHandBack d
  | .poolpush d _ | .nmctlEnable d | .dbghalt d _ | .dbgrelResume d _ | .dbgrelKill d _ | .rodWindowWrite d _ _
  | .perfctlClear d | .perfctlSnapshot d => decide (d < 8)
  | .attestation stop _ => decide (stop < 10)
  | .linkKeyInstall l _ | .keyRollover l _ | .ringFlitReceive l _ _ | .linkRestore l => decide (l < 10)
  | .widxWrite q _ | .qpush q _ | .slotFetch q => decide (q < 1024)
  | .hwArm io i => decide (io < 2) && decide (i < 64)
  | .tblldComplete _ | .loadComplete _ | .fullEmptyRelease _ _ | .gatherRowArrive _ | .waitanyWake _ _ _ | .waitanyTimeout _ _
  | .barrierPhaseComplete _ | .furlongRemotePhase _ | .seqwtWake _ _ | .copyLineLand _ _ | .copyComplete _ | .mxKStep _
  | .mxOpComplete _ | .nbPairRecord _ | .nbStreamEnd _ | .nbOpComplete _ | .clauseStart _ _ | .breakBitHit _ _ | .sleepExpire _ _
  | .ageingSwap _ | .rtakeGrant _ _ | .translationReplay _ _ | .walkComplete _ _ _ _ | .commit _ _ _ _ | .pgrspRetry _ _ _
  | .pgrspDeny _ _ _ | .xlicInvalidatePages _ | .xlicInvalidateAsid _ | .xlicInvalidateAll _ | .invalidationComplete
  | .homeRead _ _ | .homeRegister _ _ | .homeRegisterFetch _ _ | .homeWriteBack _ _ _ | .homeOwnerAnswer _ _ _
  | .homePerformedAccess _ | .hostSnoop _ _ | .backInvalidateResponse _ | .hostCxlMemAccess _ | .bar2Read _ _ | .bar2Write _ _ _
  | .patrolScrub _ _ | .launchReady _ | .schedulerRound | .schedulerRoundTimer | .levelComplete _ _ | .neighbourCommand _
  | .dmaCopy _ | .dmaFill _ | .dmaRdmaWrite _ | .dmaRdmaRead _ _ _ | .dmaSend _ | .dmaComplete _ _ | .stealRequest _ _ _
  | .stolenItemReturn _ _ _ | .haltReceive _ | .handlerEntry _ | .cancLaunch _ _ | .cancGraph _ _ | .cancPhase _ _ | .cancJob _ _
  | .preqVacate _ | .prel _ | .dlack _ _ | .diectlReset _ | .diectlRetry _ | .powerOn | .moduleReset | .hostSpdmRequest _ | .brksync
  | .registerWrite _ _ _ | .peerRdmaRequest _ _ | .pcSample | .holdLimitExpire => true

end Sys2Proof
end

