-- ==== Sys2Proof/Machine/Interval.lean ====
section
/-!
DEFINITION. Intervals (R180 to R184), their arithmetic, measures, relations and conversions (R272 to R286), midpoint-radius forms
(R189 to R191), long accumulators (R193 to R195), exact-sum cells (R197 to R199) and row statistics (R301 to R304), as
functions on numbers and codes.
-/
namespace Sys2Proof

/-- The bound format of a view (R180). -/
def View.fmt : View → Machine.Fmt
  | .h => Machine.fp16
  | .f => Machine.fp32
  | .y => Machine.fp64

/-- ESZ of a view's element in memory (R351). -/
def View.esz : View → Nat
  | .h => 2
  | .f => 3
  | .y => 4

/-- ESZ of a point format (R342). -/
def PFmt.esz : PFmt → Nat
  | .e4m3 | .e5m2 => 0
  | .hf | .bf => 1
  | .sf => 2

def PFmt.fmt : PFmt → Machine.Fmt
  | .e4m3 => Machine.e4m3
  | .e5m2 => Machine.e5m2
  | .hf => Machine.fp16
  | .bf => Machine.bf16
  | .sf => Machine.fp32

namespace Machine

/-! ### Intervals as sets (R181) -/

/-- An interval: no real at all, or the reals between two bounds. -/
inductive IV where
  | empty
  | mk (lo hi : XR)
  deriving DecidableEq, Repr

/-- A pair of bounds as it reads (R181). -/
def IV.ofBounds (lo hi : Option XR) : IV :=
  match lo, hi with
  | some a, some b => if b.lt a || a == .pinf || b == .ninf then .empty else .mk a b
  | _, _ => .empty

def IV.entire : IV := .mk .ninf .pinf
def IV.point (q : Rat) : IV := .mk (.fin q) (.fin q)

def IV.hasZero : IV → Bool
  | .empty => false
  | .mk a b => a.le (.fin 0) && XR.le (.fin 0) b

/-! ### Pairs of codes (R180, R182) -/

/-- The two bound codes of an interval register. -/
structure Pair where
  lo : Nat
  hi : Nat
  deriving DecidableEq, Repr

/-- What a pair of codes reads as (R181). -/
def Pair.iv (p : Pair) (f : Fmt) : IV := IV.ofBounds (f.value p.lo) (f.value p.hi)

/-- The words of an interval register, first word first (R180). -/
def Pair.words (v : View) (p : Pair) : List Word :=
  match v with
  | .h => [BitVec.ofNat 32 (p.lo + p.hi * 2 ^ 16)]
  | .f => [BitVec.ofNat 32 p.lo, BitVec.ofNat 32 p.hi]
  | .y => [wordAt p.lo 0, wordAt p.lo 1, wordAt p.hi 0, wordAt p.hi 1]

/-- The pair that words hold (R180). -/
def Pair.ofWords (v : View) (ws : List Word) : Pair :=
  let w := fun i => (ws.getD i 0).toNat
  match v with
  | .h => ⟨w 0 % 2 ^ 16, w 0 / 2 ^ 16⟩
  | .f => ⟨w 0, w 1⟩
  | .y => ⟨w 0 + w 1 * 2 ^ 32, w 2 + w 3 * 2 ^ 32⟩

/-- The canonical Empty (R182). -/
def Fmt.emptyPair (f : Fmt) : Pair := ⟨f.posInf, f.negInf⟩

/-- The tightest enclosure of a set in a format (R184). -/
def Fmt.enclose (f : Fmt) : IV → Pair
  | .empty => f.emptyPair
  | .mk a b => ⟨f.down a, f.up b⟩

/-- Both positions hold one number (R278). -/
def Pair.both (c : Nat) : Pair := ⟨c, c⟩

/-! ### Flags (R200, R201) -/

def flagEmpty : Word := 1
def flagUnbnd : Word := 2
def flagDomclip : Word := 4
def flagCompat : Word := 8

/-- The flags that an interval result sets (R201). -/
def Pair.flags (f : Fmt) (p : Pair) : Word :=
  match p.iv f with
  | .empty => flagEmpty
  | .mk a b => if a.isFin && b.isFin then 0 else flagUnbnd

/-- An interval result: its codes and the flags it sets. -/
structure IvOut where
  pair  : Pair
  flags : Word
  deriving DecidableEq, Repr

/-- The enclosure of a set, with its flags and those of members dropped. -/
def Fmt.out (f : Fmt) (s : IV) (clip : Bool) : IvOut :=
  let p := f.enclose s
  ⟨p, p.flags f ||| (if clip then flagDomclip else 0)⟩

/-- A result whose bound codes are given, in canonical form (R182). -/
def Fmt.outPair (f : Fmt) (p : Pair) (clip : Bool) : IvOut := f.out (p.iv f) clip

/-! ### Sets of results (R272 to R276) -/

def IV.add : IV → IV → IV
  | .mk a b, .mk c d => .mk (a.addLo c) (b.addHi d)
  | _, _ => .empty

def IV.neg : IV → IV
  | .mk a b => .mk b.neg a.neg
  | .empty => .empty

def IV.sub (x y : IV) : IV := x.add y.neg

def IV.mul : IV → IV → IV
  | .mk a b, .mk c d =>
    let p := a.mul c
    let q := a.mul d
    let r := b.mul c
    let t := b.mul d
    .mk ((p.min q).min (r.min t)) ((p.max q).max (r.max t))
  | _, _ => .empty

/-- {1/y : y ∈ b, y ≠ 0} where 0 is not interior to b (R276). -/
def IV.inv : IV → IV
  | .mk a b =>
    if a == .fin 0 ∧ b == .fin 0 then .empty
    else if a == .fin 0 then .mk b.inv .pinf
    else if b == .fin 0 then .mk .ninf a.inv
    else .mk b.inv a.inv
  | .empty => .empty

/-- 0 lies strictly between the bounds. -/
def IV.zeroInside : IV → Bool
  | .mk a b => a.lt (.fin 0) && XR.lt (.fin 0) b
  | .empty => false

/-- The pieces of {x/y : x ∈ a, y ∈ b, y ≠ 0} (R276, R277): one set, or two with a gap between. -/
def IV.divPieces (a b : IV) : IV × Option IV :=
  match a, b with
  | .mk _ _, .mk l h =>
    if b.zeroInside then
      if a == IV.point 0 then (IV.point 0, none)
      else if a.hasZero then (IV.entire, none)
      else
        let n := a.mul (.mk .ninf l.inv)
        let p := a.mul (.mk h.inv .pinf)
        if (match a with | .mk x _ => decide (x.sign > 0) | .empty => false) then (n, some p) else (p, some n)
    else (a.mul b.inv, none)
  | _, _ => (.empty, none)

/-- The least interval containing both (R273). -/
def IV.hull : IV → IV → IV
  | .empty, y => y
  | x, .empty => x
  | .mk a b, .mk c d => .mk (a.min c) (b.max d)

/-- The intersection (R273). -/
def IV.meet : IV → IV → IV
  | .mk a b, .mk c d => IV.ofBounds (some (a.max c)) (some (b.min d))
  | _, _ => .empty

/-- The hull of the division set (R276). -/
def IV.div (a b : IV) : IV :=
  match a.divPieces b with
  | (x, some y) => x.hull y
  | (x, none) => x

def IV.sqr : IV → IV
  | .mk a b =>
    let p := a.mul a
    let q := b.mul b
    if (IV.mk a b).hasZero then .mk (.fin 0) (p.max q) else .mk (p.min q) (p.max q)
  | .empty => .empty

def IV.abs : IV → IV
  | .mk a b => if (IV.mk a b).hasZero then .mk (.fin 0) (a.abs.max b.abs) else .mk (a.abs.min b.abs) (a.abs.max b.abs)
  | .empty => .empty

def IV.map2 (f : XR → XR → XR) : IV → IV → IV
  | .mk a b, .mk c d => .mk (f a c) (f b d)
  | _, _ => .empty

/-- A monotone step on finite bounds. -/
def IV.mapFin (f : Rat → Rat) : IV → IV
  | .mk a b =>
    let g := fun (x : XR) => match x with | .fin q => XR.fin (f q) | x => x
    .mk (g a) (g b)
  | .empty => .empty

/-! ### Operations on pairs (R272 to R277) -/

def ivAdd (f : Fmt) (a b : Pair) : IvOut := f.out ((a.iv f).add (b.iv f)) false
def ivSub (f : Fmt) (a b : Pair) : IvOut := f.out ((a.iv f).sub (b.iv f)) false
def ivMul (f : Fmt) (a b : Pair) : IvOut := f.out ((a.iv f).mul (b.iv f)) false
def ivFma (f : Fmt) (a b c : Pair) : IvOut := f.out (((a.iv f).mul (b.iv f)).add (c.iv f)) false

/-- `idiv` (R276): a divisor that contains 0 drops it. -/
def ivDiv (f : Fmt) (a b : Pair) : IvOut := f.out ((a.iv f).div (b.iv f)) (b.iv f).hasZero

def ivRcp (f : Fmt) (a : Pair) : IvOut := f.out ((IV.point 1).div (a.iv f)) (a.iv f).hasZero

/-- `idiv2` (R277): lower piece, upper piece, flags and predicate. -/
def ivDiv2 (f : Fmt) (a b : Pair) : IvOut × IvOut × Bool :=
  let clip := (b.iv f).hasZero
  match (a.iv f).divPieces (b.iv f) with
  | (x, some y) => (f.out x clip, f.out y clip, true)
  | (x, none) => (f.out x clip, f.out .empty clip, false)

def ivSqr (f : Fmt) (a : Pair) : IvOut := f.out (a.iv f).sqr false
def ivAbs (f : Fmt) (a : Pair) : IvOut := f.out (a.iv f).abs false
def ivNeg (f : Fmt) (a : Pair) : IvOut := f.out (a.iv f).neg false
def ivMin (f : Fmt) (a b : Pair) : IvOut := f.out ((a.iv f).map2 XR.min (b.iv f)) false
def ivMax (f : Fmt) (a b : Pair) : IvOut := f.out ((a.iv f).map2 XR.max (b.iv f)) false
def ivFlr (f : Fmt) (a : Pair) : IvOut := f.out ((a.iv f).mapFin (fun q => (q.floor : Rat))) false
def ivCeil (f : Fmt) (a : Pair) : IvOut := f.out ((a.iv f).mapFin (fun q => (q.ceil : Rat))) false
def ivHull (f : Fmt) (a b : Pair) : IvOut := f.out ((a.iv f).hull (b.iv f)) false
def ivMeet (f : Fmt) (a b : Pair) : IvOut := f.out ((a.iv f).meet (b.iv f)) false

/-- `iscl` (R275). A scale beyond ±2^14 takes every nonzero bound past the format's range, as 2^14 does. -/
def ivScl (f : Fmt) (a : Pair) (n : Int) : IvOut :=
  f.out ((a.iv f).mapFin (fun q => q * two (clampInt (-16384) 16384 n))) false

/-- The part of an interval at or above 0 (or above 0), and whether members were dropped. -/
def IV.clipPos (x : IV) (strict : Bool) : IV × Bool :=
  match x with
  | .empty => (.empty, false)
  | .mk a b =>
    if b.lt (.fin 0) || (strict && b == .fin 0) then (.empty, true)
    else (.mk (a.max (.fin 0)) b, a.lt (.fin 0) || (strict && a == .fin 0))

/-- A bound function of finite numbers, with its values at 0 and +∞. -/
def boundOf (x : XR) (at0 : Option Nat) (atInf : Nat) (g : Rat → Nat) : Nat :=
  match x with
  | .fin q => if q = 0 then at0.getD (g q) else g q
  | _ => atInf

/-- `isqrt` (R272). -/
def ivSqrt (f : Fmt) (a : Pair) : IvOut :=
  match (a.iv f).clipPos false with
  | (.empty, c) => f.outPair f.emptyPair c
  | (.mk x y, c) => f.outPair ⟨boundOf x none f.posInf f.rootDown, boundOf y none f.posInf f.rootUp⟩ c

/-- `irsqrt` (R287). -/
def ivRsqrt (f : Fmt) (a : Pair) : IvOut :=
  match (a.iv f).clipPos true with
  | (.empty, c) => f.outPair f.emptyPair c
  | (.mk x y, c) =>
    f.outPair ⟨boundOf y none 0 (fun q => f.rootDown (1 / q)), boundOf x (some f.posInf) 0 (fun q => f.rootUp (1 / q))⟩ c

/-- `iexp2` (R287). -/
def ivExp2 (f : Fmt) (a : Pair) : IvOut :=
  match a.iv f with
  | .empty => f.outPair f.emptyPair false
  | .mk x y =>
    let g := fun (z : XR) (up : Bool) => match z with
      | .ninf => 0
      | .pinf => f.posInf
      | .fin q => f.exp2 q up
    f.outPair ⟨g x false, g y true⟩ false

/-- `ilog2` (R287). -/
def ivLog2 (f : Fmt) (a : Pair) : IvOut :=
  match (a.iv f).clipPos true with
  | (.empty, c) => f.outPair f.emptyPair c
  | (.mk x y, c) =>
    f.outPair ⟨boundOf x (some f.negInf) f.posInf (fun q => f.log2q q false),
      boundOf y (some f.negInf) f.posInf (fun q => f.log2q q true)⟩ c

/-! ### Bounds and measures (R278 to R281) -/

/-- The value of `imid` (R278). -/
def midCode (f : Fmt) : IV → Option Nat
  | .empty => none
  | .mk (.fin a) (.fin b) => some (f.near ((a + b) / 2))
  | .mk .ninf .pinf => some 0
  | .mk .ninf _ => some (f.signed true f.maxCode)
  | .mk _ _ => some f.maxCode

def XR.toRat : XR → Rat
  | .fin q => q
  | _ => 0

/-- The number of a finite code. -/
def Fmt.num (f : Fmt) (c : Nat) : Rat := ((f.value c).map XR.toRat).getD 0

/-- A measure: the number in both positions, or the quiet NaN with EMPTY (R278). -/
def measure (f : Fmt) (a : Pair) (g : XR → XR → Nat) : IvOut :=
  match a.iv f with
  | .empty => ⟨.both f.nanCode, flagEmpty⟩
  | .mk x y => ⟨.both (g x y), 0⟩

def ivInf (f : Fmt) (a : Pair) : IvOut := measure f a (fun x _ => f.down x)
def ivSup (f : Fmt) (a : Pair) : IvOut := measure f a (fun _ y => f.up y)
def ivMid (f : Fmt) (a : Pair) : IvOut := measure f a (fun x y => (midCode f (.mk x y)).getD 0)

def ivRad (f : Fmt) (a : Pair) : IvOut :=
  measure f a (fun x y => match x, y with
    | .fin p, .fin q =>
      let m := f.num (f.near ((p + q) / 2))
      f.up (.fin (max (m - p) (q - m)))
    | _, _ => f.posInf)

def ivWid (f : Fmt) (a : Pair) : IvOut :=
  measure f a (fun x y => match x, y with
    | .fin p, .fin q => f.up (.fin (q - p))
    | _, _ => f.posInf)

def ivMag (f : Fmt) (a : Pair) : IvOut := measure f a (fun x y => f.up (x.abs.max y.abs))

/-- The least magnitude of an interval. -/
def migOf (x y : XR) : XR := if (IV.mk x y).hasZero then .fin 0 else x.abs.min y.abs

def ivMig (f : Fmt) (a : Pair) : IvOut := measure f a (fun x y => f.down (migOf x y))

/-- `imk` (R279). -/
def ivMk (f : Fmt) (a b : Pair) : IvOut := f.out (IV.ofBounds (f.value a.lo) (f.value b.hi)) false

/-- `ipt` (R280). -/
def ivPt (f : Fmt) (c : Nat) : IvOut :=
  match f.value c with
  | some (.fin q) => f.out (IV.point q) false
  | _ => f.out .empty false

/-- The least value of the format above a finite one. -/
def Fmt.nextUp (f : Fmt) (q : Rat) : XR :=
  if q < 0 then .fin (-(f.magValue (f.magDown (-q) - 1)))
  else if f.magDown q + 1 = f.infCode then .pinf else .fin (f.magValue (f.magDown q + 1))

/-- The interior split point (R169). -/
def splitPoint (f : Fmt) : IV → Option Rat
  | .empty => none
  | .mk .ninf .pinf => some 0
  | .mk .ninf b => if b.le (.fin (-f.maxValue)) then none else some (-f.maxValue)
  | .mk (.fin a) .pinf => if f.maxValue ≤ a then none else some f.maxValue
  | .mk (.fin a) (.fin b) => if XR.le (.fin b) (f.nextUp a) then none else some (f.num (f.near ((a + b) / 2)))
  | _ => none

/-- The halves at the split point. -/
def splitIv (f : Fmt) (x : IV) : Option (IV × IV) :=
  match x, splitPoint f x with
  | .mk a b, some m => some (.mk a (.fin m), .mk (.fin m) b)
  | _, _ => none

/-- `ibis` (R281): the two registers, the flags and the predicate. -/
def ivBis (f : Fmt) (a : Pair) : Pair × Pair × Word × Bool :=
  match splitIv f (a.iv f) with
  | some (l, h) => let x := f.out l false; let y := f.out h false; (x.pair, y.pair, x.flags ||| y.flags, true)
  | none => let x := f.out (a.iv f) false; (x.pair, f.emptyPair, x.flags, false)

/-! ### Relations and classes (R187, R188, R282, R283) -/

/-- A relation of R282: the predicate code and whether EMPTY is set. `hasPt` is the number read from b's lower position. -/
def ivRel (r : IRel) (a b : IV) (pt : Option XR) : BitVec 2 × Bool :=
  let tf := fun (t f : Bool) => ((if t then 1 else if f then 0 else 2 : BitVec 2), false)
  let b2 := fun (t : Bool) => ((if t then 1 else 0 : BitVec 2), false)
  match r with
  | .sub => b2 (match a, b with | .empty, _ => true | _, .empty => false | .mk x y, .mk u v => u.le x && y.le v)
  | .disj => b2 (match a, b with | .mk x y, .mk u v => y.lt u || v.lt x | _, _ => true)
  | .has => b2 (match a, pt with | .mk x y, some (.fin q) => x.le (.fin q) && XR.le (.fin q) y | _, _ => false)
  | _ =>
    match a, b with
    | .mk x y, .mk u v =>
      let apart := y.lt u || v.lt x
      let same := x == y && y == u && u == v
      match r with
      | .lt => tf (y.lt u) (v.le x)
      | .le => tf (y.le u) (v.lt x)
      | .gt => tf (v.lt x) (y.le u)
      | .ge => tf (v.le x) (y.lt u)
      | .eq => tf same apart
      | _ => tf apart same
    | _, _ => (2, true)

def ivCls (c : ICls) (a : IV) : Bool :=
  match c, a with
  | .empty, x => x == .empty
  | .entire, x => x == IV.entire
  | .point, .mk x y => x == y
  | .bnd, .mk x y => x.isFin && y.isFin
  | .zero, x => x.hasZero
  | _, .empty => false

/-! ### rad8 and midpoint-radius forms (R179, R189 to R191, R285) -/

/-- The value of a rad8 code below 0xFF. -/
def rad8 (c : Nat) : Rat :=
  let e := c / 16
  let m := c % 16
  if e = 0 then (m : Rat) / 16 else ((16 + m : Nat) : Rat) / 16 * two ((e : Int) - 1)

/-- The midpoint grid of a form: its format with eight fraction bits fewer. -/
def mrcGrid (f : Fmt) : Fmt := { f with m := f.m - 8 }

/-- The midpoint ulp of a grid code (R189). -/
def mrcUlp (f : Fmt) (g : Nat) : Rat :=
  let e := g % (mrcGrid f).signBit / 2 ^ (mrcGrid f).m
  two ((if e = 0 then 1 else e : Nat) - (f.bias : Int) - (mrcGrid f).m)

/-- Expansion (R190) of a code: the bound codes. -/
def mrcExpand (f : Fmt) (code : Nat) : Pair :=
  let g := code / 256
  let r := code % 256
  match (mrcGrid f).value g with
  | none => f.emptyPair
  | some (.fin m) =>
    if r = 255 then f.enclose IV.entire
    else
      let w := rad8 r * mrcUlp f g
      f.enclose (.mk (.fin (m - w)) (.fin (m + w)))
  | some _ => f.enclose IV.entire

/-- a ⊆ b as sets. -/
def IV.subset (a b : IV) : Bool := (ivRel .sub a b none).1 == 1

/-- Compression (R191). -/
def mrcCompress (f : Fmt) (x : IV) : Nat :=
  match x with
  | .empty => 2 ^ f.width - 1
  | .mk (.fin a) (.fin b) =>
    let gr := mrcGrid f
    let c := (a + b) / 2
    let g0 := gr.near c
    let g := if g0 % gr.signBit = gr.infCode then gr.signed (decide (c < 0)) gr.maxCode else g0
    let r := ((List.range 255).find? (fun r => x.subset ((mrcExpand f (256 * g + r)).iv f))).getD 255
    256 * g + r
  | _ => 255

/-- One mid-rad element of an interval (R285): point code, rad8 code, flags. -/
def planeElem (f p : Fmt) (x : IV) (e : Int) : Nat × Nat × Word :=
  match x with
  | .empty => (0, 0, flagEmpty)
  | _ =>
    let mid := f.num ((midCode f x).getD 0)
    let m0 := p.near mid
    let m := if m0 % p.signBit < p.infCode then m0 else p.signed (decide (mid < 0)) p.maxCode
    let c := p.num m
    let code := match x with
      | .mk (.fin a) (.fin b) =>
        ((List.range 255).find? (fun r => decide (c - rad8 r * two e ≤ a) && decide (b ≤ c + rad8 r * two e))).getD 255
      | _ => 255
    (m, code, 0)

/-! ### Conversions (R284) -/

/-- A point format's value as an interval of a view's format. -/
def ivOfPoint (f p : Fmt) (code : Nat) : IvOut :=
  match p.value code with
  | some (.fin q) => f.out (IV.point q) false
  | some .pinf => f.out (.mk (.fin p.maxValue) .pinf) false
  | some .ninf => f.out (.mk .ninf (.fin (-p.maxValue))) false
  | none => f.out IV.entire false

/-- An interval's bound as a saturated integer: floor of the lower or ceiling of the upper; 0 and EMPTY for Empty. -/
def ivToInt (x : IV) (hi : Bool) (least greatest : Int) : Int × Word :=
  match x with
  | .empty => (0, flagEmpty)
  | .mk a b =>
    let z : Int := match (if hi then b else a) with
      | .fin q => clampInt least greatest (if hi then q.ceil else q.floor)
      | .ninf => least
      | .pinf => greatest
    (z, 0)

/-! ### Long accumulators (R193 to R195) -/

/-- Bring an integer into the range of ACC (R194). -/
def accWrap (x : Int) : Int := (x + 2 ^ 186) % 2 ^ 187 - 2 ^ 186

/-! ### Exact-sum cells (R197 to R199) -/

/-- Fields of one half, as a number of 512 bits. -/
def xsSum (h : Nat) : Int := sbits h 383 0
def xsCount (h : Nat) : Nat := bitsOf h 447 384
def xsFlags (h : Nat) : Nat := bitsOf h 450 448

/-- A half from its fields. -/
def xsHalf (sum : Int) (count flags : Nat) : Nat := truncInt 384 sum + count % 2 ^ 64 * 2 ^ 384 + flags * 2 ^ 448

/-- `red.xs` of an interval (R198): the two halves after the update. -/
def xsAdd (h0 h1 : Nat) (x : IV) : Nat × Nat :=
  let c0 := xsCount h0 + 1
  let c1 := xsCount h1 + 1
  let unit := fun (q : Rat) => (q * two 149).floor
  match x with
  | .empty => (xsHalf (xsSum h0) c0 (xsFlags h0 ||| 4), xsHalf (xsSum h1) c1 (xsFlags h1 ||| 4))
  | .mk a b =>
    ((match a with
      | .fin q => xsHalf (xsSum h0 + unit q) c0 (xsFlags h0)
      | _ => xsHalf (xsSum h0) c0 (xsFlags h0 ||| 2)),
     (match b with
      | .fin q => xsHalf (xsSum h1 + unit q) c1 (xsFlags h1)
      | _ => xsHalf (xsSum h1) c1 (xsFlags h1 ||| 1)))

/-- `ld.xs` (R199). -/
def xsRead (f : Fmt) (h0 h1 : Nat) : IvOut :=
  let f0 := xsFlags h0
  let f1 := xsFlags h1
  let lo : XR := if f0 % 4 = 0 then .fin ((xsSum h0 : Rat) * two (-149)) else .ninf
  let hi : XR := if f1 % 4 = 0 then .fin ((xsSum h1 : Rat) * two (-149)) else .pinf
  if f0 / 4 % 2 = 1 ∨ f1 / 4 % 2 = 1 ∨ hi.lt lo then f.out .empty false else f.out (.mk lo hi) false

/-! ### Row statistics (R301 to R304) -/

/-- The unmasked entries of a row. -/
def unmasked (xs : List IV) : List (XR × XR) := xs.filterMap (fun x => match x with | .mk a b => some (a, b) | .empty => none)

def rowMax (f : Fmt) (xs : List IV) : IvOut :=
  f.out ((unmasked xs).foldl (fun r e => match r with | .mk a b => .mk (a.max e.1) (b.max e.2) | .empty => .mk e.1 e.2) .empty) false

def rowMin (f : Fmt) (xs : List IV) : IvOut :=
  f.out ((unmasked xs).foldl (fun r e => match r with | .mk a b => .mk (a.min e.1) (b.min e.2) | .empty => .mk e.1 e.2) .empty) false

/-- The exact sums of lower and of upper bounds. -/
def sumBounds (es : List (XR × XR)) : XR × XR :=
  es.foldl (fun s e => (s.1.addLo e.1, s.2.addHi e.2)) (.fin 0, .fin 0)

def rowSum (f : Fmt) (xs : List IV) : IvOut := let s := sumBounds (unmasked xs); f.out (.mk s.1 s.2) false

def XR.scale (x : XR) (q : Rat) : XR :=
  match x with
  | .fin a => .fin (a * q)
  | x => x

/-- Mean and variance (R302). -/
def rowNorm (f : Fmt) (xs : List IV) : IvOut × IvOut :=
  let es := unmasked xs
  if es.isEmpty then (f.out .empty false, f.out .empty false)
  else
    let n : Rat := es.length
    let s := sumBounds es
    let m := (s.1.scale (1 / n), s.2.scale (1 / n))
    let ds := es.map (fun e => (e.1.addLo m.2.neg, e.2.addHi m.1.neg))
    let lo : XR := ds.foldl (fun t d => XR.addHi t ((migOf d.1 d.2).mul (migOf d.1 d.2))) (XR.fin 0)
    let hi : XR := ds.foldl (fun t d => XR.addHi t ((d.1.abs.max d.2.abs).mul (d.1.abs.max d.2.abs))) (XR.fin 0)
    (f.out (.mk m.1 m.2) false, f.out (.mk (lo.scale (1 / n)) (hi.scale (1 / n))) false)

/-- The shift of `smxexp`: the largest finite upper bound, or 0 (R303). -/
def expShift (xs : List IV) : Rat :=
  ((unmasked xs).filterMap (fun e => match e.2 with | .fin q => some q | _ => none)).foldl
    (fun (m : Option Rat) q => match m with | some x => some (max x q) | none => some q) none |>.getD 0

/-- `smxexp` of one entry (R303). -/
def expEntry (f : Fmt) (x : IV) (m : Rat) : IvOut :=
  match x with
  | .empty => f.out .empty false
  | .mk a b =>
    let g := fun (z : XR) (up : Bool) => match z with
      | .ninf => 0
      | .pinf => f.posInf
      | .fin q => f.expq (q - m) up
    f.outPair ⟨g a false, g b true⟩ false

/-- A part over a whole (R304): x/∞ = 0 and ∞/(∞ + finite) = 1; none for 0/0, which the manual does not state. -/
def share (x rest : XR) : Option XR :=
  match x, rest with
  | .fin a, .fin b => if a + b = 0 then none else some (.fin (a / (a + b)))
  | .fin _, _ => some (.fin 0)
  | _, _ => some (.fin 1)

/-- The entries of `smxnorm` clipped to [0, H] (R304), and whether any was. -/
def normEntries (xs : List IV) : List IV × Bool :=
  (xs.map (fun x => (x.clipPos false).1), xs.any (fun x => (x.clipPos false).2))

/-- `smxnorm` of entry i of a row of clipped entries (R304). A bound of the form 0/0 is free (log 14). -/
def normEntry (f : Fmt) (xs : List IV) (i : Nat) : IvOut :=
  match xs.getD i .empty with
  | .empty => f.out .empty false
  | .mk l h =>
    let others := unmasked (xs.eraseIdx i)
    if others.isEmpty then f.out (IV.point 1) false
    else
      let sh := (others.map Prod.snd).foldl XR.addHi (.fin 0)
      let sl := (others.map Prod.fst).foldl XR.addHi (.fin 0)
      let lo := match share l sh with | some x => f.down x | none => (Config.softmaxOpen f.width i false).toNat % 2 ^ f.width
      let hi := match share h sl with | some x => f.up x | none => (Config.softmaxOpen f.width i true).toNat % 2 ^ f.width
      f.outPair ⟨lo, hi⟩ false

end Machine

end Sys2Proof
end

