-- ==== Sys2Proof/Decode.lean ====
section
/-!
DEFINITION. The decoder and the encoder of Daxvis instruction words and clause headers (R202 to R226). Every word either
decodes to one instruction or is rejected by a name; the encoder is written from the same tables.
-/
namespace Sys2Proof

/-- Why a word is not an instruction. Each is a breach that rejects the clause with cause illegal (R205). -/
inductive DecodeError where
  /-- the opcode is marked — in the opcode map (R225) -/
  | unassigned (opc : BitVec 9)
  /-- GC 111, or a guard that the instruction does not admit (R212, R251) -/
  | guard
  /-- an operand code outside every row of R219, or of a kind the field does not accept -/
  | operand (code : BitVec 9)
  /-- a TYPE or SUBOP the instruction does not accept (R215) -/
  | typeField
  /-- a source modifier that R224 rejects -/
  | modifier
  /-- a field that must be 0 is not (R9, R214), or holds a reserved code (R10) -/
  | reserved
  /-- the fields decode, and break a kind, alignment or range rule of the instruction (WellFormed) -/
  | illFormed
  deriving DecidableEq, Repr

abbrev Dec (α : Type) := Except DecodeError α

/-! ### Fields of an instruction word (R211, R213) -/

def fOpc (w : DWord) : BitVec 9 := w.extractLsb' 55 9
def fGq (w : DWord) : BitVec 4 := w.extractLsb' 51 4
def fGc (w : DWord) : BitVec 3 := w.extractLsb' 48 3
def f1 (w : DWord) : BitVec 9 := w.extractLsb' 39 9
def f2 (w : DWord) : BitVec 9 := w.extractLsb' 30 9
def f3 (w : DWord) : BitVec 9 := w.extractLsb' 21 9
def f4 (w : DWord) : BitVec 9 := w.extractLsb' 12 9
def fType (w : DWord) : BitVec 4 := w.extractLsb' 17 4
def fSub (w : DWord) : BitVec 5 := w.extractLsb' 12 5
def fMod (w : DWord) : BitVec 12 := w.extractLsb' 0 12
def fEng (w : DWord) : BitVec 21 := w.extractLsb' 0 21
def fScope (w : DWord) : BitVec 4 := w.extractLsb' 17 4
def fOrder (w : DWord) : BitVec 2 := w.extractLsb' 15 2
def fHint (w : DWord) : BitVec 3 := w.extractLsb' 12 3
def fSubop (w : DWord) : BitVec 7 := w.extractLsb' 32 7
def fImm (w : DWord) : BitVec 32 := w.extractLsb' 0 32
def fOfs48 (w : DWord) : BitVec 48 := w.extractLsb' 0 48

/-! ### Codes of fields -/

def GuardCond.code : GuardCond → BitVec 3
  | .always => 0 | .isT => 1 | .isF => 2 | .isU => 3 | .notT => 4 | .notF => 5 | .notU => 6

def GuardCond.ofCode (c : BitVec 3) : Option GuardCond :=
  [GuardCond.always, .isT, .isF, .isU, .notT, .notF, .notU][c.toNat]?

def SReg.sub : SReg → BitVec 4
  | .lane => 0 | .active => 1 | .place => 2 | .chain => 3 | .role => 4 | .iflags => 5 | .mflags => 6
  | .cause => 7 | .skid => 8 | .agelimit => 9 | .compat => 10 | .holdlimit => 11 | .cycle => 12 | .flags => 13

def SReg.ofIdx (n : Nat) : Option SReg :=
  [SReg.lane, .active, .place, .chain, .role, .iflags, .mflags, .cause, .skid, .agelimit, .compat, .holdlimit, .cycle, .flags][n]?

def Port.code : Port → BitVec 9
  | .mx => 0x160 | .cp => 0x161 | .nb => 0x162 | .gx => 0x163

def IConst.num : IConst → BitVec 9
  | .half => 0 | .quarter => 1 | .negHalf => 2 | .pi => 3 | .e => 4 | .ln2 => 5 | .entire => 6 | .empty => 7 | .unit => 8 | .sym => 9

def IConst.ofIdx (n : Nat) : Option IConst :=
  [IConst.half, .quarter, .negHalf, .pi, .e, .ln2, .entire, .empty, .unit, .sym][n]?

/-- The 9-bit code of an operand (R219, R221, R222). -/
def Operand.code : Operand → BitVec 9
  | .w n => n.zeroExtend 9
  | .s n => 0x100 + n.zeroExtend 9
  | .q n => 0x140 + n.zeroExtend 9
  | .k n => 0x150 + n.zeroExtend 9
  | .port p => p.code
  | .sr r => 0x180 + r.sub.zeroExtend 9
  | .int n => 0x1C0 + n.zeroExtend 9
  | .ic c => 0x1E0 + c.num

/-- The operand that a 9-bit code names (R219); a code outside every row names none. -/
def Operand.ofCode (c : BitVec 9) : Option Operand :=
  let n := c.toNat
  if n < 0x100 then some (.w (BitVec.ofNat 8 n))
  else if n < 0x140 then some (.s (BitVec.ofNat 6 (n - 0x100)))
  else if n < 0x150 then some (.q (BitVec.ofNat 4 (n - 0x140)))
  else if n < 0x154 then some (.k (BitVec.ofNat 2 (n - 0x150)))
  else if n < 0x160 then none
  else if n < 0x164 then
    match n with
    | 0x160 => some (.port .mx)
    | 0x161 => some (.port .cp)
    | 0x162 => some (.port .nb)
    | _ => some (.port .gx)
  else if n < 0x180 then none
  else if n < 0x18E then (SReg.ofIdx (n - 0x180)).map .sr
  else if n < 0x1C0 then none
  else if n < 0x1E0 then some (.int (BitVec.ofNat 5 (n - 0x1C0)))
  else (IConst.ofIdx (n - 0x1E0)).map .ic

def Ty.code : Ty → BitVec 4
  | .i8 => 0 | .i16 => 1 | .i32 => 2 | .i64 => 3 | .n8 => 4 | .n16 => 5 | .n32 => 6 | .n64 => 7
  | .h => 8 | .f => 9 | .y => 10 | .e4m3 => 11 | .e5m2 => 12 | .hf => 13 | .bf => 14 | .sf => 15

def Ty.ofIdx (n : Nat) : Option Ty :=
  [Ty.i8, .i16, .i32, .i64, .n8, .n16, .n32, .n64, .h, .f, .y, .e4m3, .e5m2, .hf, .bf, .sf][n]?

/-- The type code that names a view. -/
def View.ty : View → Ty
  | .h => .h | .f => .f | .y => .y

/-- The view of a TYPE field (R270). -/
def View.ofTy : Ty → Option View
  | .h => some .h | .f => some .f | .y => some .y
  | _ => none

/-- The two-bit view code of `mxrd` and `mxst` (R350). -/
def View.code : View → BitVec 2
  | .h => 0 | .f => 1 | .y => 2

def View.ofIdx (n : Nat) : Option View := [View.h, .f, .y][n]?

def PFmt.code : PFmt → BitVec 3
  | .e4m3 => 0 | .e5m2 => 1 | .hf => 2 | .bf => 3 | .sf => 4

def PFmt.ofIdx (n : Nat) : Option PFmt := [PFmt.e4m3, .e5m2, .hf, .bf, .sf][n]?

def LdiMode.code : LdiMode → BitVec 7
  | .sext => 0 | .zext => 1 | .hi => 2

def LdiMode.ofIdx (n : Nat) : Option LdiMode := [LdiMode.sext, .zext, .hi][n]?

def CmpRel.code : CmpRel → BitVec 5
  | .eq => 0 | .ne => 1 | .lt => 2 | .le => 3 | .gt => 4 | .ge => 5

def CmpRel.ofIdx (n : Nat) : Option CmpRel := [CmpRel.eq, .ne, .lt, .le, .gt, .ge][n]?

def IRel.code : IRel → BitVec 5
  | .lt => 0 | .le => 1 | .gt => 2 | .ge => 3 | .eq => 4 | .ne => 5 | .sub => 8 | .disj => 9 | .has => 10

def IRel.ofIdx (n : Nat) : Option IRel :=
  match n with
  | 0 => some .lt | 1 => some .le | 2 => some .gt | 3 => some .ge | 4 => some .eq | 5 => some .ne
  | 8 => some .sub | 9 => some .disj | 10 => some .has
  | _ => none

def ICls.code : ICls → BitVec 5
  | .empty => 0 | .entire => 1 | .point => 2 | .bnd => 3 | .zero => 4

def ICls.ofIdx (n : Nat) : Option ICls := [ICls.empty, .entire, .point, .bnd, .zero][n]?

def VoteMode.code : VoteMode → BitVec 9
  | .all => 0x1C0 | .any => 0x1C1 | .same => 0x1C2

def VoteMode.ofCode (c : BitVec 9) : Option VoteMode :=
  if c = 0x1C0 then some .all else if c = 0x1C1 then some .any else if c = 0x1C2 then some .same else none

def MaskMode.code : MaskMode → BitVec 9
  | .t => 0x1C0 | .f => 0x1C1 | .u => 0x1C2 | .word => 0x1C3

def MaskMode.ofCode (c : BitVec 9) : Option MaskMode :=
  if c = 0x1C0 then some .t else if c = 0x1C1 then some .f else if c = 0x1C2 then some .u
  else if c = 0x1C3 then some .word else none

def FromMode.cc : FromMode → BitVec 9
  | .nz => 0x1C0 | .code => 0x1C1 | .bit => 0x1C2 | .word => 0x1C3

def FromMode.ofCode (c : BitVec 9) : Option FromMode :=
  if c = 0x1C0 then some .nz else if c = 0x1C1 then some .code else if c = 0x1C2 then some .bit
  else if c = 0x1C3 then some .word else none

def NWords.code : NWords → BitVec 9
  | .n1 => 0x1C1 | .n2 => 0x1C2 | .n4 => 0x1C4

def NWords.ofCode (c : BitVec 9) : Option NWords :=
  if c = 0x1C1 then some .n1 else if c = 0x1C2 then some .n2 else if c = 0x1C4 then some .n4 else none

def Scope.code : Scope → BitVec 4
  | .lane => 0 | .rod => 1 | .chain => 2 | .furlong => 3 | .core => 4 | .die => 5 | .package => 6 | .host => 7 | .node => 8 | .fabric => 9

def Scope.ofIdx (n : Nat) : Option Scope :=
  [Scope.lane, .rod, .chain, .furlong, .core, .die, .package, .host, .node, .fabric][n]?

def Order.code : Order → BitVec 2
  | .plain => 0 | .acq => 1 | .rel => 2 | .ar => 3

def Order.ofCode (c : BitVec 2) : Order :=
  if c = 0 then .plain else if c = 1 then .acq else if c = 2 then .rel else .ar

def Hint.code : Hint → BitVec 3
  | .normal => 0 | .stream => 1 | .near => 2 | .l2only => 3 | .evict => 4 | .noalloc => 5 | .last => 6 | .keepl2 => 7

def Hint.ofCode (c : BitVec 3) : Hint :=
  if c = 0 then .normal else if c = 1 then .stream else if c = 2 then .near else if c = 3 then .l2only
  else if c = 4 then .evict else if c = 5 then .noalloc else if c = 6 then .last else .keepl2

def AmoOp.code : AmoOp → BitVec 4
  | .add => 0 | .and => 1 | .or => 2 | .xor => 3 | .min => 4 | .max => 5 | .minn => 6 | .maxn => 7 | .exch => 8 | .cas => 9 | .ihull => 10

def AmoOp.ofIdx (n : Nat) : Option AmoOp :=
  [AmoOp.add, .and, .or, .xor, .min, .max, .minn, .maxn, .exch, .cas, .ihull][n]?

def AmoSize.code : AmoSize → BitVec 2
  | .b32 => 0 | .b64 => 1

def AmoSize.ofCode (c : BitVec 2) : Option AmoSize := if c = 0 then some .b32 else if c = 1 then some .b64 else none

def BarLevel.code : BarLevel → BitVec 9
  | .chain => 0x1C0 | .furlong => 0x1C1 | .launch => 0x1C2

def BarLevel.ofCode (c : BitVec 9) : Option BarLevel :=
  if c = 0x1C0 then some .chain else if c = 0x1C1 then some .furlong else if c = 0x1C2 then some .launch else none

def Level.code : Level → BitVec 9
  | .launch => 0x1C0 | .graph => 0x1C1 | .phase => 0x1C2 | .job => 0x1C3

def Level.ofCode (c : BitVec 9) : Option Level :=
  if c = 0x1C0 then some .launch else if c = 0x1C1 then some .graph else if c = 0x1C2 then some .phase
  else if c = 0x1C3 then some .job else none

def MxSpace.code : MxSpace → BitVec 2
  | .mem => 0 | .sp => 1 | .fl => 2

def MxSpace.ofCode (c : BitVec 2) : Option MxSpace :=
  if c = 0 then some .mem else if c = 1 then some .sp else if c = 2 then some .fl else none

/-- The engine bits of a product (R341). -/
def MxFields.code (x : MxFields) : BitVec 21 :=
  x.tile ++ x.af.code ++ x.bf.code ++ BitVec.ofBool x.ara ++ BitVec.ofBool x.bra ++ x.asp.code ++ x.bsp.code ++ (0 : BitVec 6)

def ModKind.code : ModKind → BitVec 2
  | .rot => 1 | .bfly => 2 | .bcast => 3

def ModSrc.code : ModSrc → BitVec 2
  | .a => 0 | .b => 1 | .c => 2

/-- The MOD field (R223). -/
def encMod : Option SrcMod → BitVec 12
  | none => 0
  | some m => m.kind.code ++ m.z ++ m.dist ++ m.src.code

/-- BLV and BNO of a copy (R329). -/
def encBar : Option CopyBar → BitVec 6
  | none => 0
  | some b => (if b.furlong then (2 : BitVec 2) else 1) ++ b.no

/-! ### Packing a word (R211, R213) -/

def packHead (opc : BitVec 9) (g : Guard) (low : BitVec 48) : DWord := opc ++ g.q ++ g.c.code ++ low

def encA (opc : BitVec 9) (g : Guard) (d a b c : BitVec 9) (m : BitVec 12) : DWord :=
  packHead opc g (d ++ a ++ b ++ c ++ m)

def encL (opc : BitVec 9) (g : Guard) (d : BitVec 9) (subop : BitVec 7) (imm : BitVec 32) : DWord :=
  packHead opc g (d ++ subop ++ imm)

def encB (opc : BitVec 9) (g : Guard) (ofs : BitVec 48) : DWord := packHead opc g ofs

def encX (opc : BitVec 9) (g : Guard) (a b c : BitVec 9) (eng : BitVec 21) : DWord :=
  packHead opc g (a ++ b ++ c ++ eng)

def encMraw (opc : BitVec 9) (g : Guard) (data base index : BitVec 9) (sc : Scope) (o : Order) (h : BitVec 3)
    (low : BitVec 12) : DWord :=
  packHead opc g (data ++ base ++ index ++ sc.code ++ o.code ++ h ++ low)

def encM (opc : BitVec 9) (g : Guard) (data : BitVec 9) (ad : MAddr) (sc : Scope) (o : Order) (h : BitVec 3)
    (low : BitVec 12) : DWord :=
  encMraw opc g data ad.base.code ad.index.code sc o h low

/-- Field c as the type field (R214). -/
def encTy (t : Ty) (sub : BitVec 5) : BitVec 9 := t.code ++ sub

/-- SUBOP of `cvt` and `icvt`: the source type, and bit 4 (R240, R284). -/
def encCvtSub (hi : Bool) (t : Ty) : BitVec 5 := BitVec.ofBool hi ++ t.code

/-! ### Reading the fields -/

/-- What an optional field must be present as. -/
def need {α : Type} (o : Option α) (e : DecodeError) : Dec α :=
  match o with
  | some x => .ok x
  | none => .error e

/-- A condition on the word whose breach is the named error. -/
def check (c : Bool) (e : DecodeError) : Dec Unit := if c then .ok () else .error e

def decGuard (w : DWord) : Dec Guard :=
  match GuardCond.ofCode (fGc w) with
  | some c => .ok ⟨fGq w, c⟩
  | none => .error .guard

def decOp (c : BitVec 9) : Dec Operand := need (Operand.ofCode c) (.operand c)

def decW (c : BitVec 9) : Dec (BitVec 8) := if c.toNat < 256 then .ok (c.setWidth 8) else .error (.operand c)

def decQ (c : BitVec 9) : Dec (BitVec 4) :=
  match Operand.ofCode c with
  | some (.q n) => .ok n
  | _ => .error (.operand c)

def decK (c : BitVec 9) : Dec (BitVec 2) :=
  match Operand.ofCode c with
  | some (.k n) => .ok n
  | _ => .error (.operand c)

def decTyField (w : DWord) : Dec Ty := need (Ty.ofIdx (fType w).toNat) .typeField

def decView (w : DWord) : Dec View :=
  match Ty.ofIdx (fType w).toNat with
  | some .h => .ok .h
  | some .f => .ok .f
  | some .y => .ok .y
  | _ => .error .typeField

/-- The source modifier (R223, R224). -/
def decMod (w : DWord) : Dec (Option SrcMod) :=
  let m := fMod w
  let z : BitVec 3 := m.extractLsb' 7 3
  let dist : BitVec 5 := m.extractLsb' 2 5
  let src : Option ModSrc := [ModSrc.a, .b, .c][(m.extractLsb' 0 2).toNat]?
  let kind : Option ModKind := [ModKind.rot, .bfly, .bcast][(m.extractLsb' 10 2).toNat - 1]?
  if m.extractLsb' 10 2 = 0 then (if m = 0 then .ok none else .error .modifier)
  else
    match kind, src with
    | some k, some s => .ok (some ⟨k, z, dist, s⟩)
    | _, _ => .error .modifier

/-- SCOPE and ORDER of format M. -/
def decScope (w : DWord) : Dec Scope := need (Scope.ofIdx (fScope w).toNat) .reserved

/-- The address fields of format M. -/
def decAddr (w : DWord) : Dec MAddr := do
  let b ← decOp (f2 w)
  let i ← decOp (f3 w)
  pure ⟨b, i, fMod w⟩

/-- BASE and INDEX of a form whose low bits are an atomic field (R217). -/
def decAddr0 (w : DWord) : Dec MAddr := do
  let b ← decOp (f2 w)
  let i ← decOp (f3 w)
  pure ⟨b, i, 0⟩

/-- SCOPE and ORDER are 0 in a form without an order (R306). -/
def noOrder (w : DWord) : Dec Unit := check (fScope w == 0 && fOrder w == 0) .reserved

/-! ### One reader per shape of instruction -/

def decABm (mk : Guard → Operand → Operand → Operand → Option SrcMod → Instr) (w : DWord) : Dec Instr := do
  let g ← decGuard w
  let d ← decOp (f1 w)
  let a ← decOp (f2 w)
  let b ← decOp (f3 w)
  check (f4 w == 0) .reserved
  let m ← decMod w
  pure (mk g d a b m)

def decAm (mk : Guard → Operand → Operand → Option SrcMod → Instr) (w : DWord) : Dec Instr := do
  let g ← decGuard w
  let d ← decOp (f1 w)
  let a ← decOp (f2 w)
  check (f3 w == 0 && f4 w == 0) .reserved
  let m ← decMod w
  pure (mk g d a m)

def decABCm (mk : Guard → Operand → Operand → Operand → Operand → Option SrcMod → Instr) (w : DWord) : Dec Instr := do
  let g ← decGuard w
  let d ← decOp (f1 w)
  let a ← decOp (f2 w)
  let b ← decOp (f3 w)
  let c ← decOp (f4 w)
  let m ← decMod w
  pure (mk g d a b c m)

def decSel (w : DWord) : Dec Instr := do
  let g ← decGuard w
  let d ← decOp (f1 w)
  let a ← decOp (f2 w)
  let b ← decOp (f3 w)
  let q ← decQ (f4 w)
  let m ← decMod w
  pure (.sel g d a b q m)

def decLdi (w : DWord) : Dec Instr := do
  let g ← decGuard w
  let d ← decOp (f1 w)
  let mode ← need (LdiMode.ofIdx (fSubop w).toNat) .typeField
  pure (.ldi g mode d (fImm w))

def decCvt (w : DWord) : Dec Instr := do
  let g ← decGuard w
  let d ← decOp (f1 w)
  let a ← decOp (f2 w)
  check (f3 w == 0) .reserved
  let dt ← decTyField w
  let st ← need (Ty.ofIdx ((fSub w).extractLsb' 0 4).toNat) .typeField
  let m ← decMod w
  pure (.cvt g dt st ((fSub w).getLsbD 4) d a m)

def decKset (w : DWord) : Dec Instr := do
  let g ← decGuard w
  let k ← decK (f1 w)
  check (fSubop w == 0) .reserved
  check (((fImm w).setWidth 10).signExtend 32 == fImm w) .reserved
  pure (.kset g k ((fImm w).setWidth 10))

def decKadd (w : DWord) : Dec Instr := do
  let g ← decGuard w
  let k ← decK (f1 w)
  let a ← decOp (f2 w)
  let b ← decOp (f3 w)
  check (f4 w == 0) .reserved
  let m ← decMod w
  pure (.kadd g k a b m)

def decRdx (w : DWord) : Dec Instr := do
  let g ← decGuard w
  let d ← decW (f1 w)
  let base ← decW (f2 w)
  let k ← decK (f3 w)
  let n ← need (NWords.ofCode (f4 w)) (.operand (f4 w))
  check (fMod w == 0) .modifier
  pure (.rdx g d base k n)

def decWrx (w : DWord) : Dec Instr := do
  let g ← decGuard w
  let base ← decW (f1 w)
  let k ← decK (f2 w)
  let b ← decW (f3 w)
  let n ← need (NWords.ofCode (f4 w)) (.operand (f4 w))
  check (fMod w == 0) .modifier
  pure (.wrx g base k b n)

def decCmp (w : DWord) : Dec Instr := do
  let g ← decGuard w
  let q ← decQ (f1 w)
  let a ← decOp (f2 w)
  let b ← decOp (f3 w)
  let ty ← decTyField w
  let rel ← need (CmpRel.ofIdx (fSub w).toNat) .typeField
  let m ← decMod w
  pure (.cmp g ty rel q a b m)

def decQ3 (mk : Guard → BitVec 4 → BitVec 4 → BitVec 4 → Instr) (w : DWord) : Dec Instr := do
  let g ← decGuard w
  let d ← decQ (f1 w)
  let a ← decQ (f2 w)
  let b ← decQ (f3 w)
  check (f4 w == 0 && fMod w == 0) .reserved
  pure (mk g d a b)

def decQ2 (mk : Guard → BitVec 4 → BitVec 4 → Instr) (w : DWord) : Dec Instr := do
  let g ← decGuard w
  let d ← decQ (f1 w)
  let a ← decQ (f2 w)
  check (f3 w == 0 && f4 w == 0 && fMod w == 0) .reserved
  pure (mk g d a)

def decVote (w : DWord) : Dec Instr := do
  let g ← decGuard w
  let d ← decQ (f1 w)
  let a ← decQ (f2 w)
  let mode ← need (VoteMode.ofCode (f4 w)) (.operand (f4 w))
  check (f3 w == 0 && fMod w == 0) .reserved
  pure (.qvote g mode d a)

def decMask (w : DWord) : Dec Instr := do
  let g ← decGuard w
  let d ← decOp (f1 w)
  let a ← decQ (f2 w)
  let mode ← need (MaskMode.ofCode (f4 w)) (.operand (f4 w))
  check (f3 w == 0 && fMod w == 0) .reserved
  pure (.qmask g mode d a)

def decFrom (w : DWord) : Dec Instr := do
  let g ← decGuard w
  let d ← decQ (f1 w)
  let a ← decOp (f2 w)
  let mode ← need (FromMode.ofCode (f4 w)) (.operand (f4 w))
  check (f3 w == 0) .reserved
  let m ← decMod w
  pure (.qfrom g mode d a m)

def decBr (mk : Guard → BitVec 48 → Instr) (w : DWord) : Dec Instr := do
  let g ← decGuard w
  pure (mk g (fOfs48 w))

/-- `br3` alone uses GQ as its predicate, with GC 000 (R212). -/
def decBr3 (w : DWord) : Dec Instr := do
  check (fGc w == 0) .guard
  pure (.br3 (fGq w) (w.extractLsb' 32 16) (w.extractLsb' 16 16) (w.extractLsb' 0 16))

def decJoin (w : DWord) : Dec Instr := do
  check (fGc w == 0 && fGq w == 0) .guard
  pure (.join (fOfs48 w))

def dec0 (mk : Guard → Instr) (w : DWord) : Dec Instr := do
  let g ← decGuard w
  check (fOfs48 w == 0) .reserved
  pure (mk g)

/-- Format A with field a alone and the other fields 0; it takes no modifier (R251; log 15). -/
def decA1 (mk : Guard → Operand → Instr) (w : DWord) : Dec Instr := do
  let g ← decGuard w
  let a ← decOp (f2 w)
  check (f1 w == 0 && f3 w == 0 && f4 w == 0 && fMod w == 0) .reserved
  pure (mk g a)

def decSplit (w : DWord) : Dec Instr := do
  let g ← decGuard w
  let x ← decW (f1 w)
  let q ← decQ (f2 w)
  let v ← decView w
  let n : BitVec 4 := (fSub w).setWidth 4
  check ((fSub w).toNat ≤ 12) .typeField
  let b ← (if n = 0 then (check (f3 w == 0x1C0) (.operand (f3 w))).map (fun _ => (0 : BitVec 8)) else decW (f3 w))
  check (fMod w == 0) .modifier
  pure (.split g v x q b n)

def decFork (w : DWord) : Dec Instr := do
  let g ← decGuard w
  let q ← decQ (f2 w)
  let b ← decW (f3 w)
  check (f1 w == 0 && fMod w == 0) .reserved
  check (fType w == Ty.n32.code && (fSub w).toNat < 16) .typeField
  pure (.fork g q b ((fSub w).setWidth 4))

def decTake (w : DWord) : Dec Instr := do
  let g ← decGuard w
  let d ← decW (f1 w)
  let q ← decQ (f2 w)
  check (f3 w == 0 && f4 w == 0 && fMod w == 0) .reserved
  pure (.take g d q)

def decPoolst (w : DWord) : Dec Instr := do
  let g ← decGuard w
  let d ← decW (f1 w)
  check (f2 w == 0 && f3 w == 0 && f4 w == 0 && fMod w == 0) .reserved
  pure (.poolst g d)

def decIv2 (mk : Guard → View → Operand → Operand → Operand → Option SrcMod → Instr) (w : DWord) : Dec Instr := do
  let g ← decGuard w
  let d ← decOp (f1 w)
  let a ← decOp (f2 w)
  let b ← decOp (f3 w)
  let v ← decView w
  check (fSub w == 0) .typeField
  let m ← decMod w
  pure (mk g v d a b m)

def decIv1 (mk : Guard → View → Operand → Operand → Option SrcMod → Instr) (w : DWord) : Dec Instr := do
  let g ← decGuard w
  let d ← decOp (f1 w)
  let a ← decOp (f2 w)
  check (f3 w == 0) .reserved
  let v ← decView w
  check (fSub w == 0) .typeField
  let m ← decMod w
  pure (mk g v d a m)

def decIfma (v : View) (w : DWord) : Dec Instr := do
  let g ← decGuard w
  let d ← decOp (f1 w)
  let a ← decOp (f2 w)
  let b ← decOp (f3 w)
  let c ← decOp (f4 w)
  let m ← decMod w
  pure (.ifma g v d a b c m)

def decIdiv2 (w : DWord) : Dec Instr := do
  let g ← decGuard w
  let d ← decOp (f1 w)
  let a ← decOp (f2 w)
  let b ← decOp (f3 w)
  let v ← decView w
  check ((fSub w).toNat < 16) .typeField
  let m ← decMod w
  pure (.idiv2 g v d a b ((fSub w).setWidth 4) m)

def decIbis (w : DWord) : Dec Instr := do
  let g ← decGuard w
  let d ← decOp (f1 w)
  let a ← decOp (f2 w)
  check (f3 w == 0) .reserved
  let v ← decView w
  check ((fSub w).toNat < 16) .typeField
  let m ← decMod w
  pure (.ibis g v d a ((fSub w).setWidth 4) m)

def decIcmp (w : DWord) : Dec Instr := do
  let g ← decGuard w
  let q ← decQ (f1 w)
  let a ← decOp (f2 w)
  let b ← decOp (f3 w)
  let v ← decView w
  let rel ← need (IRel.ofIdx (fSub w).toNat) .typeField
  let m ← decMod w
  pure (.icmp g v rel q a b m)

def decIcls (w : DWord) : Dec Instr := do
  let g ← decGuard w
  let q ← decQ (f1 w)
  let a ← decOp (f2 w)
  check (f3 w == 0) .reserved
  let v ← decView w
  let cls ← need (ICls.ofIdx (fSub w).toNat) .typeField
  let m ← decMod w
  pure (.icls g v cls q a m)

def decIcvt (w : DWord) : Dec Instr := do
  let g ← decGuard w
  let d ← decOp (f1 w)
  let a ← decOp (f2 w)
  check (f3 w == 0) .reserved
  let dt ← decTyField w
  let st ← need (Ty.ofIdx ((fSub w).extractLsb' 0 4).toNat) .typeField
  let m ← decMod w
  pure (.icvt g dt st ((fSub w).getLsbD 4) d a m)

/-- SUBOP 00000 is the MRC mode, 1 0 fff the plane mode (R285). -/
def decImr (w : DWord) : Dec Instr := do
  let g ← decGuard w
  let d ← decOp (f1 w)
  let a ← decOp (f2 w)
  let v ← decView w
  let m ← decMod w
  if fSub w = 0 then
    check (f3 w == 0) .reserved
    pure (.imr g v none d a m)
  else
    check ((fSub w).extractLsb' 3 2 == 2) .typeField
    let fmt ← need (PFmt.ofIdx ((fSub w).extractLsb' 0 3).toNat) .typeField
    let b ← decOp (f3 w)
    pure (.imr g v (some (fmt, b)) d a m)

def decIfn (w : DWord) : Dec Instr := do
  let g ← decGuard w
  let d ← decOp (f1 w)
  let a ← decOp (f2 w)
  check (f3 w == 0) .reserved
  let v ← decView w
  check ((fSub w).toNat < 16) .typeField
  let m ← decMod w
  pure (.ifn g v ((fSub w).setWidth 4) d a m)

def decIfnc (w : DWord) : Dec Instr := do
  let g ← decGuard w
  let d ← decOp (f1 w)
  let a ← decOp (f2 w)
  check (f3 w == 0) .reserved
  check (fType w == Ty.f.code && (fSub w).toNat < 16) .typeField
  let m ← decMod w
  pure (.ifnc g ((fSub w).setWidth 4) d a m)

def decTblld (w : DWord) : Dec Instr := do
  let g ← decGuard w
  let a ← decOp (f1 w)
  check (f2 w == 0 && f3 w == 0 && (fEng w).extractLsb' 0 9 == 0) .reserved
  pure (.tblld g a ((fEng w).extractLsb' 17 4) ((fEng w).extractLsb' 9 8))

def decTblsw (w : DWord) : Dec Instr := do
  let g ← decGuard w
  check (fOfs48 w == 0) .reserved
  pure (.tblsw g)

def decTblq (w : DWord) : Dec Instr := do
  let g ← decGuard w
  let d ← decOp (f1 w)
  check (f2 w == 0 && f3 w == 0 && (fEng w).extractLsb' 0 17 == 0) .reserved
  pure (.tblq g d ((fEng w).extractLsb' 17 4))

def decRow (mk : Guard → View → BitVec 3 → Operand → Operand → Option Operand → Option SrcMod → Instr) (w : DWord) : Dec Instr := do
  let g ← decGuard w
  let d ← decOp (f1 w)
  let a ← decOp (f2 w)
  let v ← decView w
  check ((fSub w).toNat < 8) .typeField
  let m ← decMod w
  if fSub w = 0 then
    let b ← decOp (f3 w)
    pure (mk g v 0 d a (some b) m)
  else
    check (f3 w == 0) .reserved
    pure (mk g v ((fSub w).setWidth 3) d a none m)

def decSmxexp (w : DWord) : Dec Instr := do
  let g ← decGuard w
  let d ← decOp (f1 w)
  let a ← decOp (f2 w)
  check (f3 w == 0) .reserved
  let v ← decView w
  check ((fSub w).toNat < 8) .typeField
  let m ← decMod w
  pure (.smxexp g v ((fSub w).setWidth 3) d a m)

def decSmxnorm (w : DWord) : Dec Instr := do
  let g ← decGuard w
  let d ← decOp (f1 w)
  let a ← decOp (f2 w)
  let q ← decQ (f3 w)
  let v ← decView w
  check ((fSub w).toNat < 8) .typeField
  let m ← decMod w
  pure (.smxnorm g v ((fSub w).setWidth 3) d a q m)

def decSized (mk : Guard → Size → Operand → MAddr → Scope → Order → Hint → Instr) (sz : Size) (w : DWord) : Dec Instr := do
  let g ← decGuard w
  let d ← decOp (f1 w)
  let ad ← decAddr w
  let sc ← decScope w
  pure (mk g sz d ad sc (Order.ofCode (fOrder w)) (Hint.ofCode (fHint w)))

def decMr (mk : Guard → View → Operand → MAddr → Scope → Order → Hint → Instr) (v : View) (w : DWord) : Dec Instr := do
  let g ← decGuard w
  let d ← decOp (f1 w)
  let ad ← decAddr w
  let sc ← decScope w
  pure (mk g v d ad sc (Order.ofCode (fOrder w)) (Hint.ofCode (fHint w)))

def decLdXs (w : DWord) : Dec Instr := do
  let g ← decGuard w
  let d ← decOp (f1 w)
  let ad ← decAddr w
  let sc ← decScope w
  check (fHint w == 0 || fHint w == 1) .reserved
  pure (.ldXs g (if fHint w = 0 then .f else .y) d ad sc (Order.ofCode (fOrder w)))

def decRedXs (w : DWord) : Dec Instr := do
  let g ← decGuard w
  let d ← decOp (f1 w)
  let ad ← decAddr w
  let sc ← decScope w
  check (fHint w == 0) .reserved
  pure (.redXs g d ad sc (Order.ofCode (fOrder w)))

def decFest (w : DWord) : Dec Instr := do
  let g ← decGuard w
  check (f1 w == 0x1C0 || f1 w == 0x1C1) (.operand (f1 w))
  let ad ← decAddr w
  noOrder w
  pure (.fest g (f1 w == 0x1C1) ad (Hint.ofCode (fHint w)))

/-- A form without an order whose DATA is an operand. -/
def decMd (mk : Guard → Operand → MAddr → Hint → Instr) (w : DWord) : Dec Instr := do
  let g ← decGuard w
  let d ← decOp (f1 w)
  let ad ← decAddr w
  noOrder w
  pure (mk g d ad (Hint.ofCode (fHint w)))

/-- A form without an order whose DATA must be 0. -/
def decM0 (mk : Guard → MAddr → Hint → Instr) (w : DWord) : Dec Instr := do
  let g ← decGuard w
  let ad ← decAddr w
  check (f1 w == 0) .reserved
  noOrder w
  pure (mk g ad (Hint.ofCode (fHint w)))

/-- DATA of `gth` names port.gx (R312). -/
def decGth (sz : Size) (w : DWord) : Dec Instr := do
  let g ← decGuard w
  let ad ← decAddr w
  check (f1 w == 0x163) (.operand (f1 w))
  noOrder w
  pure (.gth g sz ad (Hint.ofCode (fHint w)))

def decDalloc (w : DWord) : Dec Instr := do
  let g ← decGuard w
  let d ← decOp (f1 w)
  let n ← decOp (f3 w)
  check (f2 w == 0 && fMod w == 0) .reserved
  noOrder w
  pure (.dalloc g d n (Hint.ofCode (fHint w)))

def decAmo (mk : Guard → AmoOp → AmoSize → Operand → MAddr → Scope → Order → Hint → Instr) (w : DWord) : Dec Instr := do
  let g ← decGuard w
  let d ← decOp (f1 w)
  let ad ← decAddr0 w
  let sc ← decScope w
  let op ← need (AmoOp.ofIdx ((fMod w).extractLsb' 8 4).toNat) .reserved
  let sz ← need (AmoSize.ofCode ((fMod w).extractLsb' 6 2)) .reserved
  check ((fMod w).extractLsb' 0 6 == 0) .reserved
  pure (mk g op sz d ad sc (Order.ofCode (fOrder w)) (Hint.ofCode (fHint w)))

/-- SCOPE and KIND of `fence` (R319). -/
def decFence (w : DWord) : Dec Instr := do
  let g ← decGuard w
  check (f1 w == 0 && fImm w == 0) .reserved
  let sc ← need (Scope.ofIdx ((fSubop w).extractLsb' 3 4).toNat) .reserved
  match ((fSubop w).extractLsb' 0 3).toNat with
  | 0 => pure (.fenceAcq g sc)
  | 1 => pure (.fenceRel g sc)
  | 2 => pure (.fenceAcqRel g sc)
  | 3 => pure (.fenceSc g sc)
  | 4 => pure (.fenceEngine g sc)
  | _ => .error .reserved

def decAcqr (w : DWord) : Dec Instr := do
  let g ← decGuard w
  let a ← decOp (f1 w)
  let sc ← need (Scope.ofIdx ((fSubop w).extractLsb' 3 4).toNat) .reserved
  check ((fSubop w).extractLsb' 0 3 == 0 && fImm w == 0) .reserved
  pure (.acqr g sc a)

/-- The atomic field of `waitany` is TMO (R322); the term keeps it in the offset field of its address. -/
def decWaitany (w : DWord) : Dec Instr := do
  let g ← decGuard w
  let d ← decOp (f1 w)
  let ad ← decAddr w
  noOrder w
  pure (.waitany g d ad (Hint.ofCode (fHint w)))

def decBar (mk : Guard → Operand → BarLevel → Instr) (w : DWord) : Dec Instr := do
  let g ← decGuard w
  let n ← decOp (f2 w)
  let lvl ← need (BarLevel.ofCode (f4 w)) (.operand (f4 w))
  check (f1 w == 0 && f3 w == 0 && fMod w == 0) .reserved
  pure (mk g n lvl)

def decBarb (w : DWord) : Dec Instr := do
  let g ← decGuard w
  let n ← decOp (f2 w)
  let b ← decOp (f3 w)
  let lvl ← need (BarLevel.ofCode (f4 w)) (.operand (f4 w))
  check (f1 w == 0 && fMod w == 0) .reserved
  pure (.barb g n b lvl)

def decSeq (mk : Guard → Operand → MAddr → Scope → Order → Hint → Instr) (w : DWord) : Dec Instr := do
  let g ← decGuard w
  let d ← decOp (f1 w)
  let ad ← decAddr0 w
  let sc ← decScope w
  check (fMod w == 0) .reserved
  pure (mk g d ad sc (Order.ofCode (fOrder w)) (Hint.ofCode (fHint w)))

def decLaunch (w : DWord) : Dec Instr := do
  let g ← decGuard w
  let a ← decOp (f1 w)
  let b ← decOp (f2 w)
  let c ← decOp (f3 w)
  check (fEng w == 0) .reserved
  pure (.launch g c a b)

def decCancel (w : DWord) : Dec Instr := do
  let g ← decGuard w
  let lvl ← need (Level.ofCode (f4 w)) (.operand (f4 w))
  check (f1 w == 0 && f2 w == 0 && f3 w == 0 && fMod w == 0) .reserved
  pure (.cancel g lvl)

/-- BLV and BNO (R329): 00 with BNO 0, 01 chain, 10 furlong, 11 rejected. -/
def decCopyBar (e : BitVec 21) : Dec (Option CopyBar) :=
  let blv : BitVec 2 := e.extractLsb' 19 2
  let bno : BitVec 4 := e.extractLsb' 15 4
  if blv = 0 then (if bno = 0 then .ok none else .error .reserved)
  else if blv = 1 then .ok (some ⟨false, bno⟩)
  else if blv = 2 then .ok (some ⟨true, bno⟩)
  else .error .reserved

def decCpy (w : DWord) : Dec Instr := do
  let g ← decGuard w
  let a ← decOp (f1 w)
  let b ← decOp (f2 w)
  let c ← decOp (f3 w)
  let bar ← decCopyBar (fEng w)
  check ((fEng w).extractLsb' 0 12 == 0) .reserved
  pure (.cpy g a b c bar (Hint.ofCode ((fEng w).extractLsb' 12 3)))

def decCpyo (w : DWord) : Dec Instr := do
  let g ← decGuard w
  let a ← decOp (f1 w)
  let b ← decOp (f2 w)
  let c ← decOp (f3 w)
  let bar ← decCopyBar (fEng w)
  check ((fEng w).extractLsb' 9 3 == 0) .reserved
  let sq : BitVec 9 := (fEng w).extractLsb' 0 9
  if sq = 0 then pure (.cpyo g a b c bar (Hint.ofCode ((fEng w).extractLsb' 12 3)) none)
  else
    match Operand.ofCode sq with
    | some (.s r) => pure (.cpyo g a b c bar (Hint.ofCode ((fEng w).extractLsb' 12 3)) (some r))
    | _ => .error (.operand sq)

def decMxgang (w : DWord) : Dec Instr := do
  let g ← decGuard w
  let a ← decOp (f1 w)
  check (f2 w == 0 && f3 w == 0 && fEng w == 0) .reserved
  pure (.mxgang g a)

def decTile (mk : Guard → BitVec 3 → Operand → Instr) (w : DWord) : Dec Instr := do
  let g ← decGuard w
  let a ← decOp (f1 w)
  check (f2 w == 0 && f3 w == 0 && (fEng w).extractLsb' 0 18 == 0) .reserved
  pure (mk g ((fEng w).extractLsb' 18 3) a)

def decProd (mk : Guard → MxFields → Operand → Operand → Operand → Instr) (w : DWord) : Dec Instr := do
  let g ← decGuard w
  let a ← decOp (f1 w)
  let b ← decOp (f2 w)
  let c ← decOp (f3 w)
  let e := fEng w
  let af ← need (PFmt.ofIdx (e.extractLsb' 15 3).toNat) .reserved
  let bfm ← need (PFmt.ofIdx (e.extractLsb' 12 3).toNat) .reserved
  let asp ← need (MxSpace.ofCode (e.extractLsb' 8 2)) .reserved
  let bsp ← need (MxSpace.ofCode (e.extractLsb' 6 2)) .reserved
  check (e.extractLsb' 0 6 == 0) .reserved
  pure (mk g ⟨e.extractLsb' 18 3, af, bfm, e.getLsbD 11, e.getLsbD 10, asp, bsp⟩ a b c)

def decMxrd (w : DWord) : Dec Instr := do
  let g ← decGuard w
  let d ← decOp (f1 w)
  let r ← decOp (f2 w)
  let c ← decOp (f3 w)
  let v ← need (View.ofIdx ((fEng w).extractLsb' 16 2).toNat) .reserved
  check ((fEng w).extractLsb' 0 16 == 0) .reserved
  pure (.mxrd g v ((fEng w).extractLsb' 18 3) d r c)

def decMxst (w : DWord) : Dec Instr := do
  let g ← decGuard w
  let a ← decOp (f1 w)
  let v ← need (View.ofIdx ((fEng w).extractLsb' 16 2).toNat) .reserved
  let spc ← need (MxSpace.ofCode ((fEng w).extractLsb' 14 2)) .reserved
  check (f2 w == 0 && f3 w == 0 && (fEng w).extractLsb' 0 14 == 0) .reserved
  pure (.mxst g v spc ((fEng w).extractLsb' 18 3) a)

def decNb1 (mk : Guard → BitVec 2 → Operand → Instr) (w : DWord) : Dec Instr := do
  let g ← decGuard w
  let a ← decOp (f1 w)
  check (f2 w == 0 && f3 w == 0 && (fEng w).extractLsb' 0 19 == 0) .reserved
  pure (mk g ((fEng w).extractLsb' 19 2) a)

def decNb2 (mk : Guard → BitVec 2 → Operand → Operand → Instr) (w : DWord) : Dec Instr := do
  let g ← decGuard w
  let a ← decOp (f1 w)
  let b ← decOp (f2 w)
  check (f3 w == 0 && (fEng w).extractLsb' 0 19 == 0) .reserved
  pure (mk g ((fEng w).extractLsb' 19 2) a b)

def decNbmove (w : DWord) : Dec Instr := do
  let g ← decGuard w
  let d ← decOp (f1 w)
  let b ← decOp (f2 w)
  let c ← decOp (f3 w)
  check ((fEng w).extractLsb' 0 19 == 0) .reserved
  pure (.nbmove g ((fEng w).extractLsb' 19 2) d b c)

def decNbclr (w : DWord) : Dec Instr := do
  let g ← decGuard w
  check (f1 w == 0 && f2 w == 0 && f3 w == 0 && (fEng w).extractLsb' 0 19 == 0) .reserved
  pure (.nbclr g ((fEng w).extractLsb' 19 2))

def decTrap (mk : Guard → BitVec 8 → Instr) (w : DWord) : Dec Instr := do
  let g ← decGuard w
  check (f1 w == 0 && fSubop w == 0 && (fImm w).toNat < 256) .reserved
  pure (mk g ((fImm w).setWidth 8))

def decTclr (w : DWord) : Dec Instr := do
  let g ← decGuard w
  check (f1 w == 0 && fSubop w == 0 && (fImm w).extractLsb' 24 8 == 0) .reserved
  pure (.tclr g ((fImm w).setWidth 24))

def decSysrd (w : DWord) : Dec Instr := do
  let g ← decGuard w
  let d ← decOp (f1 w)
  check ((fSubop w).toNat < 4 && fImm w == 0) .reserved
  pure (.sysrd g d ((fSubop w).setWidth 2))

def decSyswr (w : DWord) : Dec Instr := do
  let g ← decGuard w
  let a ← decOp (f1 w)
  let r ← need (SReg.ofIdx (fSubop w).toNat) .reserved
  check (fImm w == 0) .reserved
  pure (.syswr g r a)

def decPrmark (w : DWord) : Dec Instr := do
  let g ← decGuard w
  check (f1 w == 0 && fSubop w == 0) .reserved
  pure (.prmark g (fImm w))

def decSmpl (w : DWord) : Dec Instr := do
  let g ← decGuard w
  let a ← decW (f2 w)
  check (f1 w == 0 && f4 w == 0 && fMod w == 0) .reserved
  check (0x1C1 ≤ (f3 w).toNat && (f3 w).toNat ≤ 0x1C8) (.operand (f3 w))
  pure (.smpl g a ((f3 w).setWidth 4))

/-- Group 0 of the opcode map (R225). -/
def decodeGroup0 (slot : Nat) (w : DWord) : Dec Instr :=
  match slot with
  | 0x00 => decABm .add w
  | 0x01 => decABm .sub w
  | 0x02 => decABm .mul w
  | 0x03 => decABm .mulh w
  | 0x04 => decABm .mulhn w
  | 0x05 => decABCm .mad w
  | 0x06 => decABCm .madh w
  | 0x08 => decABm .div w
  | 0x09 => decABm .divn w
  | 0x0A => decABm .rem w
  | 0x0B => decABm .remn w
  | 0x0C => decAm .neg w
  | 0x0D => decAm .abs w
  | 0x0E => decABm .min w
  | 0x0F => decABm .minn w
  | 0x10 => decABm .max w
  | 0x11 => decABm .maxn w
  | 0x12 => decABm .and w
  | 0x13 => decABm .or w
  | 0x14 => decABm .xor w
  | 0x15 => decABm .andn w
  | 0x16 => decAm .not w
  | 0x18 => decABm .shl w
  | 0x19 => decABm .shr w
  | 0x1A => decABm .sar w
  | 0x1B => decABm .rol w
  | 0x1C => decABm .bfx w
  | 0x1D => decABm .bfxn w
  | 0x1E => decABCm .bfi w
  | 0x20 => decAm .popc w
  | 0x21 => decAm .clz w
  | 0x22 => decAm .ctz w
  | 0x23 => decAm .brev w
  | 0x24 => decSel w
  | 0x25 => decAm .mov w
  | 0x26 => decLdi w
  | 0x27 => decCvt w
  | 0x28 => decABCm .lea w
  | 0x29 => decABm .perm w
  | 0x2A => decKset w
  | 0x2B => decKadd w
  | 0x2C => decRdx w
  | 0x2D => decWrx w
  | _ => .error (.unassigned (fOpc w))

/-- Group 1 of the opcode map (R225). -/
def decodeGroup1 (slot : Nat) (w : DWord) : Dec Instr :=
  match slot with
  | 0x00 => decCmp w
  | 0x01 => decQ3 .qand w
  | 0x02 => decQ3 .qor w
  | 0x03 => decQ3 .qxor w
  | 0x04 => decQ2 .qnot w
  | 0x05 => decQ2 .qsure w
  | 0x06 => decQ2 .qmaybe w
  | 0x07 => decQ2 .qmov w
  | 0x08 => decVote w
  | 0x09 => decMask w
  | 0x0A => decFrom w
  | 0x10 => decBr .br w
  | 0x11 => decBr3 w
  | 0x12 => decJoin w
  | 0x13 => decBr .call w
  | 0x14 => dec0 .ret w
  | 0x15 => decA1 .jmpi w
  | 0x16 => dec0 .exit w
  | 0x17 => dec0 .yield w
  | 0x18 => decA1 .sleep w
  | 0x19 => dec0 .nop w
  | _ => .error (.unassigned (fOpc w))

/-- Group 2 of the opcode map (R225). -/
def decodeGroup2 (slot : Nat) (w : DWord) : Dec Instr :=
  match slot with
  | 0x00 => decIv2 .iadd w
  | 0x01 => decIv2 .isub w
  | 0x02 => decIv2 .imul w
  | 0x03 => decIfma .h w
  | 0x04 => decIfma .f w
  | 0x05 => decIfma .y w
  | 0x06 => decIv2 .idiv w
  | 0x07 => decIdiv2 w
  | 0x08 => decIv1 .ircp w
  | 0x09 => decIv1 .isqr w
  | 0x0A => decIv1 .isqrt w
  | 0x0B => decIv1 .iabs w
  | 0x0C => decIv1 .ineg w
  | 0x0D => decIv2 .imin w
  | 0x0E => decIv2 .imax w
  | 0x0F => decIv2 .ihull w
  | 0x10 => decIv2 .imeet w
  | 0x11 => decIv1 .imid w
  | 0x12 => decIv1 .irad w
  | 0x13 => decIv1 .iwid w
  | 0x14 => decIv1 .imag w
  | 0x15 => decIv1 .imig w
  | 0x16 => decIv1 .iinf w
  | 0x17 => decIv1 .isup w
  | 0x18 => decIv2 .imk w
  | 0x19 => decIv1 .ipt w
  | 0x1A => decIbis w
  | 0x1B => decIv2 .iscl w
  | 0x1C => decIv1 .iflr w
  | 0x1D => decIv1 .iceil w
  | 0x1E => decIcmp w
  | 0x1F => decIcls w
  | 0x20 => decIcvt w
  | 0x21 => decImr w
  | 0x22 => decIv1 .ixr w
  | _ => .error (.unassigned (fOpc w))

/-- Group 3 of the opcode map (R225). -/
def decodeGroup3 (slot : Nat) (w : DWord) : Dec Instr :=
  match slot with
  | 0x00 => decIfn w
  | 0x01 => decIv1 .iexp2 w
  | 0x02 => decIv1 .ilog2 w
  | 0x03 => decIv1 .irsqrt w
  | 0x04 => decIfnc w
  | 0x08 => decTblld w
  | 0x09 => decTblsw w
  | 0x0A => decTblq w
  | 0x10 => decRow .segmax w
  | 0x11 => decRow .segmin w
  | 0x12 => decRow .segsum w
  | 0x13 => decRow .segnorm w
  | 0x14 => decSmxexp w
  | 0x15 => decSmxnorm w
  | _ => .error (.unassigned (fOpc w))

/-- Group 4 of the opcode map (R225). -/
def decodeGroup4 (slot : Nat) (w : DWord) : Dec Instr :=
  match slot with
  | 0x00 => decSized .ld .x1 w
  | 0x01 => decSized .ld .x2 w
  | 0x02 => decSized .ld .x4 w
  | 0x03 => decSized .ld .x8 w
  | 0x04 => decSized .ld .x16 w
  | 0x05 => decMr .ldmr .f w
  | 0x06 => decMr .ldmr .y w
  | 0x07 => decLdXs w
  | 0x08 => decSized .st .x1 w
  | 0x09 => decSized .st .x2 w
  | 0x0A => decSized .st .x4 w
  | 0x0B => decSized .st .x8 w
  | 0x0C => decSized .st .x16 w
  | 0x0D => decMr .stmr .f w
  | 0x0E => decMr .stmr .y w
  | 0x10 => decSized .lds .x1 w
  | 0x11 => decSized .lds .x2 w
  | 0x12 => decSized .lds .x4 w
  | 0x13 => decSized .lds .x8 w
  | 0x14 => decSized .lds .x16 w
  | 0x15 => decSized .ldtk .x4 w
  | 0x16 => decSized .ldtk .x8 w
  | 0x17 => decSized .ldtk .x16 w
  | 0x18 => decSized .sts .x1 w
  | 0x19 => decSized .sts .x2 w
  | 0x1A => decSized .sts .x4 w
  | 0x1B => decSized .sts .x8 w
  | 0x1C => decSized .sts .x16 w
  | 0x1D => decSized .stfl .x4 w
  | 0x1E => decSized .stfl .x8 w
  | 0x1F => decSized .stfl .x16 w
  | 0x20 => decFest w
  | 0x21 => decMd .feq w
  | 0x22 => decGth .x4 w
  | 0x23 => decGth .x8 w
  | 0x24 => decGth .x16 w
  | 0x25 => decM0 .prf w
  | 0x26 => decMd .inv w
  | 0x27 => decMd .wbk w
  | 0x28 => decM0 .own w
  | 0x29 => decMd .pgcm w
  | 0x2A => decMd .pgdc w
  | 0x2B => decMd .pgq w
  | 0x2C => decDalloc w
  | 0x2D => decMd .dfree w
  | _ => .error (.unassigned (fOpc w))

/-- Group 5 of the opcode map (R225). -/
def decodeGroup5 (slot : Nat) (w : DWord) : Dec Instr :=
  match slot with
  | 0x00 => decAmo .atom w
  | 0x01 => decAmo .red w
  | 0x02 => decRedXs w
  | 0x03 => decFence w
  | 0x04 => dec0 .xfence w
  | 0x05 => decAcqr w
  | 0x06 => decWaitany w
  | 0x08 => decBar .barv w
  | 0x09 => decBar .barw w
  | 0x0A => decBar .bars w
  | 0x0B => decBarb w
  | 0x0C => decSeq .seqinc w
  | 0x0D => decSeq .seqwt w
  | 0x0E => decLaunch w
  | 0x0F => decCancel w
  | 0x10 => decCpy w
  | 0x11 => decCpyo w
  | 0x12 => decA1 .rgive w
  | 0x13 => decA1 .rtake w
  | 0x14 => decSplit w
  | 0x15 => decFork w
  | 0x16 => decTake w
  | 0x17 => decA1 .poolcfg w
  | 0x18 => decPoolst w
  | _ => .error (.unassigned (fOpc w))

/-- Group 6 of the opcode map (R225). -/
def decodeGroup6 (slot : Nat) (w : DWord) : Dec Instr :=
  match slot with
  | 0x00 => decMxgang w
  | 0x01 => decTile .mxwin w
  | 0x02 => decTile .mxclr w
  | 0x03 => decProd .mxmm w
  | 0x04 => decProd .mxim w
  | 0x05 => decProd .mxcv w
  | 0x06 => decMxrd w
  | 0x07 => decMxst w
  | 0x08 => decTile .mxsv w
  | 0x09 => decTile .mxrs w
  | 0x0A => decTile .mxsp w
  | 0x10 => decNb1 .nbgrid w
  | 0x11 => decNb2 .nbbin w
  | 0x12 => decNb2 .nbpair w
  | 0x13 => decNb1 .nbstat w
  | 0x14 => decNbmove w
  | 0x15 => decNbclr w
  | _ => .error (.unassigned (fOpc w))

/-- Group 7 of the opcode map (R225). -/
def decodeGroup7 (slot : Nat) (w : DWord) : Dec Instr :=
  match slot with
  | 0x00 => decTrap .trap w
  | 0x01 => dec0 .tret w
  | 0x02 => decTclr w
  | 0x03 => dec0 .hold w
  | 0x04 => decTrap .ebrk w
  | 0x05 => decSysrd w
  | 0x06 => decSyswr w
  | 0x07 => decPrmark w
  | 0x08 => decSmpl w
  | 0x09 => decA1 .csave w
  | 0x0A => decA1 .crest w
  | _ => .error (.unassigned (fOpc w))

/-- The instruction that an instruction word encodes (R211 to R226): its opcode selects the row of the opcode map, and the
word's remaining fields its operands. -/
def decodeRaw (w : DWord) : Dec Instr :=
  match ((fOpc w).toNat / 64) with
  | 0 => decodeGroup0 ((fOpc w).toNat % 64) w
  | 1 => decodeGroup1 ((fOpc w).toNat % 64) w
  | 2 => decodeGroup2 ((fOpc w).toNat % 64) w
  | 3 => decodeGroup3 ((fOpc w).toNat % 64) w
  | 4 => decodeGroup4 ((fOpc w).toNat % 64) w
  | 5 => decodeGroup5 ((fOpc w).toNat % 64) w
  | 6 => decodeGroup6 ((fOpc w).toNat % 64) w
  | 7 => decodeGroup7 ((fOpc w).toNat % 64) w
  | _ => .error (.unassigned (fOpc w))

/-- The decoder: a word that no row of the tables admits is rejected by a name. -/
def decode (w : DWord) : Dec Instr :=
  match decodeRaw w with
  | .ok i => if i.wf then .ok i else .error .illFormed
  | .error e => .error e

/-- The word of an instruction (R211 to R226 and the encoding tables of the instruction chapters); an event has none. -/
def encode : Instr → Option DWord
  | .add g d a b m => some (encA 0x000 g d.code a.code b.code 0 (encMod m))
  | .sub g d a b m => some (encA 0x001 g d.code a.code b.code 0 (encMod m))
  | .mul g d a b m => some (encA 0x002 g d.code a.code b.code 0 (encMod m))
  | .mulh g d a b m => some (encA 0x003 g d.code a.code b.code 0 (encMod m))
  | .mulhn g d a b m => some (encA 0x004 g d.code a.code b.code 0 (encMod m))
  | .div g d a b m => some (encA 0x008 g d.code a.code b.code 0 (encMod m))
  | .divn g d a b m => some (encA 0x009 g d.code a.code b.code 0 (encMod m))
  | .rem g d a b m => some (encA 0x00A g d.code a.code b.code 0 (encMod m))
  | .remn g d a b m => some (encA 0x00B g d.code a.code b.code 0 (encMod m))
  | .min g d a b m => some (encA 0x00E g d.code a.code b.code 0 (encMod m))
  | .minn g d a b m => some (encA 0x00F g d.code a.code b.code 0 (encMod m))
  | .max g d a b m => some (encA 0x010 g d.code a.code b.code 0 (encMod m))
  | .maxn g d a b m => some (encA 0x011 g d.code a.code b.code 0 (encMod m))
  | .and g d a b m => some (encA 0x012 g d.code a.code b.code 0 (encMod m))
  | .or g d a b m => some (encA 0x013 g d.code a.code b.code 0 (encMod m))
  | .xor g d a b m => some (encA 0x014 g d.code a.code b.code 0 (encMod m))
  | .andn g d a b m => some (encA 0x015 g d.code a.code b.code 0 (encMod m))
  | .shl g d a b m => some (encA 0x018 g d.code a.code b.code 0 (encMod m))
  | .shr g d a b m => some (encA 0x019 g d.code a.code b.code 0 (encMod m))
  | .sar g d a b m => some (encA 0x01A g d.code a.code b.code 0 (encMod m))
  | .rol g d a b m => some (encA 0x01B g d.code a.code b.code 0 (encMod m))
  | .bfx g d a b m => some (encA 0x01C g d.code a.code b.code 0 (encMod m))
  | .bfxn g d a b m => some (encA 0x01D g d.code a.code b.code 0 (encMod m))
  | .neg g d a m => some (encA 0x00C g d.code a.code 0 0 (encMod m))
  | .abs g d a m => some (encA 0x00D g d.code a.code 0 0 (encMod m))
  | .popc g d a m => some (encA 0x020 g d.code a.code 0 0 (encMod m))
  | .clz g d a m => some (encA 0x021 g d.code a.code 0 0 (encMod m))
  | .ctz g d a m => some (encA 0x022 g d.code a.code 0 0 (encMod m))
  | .brev g d a m => some (encA 0x023 g d.code a.code 0 0 (encMod m))
  | .mov g d a m => some (encA 0x025 g d.code a.code 0 0 (encMod m))
  | .not g d a m => some (encA 0x016 g d.code a.code 0 0 (encMod m))
  | .mad g d a b c m => some (encA 0x005 g d.code a.code b.code c.code (encMod m))
  | .madh g d a b c m => some (encA 0x006 g d.code a.code b.code c.code (encMod m))
  | .bfi g d a b c m => some (encA 0x01E g d.code a.code b.code c.code (encMod m))
  | .sel g d a b q m => some (encA 0x024 g d.code a.code b.code (Operand.q q).code (encMod m))
  | .ldi g mode d imm => some (encL 0x026 g d.code mode.code imm)
  | .cvt g dt st sat d a m => some (encA 0x027 g d.code a.code 0 (encTy dt (encCvtSub sat st)) (encMod m))
  | .lea g d a b c m => some (encA 0x028 g d.code a.code b.code c.code (encMod m))
  | .perm g d a b m => some (encA 0x029 g d.code a.code b.code 0 (encMod m))
  | .kset g k imm => some (encL 0x02A g (Operand.k k).code 0 (imm.signExtend 32))
  | .kadd g k a b m => some (encA 0x02B g (Operand.k k).code a.code b.code 0 (encMod m))
  | .rdx g d base k n => some (encA 0x02C g (Operand.w d).code (Operand.w base).code (Operand.k k).code n.code 0)
  | .wrx g base k b n => some (encA 0x02D g (Operand.w base).code (Operand.k k).code (Operand.w b).code n.code 0)
  | .cmp g ty rel q a b m => some (encA 0x040 g (Operand.q q).code a.code b.code (encTy ty rel.code) (encMod m))
  | .qand g qd qa qb => some (encA 0x041 g (Operand.q qd).code (Operand.q qa).code (Operand.q qb).code 0 0)
  | .qor g qd qa qb => some (encA 0x042 g (Operand.q qd).code (Operand.q qa).code (Operand.q qb).code 0 0)
  | .qxor g qd qa qb => some (encA 0x043 g (Operand.q qd).code (Operand.q qa).code (Operand.q qb).code 0 0)
  | .qnot g qd qa => some (encA 0x044 g (Operand.q qd).code (Operand.q qa).code 0 0 0)
  | .qsure g qd qa => some (encA 0x045 g (Operand.q qd).code (Operand.q qa).code 0 0 0)
  | .qmaybe g qd qa => some (encA 0x046 g (Operand.q qd).code (Operand.q qa).code 0 0 0)
  | .qmov g qd qa => some (encA 0x047 g (Operand.q qd).code (Operand.q qa).code 0 0 0)
  | .qvote g mode qd qa => some (encA 0x048 g (Operand.q qd).code (Operand.q qa).code 0 mode.code 0)
  | .qmask g mode d qa => some (encA 0x049 g d.code (Operand.q qa).code 0 mode.code 0)
  | .qfrom g mode qd a m => some (encA 0x04A g (Operand.q qd).code a.code 0 mode.cc (encMod m))
  | .br g off => some (encB 0x050 g off)
  | .br3 q t f u => some (encB 0x051 ⟨q, .always⟩ (t ++ f ++ u))
  | .join off => some (encB 0x052 ⟨0, .always⟩ off)
  | .call g off => some (encB 0x053 g off)
  | .ret g => some (encA 0x054 g 0 0 0 0 0)
  | .exit g => some (encA 0x056 g 0 0 0 0 0)
  | .nop g => some (encA 0x059 g 0 0 0 0 0)
  | .xfence g => some (encA 0x144 g 0 0 0 0 0)
  | .tret g => some (encA 0x1C1 g 0 0 0 0 0)
  | .hold g => some (encA 0x1C3 g 0 0 0 0 0)
  | .yield g => some (encA 0x057 g 0 0 0 0 0)
  | .jmpi g a => some (encA 0x055 g 0 a.code 0 0 0)
  | .sleep g a => some (encA 0x058 g 0 a.code 0 0 0)
  | .rgive g a => some (encA 0x152 g 0 a.code 0 0 0)
  | .rtake g a => some (encA 0x153 g 0 a.code 0 0 0)
  | .poolcfg g a => some (encA 0x157 g 0 a.code 0 0 0)
  | .csave g a => some (encA 0x1C9 g 0 a.code 0 0 0)
  | .crest g a => some (encA 0x1CA g 0 a.code 0 0 0)
  | .split g v x q b n => some (encA 0x154 g (Operand.w x).code (Operand.q q).code (if n = 0 then 0x1C0 else (Operand.w b).code) (encTy v.ty (n.zeroExtend 5)) 0)
  | .fork g q b n => some (encA 0x155 g 0 (Operand.q q).code (Operand.w b).code (encTy .n32 (n.zeroExtend 5)) 0)
  | .take g d q => some (encA 0x156 g (Operand.w d).code (Operand.q q).code 0 0 0)
  | .poolst g d => some (encA 0x158 g (Operand.w d).code 0 0 0 0)
  | .iadd g v d a b m => some (encA 0x080 g d.code a.code b.code (encTy v.ty 0) (encMod m))
  | .isub g v d a b m => some (encA 0x081 g d.code a.code b.code (encTy v.ty 0) (encMod m))
  | .imul g v d a b m => some (encA 0x082 g d.code a.code b.code (encTy v.ty 0) (encMod m))
  | .idiv g v d a b m => some (encA 0x086 g d.code a.code b.code (encTy v.ty 0) (encMod m))
  | .imin g v d a b m => some (encA 0x08D g d.code a.code b.code (encTy v.ty 0) (encMod m))
  | .imax g v d a b m => some (encA 0x08E g d.code a.code b.code (encTy v.ty 0) (encMod m))
  | .ihull g v d a b m => some (encA 0x08F g d.code a.code b.code (encTy v.ty 0) (encMod m))
  | .imeet g v d a b m => some (encA 0x090 g d.code a.code b.code (encTy v.ty 0) (encMod m))
  | .imk g v d a b m => some (encA 0x098 g d.code a.code b.code (encTy v.ty 0) (encMod m))
  | .iscl g v d a b m => some (encA 0x09B g d.code a.code b.code (encTy v.ty 0) (encMod m))
  | .ifma g v d a b c m => some (encA (match v with | .h => 0x083 | .f => 0x084 | .y => 0x085) g d.code a.code b.code c.code (encMod m))
  | .idiv2 g v d a b q m => some (encA 0x087 g d.code a.code b.code (encTy v.ty (q.zeroExtend 5)) (encMod m))
  | .ircp g v d a m => some (encA 0x088 g d.code a.code 0 (encTy v.ty 0) (encMod m))
  | .isqr g v d a m => some (encA 0x089 g d.code a.code 0 (encTy v.ty 0) (encMod m))
  | .isqrt g v d a m => some (encA 0x08A g d.code a.code 0 (encTy v.ty 0) (encMod m))
  | .iabs g v d a m => some (encA 0x08B g d.code a.code 0 (encTy v.ty 0) (encMod m))
  | .ineg g v d a m => some (encA 0x08C g d.code a.code 0 (encTy v.ty 0) (encMod m))
  | .imid g v d a m => some (encA 0x091 g d.code a.code 0 (encTy v.ty 0) (encMod m))
  | .irad g v d a m => some (encA 0x092 g d.code a.code 0 (encTy v.ty 0) (encMod m))
  | .iwid g v d a m => some (encA 0x093 g d.code a.code 0 (encTy v.ty 0) (encMod m))
  | .imag g v d a m => some (encA 0x094 g d.code a.code 0 (encTy v.ty 0) (encMod m))
  | .imig g v d a m => some (encA 0x095 g d.code a.code 0 (encTy v.ty 0) (encMod m))
  | .iinf g v d a m => some (encA 0x096 g d.code a.code 0 (encTy v.ty 0) (encMod m))
  | .isup g v d a m => some (encA 0x097 g d.code a.code 0 (encTy v.ty 0) (encMod m))
  | .ipt g v d a m => some (encA 0x099 g d.code a.code 0 (encTy v.ty 0) (encMod m))
  | .iflr g v d a m => some (encA 0x09C g d.code a.code 0 (encTy v.ty 0) (encMod m))
  | .iceil g v d a m => some (encA 0x09D g d.code a.code 0 (encTy v.ty 0) (encMod m))
  | .ixr g v d a m => some (encA 0x0A2 g d.code a.code 0 (encTy v.ty 0) (encMod m))
  | .iexp2 g v d a m => some (encA 0x0C1 g d.code a.code 0 (encTy v.ty 0) (encMod m))
  | .ilog2 g v d a m => some (encA 0x0C2 g d.code a.code 0 (encTy v.ty 0) (encMod m))
  | .irsqrt g v d a m => some (encA 0x0C3 g d.code a.code 0 (encTy v.ty 0) (encMod m))
  | .ibis g v d a q m => some (encA 0x09A g d.code a.code 0 (encTy v.ty (q.zeroExtend 5)) (encMod m))
  | .icmp g v rel q a b m => some (encA 0x09E g (Operand.q q).code a.code b.code (encTy v.ty rel.code) (encMod m))
  | .icls g v cls q a m => some (encA 0x09F g (Operand.q q).code a.code 0 (encTy v.ty cls.code) (encMod m))
  | .icvt g dt st hi d a m => some (encA 0x0A0 g d.code a.code 0 (encTy dt (encCvtSub hi st)) (encMod m))
  | .imr g v none d a m => some (encA 0x0A1 g d.code a.code 0 (encTy v.ty 0) (encMod m))
  | .imr g v (some (fmt, b)) d a m => some (encA 0x0A1 g d.code a.code b.code (encTy v.ty ((0b10 : BitVec 2) ++ fmt.code)) (encMod m))
  | .ifn g v tid d a m => some (encA 0x0C0 g d.code a.code 0 (encTy v.ty (tid.zeroExtend 5)) (encMod m))
  | .ifnc g tid d a m => some (encA 0x0C4 g d.code a.code 0 (encTy .f (tid.zeroExtend 5)) (encMod m))
  | .tblld g a tid slot => some (encX 0x0C8 g a.code 0 0 (tid ++ slot ++ (0 : BitVec 9)))
  | .tblsw g => some (encX 0x0C9 g 0 0 0 0)
  | .tblq g d tid => some (encX 0x0CA g d.code 0 0 (tid ++ (0 : BitVec 17)))
  | .segmax g v z d a b m => some (encA 0x0D0 g d.code a.code (match b with | some x => x.code | none => 0) (encTy v.ty (z.zeroExtend 5)) (encMod m))
  | .segmin g v z d a b m => some (encA 0x0D1 g d.code a.code (match b with | some x => x.code | none => 0) (encTy v.ty (z.zeroExtend 5)) (encMod m))
  | .segsum g v z d a b m => some (encA 0x0D2 g d.code a.code (match b with | some x => x.code | none => 0) (encTy v.ty (z.zeroExtend 5)) (encMod m))
  | .segnorm g v z d a b m => some (encA 0x0D3 g d.code a.code (match b with | some x => x.code | none => 0) (encTy v.ty (z.zeroExtend 5)) (encMod m))
  | .smxexp g v z d a m => some (encA 0x0D4 g d.code a.code 0 (encTy v.ty (z.zeroExtend 5)) (encMod m))
  | .smxnorm g v z d a q m => some (encA 0x0D5 g d.code a.code (Operand.q q).code (encTy v.ty (z.zeroExtend 5)) (encMod m))
  | .ld g sz d ad sc o h => some (encM (match sz with | .x1 => 0x100 | .x2 => 0x101 | .x4 => 0x102 | .x8 => 0x103 | .x16 => 0x104) g d.code ad sc o h.code ad.ofs)
  | .st g sz a ad sc o h => some (encM (match sz with | .x1 => 0x108 | .x2 => 0x109 | .x4 => 0x10A | .x8 => 0x10B | .x16 => 0x10C) g a.code ad sc o h.code ad.ofs)
  | .lds g sz d ad sc o h => some (encM (match sz with | .x1 => 0x110 | .x2 => 0x111 | .x4 => 0x112 | .x8 => 0x113 | .x16 => 0x114) g d.code ad sc o h.code ad.ofs)
  | .sts g sz a ad sc o h => some (encM (match sz with | .x1 => 0x118 | .x2 => 0x119 | .x4 => 0x11A | .x8 => 0x11B | .x16 => 0x11C) g a.code ad sc o h.code ad.ofs)
  | .ldtk g sz d ad sc o h => some (encM (match sz with | .x4 => 0x115 | .x8 => 0x116 | .x16 => 0x117 | .x1 | .x2 => 0x115) g d.code ad sc o h.code ad.ofs)
  | .stfl g sz a ad sc o h => some (encM (match sz with | .x4 => 0x11D | .x8 => 0x11E | .x16 => 0x11F | .x1 | .x2 => 0x11D) g a.code ad sc o h.code ad.ofs)
  | .ldmr g v d ad sc o h => some (encM (match v with | .y => 0x106 | _ => 0x105) g d.code ad sc o h.code ad.ofs)
  | .stmr g v d ad sc o h => some (encM (match v with | .y => 0x10E | _ => 0x10D) g d.code ad sc o h.code ad.ofs)
  | .ldXs g v d ad sc o => some (encM 0x107 g d.code ad sc o (match v with | .y => 1 | _ => 0) ad.ofs)
  | .redXs g a ad sc o => some (encM 0x142 g a.code ad sc o 0 ad.ofs)
  | .fest g full ad h => some (encM 0x120 g (if full then 0x1C1 else 0x1C0) ad .lane .plain h.code ad.ofs)
  | .feq g d ad h => some (encM 0x121 g d.code ad .lane .plain h.code ad.ofs)
  | .inv g d ad h => some (encM 0x126 g d.code ad .lane .plain h.code ad.ofs)
  | .wbk g d ad h => some (encM 0x127 g d.code ad .lane .plain h.code ad.ofs)
  | .pgcm g d ad h => some (encM 0x129 g d.code ad .lane .plain h.code ad.ofs)
  | .pgdc g d ad h => some (encM 0x12A g d.code ad .lane .plain h.code ad.ofs)
  | .pgq g d ad h => some (encM 0x12B g d.code ad .lane .plain h.code ad.ofs)
  | .dfree g d ad h => some (encM 0x12D g d.code ad .lane .plain h.code ad.ofs)
  | .gth g sz ad h => some (encM (match sz with | .x8 => 0x123 | .x16 => 0x124 | _ => 0x122) g 0x163 ad .lane .plain h.code ad.ofs)
  | .prf g ad h => some (encM 0x125 g 0 ad .lane .plain h.code ad.ofs)
  | .own g ad h => some (encM 0x128 g 0 ad .lane .plain h.code ad.ofs)
  | .dalloc g d n h => some (encMraw 0x12C g d.code 0 n.code .lane .plain h.code 0)
  | .atom g op sz d ad sc o h => some (encM 0x140 g d.code ad sc o h.code (op.code ++ sz.code ++ (0 : BitVec 6)))
  | .red g op sz a ad sc o h => some (encM 0x141 g a.code ad sc o h.code (op.code ++ sz.code ++ (0 : BitVec 6)))
  | .fenceAcq g sc => some (encL 0x143 g 0 (sc.code ++ (0 : BitVec 3)) 0)
  | .fenceRel g sc => some (encL 0x143 g 0 (sc.code ++ (1 : BitVec 3)) 0)
  | .fenceAcqRel g sc => some (encL 0x143 g 0 (sc.code ++ (2 : BitVec 3)) 0)
  | .fenceSc g sc => some (encL 0x143 g 0 (sc.code ++ (3 : BitVec 3)) 0)
  | .fenceEngine g sc => some (encL 0x143 g 0 (sc.code ++ (4 : BitVec 3)) 0)
  | .acqr g sc a => some (encL 0x145 g a.code (sc.code ++ (0 : BitVec 3)) 0)
  | .waitany g d ad h => some (encM 0x146 g d.code ad .lane .plain h.code ad.ofs)
  | .barv g n lvl => some (encA 0x148 g 0 n.code 0 lvl.code 0)
  | .barw g n lvl => some (encA 0x149 g 0 n.code 0 lvl.code 0)
  | .bars g n lvl => some (encA 0x14A g 0 n.code 0 lvl.code 0)
  | .barb g n b lvl => some (encA 0x14B g 0 n.code b.code lvl.code 0)
  | .seqinc g a ad sc o h => some (encM 0x14C g a.code ad sc o h.code 0)
  | .seqwt g d ad sc o h => some (encM 0x14D g d.code ad sc o h.code 0)
  | .launch g c a b => some (encX 0x14E g a.code b.code c.code 0)
  | .cancel g lvl => some (encA 0x14F g 0 0 0 lvl.code 0)
  | .cpy g a b c bar h => some (encX 0x150 g a.code b.code c.code (encBar bar ++ h.code ++ (0 : BitVec 12)))
  | .cpyo g a b c bar h sq => some (encX 0x151 g a.code b.code c.code (encBar bar ++ h.code ++ (0 : BitVec 3) ++ (match sq with | some r => (Operand.s r).code | none => 0)))
  | .mxgang g a => some (encX 0x180 g a.code 0 0 0)
  | .mxwin g t a => some (encX 0x181 g a.code 0 0 (t ++ (0 : BitVec 18)))
  | .mxclr g t a => some (encX 0x182 g a.code 0 0 (t ++ (0 : BitVec 18)))
  | .mxsv g t a => some (encX 0x188 g a.code 0 0 (t ++ (0 : BitVec 18)))
  | .mxrs g t a => some (encX 0x189 g a.code 0 0 (t ++ (0 : BitVec 18)))
  | .mxsp g t a => some (encX 0x18A g a.code 0 0 (t ++ (0 : BitVec 18)))
  | .mxmm g x a b c => some (encX 0x183 g a.code b.code c.code x.code)
  | .mxim g x a b c => some (encX 0x184 g a.code b.code c.code x.code)
  | .mxcv g x a b c => some (encX 0x185 g a.code b.code c.code x.code)
  | .mxrd g v t d r c => some (encX 0x186 g d.code r.code c.code (t ++ v.code ++ (0 : BitVec 16)))
  | .mxst g v spc t a => some (encX 0x187 g a.code 0 0 (t ++ v.code ++ spc.code ++ (0 : BitVec 14)))
  | .nbgrid g gid a => some (encX 0x190 g a.code 0 0 (gid ++ (0 : BitVec 19)))
  | .nbbin g gid a b => some (encX 0x191 g a.code b.code 0 (gid ++ (0 : BitVec 19)))
  | .nbpair g gid a b => some (encX 0x192 g a.code b.code 0 (gid ++ (0 : BitVec 19)))
  | .nbstat g gid d => some (encX 0x193 g d.code 0 0 (gid ++ (0 : BitVec 19)))
  | .nbmove g gid d b c => some (encX 0x194 g d.code b.code c.code (gid ++ (0 : BitVec 19)))
  | .nbclr g gid => some (encX 0x195 g 0 0 0 (gid ++ (0 : BitVec 19)))
  | .trap g n => some (encL 0x1C0 g 0 0 (n.zeroExtend 32))
  | .tclr g m => some (encL 0x1C2 g 0 0 (m.zeroExtend 32))
  | .ebrk g n => some (encL 0x1C4 g 0 0 (n.zeroExtend 32))
  | .sysrd g d item => some (encL 0x1C5 g d.code (item.zeroExtend 7) 0)
  | .syswr g r a => some (encL 0x1C6 g a.code (r.sub.zeroExtend 7) 0)
  | .prmark g imm => some (encL 0x1C7 g 0 0 imm)
  | .smpl g a n => some (encA 0x1C8 g 0 (Operand.w a).code ((0x1C0 : BitVec 9) + n.zeroExtend 9) 0 0)
  | .tblldComplete _ | .loadComplete _ | .fullEmptyRelease _ _ | .gatherRowArrive _ | .waitanyWake _ _ _
  | .waitanyTimeout _ _ | .barrierPhaseComplete _ | .furlongRemotePhase _ | .seqwtWake _ _ | .copyLineLand _ _
  | .copyComplete _ | .mxKStep _ | .mxOpComplete _ | .nbPairRecord _ | .nbStreamEnd _ | .nbOpComplete _
  | .clauseStart _ _ | .breakBitHit _ _ | .sleepExpire _ _ | .ageingSwap _ | .rtakeGrant _ _ | .translationReplay _ _
  | .walkComplete _ _ _ _ | .commit _ _ _ _ | .pgrspRetry _ _ _ | .pgrspDeny _ _ _ | .xlicInvalidatePages _
  | .xlicInvalidateAsid _ | .xlicInvalidateAll _ | .invalidationComplete | .poolpush _ _ | .l1DieGrant _ _
  | .l1PackageGrant _ _ _ | .l1Forward _ _ _ | .l1Revoke _ _ _ | .l1Eviction _ _ | .homeRead _ _ | .homeRegister _ _
  | .homeRegisterFetch _ _ | .homeWriteBack _ _ _ | .homeOwnerAnswer _ _ _ | .homePerformedAccess _
  | .nonhomeRead _ _ | .nonhomeRegistration _ _ _ | .nonhomePackageGrant _ _ _ | .nonhomeForward _ _ _
  | .nonhomeRevoke _ _ | .nonhomeWriteBack _ _ _ | .promotion _ _ _ _ | .lossNotice _ | .standbyHandBack _
  | .hostSnoop _ _ | .backInvalidateResponse _ | .hostCxlMemAccess _ | .bar2Read _ _ | .bar2Write _ _ _
  | .patrolScrub _ _ | .widxWrite _ _ | .qpush _ _ | .slotFetch _ | .launchReady _ | .schedulerRound
  | .schedulerRoundTimer | .levelComplete _ _ | .neighbourCommand _ | .dmaCopy _ | .dmaFill _ | .dmaRdmaWrite _
  | .dmaRdmaRead _ _ _ | .dmaSend _ | .dmaComplete _ _ | .stealRequest _ _ _ | .stolenItemReturn _ _ _ | .haltReceive _
  | .handlerEntry _ | .cancLaunch _ _ | .cancGraph _ _ | .cancPhase _ _ | .cancJob _ _ | .preqVacate _ | .prel _
  | .dlack _ _ | .nmctlEnable _ | .hwArm _ _ | .diectlReset _ | .diectlRetry _ | .powerOn | .moduleReset
  | .attestation _ _ | .linkKeyInstall _ _ | .keyRollover _ _ | .ringFlitReceive _ _ _ | .linkRestore _
  | .hostSpdmRequest _ | .dbghalt _ _ | .dbgrelResume _ _ | .dbgrelKill _ _ | .holdLimitExpire
  | .rodWindowWrite _ _ _ | .brksync | .perfctlClear _ | .perfctlSnapshot _ | .pcSample | .registerWrite _ _ _
  | .stampScrubber _ _ _ | .peerRdmaRequest _ _ => none

/-! ### Clause headers (R203, R204) -/

/-- Instruction classes (R203). -/
inductive Class where
  | core | memory | matrix | copy | neighbour | control
  deriving DecidableEq, Repr

def Class.ofIdx (n : Nat) : Option Class := [Class.core, .memory, .matrix, .copy, .neighbour, .control][n]?

def Class.code : Class → BitVec 4
  | .core => 0 | .memory => 1 | .matrix => 2 | .copy => 3 | .neighbour => 4 | .control => 5

/-- A clause header that is not bad (R203, R204): its class, its instruction count minus one, the flags it waits for, and the
flags of set-A and set-B. -/
structure Header where
  cls   : Class
  count : BitVec 4
  wait  : BitVec 12
  a     : Option (BitVec 4)
  b     : Option (BitVec 4)
  deriving DecidableEq, Repr

/-- A header word; none when it is bad (R204). -/
def decodeHeader (w : DWord) : Option Header :=
  let av := w.getLsbD 43
  let af : BitVec 4 := w.extractLsb' 39 4
  let bv := w.getLsbD 38
  let bf : BitVec 4 := w.extractLsb' 34 4
  match Class.ofIdx (w.extractLsb' 60 4).toNat with
  | none => none
  | some c =>
    if (av && decide (11 < af.toNat)) || (bv && decide (11 < bf.toNat)) || (bv && !av) || (!av && af != 0) || (!bv && bf != 0)
        || w.extractLsb' 0 34 != 0 then none
    else some ⟨c, w.extractLsb' 56 4, w.extractLsb' 44 12, if av then some af else none, if bv then some bf else none⟩

/-- The word of a header (R203). -/
def encodeHeader (h : Header) : DWord :=
  h.cls.code ++ h.count ++ h.wait ++ BitVec.ofBool h.a.isSome ++ h.a.getD 0 ++ BitVec.ofBool h.b.isSome ++ h.b.getD 0 ++ (0 : BitVec 34)

/-- The instruction class of an instruction (R226). An event is in no clause; it is given class core, which no rule reads. -/
def Instr.cls : Instr → Class
  | .yield _ | .sleep _ _ => .control
  | .ld .. | .st .. | .ldmr .. | .stmr .. | .ldXs .. | .redXs .. | .lds .. | .sts .. | .ldtk .. | .stfl .. | .fest .. | .feq ..
  | .gth .. | .prf .. | .inv .. | .wbk .. | .own .. | .pgcm .. | .pgdc .. | .pgq .. | .dalloc .. | .dfree .. | .atom .. | .red ..
  | .seqinc .. | .seqwt .. | .waitany .. | .fenceAcq .. | .fenceRel .. | .fenceAcqRel .. | .fenceSc .. | .fenceEngine ..
  | .acqr .. => .memory
  | .cpy .. | .cpyo .. => .copy
  | .mxgang .. | .mxwin .. | .mxclr .. | .mxmm .. | .mxim .. | .mxcv .. | .mxrd .. | .mxst .. | .mxsv .. | .mxrs .. | .mxsp .. => .matrix
  | .nbgrid .. | .nbbin .. | .nbpair .. | .nbstat .. | .nbmove .. | .nbclr .. => .neighbour
  | .xfence .. | .barv .. | .barw .. | .bars .. | .barb .. | .launch .. | .cancel .. | .trap .. | .tret .. | .tclr .. | .hold ..
  | .ebrk .. | .sysrd .. | .syswr .. | .prmark .. | .smpl .. | .csave .. | .crest .. => .control
  | _ => .core

/-- The control transfers, which stand last in their clause (R205). -/
def Instr.isTransfer : Instr → Bool
  | .br .. | .br3 .. | .call .. | .ret .. | .jmpi .. | .exit .. | .tret .. => true
  | _ => false

/-- The long-latency instructions (R207). -/
def Instr.isLong : Instr → Bool
  | .ld .. | .ldmr .. | .ldXs .. | .lds .. | .ldtk .. | .gth .. | .inv .. | .wbk .. | .own .. | .pgcm .. | .pgdc .. | .pgq ..
  | .dalloc .. | .atom .. | .tblld .. | .mxmm .. | .mxim .. | .mxcv .. | .mxrd .. | .mxst .. | .mxsv .. | .mxrs .. | .cpy .. | .cpyo ..
  | .nbbin .. | .nbpair .. | .nbstat .. | .nbmove .. | .nbclr .. | .csave .. | .crest .. => true
  | _ => false

/-- The body of a clause is admitted (R205): every word decodes, each class is the header's or core, and a control transfer
stands last. -/
def bodyOk (c : Class) : List DWord → Bool
  | [] => true
  | w :: rest =>
    (match decode w with
     | .ok i => (i.cls == c || i.cls == .core) && (!i.isTransfer || rest.isEmpty)
     | .error _ => false) && bodyOk c rest

/-- The host's question: the instruction whose 64-bit word has the given bits. Every row of the opcode table that is an
instruction is one 64-bit word, so a number of 2^64 or more is no instruction, and an event has no word. -/
def decodeTableWord (nbits w : Nat) : Option Instr :=
  if 64 < nbits ∨ 2 ^ 64 ≤ w then none
  else
    match decode (BitVec.ofNat 64 w) with
    | .ok i => some i
    | .error _ => none

end Sys2Proof
end

