-- ==== Sys2Proof/Machine/Paths.lean ====
section
/-!
DEFINITION. Paths, frames and the divergence stack of a rod (R156 to R164).
-/
namespace Sys2Proof.Machine

/-- Where a path of a rod stands. -/
inductive Pos where
  | slot (sl : SlotId)
  | stack (i : Nat)
  deriving DecidableEq, Repr

/-- A path put at an instruction: the break bit that it has met is that of the instruction it stood at (R438). -/
def Path.moveTo (p : Path) (pc : DWord) (idx : Nat) : Path := { p with pc := pc, idx := idx, broke := p.broke && p.pc == pc && p.idx == idx }

/-- A slot that a path has just taken: no clause started, nothing waited for but the rest of a sleep (R259). -/
def Slot.fresh (p : Path) (now : Nat) : Slot :=
  { path := { p with nap := 0 }, started := none, wait := if now < p.nap then some (.sleep p.nap) else none, since := now, stopped := false, napFor := none, yields := false }

/-- The path of a slot as it gives the slot up: it waits from now on, and what is left of a sleep goes with it (R161, R259). -/
def Slot.out (x : Slot) (now : Nat) : Path :=
  { x.path with wait := now, nap := match x.wait with | some (.sleep t) => t | _ => 0 }

/-- A path takes a slot, with no clause started (R156). -/
def Rod.enter (r : Rod) (sl : SlotId) (p : Path) (now : Nat) : Rod := r.setSlot sl (some (Slot.fresh p now))

def Rod.entry (r : Rod) (i : Nat) : SEntry := r.stack.get i .free

def Rod.setEntry (r : Rod) (i : Nat) (e : SEntry) : Rod := { r with stack := r.stack.set i e .free }

/-- The lowest free entry of the stack (R158). -/
def Rod.freeEntry (r : Rod) : Option Nat := (List.range r.depth).find? (fun i => r.entry i == .free)

/-- The number of free entries. -/
def Rod.freeEntries (r : Rod) : Nat := ((List.range r.depth).filter (fun i => r.entry i == .free)).length

def Rod.pathAt (r : Rod) : Pos → Option Path
  | .slot sl => (r.slot sl).map (·.path)
  | .stack i => match r.entry i with
    | .path p => some p
    | _ => none

/-- The stacked paths that may take a slot: none that stood at handler entry while in the handler. -/
def Rod.runnable (r : Rod) : List (Nat × Path) :=
  r.stack.filterMap (fun e => match e.2 with
    | .path p => if r.inHandler && r.oldStack.contains e.1 then none else some (e.1, p)
    | _ => none)

/-- The stacked path that has waited longest, lowest entry first (R159). -/
def Rod.longest (r : Rod) : Option (Nat × Path) :=
  r.runnable.foldl (fun b e => match b with
    | none => some e
    | some x => if e.2.wait < x.2.wait then some e else some x) none

/-- A freed slot takes the runnable path that has waited longest (R159). -/
def Rod.refill (r : Rod) (sl : SlotId) (now : Nat) : Rod :=
  match r.longest with
  | none => r.setSlot sl none
  | some (i, p) => (r.setEntry i .free).enter sl p now

/-- The frame a path has arrived at: it stands at the start of the clause of its own frame (R157). -/
def Rod.arrival (r : Rod) (p : Path) : Option (Nat × Mask × Mask × Option Nat) :=
  match p.frame with
  | none => none
  | some f =>
    match r.entry f with
    | .frame pc e a par => if p.idx = 0 ∧ pc = p.pc then some (f, e, a, par) else none
    | _ => none

/-- A path that stands at a position gives it up: a slot takes a stacked path, an entry becomes free (R157, R159). -/
def Rod.leave (r : Rod) (pos : Pos) (now : Nat) : Rod :=
  match pos with
  | .slot sl => (r.setSlot sl none).refill sl now
  | .stack i => r.setEntry i .free

/-- Put a path at a position. -/
def Rod.putAt (r : Rod) (pos : Pos) (p : Path) (now : Nat) : Rod :=
  match pos with
  | .slot sl => r.enter sl p now
  | .stack i => r.setEntry i (.path p)

/-- One arrival (R157): the lanes are added to ARRIVED; when that equals EXPECT the frame goes and the merged path continues
where the last arrival stood. -/
def Rod.arriveAt (r : Rod) (pos : Pos) (now : Nat) : Rod :=
  match r.pathAt pos with
  | none => r
  | some p =>
    match r.arrival p with
    | none => r
    | some (f, e, a, par) =>
      let a' := a ||| p.mask
      if a' = e then
        (r.setEntry f .free).putAt pos { pc := p.pc, idx := 0, mask := e, frame := par, wait := now } now
      else (r.setEntry f (.frame p.pc e a' par)).leave pos now

/-- The positions of a rod's paths: the given slot first, then the other slot, then the stack. -/
def Rod.positions (r : Rod) (sl : SlotId) : List Pos := [Pos.slot sl, .slot sl.other] ++ r.stack.keys.map Pos.stack

/-- Every arrival that is due, one after another (R157). -/
def Rod.settle (r : Rod) (sl : SlotId) (now : Nat) : Nat → Rod
  | 0 => r
  | fuel + 1 =>
    match (r.positions sl).find? (fun pos => ((r.pathAt pos).bind r.arrival).isSome) with
    | none => r
    | some pos => (r.arriveAt pos now).settle sl now fuel

/-- The path of a slot goes on at the start of the clause at pc (R155, R157). -/
def Rod.goto (r : Rod) (sl : SlotId) (pc : DWord) (now : Nat) : Rod :=
  match r.slot sl with
  | none => r
  | some x =>
    (r.setSlot sl (some { x with path := { x.path with pc := pc, idx := 0, broke := false }, started := none, wait := none })).settle sl now
      (r.depth + 3)

/-- What `yield` and `sleep` do when the clause of a slot has ended (R258, R259), to the path that held the slot before: the
yielding path swaps with the stacked path that has waited longest, or the slot forgoes a turn; the sleeping path waits. DEDUCED (log 19): a path
that the end of the clause has taken out of the slot does neither. -/
def Rod.clauseEnd (r : Rod) (sl : SlotId) (before : Slot) (now : Nat) : Rod :=
  match r.slot sl with
  | none => r
  | some x =>
    if x.since ≠ before.since then r
    else
      let x := { x with napFor := none, yields := false }
      let til := match before.napFor with
        | some n => if n = 0 then 0 else now + n
        | none => 0
      let nap : Option Wait := if til = 0 then none else some (.sleep til)
      if before.yields then
        match r.longest with
        | some (i, p) => (r.setEntry i (.path { x.path with wait := now, nap := til })).enter sl p now
        | none => r.setSlot sl (some { x with wait := some (nap.getD .turn) })
      else r.setSlot sl (some { x with wait := nap.or x.wait })

/-- The sets of a branch with their targets and frames: the first stays in the slot, the second takes the other slot or the stack,
the others the stack; none when the stack has no room (R158). -/
def Rod.divide (r : Rod) (sl : SlotId) (now : Nat) (sets : List (Mask × DWord × Option Nat)) : Option Rod :=
  match r.slot sl with
  | none => none
  | some x =>
    let mk := fun (e : Mask × DWord × Option Nat) => ({ pc := e.2.1, idx := 0, mask := e.1, frame := e.2.2, wait := now } : Path)
    let push := fun (o : Option Rod) (e : Mask × DWord × Option Nat) =>
      o.bind (fun r => r.freeEntry.map (fun i => r.setEntry i (.path (mk e))))
    match sets.filter (fun e => e.1 != 0) with
    | [] => some r
    | e1 :: rest =>
      let r1 := r.setSlot sl (some { x with path := { mk e1 with wait := x.path.wait }, started := none, wait := none })
      let o := match rest with
        | [] => some r1
        | e2 :: rest2 =>
          let o := if (r1.slot sl.other).isNone then some (r1.enter sl.other (mk e2) now) else push (some r1) e2
          rest2.foldl push o
      o.map (fun r => r.settle sl now (r.depth + 3))

/-- `join J` (R157): a frame for the path's lanes; none when no entry is free. -/
def Rod.openFrame (r : Rod) (sl : SlotId) (pc : DWord) : Option Rod :=
  match r.slot sl, r.freeEntry with
  | some x, some i =>
    some ((r.setEntry i (.frame pc x.path.mask 0 x.path.frame)).setSlot sl
      (some { x with path := { x.path with frame := some i } }))
  | _, _ => none

/-- Remove lanes from every path and frame of the rod; a path left with none goes, and a frame left with none goes (R160). An entry freed so in
a handler no longer counts as one that stood at its entry. -/
def Rod.dropLanes (r : Rod) (m : Mask) : Rod :=
  let cut := fun (p : Path) => { p with mask := p.mask &&& ~~~m }
  let cutSlot := fun (o : Option Slot) => o.bind (fun x => if x.path.mask &&& ~~~m = 0 then none else some { x with path := cut x.path })
  let cutPath := fun (o : Option Path) => o.bind (fun p => if p.mask &&& ~~~m = 0 then none else some (cut p))
  let st : Tbl SEntry := r.stack.filterMap (fun e => match e.2 with
    | .path p => if p.mask &&& ~~~m = 0 then none else some (e.1, .path (cut p))
    | .frame pc ex ar par => if ex &&& ~~~m = 0 then none else some (e.1, .frame pc (ex &&& ~~~m) (ar &&& ~~~m) par)
    | .free => none)
  { r with
    slotA := cutSlot r.slotA, slotB := cutSlot r.slotB, shadowA := cutPath r.shadowA, shadowB := cutPath r.shadowB,
    stack := st, oldStack := r.oldStack.filter (fun i => st.keys.contains i) }

/-- A frame whose lanes have all arrived, and which no path is still to arrive at; in the handler, one made there. -/
def Rod.complete (r : Rod) : Option (Nat × DWord × Mask × Option Nat) :=
  r.stack.findSome? (fun e => match e.2 with
    | .frame pc ex ar par =>
      if ex = ar ∧ ex ≠ 0 ∧ ¬ (r.inHandler = true ∧ r.oldStack.contains e.1 = true) then some (e.1, pc, ex, par) else none
    | _ => none)

/-- Frames that stood at handler entry and whose last lanes to come have exited in the handler merge (R160): the path of their lanes takes
their entry. -/
def Rod.mergeOld (r : Rod) (now : Nat) : Rod :=
  if ¬ r.inHandler then r
  else
    { r with stack := r.stack.map (fun e => match e.2 with
        | .frame pc ex ar par =>
          if ex = ar ∧ ex ≠ 0 ∧ r.oldStack.contains e.1 = true then (e.1, .path { pc := pc, idx := 0, mask := ex, frame := par, wait := now }) else e
        | _ => e) }

/-- `exit` of lanes of the path in a slot (R160). -/
def Rod.exitLanes (r : Rod) (sl : SlotId) (m : Mask) (now : Nat) : Rod :=
  let r := (r.dropLanes m).mergeOld now
  match r.slot sl with
  | some _ => r
  | none =>
    match r.complete with
    | some (f, pc, ex, par) =>
      ((r.setEntry f .free).enter sl { pc := pc, idx := 0, mask := ex, frame := par, wait := now } now).settle sl now (r.depth + 3)
    | none => r.refill sl now

/-- A path that has waited beyond LIMIT (R163), longest first. -/
def Rod.overdue (r : Rod) (now : Nat) : Option (Nat × Path) :=
  match r.longest with
  | some (i, p) => if p.wait + r.agelimit.toNat < now then some (i, p) else none
  | none => none

/-- The slot whose path has held it longest, when it is at a clause boundary or at an instruction that waits and has performed
nothing (R163). DESIGN CHOICE (log 67): of two paths that took their slots in one cycle, slot A's. -/
def Rod.swapSlot (r : Rod) : Option SlotId :=
  let at' : SlotId → Bool := fun sl => match r.slot sl with
    | some x => x.started.isNone || (x.wait.isSome && !(x.wait.map Wait.issued).getD false)
    | none => true
  let pick := match r.slotA, r.slotB with
    | some x, some y => if y.since < x.since then SlotId.b else .a
    | none, _ => .a
    | _, none => .b
  if at' pick then some pick else none

/-- The ageing swap (R163): the overdue path takes the slot, and the outgoing path is pushed with WAIT 0, at its waiting
instruction when it stands in the middle of a clause. -/
def Rod.ageSwap (r : Rod) (now : Nat) : Rod :=
  match r.overdue now, r.swapSlot with
  | some (i, p), some sl =>
    let r' := r.setEntry i .free
    match r.slot sl with
    | none => r'.enter sl p now
    | some x => (r'.setEntry i (.path (x.out now))).enter sl p now
  | _, _ => r

end Sys2Proof.Machine
end

