-- ==== Sys2Proof/Machine/Ops.lean ====
section
/-!
DEFINITION. How an instruction issues, waits and completes (R155, R205 to R212), how a rod takes an exception and returns from
one (R399 to R405), and how a core holds (R440). Every meaning is written over these operations.
-/
namespace Sys2Proof.Machine

/-! ### The issuing pair (R155, R212) -/

/-- The rod and slot whose instruction is issuing. -/
structure Iss where
  rid  : RodId
  sl   : SlotId
  rod  : Rod
  slot : Slot
  deriving DecidableEq, Repr

/-- The pages that the issuing slot's access has been denied (R30). -/
def Iss.denied (i : Iss) : List Denied := i.rod.denied.filter (fun d => d.sl == i.sl)

def State.issuer (s : State) : Option Iss :=
  match s.cur with
  | none => none
  | some (r, sl) =>
    match s.rod r with
    | none => none
    | some x =>
      match x.slot sl with
      | none => none
      | some y => some { rid := r, sl := sl, rod := x, slot := y }

/-- Run a meaning for the issuing pair; without one the model stops. -/
def withIss (s : State) (k : Iss → Res) : Res :=
  match s.issuer with
  | some i => k i
  | none => .fault .noIssuer

/-- The guard holds for a lane's predicate (R212); code 11 reads as U. -/
def guardHolds (c : GuardCond) (p : BitVec 2) : Bool :=
  match c with
  | .always => true
  | .isT => p == 1
  | .isF => p == 0
  | .isU => p == 2 || p == 3
  | .notT => p != 1
  | .notF => p != 0
  | .notU => p == 0 || p == 1

/-- The participating lanes (R212, R231). -/
def Iss.part (i : Iss) (g : Guard) : Mask :=
  maskOf (fun l => i.slot.path.mask.has l && guardHolds g.c (i.rod.pred g.q.toNat l))

/-! ### Clauses (R202, R208) -/

/-- The address of the clause that follows one of n instructions (R202). -/
def nextClause (pc : DWord) (n : Nat) : DWord := pc + BitVec.ofNat 64 (8 * (n + 1))

/-- The completion flag a long-latency instruction at index idx names (R208). -/
def Clause.flag (c : Clause) (idx : Nat) : Option (BitVec 4) :=
  let earlier := (c.body.take idx).any (fun w => match decode w with | .ok i => i.isLong | .error _ => false)
  if earlier then c.b.or c.a else c.a

/-- The flag that the issuing instruction names if it is long-latency (R208). -/
def Iss.flag (i : Iss) : Option (BitVec 4) := i.slot.started.bind (fun c => c.flag i.slot.path.idx)

/-- The issue would raise a flag's count above 63 (R208). -/
def Iss.flagFull (i : Iss) : Bool :=
  match i.flag with
  | some f => decide (63 ≤ i.rod.flagCount f.toNat)
  | none => false

/-! ### Stops and handler entry (R401 to R403) -/

/-- sr.skid of a point (R401). -/
def packSkid (pc : DWord) (sl : SlotId) (idx skid : Nat) : DWord :=
  (pc >>> 3).setWidth 53 ++ (BitVec.ofBool (sl == .b)) ++ BitVec.ofNat 4 idx ++ BitVec.ofNat 6 skid

/-- A slot that has stopped for a halt: it holds no path, has been stopped, has no clause to finish, or stands at an instruction
that waits and has not issued (R402). -/
def slotStopped (o : Option Slot) : Bool :=
  match o with
  | none => true
  | some x => x.stopped || x.started.isNone || (x.wait.isSome && !(x.wait.map Wait.issued).getD false)

/-- Where a slot stops (R401). -/
def Rod.stopPoint (r : Rod) (sl : SlotId) : DWord × Nat :=
  match r.slot sl with
  | some x => (x.path.pc, x.path.idx)
  | none => (0, 0)

/-- A halting rod both of whose slots have stopped enters its handler next (R402); a sibling's trap point is that of the slot
that stopped last. -/
def State.checkHalt (s : State) (r : RodId) : State :=
  match s.rod r with
  | none => s
  | some x =>
    if slotStopped x.slotA && slotStopped x.slotB then
      match x.run with
      | .halting =>
        let sl := if (x.slot x.lastSlot).isSome then x.lastSlot else x.lastSlot.other
        let (pc, idx) := x.stopPoint sl
        (s.setRod r { x with run := .halted, skid := packSkid pc sl idx (x.skid.bits 5 0) }).send (.handlerEntry r)
      | .trapping => (s.setRod r { x with run := .halted }).send (.handlerEntry r)
      | _ => s
    else s

/-- The slot's next instruction waits: it has performed nothing, and issues again when the wait ends (R155). A slot of a halting rod stops
there (R401, R402). -/
def State.waitOn (s : State) (r : RodId) (sl : SlotId) (w : Wait) : State :=
  (s.modRod r (fun x => match x.slot sl with
    | some y => { x.setSlot sl (some { y with wait := some w }) with lastSlot := if x.run = .halting then sl else x.lastSlot }
    | none => x)).checkHalt r

/-- A rod starts no further clause: a halt has reached it, its chain is being saved, or its launch is cancelled (R396, R398, R402). -/
def State.windingUp (s : State) (r : RodId) (x : Rod) : Bool :=
  x.run != .running ||
  (match s.chain r.chain with
   | some c => c.state != .resident || ((s.cmd c.launch).map (·.cancelled)).getD false
   | none => true)

/-- A rod is suspended on translation: neither of its slots issues (R28), unless a stop has ended the suspension (R31, R402). -/
def Rod.suspended (x : Rod) : Bool :=
  (x.slotA.bind (·.wait)) == some .translation || (x.slotB.bind (·.wait)) == some .translation

/-- The slots of a rod may issue: it is resident, runs, and nothing holds, stops or suspends it. -/
def State.canIssue (s : State) (r : RodId) (x : Rod) : Bool :=
  !x.frozen && !x.suspended && !s.windingUp r x && ((s.chain r.chain).map Chain.here).getD false

/-- A slot's instruction waits no longer, and has performed nothing; a slot that is to stop has stopped there (R402). -/
def Rod.endWait (x : Rod) (sl : SlotId) (stop : Bool) : Rod :=
  match x.slot sl with
  | some y => x.setSlot sl (some { y with wait := none, started := if stop then none else y.started })
  | none => x

/-- The wait of a slot's instruction is over before it has performed anything: it issues again, unless the rod winds up (R402). -/
def State.endWait (s : State) (r : RodId) (sl : SlotId) : State := s.modRod r (fun x => x.endWait sl (s.windingUp r x))

/-- The slot's instruction issues: its access has taken its denials (R30), and a halting rod counts it in SKID (R401). -/
def Rod.issued (x : Rod) (sl : SlotId) : Rod :=
  { x with denied := x.denied.filter (fun d => d.sl != sl || d.kind == .fetch), lastSlot := sl, skid := if x.run = .halting ∨ x.run = .trapping then x.skid + 1 else x.skid }

/-- The rod after the slot's instruction has issued: the next instruction of the clause, or the clause that follows. -/
def Rod.advance (x : Rod) (sl : SlotId) (now : Nat) : Rod :=
  let x := x.issued sl
  match x.slot sl with
  | none => x
  | some y =>
    match y.started with
    | none => x
    | some c =>
      if y.path.idx + 1 < c.count then
        x.setSlot sl (some { y with path := { y.path with idx := y.path.idx + 1, broke := false }, wait := none })
      else (x.goto sl (nextClause y.path.pc c.count) now).clauseEnd sl y now

/-- The slot's instruction has issued. -/
def State.advance (s : State) (r : RodId) (sl : SlotId) : State :=
  (s.modRod r (fun x => x.advance sl s.cycle)).checkHalt r

/-- An instruction that issued before a stop reached its rod completes (R266, R402): the slot stops after it, and SKID does not count it. -/
def State.advanceIssued (s : State) (r : RodId) (sl : SlotId) : State :=
  (s.modRod r (fun x =>
    let y := { x.advance sl s.cycle with skid := x.skid }
    if s.windingUp r x then y.endWait sl true else y)).checkHalt r

/-- The issuing instruction is done. -/
def finish (s : State) (i : Iss) : Res := .next (s.advance i.rid i.sl)

/-- The issuing instruction waits. -/
def wait (s : State) (i : Iss) (w : Wait) : Res := .next (s.waitOn i.rid i.sl w)

/-! ### Holding a core (R434, R440, R442, R447) -/

/-- The index of sr.place's quadrant (R150, R152). -/
def quadOf (r : RodId) : Nat := r.rod % 4

/-- sr.place of a rod (R152). -/
def State.place (s : State) (r : RodId) : Word :=
  match s.chain r.chain with
  | none => 0
  | some c =>
    let fdie := match s.furlong c.furlong with
      | some f => f.dieLo != f.dieHi && c.core.die == f.dieHi
      | none => false
    BitVec.ofNat 3 c.core.die ++ BitVec.ofNat 6 c.core.core ++ BitVec.ofNat 2 (quadOf r) ++ BitVec.ofNat 5 r.rod ++
      BitVec.ofNat 4 c.fchn ++ BitVec.ofBool fdie ++ BitVec.ofNat 5 (c.nrod - 1) ++ (0 : BitVec 6)

/-- sr.cycle on a die: cycles since the die's reset (R221). -/
def State.dieCycle (s : State) (d : Nat) : DWord := BitVec.ofNat 64 (s.cycle - (s.die d).resetAt)

/-- Rods resident on a quadrant of a core. -/
def State.quadRods (s : State) (c : CoreId) (q : Nat) : List (RodId × Rod) :=
  (s.residents c).flatMap (fun e => (e.2.rodIds e.1).filterMap (fun r =>
    if quadOf r = q then (s.rod r).map (fun x => (r, x)) else none))

/-- The leaf of R444 for the result of an operation. -/
def OpKind.leaf : OpKind → Nat
  | .mx _ => 10
  | .copy _ => 11
  | .nb _ _ _ => 12
  | .table .. => 13
  | _ => 9

/-- The leaf of a wait for operations of a rod that p holds of: that of the oldest (R444; log 69). -/
def State.opLeaf (s : State) (r : RodId) (p : Op → Bool) : Nat :=
  ((s.ops.find? (fun e => e.2.rod.chain == r.chain && p e.2)).map (fun e => e.2.kind.leaf)).getD 9

/-- The leaf of R444 that a wait of a rod counts in. -/
def State.waitLeaf (s : State) (r : RodId) : Wait → Nat
  | .flags m => s.opLeaf r (fun o => o.flags.any (fun f => f.1 == r.rod && m.getLsbD f.2.toNat))
  | .ops => s.opLeaf r (fun o => o.rod == r || o.flags.any (fun f => f.1 == r.rod))
  | .memory | .translation | .promotion | .promoted _ false => 9
  | .turn => 7
  | .matrix => 10
  | .copy => 11
  | .neighbour => 12
  | .control | .take | .promoted _ true => 13
  | .barrier _ _ => 14
  | .fullEmpty _ _ => 15
  | .rtake | .rgive => 16
  | .rendezvous => 17
  | .sleep _ | .seqwt _ _ | .waitany _ _ => 18

/-- The word a slot's started clause stands at. -/
def Slot.word (x : Slot) : Option DWord := x.started.bind (fun c => c.body[x.path.idx]?)

/-- The break bit of the word a slot stands at. -/
def Slot.brk (x : Slot) : Bool := (x.started.bind (fun c => c.brk[x.path.idx]?)).getD false

/-- The key of a (rod, slot) pair in round-robin order. -/
def pairKey (p : RodId × SlotId) : Nat := 2 * rodKey p.1 + (if p.2 = .a then 0 else 1)

/-- The pairs in the order in which the round-robin would grant them next (R155). -/
def State.order (s : State) : List (RodId × SlotId) :=
  s.pairs.filter (fun p => decide (s.rr ≤ pairKey p)) ++ s.pairs.filter (fun p => decide (pairKey p < s.rr))

/-- The pair of a quadrant that the round-robin would grant next: the first that holds a path (R155, R447). -/
def State.quadNext (s : State) (c : CoreId) (q : Nat) : Option (RodId × SlotId × Slot) :=
  s.order.findSome? (fun p =>
    if s.coreOf p.1 = c ∧ quadOf p.1 = q ∧ ((s.chain p.1.chain).map Chain.here).getD false then
      ((s.rod p.1).bind (·.slot p.2)).map (fun y => (p.1, p.2, y))
    else none)

/-- The leaf of a quadrant in which nothing issues (R444): that of the pair that the round-robin would grant next. -/
def State.idleLeaf (s : State) (c : CoreId) (q : Nat) : Nat :=
  if (s.core c).isHeld then 21
  else if (s.core c).vacated then 20
  else if (s.quadRods c q).isEmpty then 19
  else
    match s.quadNext c q with
    | some (r, _, y) => match y.wait with
      | some w => s.waitLeaf r w
      | none => if y.brk then 8 else 7
    | none => 7

/-- The rod word of a record, with the leaf of the rod's quadrant (R434). -/
def State.rodWord (s : State) (r : RodId) (leaf : Nat) : Word :=
  let c := s.coreOf r
  let rs := match s.rod r with | some x => x.rslot | none => 0
  BitVec.ofNat 3 c.die ++ BitVec.ofNat 6 c.core ++ BitVec.ofNat 2 (quadOf r) ++ BitVec.ofNat 5 r.rod ++ (0 : BitVec 4) ++
    BitVec.ofNat 4 rs ++ (0 : BitVec 3) ++ BitVec.ofNat 5 leaf

/-- The PC pair of a point (R434). -/
def pcPair (pc : DWord) (sl : SlotId) (idx : Nat) : List Word :=
  let x := packSkid pc sl idx 0
  [loWord x, hiWord x]

/-- The slot a rod's records name: A when it holds a path, else B. -/
def Rod.mainSlot (r : Rod) : SlotId := if r.slotA.isSome then .a else .b

/-- A stop record (R447). -/
def State.stopRecord (s : State) (r : RodId) (reason n : Nat) (point : Option (DWord × SlotId × Nat)) : State :=
  match s.rod r with
  | none => s
  | some x =>
    let sl := match point with | some p => p.2.1 | none => x.mainSlot
    let (pc, idx) := match point with | some p => (p.1, p.2.2) | none => x.stopPoint sl
    let mask := match x.slot sl with | some y => y.path.mask | none => 0
    let c := (s.coreOf r).die
    let cyc := s.dieCycle c
    s.emit c 4 reason (s.rodWord r (s.idleLeaf (s.coreOf r) (quadOf r)) :: pcPair pc sl idx ++
      [mask, loWord cyc, hiWord cyc, BitVec.ofNat 32 (n * 2 ^ 24 + x.cause.bits 14 0)])

/-- The chains a hold of a core stops: those on the core and those of every furlong with a chain on it (R440). -/
def State.heldChains (s : State) (c : CoreId) : List (Nat × Chain) :=
  let here := s.residents c
  s.chains.filter (fun e => e.2.here &&
    (e.2.core == c || here.any (fun h => h.2.furlong == e.2.furlong && (s.furlong e.2.furlong).isSome)))

/-- Hold a core (R440) for a reason: its rods and those of its furlongs stop where they stand, a stop record is written for each,
and the hold timer starts with the LIMIT of the rod that caused it (R442; a hold with reason 3 has none). A hold that reaches a
held core has no further effect. -/
def State.holdCore (s : State) (c : CoreId) (reason : Nat) (cause : Option RodId) (n : Nat)
    (point : Option (DWord × SlotId × Nat)) : State :=
  if (s.core c).isHeld then s
  else
    let chains := s.heldChains c
    let s := chains.foldl (fun s e => (e.2.rodIds e.1).foldl (fun s r => s.modRod r (fun x => { x with frozen := true })) s) s
    let limit := match cause.bind s.rod with | some x => x.holdlimit.toNat | none => 2 ^ 32 - 1
    let fin := if reason = 3 ∨ limit = 2 ^ 32 - 1 then none else some (s.cycle + 2100 * limit)
    let s := s.setCore c { s.core c with isHeld := true, holdRod := cause, holdEnd := fin }
    chains.foldl (fun s e => (e.2.rodIds e.1).foldl (fun s r =>
      s.stopRecord r reason n (if some r = cause then point else none)) s) s

/-- The queue and ring index of a rod's launch. -/
def State.queueOf (s : State) (r : RodId) : Nat × Nat :=
  match s.cmd (s.launchOf r) with
  | some c => (c.queue, c.ring)
  | none => (0, 0)

/-- INFO of the handler events (R386). -/
def State.chainInfo (s : State) (r : RodId) : Nat :=
  (match s.chain r.chain with | some c => c.num | none => 0) * 2 ^ 32 + (s.queueOf r).2

/-- A chain freezes held with an event (R403). -/
def State.freeze (s : State) (r : RodId) (kind : Nat) (point : Option (DWord × SlotId × Nat)) : State :=
  (s.event (s.queueOf r).1 (eventRecord (s.asidOf r) (s.coreOf r).die kind (s.chainInfo r))).holdCore (s.coreOf r) 6 (some r) 0 point

/-! ### Taking an exception (R399 to R403) -/

/-- A rod of a chain sends a halt to every other rod (R402); open rendezvous latches of the chain are freed (R340). -/
def State.haltSiblings (s : State) (r : RodId) : State :=
  match s.chain r.chain with
  | none => s
  | some c =>
    (c.rodIds r.chain).foldl (fun s q => if q.rod = r.rod then s else s.send (.haltReceive q)) (s.setChain r.chain { c with latches := [] })

/-- TAKING AN EXCEPTION: the rod traps at a point with causes raised (R400 to R402). Its own slot stops there, its other slot
finishes the clause it has started, every sibling receives a halt, and sr.skid names the trap point. Inside a handler a precise
cause sets its bits and freezes the chain (R403). -/
def State.takeTrap (s : State) (r : RodId) (sl : SlotId) (bits : Word) (pc : DWord) (idx : Nat) : State :=
  match s.rod r with
  | none => s
  | some x =>
    if x.inHandler then (s.setRod r (x.raise bits)).freeze r 0x13 (some (pc, sl, idx))
    else
      let x := { x.raise bits with skid := packSkid pc sl idx (if x.run = RunState.running then 0 else x.skid.bits 5 0), run := .trapping, lastSlot := sl }
      let x := match x.slot sl with
        | some y => x.setSlot sl (some { y with wait := none, stopped := true })
        | none => x
      ((s.setRod r x).haltSiblings r).checkHalt r

/-- A precise cause of the issuing instruction, which performs nothing (R400). -/
def trap (s : State) (i : Iss) (bits : Word) : Res :=
  .next (s.takeTrap i.rid i.sl bits i.slot.path.pc i.slot.path.idx)

/-- The instruction after the issuing one, which is no branch (R401): the next of its clause, or instruction 0 of the clause that follows. -/
def Iss.after (i : Iss) : DWord × Nat :=
  let n := (i.slot.started.map (·.count)).getD 0
  if i.slot.path.idx + 1 < n then (i.slot.path.pc, i.slot.path.idx + 1) else (nextClause i.slot.path.pc n, 0)

/-- A trap whose trap point is the instruction after the issuing one (R401): the slot stops there, and arrives at no frame before it goes on. -/
def State.trapAfter (s : State) (i : Iss) (bits : Word) : State :=
  (s.modRod i.rid (fun x => (x.issued i.sl).setSlot i.sl
    (some { i.slot with path := i.slot.path.moveTo i.after.1 i.after.2, started := none, wait := none }))).takeTrap i.rid i.sl bits i.after.1 i.after.2

/-- A halt that finds a member waiting in a rendezvous latch frees the latch (R340). -/
def State.leaveLatches (s : State) (r : RodId) : State :=
  s.modChain r.chain (fun c => { c with latches := c.latches.filter (fun (e : Nat × Latch) => !e.2.arrived.contains r.rod) })

/-- A halt reaches a rod (R402): in a handler it sets HALTP only. -/
def State.receiveHalt (s : State) (r : RodId) : State :=
  match s.rod r with
  | none => s
  | some x =>
    if x.live = 0 then s
    else if x.inHandler then s.setRod r (x.raise Cause.haltp)
    else
      match x.run with
      | .running =>
        ((s.setRod r { x.raise Cause.haltp with run := .halting, lastSlot := x.mainSlot, skid := 0 }).leaveLatches r).checkHalt r
      | _ => s.setRod r (x.raise Cause.haltp)

/-- A word of code as a fetch reads it (R59, R76, R206). -/
inductive CodeWord where
  | word (w : DWord) (brk : Bool)
  | violation
  | poisoned (bits : Word)
  | missing (sparse : Bool)
  /-- something is under way at the line or at a table word -/
  | busy (pa n : Nat)
  deriving DecidableEq, Repr

/-- The break bit of the word at a virtual address (R436, R437). -/
def State.breakBit (s : State) (asid va : Nat) : Bool :=
  let first := s.brkva.toNat
  if s.brkcfg.getLsbD 63 ∧ asid = s.brkcfg.bits 15 0 ∧ first ≤ va ∧ (va - first) / 8 < s.brklen.bits 31 0 then
    let i := (va - first) / 8
    (s.curByte (s.brkpa.toNat + i / 8)).getLsbD (i % 8)
  else false

/-- A line joins a core's instruction cache: 64 sets of 8 ways (R53; log 48). -/
def Core.icFill (k : Core) (line : Nat) (tag : Nat × Nat) (x : List DWord × List Bool × List Word) : Core :=
  let excess := ((k.icLru.filter (fun l => l % 64 == line % 64 && l != line)).reverse.drop 7)
  { k with icache := (k.icache.keep (fun l _ => !excess.contains l)).put line x, icTags := (k.icTags.keep (fun l _ => !excess.contains l)).put line tag,
           icLru := k.icLru.filter (fun l => l ≠ line ∧ ¬ excess.contains l) ++ [line] }

/-- The word of an instruction-cache line at an index: its bits, with its break bit where it is used (R436), or its rejection where it was
poisoned (R76). -/
def codeAt (l : List DWord × List Bool × List Word) (i : Nat) (brk : Bool) : CodeWord :=
  let k := l.2.2.getD i 0
  if k ≠ 0 then .poisoned k else .word (l.1.getD i 0) (brk && l.2.1.getD i false)

/-- A core holds a line as it was filled for an address space and a virtual line: break bits belong to these (R436; log 48). -/
def Core.codeLine (k : Core) (line : Nat) (tag : Nat × Nat) : Option (List DWord × List Bool × List Word) :=
  if k.icTags.get line (0, 0) = tag then k.icache.find line else none

/-- Read a code word through the core's instruction cache (R59, R437): a line not held is filled whole, once nothing is under way at it. -/
def State.fetchWord (s : State) (c : CoreId) (asid : Nat) (va : DWord) : CodeWord × State :=
  match vaKind va with
  | .translated =>
    match s.translate (.core c) asid va.toNat .fetch with
    | (.frame pa p, s) =>
      let line := pa / 128
      let i := pa % 128 / 8
      let used := decide (asid = s.brkcfg.bits 15 0)
      if s.reach pa ≠ .memory then (.violation, s)
      else
        match (s.core c).codeLine line (asid, va.toNat / 128) with
        | some l =>
          let k := s.core c
          (codeAt l i used, s.setCore c { k with icLru := k.icLru.filter (· ≠ line) ++ [line] })
        | none =>
          if ¬ s.canGet (stopOf c.die) (128 * line) 128 then (.busy (128 * line) 128, s)
          else
            let rd := fun (j : Nat) => (s.curWord (32 * line + 2 * j), s.curWord (32 * line + 2 * j + 1))
            let base := va.toNat / 128 * 128
            let l : List DWord × List Bool × List Word :=
              ((List.range 16).map (fun j => dword (rd j).1.seen (rd j).2.seen), (List.range 16).map (fun j => s.breakBit asid (base + 8 * j)),
               (List.range 16).map (fun j => (rd j).1.cause ||| (rd j).2.cause))
            let s := if s.classOf pa p = .device then s
              else
                let s := s.homeSide (32 * line) (some 1)
                s.setCore c ((s.core c).icFill line (asid, va.toNat / 128) l)
            (codeAt l i used, s)
    | (.violation, s) => (.violation, s)
    | (.missing, s) => (.missing false, s)
    | (.busy pa n, s) => (.busy pa n, s)
    | (.sparse _ _, s) => (.violation, s)
  | _ => (.violation, s)

/-- HANDLER ENTRY (R403): both slots move to the shadow with their IDX, INH is set, and one path of every live lane starts at
HANDLER in no frame, in slot A. -/
def Rod.enterHandler (x : Rod) (handler : DWord) (now : Nat) : Rod :=
  let m := x.live
  { x with
    shadowA := x.slotA.map (·.out now), shadowB := x.slotB.map (·.out now), slotB := none,
    slotA := some (Slot.fresh { pc := handler, idx := 0, mask := m, frame := none, wait := now } now),
    cause := x.cause ||| Cause.inh, run := .running, oldStack := x.stack.keys }

/-- Entering a handler again: paths and frames made since entry go (R405). -/
def Rod.handlerAgain (x : Rod) (handler : DWord) (now : Nat) : Rod :=
  let m := x.live
  { x with
    slotB := none,
    slotA := some (Slot.fresh { pc := handler, idx := 0, mask := m, frame := none, wait := now } now),
    stack := x.stack.keep (fun k _ => x.oldStack.contains k) }

/-- RETURN FROM AN EXCEPTION (R405): paths and frames made since handler entry go, INH falls, both slots come back from the
shadow, and slot SLOT resumes at PC, instruction IDX, from sr.skid. A slot whose path has lost its last lane in the handler takes the
stacked path that has waited longest (R159). -/
def Rod.returnFromHandler (x : Rod) (now : Nat) : Rod :=
  let mk := fun (p : Path) => Slot.fresh p now
  let x := { x with slotA := x.shadowA.map mk, slotB := x.shadowB.map mk, shadowA := none, shadowB := none,
                    stack := x.stack.keep (fun k _ => x.oldStack.contains k), oldStack := [],
                    cause := x.cause &&& ~~~Cause.inh }
  let sl := if x.skid.getLsbD 10 then SlotId.b else .a
  let x := match x.slot sl with
    | none => x
    | some y => x.setSlot sl (some { y with path := y.path.moveTo ((x.skid >>> 11) <<< 3) (x.skid.bits 9 6) })
  let x := x.settle sl now (x.depth + 3)
  let x := if x.slotA.isNone then x.refill .a now else x
  if x.slotB.isNone then x.refill .b now else x

/-! ### Outstanding operations (R134, R207, R208) -/

/-- Take on an operation of the issuing rod; it counts in the flag the instruction names. -/
def State.addOp (s : State) (i : Iss) (kind : OpKind) : Nat × State :=
  let (n, s) := s.fresh
  let fl := i.flag
  let s := match fl with
    | some f => s.modRod i.rid (fun x => x.setFlag f.toNat (x.flagCount f.toNat + 1))
    | none => s
  (n, s.setOp n { rod := i.rid, flags := (match fl with | some f => [(i.rid.rod, f)] | none => []), kind := kind, susp := false,
                  denied := [] })

/-- An operation that names no flag (R208). -/
def State.addOpNoFlag (s : State) (r : RodId) (kind : OpKind) : Nat × State :=
  let (n, s) := s.fresh
  (n, s.setOp n { rod := r, flags := [], kind := kind, susp := false, denied := [] })

def State.setOpKind (s : State) (n : Nat) (k : OpKind) : State :=
  match s.op n with
  | some o => s.setOp n { o with kind := k }
  | none => s

/-- An operation completes: every flag it counts in falls by one (R208). -/
def State.endOp (s : State) (n : Nat) : State :=
  match s.op n with
  | none => s
  | some o =>
    let s := { s with ops := s.ops.erase n }
    o.flags.foldl (fun s f => s.modRod ⟨o.rod.chain, f.1⟩ (fun x => x.setFlag f.2.toNat (x.flagCount f.2.toNat - 1))) s

/-- Outstanding operations of a rod, as member of a gang too (R134). -/
def State.rodOps (s : State) (r : RodId) : List Nat :=
  Tbl.keys (s.ops.keep (fun _ o => o.rod == r || (o.rod.chain == r.chain &&
    (match o.kind with | .mx m => m.gang.contains r.rod | _ => false))))

/-- Every operation of the rod has completed, and every store of its has been registered (R134, R457). -/
def State.opsDone (s : State) (r : RodId) : Bool :=
  s.rodOps r == [] && ((s.rod r).map (fun x => x.stores.all (fun wd => !((s.core (s.coreOf r)).l1Word wd).st.pending))).getD true

/-- Every flag of the mask is clear (R203, R208). -/
def Rod.flagsClear (r : Rod) (m : BitVec 12) : Bool :=
  (List.range 12).all (fun n => !m.getLsbD n || r.flagCount n == 0)

/-- Late causes that have arrived (R400). -/
def Rod.lateCauses (r : Rod) : Word := r.cause &&& Cause.late

end Sys2Proof.Machine
end

