-- ==== Sys2Proof/Machine/Coherence.lean ====
section
/-!
DEFINITION. Coherence by registration as messages: the L1s, the home slices and the non-home slices (R80 to R101), the acquire and
the release (R85, R86), the stamp scrubbers (R88), home-performed accesses (R100), promotions (R104), the loss of a die and the
standby home (R106 to R110), and the host's snoops (R111, R112).
-/
namespace Sys2Proof

def HomeAct.writes : HomeAct → Bool
  | .read | .xsRead => false
  | _ => true

def HomeReq.writes (r : HomeReq) : Bool := r.accs.any (·.act.writes)

/-- The words that an access touches; a push touches its list's head and the block's link. -/
def HomeAcc.words (a : HomeAcc) : List Nat :=
  match a.act with
  | .push _ link => (wordsOf a.pa a.size ++ wordsOf link a.size).eraseDups
  | _ => wordsOf a.pa a.size

def HomeReq.words (r : HomeReq) : List Nat := (r.accs.flatMap HomeAcc.words).eraseDups

/-- The words that a request writes. -/
def HomeReq.written (r : HomeReq) : List Nat := ((r.accs.filter (·.act.writes)).flatMap HomeAcc.words).eraseDups

/-- Words that must be in D or L before the request is performed: those it writes, and those of an access of several words (R100). -/
def HomeReq.settled (r : HomeReq) : List Nat :=
  ((r.accs.filter (fun a => a.act.writes || decide (1 < a.words.length))).flatMap HomeAcc.words).eraseDups

/-- The core that a read under way answers, and its word. -/
def Instr.readsFor : Instr → Option (CoreId × Nat)
  | .homeRead rd wd | .l1Forward _ wd rd | .nonhomeForward _ wd rd => some (rd.core, wd)
  | .nonhomeRead c wd => some (c, wd)
  | _ => none

end Sys2Proof

namespace Sys2Proof.Machine

/-! ### Rods of a core and words they wait for -/

/-- The rods resident on a core. -/
def State.rodsOn (s : State) (c : CoreId) : List RodId := (s.residents c).flatMap (fun e => e.2.rodIds e.1)

/-- Raise causes in the rods of a core that have stored a part of a word, or asked for it by `own`, and await its fetch (R76, R107). -/
def State.raiseStorers (s : State) (c : CoreId) (wd : Nat) (bits : Word) : State :=
  if bits = 0 then s
  else (s.rodsOn c).foldl (fun s r => s.modRod r (fun x => if x.parts.contains wd then x.raise bits else x)) s

/-- A write-back of a registered word leaves an L1. -/
def State.writeBack (s : State) (c : CoreId) (wd : Nat) (v : Word) : State :=
  if s.homeDie (4 * wd) = c.die then s.send (.homeWriteBack (.core c) wd v) else s.send (.nonhomeWriteBack c wd v)

/-- A registered word is written back, and the L1 keeps it in V (R102). -/
def State.writeBackV (s : State) (c : CoreId) (wd : Nat) : State :=
  let x := (s.core c).l1Word wd
  if x.st = .g then ((s.setCore c ((s.core c).setL1 wd { x with st := .v, fill := s.cycle })).setPoison wd x.bad).writeBack c wd x.val else s

/-- No rod of the core awaits the registration of a word any more (R85). -/
def State.settleWord (s : State) (c : CoreId) (wd : Nat) : State :=
  (s.rodsOn c).foldl (fun s r => s.modRod r (fun x =>
    { x with stores := x.stores.filter (· ≠ wd), parts := x.parts.filter (· ≠ wd) })) s

/-- A word is granted to a core: no rod of the core awaits its registration any more, an `own` that waited for it alone completes, and a
`wbk` that waits for it writes it back (R85, R102, R103). -/
def State.wordGranted (s : State) (c : CoreId) (wd : Nat) : State :=
  (s.settleWord c wd).ops.foldl (fun s (e : Nat × Op) =>
    if s.coreOf e.2.rod ≠ c then s
    else match e.2.kind with
      | .words ws =>
        let ws' := ws.filter (· ≠ wd)
        if ws' = ws then s else if ws' = [] then s.endOp e.1 else s.setOpKind e.1 (.words ws')
      | .wbk ws gone =>
        if ¬ ws.contains wd then s
        else
          let rest := ws.filter (· ≠ wd)
          if ((s.core c).l1Word wd).st = .g then (s.writeBackV c wd).setOpKind e.1 (.wbk rest (insertNat wd gone))
          else if rest = [] ∧ gone = [] then s.endOp e.1
          else s.setOpKind e.1 (.wbk rest gone)
      | _ => s) (s.settleWord c wd)

/-- A die's slice holds the word in X: the rods of the die's other cores that had read or acquired it wait for it no more (R85, R125). -/
def State.dieGranted (s : State) (d wd : Nat) : State :=
  s.cores.foldl (fun s (e : Nat × Core) =>
    let c := coreOfKey e.1
    if c.die = d ∧ ¬ (e.2.l1Word wd).st.pending then s.settleWord c wd else s) s

/-- The write-back of a word has reached home: a `wbk` that waited for it alone completes; one that still waits for the word's grant goes on
(R102). -/
def State.backHome (s : State) (p : Nat → Nat → Bool) (wd : Nat) : State :=
  s.ops.foldl (fun s (e : Nat × Op) =>
    let c := s.coreOf e.2.rod
    if ¬ p c.die c.core then s
    else match e.2.kind with
      | .wbk ws gone =>
        let rest := gone.filter (· ≠ wd)
        if rest = gone then s else if ws = [] ∧ rest = [] then s.endOp e.1 else s.setOpKind e.1 (.wbk ws rest)
      | _ => s) s

/-- How an acquire or a release at a scope acts (R85, R86). -/
inductive ScopeClass where
  | core | die | package
  deriving DecidableEq, Repr

/-- The class of a scope for a rod: furlong goes by the dies its furlong lies on (R86, R115). -/
def State.scopeClass (s : State) (r : RodId) (sc : Scope) : ScopeClass :=
  match sc with
  | .lane | .rod | .chain | .core => .core
  | .die => .die
  | .furlong =>
    match (s.chain r.chain).bind (fun c => s.furlong c.furlong) with
    | some f => if f.size ≤ 1 then .core else if f.dieLo = f.dieHi then .die else .package
    | none => .core
  | _ => .package

/-! ### Words reach the loads that wait for them (R83, R118, R209, R312) -/

/-- A load of a core waits for the word. -/
def LoadOp.waitsFor (l : LoadOp) (wd : Nat) : Bool := l.need.any (·.word == wd)

/-- The hints of the loads of a core that wait for a word, oldest first. -/
def State.hintsFor (s : State) (c : CoreId) (wd : Nat) : List Hint :=
  s.ops.filterMap (fun (e : Nat × Op) =>
    if s.coreOf e.2.rod ≠ c then none
    else match e.2.kind with
      | .load l => if l.waitsFor wd then some l.hint else none
      | _ => none)

/-- A read of a word is sent to its home slice, or to the die's own slice of it (R83). -/
def State.readWord (s : State) (c : CoreId) (wd : Nat) : State :=
  if s.homeDie (4 * wd) = c.die then s.send (.homeRead ⟨c, false⟩ wd) else s.send (.nonhomeRead c wd)

/-- A read of the word for the core is under way. -/
def State.reading (s : State) (c : CoreId) (wd : Nat) : Bool :=
  s.under.any (fun m => m.readsFor == some (c, wd)) ||
    (s.homeQ wd).any (fun m => match m with | .read rd => rd.core == c | _ => false)

/-- A read of a word is asked for, unless one is under way for the core or its registration is. -/
def State.askWord (s : State) (c : CoreId) (wd : Nat) : State :=
  if s.reading c wd ∨ ((s.core c).l1Word wd).st.owned then s else s.readWord c wd

/-- A load has all its words, the last of them from a stop: the answer to one with an acquire at package scope or wider comes in the control class
(R413). -/
def State.loadDone (s : State) (src op : Nat) (r : RodId) (l : LoadOp) : State :=
  let acquires := (l.ord == .acq || l.ord == .ar) && s.scopeClass r l.sc == .package
  s.carry src (stopOf (s.coreOf r).die) (if acquires then 0 else 2) (.loadComplete op)

/-- Words that have come from a stop go into a load; it completes when none is missing. -/
def State.bindParts (s : State) (src op : Nat) (ps : List LoadPart) (ws : List (Nat × WordRead)) : State :=
  match s.op op with
  | none => s
  | some o =>
    match o.kind with
    | .load l =>
      let val := fun (wd : Nat) => (ws.find? (fun e => e.1 == wd)).map Prod.snd
      let got := ps.foldl (fun (t : Tbl Word) p => match val p.word with
        | some w => t.put (64 * p.lane + p.pos) w.seen
        | none => t) l.got
      let rest := l.need.filter (fun p => !ps.contains p)
      let s := (s.setOpKind op (.load { l with need := rest, got := got })).raise o.rod (ws.foldl (fun k e => k ||| e.2.cause) 0)
      if rest = [] then s.loadDone src op o.rod l else s
    | _ => s

/-- The words of a lane's access of 8 or 16 bytes that a load still waits for (R118). -/
def LoadOp.group (l : LoadOp) (lane : Nat) : List LoadPart := l.need.filter (fun p => p.lane == lane && p.grp)

/-- A rod waits at its next release for the stores that it reads before their grant (R125, R130). -/
def State.readPending (s : State) (r : RodId) (ws : List Nat) : State :=
  match ws.filter (fun wd => ((s.core (s.coreOf r)).l1Word wd).st.pending) with
  | [] => s
  | ps => s.modRod r (fun x => { x with stores := ps.foldl (fun l w => insertNat w l) x.stores })

/-- Bind an access of 8 or 16 bytes when its words can be read in one step; else what is missing is asked for again (R118). -/
def State.bindGroup (s : State) (src : Nat) (c : CoreId) (op lane : Nat) (h : Hint) (viol : Bool) : State :=
  match s.op op with
  | some { rod := r, kind := .load l, .. } =>
    let ps := l.group lane
    let ws := ps.map (·.word)
    if ps = [] then s
    else if viol then s.bindParts src op ps (ws.map (fun wd => (wd, { val := 0, bad := false, lost := false, viol := true })))
    else if s.coreCan c ws then
      let (rs, s) := (s.readPending r ws).coreReads c ws h
      s.bindParts src op ps (ws.zip rs)
    else (ws.filter (fun wd => !s.fresh1 c wd && !(s.quiet wd && s.homeNear (stopOf c.die) wd))).foldl (fun s wd => s.askWord c wd) s
  | _ => s

/-- A word reaches the loads of a core that wait for it, from a stop. -/
def State.bindWord (s : State) (src : Nat) (c : CoreId) (wd : Nat) (w : WordRead) : State :=
  s.ops.foldl (fun s (e : Nat × Op) =>
    if s.coreOf e.2.rod ≠ c then s
    else match e.2.kind with
      | .load l =>
        let mine := l.need.filter (·.word == wd)
        let s := if mine.any (fun p => !p.grp) then s.bindParts src e.1 (mine.filter (fun p => !p.grp)) [(wd, w)] else s
        ((mine.filter (·.grp)).map (·.lane)).eraseDups.foldl (fun s lane => s.bindGroup src c e.1 lane l.hint w.viol) s
      | _ => s) s

/-- The answer of die `src` to a read, a value of a cycle (R83, R96), poisoned when a transfer has damaged it (R74): the reader's slice, when the
read went through it, and its L1 take a copy in V as the hints of the loads that wait ask (R70), and those loads have the word. A lost or
inaccessible word leaves no copy (R107, R110). -/
def State.deliver (s : State) (src : Nat) (rd : Reader) (wd : Nat) (w : WordRead) (time : Nat) : State :=
  let c := rd.core
  let (hit, s) := if src = c.die ∨ w.viol then ([], s) else s.flawed false (stopOf c.die) [wd]
  let w := { w with bad := w.bad || hit != [] }
  let hs := s.hintsFor c wd
  let h := hs.headD .normal
  let copy := !w.lost && !w.viol
  let s := if copy ∧ rd.viaL2 ∧ (s.die c.die).l2State wd = .i ∧ (hs.isEmpty ∨ hs.any (·.allocL2)) then s.fillL2 c.die wd w h.l2Retention time
    else s
  let s := if copy ∧ (hs.isEmpty ∨ hs.any (·.allocL1)) then s.fillL1 c wd w h.l1Retention time else s
  (s.useLine c (lineOf wd) h).bindWord (stopOf src) c wd w

/-! ### The acquire and the release (R85, R86, R88) -/

/-- Advance an L1's stamp; lines that still hold the new value are scrubbed first (R82, R88). -/
def Core.advanceStamp (c : Core) : Core :=
  let v := c.stamp + 1
  let old := c.lru.filter (fun l => c.lineStamp l == v)
  let c := old.foldl (fun c l => { c.dropV l with stamps := c.stamps.set l v 0 }) c
  { c with stamp := v }

/-- Advance a die's L2 stamp (R87, R88). -/
def Die.advanceStamp (d : Die) : Die :=
  let v := d.l2stamp + 1
  let stale := fun (wd : Nat) => d.l2stamps.get (lineOf wd) 0 == v
  { d with l2 := d.l2.keep (fun wd x => !(x.st == .v && stale wd)), l2stamp := v }

/-- An acquire of a class on a core (R86). -/
def State.acquireAt (s : State) (c : CoreId) (k : ScopeClass) : State :=
  match k with
  | .core => s
  | .die => s.setCore c (s.core c).advanceStamp
  | .package => let s := s.setCore c (s.core c).advanceStamp; s.setDie c.die (s.die c.die).advanceStamp

/-- Words whose registration is pending at a core, or from its die (R99). -/
def State.pendingNear (s : State) (c : CoreId) : List Nat :=
  ((s.core c).l1.filter (fun (e : Nat × L1Word) => e.2.st.pending)).map Prod.fst ++
  ((s.die c.die).l2.filter (fun (e : Nat × L2Word) => e.2.st == .xp)).map Prod.fst

/-- A rod that acquires takes over the stores it may have synchronised with: its next release waits for them too (R125, R130). -/
def State.inherit (s : State) (r : RodId) : State :=
  match s.pendingNear (s.coreOf r) with
  | [] => s
  | ws => s.modRod r (fun x => { x with stores := ws.foldl (fun l w => insertNat w l) x.stores })

/-- An acquire of a rod at a scope (R86). -/
def State.acquire (s : State) (r : RodId) (sc : Scope) : State := (s.inherit r).acquireAt (s.coreOf r) (s.scopeClass r sc)

/-- A host snoop has been received that has still to be applied at its home slice (R86). -/
def State.snooping (s : State) : Bool := match s.inputs with | .hostSnoop _ _ :: _ => true | _ => false

/-- An acquire at a scope can be performed: a held core advances no stamp (R105), and one at host scope or wider waits for the host's
snoops (R86, R115). -/
def State.mayAcquire (s : State) (r : RodId) (sc : Scope) : Bool :=
  !((s.core (s.coreOf r)).isHeld && s.scopeClass r sc != .core) &&
    !((sc == .host || sc == .node || sc == .fabric) && s.snooping)

/-- Every word of a list is registered as far as a class of release of a core needs (R85): at the core's die, or at home. -/
def State.grantedAt (s : State) (c : CoreId) (k : ScopeClass) (ws : List Nat) : Bool :=
  match k with
  | .core => true
  | .die => ws.all (fun wd => ((s.core c).l1Word wd).st != .gp)
  | .package => ws.all (fun wd => !((s.core c).l1Word wd).st.pending && ((s.die c.die).l2Word wd).st != .xp)

/-- The rod has an operation that p holds of. -/
def State.hasOp (s : State) (r : RodId) (p : OpKind → Bool) : Bool := s.ops.any (fun (e : Nat × Op) => e.2.rod == r && p e.2.kind)

/-- A reduction or uncached store of the rod has still to be performed (R317). -/
def State.posting (s : State) (r : RodId) : Bool := s.hasOp r (· == .posted)

/-- A `dfree` of the rod has still to push (R315). -/
def State.freeing (s : State) (r : RodId) : Bool := s.hasOp r (fun k => match k with | .free _ _ _ => true | _ => false)

/-- A load of the rod has words still to be bound (R128). -/
def State.unbound (s : State) (r : RodId) : Bool := s.hasOp r (fun k => match k with | .load l => l.need != [] | _ => false)

/-- A load of the rod with an acquire has not completed (R116). -/
def State.acquiring (s : State) (r : RodId) : Bool :=
  s.hasOp r (fun k => match k with | .load l => l.ord == .acq || l.ord == .ar | _ => false)

/-- What a release at a scope waits for has happened (R85): the rod's earlier stores are granted, and performed. -/
def State.released (s : State) (r : RodId) (sc : Scope) : Bool :=
  match s.rod r with
  | none => true
  | some x => !s.posting r && !s.unbound r && !s.freeing r && s.grantedAt (s.coreOf r) (s.scopeClass r sc) x.stores

/-- Every event that happens before the issuing instruction happens before the accesses of an engine operation (R138, R139): the rod's updates are
performed, its loads bound and its acquires done. -/
def State.forked (s : State) (r : RodId) : Bool := !s.posting r && !s.acquiring r && !s.unbound r

/-- An engine operation of a rod can be taken up: what happened before it can be seen wherever its completion is, a scope that its furlong
needs at the least (R138). -/
def State.engineReady (s : State) (r : RodId) (sc : Scope := .furlong) : Bool :=
  s.forked r && ((s.rod r).map (fun x => s.grantedAt (s.coreOf r) (s.scopeClass r sc) x.stores)).getD true

/-! ### The home slice (R89 to R91, R98) -/

/-- The request must wait for the host to give the line up (R112). -/
def HomeMsg.needsHost : HomeMsg → Bool
  | .reg _ _ => true
  | .perform r => r.writes
  | _ => false

/-- The slice cannot serve a request for the word now (R91, R112). -/
def State.blocked (s : State) (wd : Nat) (m : HomeMsg) : Bool := s.waitingHome wd || (m.needsHost && s.hostMay wd)

/-- A request waits in its word's queue; the host is asked to give up a line that it may hold, and a word in D waits on it (R90, R112). -/
def State.queueAt (s : State) (wd : Nat) (m : HomeMsg) : State :=
  let s := s.setHomeQ wd (s.homeQ wd ++ [m])
  if m.needsHost ∧ s.hostMay wd then
    (if s.homeOf wd = none then s.setHome wd (some (.waiting .host)) else s).snoopHost (lineOf wd)
  else s

/-- A grant goes to a party (R85, R91). -/
def State.grant (s : State) (p : Party) (wd : Nat) (val : Option Word) : State :=
  match p with
  | .core c => s.send (.l1PackageGrant c wd val)
  | .l2 d => s.toDie (s.homeDie (4 * wd)) d (.nonhomePackageGrant d wd val)

def ownerOf : Party → Owner
  | .core c => .core c
  | .l2 d => .die d

/-- The core that a registration serves. -/
def State.regCore (s : State) (p : Party) (wd : Nat) : CoreId :=
  match p with
  | .core c => c
  | .l2 d => ⟨d, ((s.die d).l2Word wd).own⟩

/-! ### Home-performed accesses (R76, R100, R107) -/

/-- The value an atomic or reduction leaves, for operands of n bits (R316). -/
def amoApply (op : AmoOp) (n : Nat) (old v v2 : Nat) : Nat :=
  let sg := fun (x : Nat) => sbits x (n - 1) 0
  let o := old % 2 ^ n
  let v := v % 2 ^ n
  match op with
  | .add => (o + v) % 2 ^ n
  | .and => Nat.land o v
  | .or => Nat.lor o v
  | .xor => Nat.xor o v
  | .min => if sg v < sg o then v else o
  | .max => if sg o < sg v then v else o
  | .minn => if v < o then v else o
  | .maxn => if o < v then v else o
  | .exch => v
  | .cas => if o = v then v2 % 2 ^ n else o
  | .ihull =>
    let p := fun (x : Nat) => Pair.ofWords .f [wordAt x 0, wordAt x 1]
    ofWords ((ivHull fp32 (p o) (p v)).pair.words .f)

/-- The late causes of words read or partly written (R76, R107). -/
def State.wordCauses (s : State) (ws : List Nat) : Word := ws.foldl (fun a wd => a ||| (s.curWord wd).cause) 0

/-- What an access performed at home gives: the value it returns, the causes it raises, the state. -/
abbrev AccOut := Nat × Word × State

/-- Perform one access of a home-performed request: the value it returns, the causes it raises, the state. A poisoned word makes an atomic of
two words leave both and return all ones (R76; log 40); `red.xs` leaves words in L (R107), and `ld.xs`
takes them to D (R91). -/
def runAcc (a : HomeAcc) (s : State) : AccOut :=
  let ws := a.words
  let old := s.curNat a.pa a.size
  let bad := ws.any (fun wd => (s.curWord wd).bad && !(s.curWord wd).lost)
  let lost := ws.any (fun wd => (s.curWord wd).lost)
  if s.reach a.pa ≠ .memory then (2 ^ (8 * a.size) - 1, Cause.accv, s)
  else
  match a.act with
  | .read => (old, s.wordCauses ws, ws.foldl (fun s wd => s.findLost wd) s)
  | .write v =>
    let part := ws.filter (fun wd => !(decide (a.pa ≤ 4 * wd) && decide (4 * wd + 4 ≤ a.pa + a.size)))
    (0, s.wordCauses part, s.putNat a.pa a.size v)
  | .amo op v v2 =>
    if bad then (2 ^ (8 * a.size) - 1, s.wordCauses ws, s)
    else (old, s.wordCauses ws, s.putNat a.pa a.size (amoApply op (8 * a.size) old v v2))
  | .xsAdd lo hi =>
    if bad || lost then (0, s.wordCauses ws, s)
    else
      let h := xsAdd (old % 2 ^ 512) (old >>> 512) ((Pair.ofWords .f [lo, hi]).iv fp32)
      (0, 0, s.putNat a.pa 128 (h.1 + h.2 * 2 ^ 512))
  | .xsRead => (old, s.wordCauses ws, ws.foldl (fun s wd => s.findLost wd) s)
  | .push va link =>
    let head := wordsOf a.pa a.size
    if head.any (fun wd => (s.curWord wd).bad && !(s.curWord wd).lost) then (0, s.wordCauses head, s)
    else
      let s' := if s.reach link = .memory then s.putNat link a.size old else s
      (0, s.wordCauses head, s'.putNat a.pa a.size va)

/-- Add to a counter, for a rod or for none (R143, R326): a sum that wraps lowers it, which is counter regression, and what watches the counter
follows. -/
def State.counterAdd (s : State) (r : Option RodId) (pa v : Nat) : State :=
  let (old, k, t) := runAcc { lane := 0, pa := pa, size := 8, act := .amo .add v 0 } s
  let wraps := k == 0 && decide (2 ^ 64 ≤ old + v % 2 ^ 64)
  let t := match r with
    | some r => t.raise r (k ||| (if wraps then Cause.creg else 0))
    | none => t
  t.noteCounters s r pa 8 true

/-- A value returned to a load or an atomic: the words of a lane, and the interval flags they will set with it (R201). -/
def LoadOp.take (l : LoadOp) (a : HomeAcc) (v : Nat) (hurt : Bool) : LoadOp :=
  match l.kind with
  | .xs w =>
    let r : IvOut := if hurt then w.fmt.outPair w.fmt.emptyPair false else xsRead w.fmt (v % 2 ^ 512) (v >>> 512)
    let ws := r.pair.words w
    { l with need := l.need.filter (·.lane ≠ a.lane),
             got := ws.zipIdx.foldl (fun (t : Tbl Word) e => t.put (64 * a.lane + e.2) e.1) l.got, iflags := l.iflags ||| r.flags }
  | _ =>
    let n := (a.pa % 4 + a.size + 3) / 4
    { l with need := l.need.filter (·.lane ≠ a.lane),
             got := (List.range n).foldl (fun (t : Tbl Word) j => t.put (64 * a.lane + j) (wordAt (v <<< (8 * (a.pa % 4))) j)) l.got }

/-- The copies in V of words that a core's L1 and its die's slice hold go, so that the core later reads this access's value or a later one
(R126). -/
def State.dropCopies (s : State) (c : CoreId) (ws : List Nat) : State :=
  ws.foldl (fun s wd =>
    let k := s.core c
    let s := if (k.l1Word wd).st = .v then s.setCore c (k.dropL1 wd) else s
    let d := s.die c.die
    if (d.l2Word wd).st = .v then s.setDie c.die (d.setL2 wd L2Word.reset) else s) s

/-- The counters that the writes of accesses touch have changed since `before` (R143). -/
def State.noteAccs (s before : State) (r : Option RodId) (as : List HomeAcc) : State :=
  ((as.filter (·.act.writes)).flatMap (fun a => (List.range ((a.pa % 8 + a.size + 7) / 8)).map (fun k => (a.pa / 8 + k, a.cnt)))).eraseDups.foldl
    (fun s k => s.noteCounters before r (8 * k.1) 8 k.2) s

/-- The answer to one access goes to the operation that waits. -/
def State.answerAcc (s : State) (op : Nat) (a : HomeAcc) (v : Nat) (k : Word) : State :=
  match s.op op with
  | none => s
  | some o =>
    let s := (s.raise o.rod k).dropCopies (s.coreOf o.rod) a.words
    match o.kind with
    | .load l => s.setOpKind op (.load (l.take a v (k ≠ 0)))
    | _ => s

/-- The whole request has been performed. -/
def State.answerReq (s : State) (r : HomeReq) : State :=
  let s := match r.post with | some q => s.evAdvance q | none => s
  let s := match r.sample with | some d => s.smpSettle d | none => s
  match s.op r.op with
  | some o =>
    match o.kind with
    | .load l => if l.need = [] then s.loadDone (stopOf (s.homeDie (4 * r.words.headD 0))) r.op o.rod l else s
    | .posted | .free _ _ _ => s.endOp r.op
    | _ => s
  | none => s

/-- An access performed at home for a unit at a stop has crossed the ring (R74): words written that arrived damaged are poisoned, bytes read that
arrive damaged are ones, with the late cause of poison. -/
def AccOut.over (x : AccOut) (stop : Option Nat) (a : HomeAcc) : AccOut :=
  match stop with
  | none => x
  | some d =>
    let (v, k, s) := x
    if a.act.writes then (v, k, s.arrived d a.words)
    else
      let (hit, s) := s.flawed false d (a.words.filter (fun wd => stopOf (s.homeDie (4 * wd)) != d))
      if hit = [] then (v, k, s)
      else
        ((List.range a.size).foldl (fun v i => if hit.contains ((a.pa + i) / 4) then Nat.lor v (0xFF * 2 ^ (8 * i)) else v) v, k ||| Cause.umem, s)

/-- Perform a request whose words are all free of owners it must recall: its accesses in order, its answers to the operation that
waits, its causes to the rod. Counters see each read-modify-write of an atomic in turn, and the plain stores of an instruction's lanes as one
write, in which the highest lane supplies a byte (R117, R137). -/
def State.applyReq (s : State) (r : HomeReq) : State :=
  let rod := (s.op r.op).map Op.rod
  let plain := r.accs.all (fun a => match a.act with | .write _ => true | _ => false)
  let s' := r.accs.foldl (fun (s : State) a =>
    let (v, k, s1) := (runAcc a s).over r.stop a
    let s1 := if plain then s1 else s1.noteAccs s rod [a]
    s1.answerAcc r.op a v k) s
  (if plain then s'.noteAccs s rod r.accs else s').answerReq r

/-- Home slices hold the lines of a request, as its hint allows, with room for what they hold after it (R62, R69, R71): false while there is
none. -/
def State.resideReq (s : State) (r : HomeReq) : Bool × State :=
  ((r.accs.filter (·.hint.allocL2)).flatMap (fun a => (a.words.map lineOf).eraseDups.map (fun l => (l, a.hint.l2Retention)))).foldl (fun acc e =>
    let (b, s) := acc.2.reside (acc.2.homeDie (128 * e.1)) e.1 e.2 (fun s => s.applyReq r)
    (acc.1 && b, s)) (true, s)

/-- A home-performed request meets the slices of its words (R91, R100): it waits while data cannot go between them and its stop (R5), queues behind
a word that waits, recalls the owner of a word that must be at home, waits for a word it reads to be with a granted owner, and is otherwise
performed on all of them in one step. `self` is the word whose queue has just given it up. -/
def State.performReq (s : State) (r : HomeReq) (self : Option Nat) : State :=
  if (r.stop.map (fun k => r.words.any (fun wd => !s.homeNear k wd))).getD false then s.send (.homePerformedAccess r)
  else
  match s.resideReq r with
  | (false, s) => s.send (.homePerformedAccess r)
  | (true, s) =>
    match r.words.find? (fun wd => s.blocked wd (.perform r) || (some wd != self && !(s.homeQ wd).isEmpty)) with
    | some wd => s.queueAt wd (.perform r)
    | none =>
      match r.settled.findSome? (fun wd => match s.homeOf wd with | some (.owned o) => some (wd, o) | _ => none) with
      | some (wd, o) => s.startRevoke wd o (.perform r)
      | none =>
        if r.words.any (fun wd => (s.ownerCore wd).isSome && s.under.any (fun m => m.settles == some wd)) then s.send (.homePerformedAccess r)
        else (r.written.foldl (fun s wd => s.hostLine wd .owned) s).applyReq r

/-! ### Serving requests (R91) -/

/-- A registration has taken its place at home: a store that its core has already made becomes a write of the coherence order for the other cores;
its own core has seen it since it was made (R93, R144). -/
def State.noteRegistered (s : State) (c : CoreId) (wd : Nat) : State :=
  if ((s.core c).l1Word wd).known = 0 then s else s.noteWriteOn (fun k => k != c) wd

/-- Serve one request at a word that is not blocked (R91). -/
def State.homeDo (s : State) (wd : Nat) (m : HomeMsg) : State :=
  match m with
  | .read rd =>
    match s.homeOf wd with
    | some (.owned (.core c)) => s.send (.l1Forward c wd rd)
    | some (.owned (.die d)) => s.toDie (s.homeDie (4 * wd)) d (.nonhomeForward d wd rd)
    | _ => (s.hostLine wd .shared).deliver (s.homeDie (4 * wd)) rd wd (s.curWord wd) s.cycle
  | .reg p fetch =>
    let w := s.curWord wd
    let val := if fetch then some (if w.lost then 0xFFFFFFFF else w.val) else none
    match s.homeOf wd with
    | some (.owned o) => if o = (ownerOf p) then s.grant p wd val else s.startRevoke wd o m
    | _ =>
      let s := if w.lost then s.setPoison wd false else s
      let s := if w.lost ∧ fetch then s.raiseStorers (s.regCore p wd) wd Cause.olost else s
      (((s.hostLine wd .owned).setHome wd (some (.owned (ownerOf p)))).noteRegistered (s.regCore p wd) wd).grant p wd val
  | .perform r => s.performReq r (some wd)
  | .recall =>
    match s.homeOf wd with
    | some (.owned o) => s.startRevoke wd o .recall
    | _ => s

/-- Serve the queue of a word while nothing blocks it (R91); a request that the host's copy of the line blocks asks for it (R112). -/
def State.homeDrain (s : State) (wd : Nat) : Nat → State
  | 0 => s
  | fuel + 1 =>
    match s.homeQ wd with
    | [] => s
    | m :: rest =>
      if s.waitingHome wd then s
      else if s.blocked wd m then (s.setHomeQ wd []).queueAt wd m |>.setHomeQ wd (m :: rest)
      else ((s.setHomeQ wd rest).homeDo wd m).homeDrain wd fuel

/-- Serve a word's whole queue. -/
def State.homeServe (s : State) (wd : Nat) : State := s.homeDrain wd ((s.homeQ wd).length + 1)

/-- A registration is abandoned: near memory that has become inaccessible takes no store (R27, R110). The rods that wait for it have an
access violation. -/
def State.abandon (s : State) (p : Party) (wd : Nat) : State :=
  let c := s.regCore p wd
  let s := match p with
    | .l2 d => s.setDie d ((s.die d).setL2 wd L2Word.reset)
    | .core _ => s
  let s := (s.rodsOn c).foldl (fun s r => s.modRod r (fun x => if x.stores.contains wd then x.raise Cause.accv else x)) s
  ((s.setCore c ((s.core c).dropL1 wd)).wordGranted c wd).bindWord (stopOf c.die) c wd { val := 0, bad := false, lost := false, viol := true }

/-- A request for a word that can no longer be reached (R5, R27, R110). -/
def State.refuse (s : State) (wd : Nat) (m : HomeMsg) : State :=
  match m with
  | .read rd => s.deliver rd.core.die rd wd { val := 0, bad := false, lost := false, viol := true } s.cycle
  | .reg p _ => s.abandon p wd
  | .perform r => s.applyReq r
  | .recall => s

/-- The retention that a request asks of its home slice; none for a read that allocates nothing (R70). -/
def State.retOf (s : State) (wd : Nat) : HomeMsg → Option Nat
  | .read rd =>
    match s.hintsFor rd.core wd with
    | [] => some 1
    | hs => (hs.find? (·.allocL2)).map (·.l2Retention)
  | .reg p _ => some ((s.core (s.regCore p wd)).l1Word wd).ret
  | _ => some 1

/-- The line of a request has its place in its home slice, with room for what it holds once the request is served (R61, R62, R70): false while
there is none. -/
def State.placed (s : State) (wd : Nat) (m : HomeMsg) : Bool × State :=
  match s.retOf wd m with
  | none => (true, s)
  | some r =>
    s.reside (s.homeDie (4 * wd)) (lineOf wd) r (fun s => match m with
      | .reg p _ => s.setHome wd (some (.owned (ownerOf p)))
      | _ => s)

/-- A request arrives at home (R91, R98): its line takes its place in the slice, and it is served, or queues in order of arrival. `i` is its
message, which comes again while the slice has no room. -/
def State.homeArrive (s : State) (wd : Nat) (m : HomeMsg) (i : Instr) : State :=
  if s.reach (4 * wd) ≠ .memory then s.refuse wd m
  else
    match s.placed wd m with
    | (false, s) => s.send i
    | (true, s) => if s.blocked wd m ∨ s.homeQ wd ≠ [] then s.queueAt wd m else s.homeDo wd m

/-- `HOME_READ` (R91). -/
def execHomeRead (rd : Reader) (wd : Nat) (s : State) : Res := .next (s.homeArrive wd (.read rd) (.homeRead rd wd))

/-- `HOME_REGISTER` (R91). -/
def execHomeRegister (p : Party) (wd : Nat) (s : State) : Res := .next (s.homeArrive wd (.reg p false) (.homeRegister p wd))

/-- `HOME_REGISTER_FETCH` (R91). -/
def execHomeRegisterFetch (p : Party) (wd : Nat) (s : State) : Res :=
  .next (s.homeArrive wd (.reg p true) (.homeRegisterFetch p wd))

/-- The ring stop of a party. -/
def partyStop : Party → Nat
  | .core c => stopOf c.die
  | .l2 d => stopOf d

/-- A party is core c of die d, or the slice of die d. -/
def hasCore (p : Party) (d c : Nat) : Bool :=
  match p with
  | .core k => d == k.die && c == k.core
  | .l2 k => d == k

/-- `HOME_WRITE_BACK` (R91, R92): the value of the owner goes to D; of a party being revoked it is kept for its answer. -/
def execHomeWriteBack (p : Party) (wd : Nat) (val : Word) (s : State) : Res :=
  let s := match s.homeOf wd with
    | some (.owned o) => if o = (ownerOf p) then (s.setHome wd none).setMemWord wd val else s
    | some (.waiting o) => if o = (ownerOf p) then s.setMemWord wd val else s
    | _ => s
  .next ((s.arrived (partyStop p) [wd]).backHome (hasCore p) wd)

/-- `HOME_OWNER_ANSWER` (R91, R96): the word takes the owner's value, and its queue is served; a slice that gives an owned word up unasked
writes it back so. -/
def execHomeOwnerAnswer (p : Party) (wd : Nat) (val : Option Word) (s : State) : Res :=
  match s.homeOf wd, val with
  | some (.waiting o), _ =>
    if o = (ownerOf p) then
      let s := s.setHome wd none
      .next ((match val with | some v => (s.setMemWord wd v).arrived (partyStop p) [wd] | none => s).homeServe wd)
    else .next s
  | some (.owned o), some v =>
    if o = (ownerOf p) then .next ((((s.setHome wd none).setMemWord wd v).arrived (partyStop p) [wd]).homeServe wd) else .next (s.homeServe wd)
  | _, _ => .next (s.homeServe wd)

/-- The pushes of a `dfree` are under way (R315). -/
def State.freed (s : State) (n : Nat) : State :=
  match (s.op n).map Op.kind with
  | some (.free (some _) _ _) => s.setOpKind n (.free none [] [])
  | _ => s

/-- `HOME_PERFORMED_ACCESS` (R100). -/
def execHomePerformedAccess (req : HomeReq) (s : State) : Res := .next ((s.freed req.op).performReq req none)

/-! ### The L1 (R83, R84, R94, R97) -/

/-- The L1 word of a core changes, with its line open. -/
def State.setL1Word (s : State) (c : CoreId) (wd : Nat) (x : L1Word) : State := s.setCore c ((s.core c).setL1 wd x)

/-- `L1_DIE_GRANT` (R83). -/
def execL1DieGrant (c : CoreId) (wd : Nat) (s : State) : Res :=
  let x := (s.core c).l1Word wd
  if x.st = .gp then
    if s.homeDie (4 * wd) = c.die then .next ((s.setL1Word c wd { x with st := .g }).wordGranted c wd)
    else .next (s.setL1Word c wd { x with st := .gd })
  else .next s

/-- `L1_PACKAGE_GRANT` (R83, R84): the fetched value goes under the bytes written. A fetched word that is poisoned stays poisoned and takes
none of the bytes that partial stores have written, unless a store has written all four (R75, R76). -/
def execL1PackageGrant (c : CoreId) (wd : Nat) (val : Option Word) (s : State) : Res :=
  let x := (s.core c).l1Word wd
  if x.st.pending then
    let found := s.poison.contains wd && val.isSome
    let hurt := found && !x.whole
    let y : L1Word := { st := .g, known := 15, bad := hurt, ret := x.ret,
                        val := if hurt then val.getD x.val else match val with | some v => x.over v | none => x.over (s.memWord wd) }
    let s := s.raiseStorers c wd (if found then Cause.umem else 0)
    let s := if hurt then s else s.setPoison wd false
    let s := (s.setL1Word c wd y).wordGranted c wd
    .next (s.bindWord (stopOf c.die) c wd { val := y.val, bad := y.bad, lost := false })
  else .next s

/-- A read whose word is not held here goes to where the word is now (R91, R96). -/
def State.askAgain (s : State) (from' : Nat) (rd : Reader) (wd : Nat) : State :=
  let home := s.homeDie (4 * wd)
  if rd.viaL2 ∨ home = rd.core.die then s.toDie from' home (.homeRead rd wd) else s.toDie from' rd.core.die (.nonhomeRead rd.core wd)

/-- `L1_FORWARD` (R83, R94): held until granted; answered by the value, or sent back to where the word is now. -/
def execL1Forward (c : CoreId) (wd : Nat) (dest : Reader) (s : State) : Res :=
  let x := (s.core c).l1Word wd
  match x.st with
  | .g => .next (s.deliver c.die dest wd { val := x.val, bad := x.bad, lost := false } s.cycle)
  | .gp | .gd => .next (s.send (.l1Forward c wd dest))
  | _ => .next (s.askAgain c.die dest wd)

/-- A write-back of the word from the core to its own slice is under way (R92). -/
def State.backing (s : State) (c : CoreId) (wd : Nat) : Bool :=
  s.under.any (fun m => match m with | .nonhomeWriteBack k w _ => k == c && w == wd | _ => false)

/-- `L1_REVOKE` (R83, R92, R96): held until granted, and behind a write-back of the same word on its way to the slice; the value goes, and
the word is I. -/
def execL1Revoke (c : CoreId) (wd : Nat) (dest : RevokeTo) (s : State) : Res :=
  let x := (s.core c).l1Word wd
  if x.st.pending || (x.st != .g && s.backing c wd) then .next (s.send (.l1Revoke c wd dest))
  else
    let val := if x.st = .g then some x.val else none
    let s := s.setCore c ((s.core c).dropL1 wd)
    let s := if val.isSome then s.setPoison wd x.bad else s
    match dest with
    | .home => .next (s.send (.homeOwnerAnswer (.core c) wd val))
    | .homeVia d =>
      let s := if ((s.die d).l2Word wd).st.owned then s.setDie d ((s.die d).setL2 wd L2Word.reset) else s
      .next (s.toDie d (s.homeDie (4 * wd)) (.homeOwnerAnswer (.l2 d) wd val))
    | .toLocal d q fetch =>
      let y := (s.die d).l2Word wd
      match val with
      | none => .next (s.send (.nonhomeRegistration ⟨d, q⟩ wd fetch))
      | some v =>
        .next ((((s.setDie d ((s.die d).setL2 wd { y with own := q })).noteRegistered ⟨d, q⟩ wd).send (.l1DieGrant ⟨d, q⟩ wd)).send
          (.l1PackageGrant ⟨d, q⟩ wd (if fetch then some v else none)))

/-- `L1_EVICTION` (R60, R97, R105): the set of the line loses the line that it must lose now, if any: its words in G are written back and it goes;
a line with words in Gp or Gd waits for them, and an eviction from a held core for the hold's end. -/
def execL1Eviction (c : CoreId) (line : Nat) (s : State) : Res :=
  let k := s.core c
  match k.victim line with
  | none => .next s
  | some l =>
  if k.isHeld || (lineWords l).any (fun wd => (k.l1Word wd).st.pending) then .next (s.send (.l1Eviction c line))
  else
    let own := (lineWords l).filter (fun wd => (k.l1Word wd).st == .g)
    let s := own.foldl (fun s wd => (s.setPoison wd (k.l1Word wd).bad).writeBack c wd (k.l1Word wd).val) s
    let k' := { k with l1 := k.l1.keep (fun wd _ => lineOf wd != l), lru := k.lru.filter (· ≠ l), stamps := k.stamps.erase l, rets := k.rets.erase l }
    .next ((s.setCore c k').evictFor c line)

/-! ### The non-home slice (R95, R96) -/

/-- A load with an acquire at package scope or wider waits for the word: its read travels in the control class (R413). -/
def State.acquiresWord (s : State) (c : CoreId) (wd : Nat) : Bool :=
  s.ops.any (fun (e : Nat × Op) => s.coreOf e.2.rod == c && (match e.2.kind with
    | .load l => l.waitsFor wd && (l.ord == .acq || l.ord == .ar) && s.scopeClass e.2.rod l.sc == .package
    | _ => false))

/-- The slice of die d has a revoke of the word's local owner under way: a request that comes meanwhile waits behind it (R91, R96). -/
def State.revoking (s : State) (d wd : Nat) : Bool :=
  s.under.any (fun m => match m with
    | .l1Revoke _ w (.toLocal e _ _) | .l1Revoke _ w (.homeVia e) => w == wd && e == d
    | _ => false)

/-- `NONHOME_READ` (R96). -/
def execNonhomeRead (c : CoreId) (wd : Nat) (s : State) : Res :=
  let d := s.die c.die
  let x := d.l2Word wd
  match d.l2State wd with
  | .v => .next (s.deliver c.die ⟨c, false⟩ wd { val := x.val, bad := x.bad, lost := false } x.fill)
  | .i =>
    .next (s.carry (stopOf c.die) (stopOf (s.homeDie (4 * wd))) (if s.acquiresWord c wd then 0 else 1) (.homeRead ⟨c, true⟩ wd))
  | _ => .next (s.send (.l1Forward ⟨c.die, x.own⟩ wd ⟨c, false⟩))

/-- `NONHOME_REGISTRATION` (R96); it comes again while the slice has no room, and behind a revoke of the word's owner. -/
def execNonhomeRegistration (c : CoreId) (wd : Nat) (fetch : Bool) (s : State) : Res :=
  let x := (s.die c.die).l2Word wd
  if s.revoking c.die wd then .next (s.send (.nonhomeRegistration c wd fetch))
  else
  match x.st with
  | .x | .xp =>
    if x.own ≠ c.core then .next (s.send (.l1Revoke ⟨c.die, x.own⟩ wd (.toLocal c.die c.core fetch)))
    else
      let s := s.send (.l1DieGrant c wd)
      .next (if x.st = .x then s.send (.l1PackageGrant c wd (if fetch then some (s.curWord wd).val else none)) else s)
  | _ =>
    let put := fun (s : State) =>
      s.setDie c.die (((s.die c.die).openLine (lineOf wd)).setL2 wd { st := .xp, val := 0, own := c.core, bad := false })
    match s.reside c.die (lineOf wd) ((s.core c).l1Word wd).ret put with
    | (false, s) => .next (s.send (.nonhomeRegistration c wd fetch))
    | (true, s) =>
      let s := put s
      .next ((s.send (.l1DieGrant c wd)).toDie c.die (s.homeDie (4 * wd))
        (if fetch then .homeRegisterFetch (.l2 c.die) wd else .homeRegister (.l2 c.die) wd))

/-- `NONHOME_PACKAGE_GRANT` (R96). -/
def execNonhomePackageGrant (die wd : Nat) (val : Option Word) (s : State) : Res :=
  let x := (s.die die).l2Word wd
  let (hit, s) := if val.isSome && s.homeDie (4 * wd) != die then s.flawed false (stopOf die) [wd] else ([], s)
  let s := if hit = [] then s else s.setPoison wd true
  if x.st = .xp then
    .next (((s.setDie die ((s.die die).setL2 wd { x with st := .x })).dieGranted die wd).send (.l1PackageGrant ⟨die, x.own⟩ wd val))
  else if x.st = .x then .next (s.send (.l1PackageGrant ⟨die, x.own⟩ wd val))
  else .next s

/-- `NONHOME_FORWARD` (R96). -/
def execNonhomeForward (die wd : Nat) (dest : Reader) (s : State) : Res :=
  let x := (s.die die).l2Word wd
  if x.st.owned then .next (s.send (.l1Forward ⟨die, x.own⟩ wd dest)) else .next (s.askAgain die dest wd)

/-- `NONHOME_REVOKE` (R96); it waits behind a local transfer of the word. -/
def execNonhomeRevoke (die wd : Nat) (s : State) : Res :=
  let x := (s.die die).l2Word wd
  if s.revoking die wd then .next (s.send (.nonhomeRevoke die wd))
  else if x.st.owned then .next (s.send (.l1Revoke ⟨die, x.own⟩ wd (.homeVia die)))
  else .next (s.toDie die (s.homeDie (4 * wd)) (.homeOwnerAnswer (.l2 die) wd none))

/-- `NONHOME_WRITE_BACK` (R96). -/
def execNonhomeWriteBack (c : CoreId) (wd : Nat) (val : Word) (s : State) : Res :=
  let x := (s.die c.die).l2Word wd
  if x.own = c.core ∧ x.st = .x then
    .next ((s.setDie c.die ((s.die c.die).setL2 wd L2Word.reset)).toDie c.die (s.homeDie (4 * wd)) (.homeWriteBack (.l2 c.die) wd val))
  else if x.own = c.core ∧ x.st = .xp then .next (s.send (.nonhomeWriteBack c wd val))
  else .next (s.backHome (fun d k => d == c.die && k == c.core) wd)

/-! ### Stamps (R88) -/

/-- `STAMP_SCRUBBER` (R88, R105): a line whose stamp is not current loses its V words and takes the current stamp. -/
def execStampScrubber (l2 : Bool) (c : CoreId) (line : Nat) (s : State) : Res :=
  if l2 then .next (s.setDie c.die ((s.die c.die).openLine line))
  else
    let k := s.core c
    if k.isHeld ∨ k.lineStamp line = k.stamp then .next s
    else .next (s.setCore c { k.dropV line with stamps := k.stamps.set line k.stamp 0 })

/-! ### Promotions (R104) -/

/-- The class of the acquire of `acqr` on die t for a rod (R104). -/
def State.acqrClass (s : State) (r : RodId) (t : Nat) (sc : Scope) : ScopeClass :=
  let k := s.scopeClass r sc
  if t ≠ (s.coreOf r).die then (if k = .die then .package else k) else if k = .core then .die else k

/-- The promotion of an `acqr` or (true) a `take` has been answered: it acquires and is done; a `take`, which has issued, also in a rod that
is being stopped. -/
def State.promoted (s : State) (r : RodId) (sl : SlotId) (k : ScopeClass) (take : Bool) : State :=
  let s := (s.inherit r).acquireAt (s.coreOf r) k
  if take then s.advanceIssued r sl else s.advance r sl

/-- `PROMOTION` (R104, R105): on arrival it takes note of the words that the target core has pending; it waits until each has been granted at
the level the scope needs, and is answered; the waiting `acqr` then acquires and is done, and a waiting `take` goes on (R173). Stores that the
target issues later are not waited for. An `acqr` of a rod that is stopped or held has performed nothing, and issues again (R402, R440); a
`take` has issued and completes (R266). -/
def execPromotion (c : CoreId) (r : RodId) (sl : SlotId) (sc : Scope) (s : State) : Res :=
  let k := s.acqrClass r c.die sc
  match s.rod r with
  | none => .next s
  | some y =>
    match y.slot sl with
    | none => .next s
    | some x =>
      let w : Option (Bool × List Nat) := match x.wait with
        | some .promotion => some (false, (s.core c).l1.keys)
        | some .take => some (true, (s.core c).l1.keys)
        | some (.promoted ws t) => some (t, ws)
        | _ => none
      match w with
      | none => .next s
      | some (t, ws) =>
        if t = false ∧ (y.frozen || s.windingUp r y) then .next (s.endWait r sl)
        else if ¬ s.inService c.die then .next ((s.raise r Cause.olost).promoted r sl k t)
        else
          let due := ws.filter (fun wd => !s.grantedAt c k [wd])
          if due ≠ [] ∨ ¬ s.mayAcquire r sc then
            .next ((s.modRod r (fun y => y.setSlot sl (some { x with wait := some (.promoted due t) }))).send (.promotion c r sl sc))
          else .next (s.promoted r sl k t)

/-! ### The loss of a die, the standby home (R106 to R110) -/

def HomeMsg.isFrom (x : Nat) : HomeMsg → Bool
  | .read rd => rd.core.die == x
  | .reg p _ => (ownerOf p).isOf x
  | .perform r => r.stop == some (stopOf x)
  | .recall => false

/-- A protocol message that die x sent, or that it was to act on. -/
def lostMessage (x : Nat) : Instr → Bool
  | .homeRead rd _ => rd.core.die == x
  | .homeRegister p _ | .homeRegisterFetch p _ | .homeWriteBack p _ _ | .homeOwnerAnswer p _ _ => (ownerOf p).isOf x
  | .homePerformedAccess r => r.stop == some (stopOf x)
  | .l1DieGrant c _ | .l1PackageGrant c _ _ | .l1Revoke c _ _ | .l1Eviction c _ => c.die == x
  | .l1Forward c _ rd => c.die == x || rd.core.die == x
  | .nonhomeRead c _ | .nonhomeRegistration c _ _ | .nonhomeWriteBack c _ _ => c.die == x
  | .nonhomePackageGrant d _ _ | .nonhomeRevoke d _ => d == x
  | .nonhomeForward d _ rd => d == x || rd.core.die == x
  | _ => false

/-- Records at home slices that name die x enter L, which is a write of the words, and the queues of words that waited on it are served
(R106, R122). -/
def State.loseOwner (s : State) (x : Nat) : State :=
  (List.range 8).foldl (fun s d =>
    if d = x then s
    else
      let dd := s.die d
      let named := (dd.home.filter (fun (e : Nat × HomeSt) => e.2.isOf x)).map Prod.fst
      let dd := { dd with home := dd.home.map (fun e => if e.2.isOf x then (e.1, .lost) else e),
                          homeQ := (dd.homeQ.map (fun (e : Nat × List HomeMsg) => (e.1, e.2.filter (fun m => !m.isFrom x)))).filter
                            (fun (e : Nat × List HomeMsg) => e.2 != []) }
      named.foldl (fun s wd => (s.noteWrite wd).homeServe wd) (s.setDie d dd)) s

/-- The values that write-backs, and transfers to another owner, carry for words homed on die x (R92, R109). -/
def State.carried (s : State) (x : Nat) : List (Nat × Word) :=
  (s.under.filter (fun m => !lostMessage x m)).filterMap (fun m => match m with
    | .homeWriteBack _ wd v | .homeOwnerAnswer _ wd (some v) | .nonhomeWriteBack _ wd v | .l1PackageGrant _ wd (some v) => if s.homedOn x wd then some (wd, v) else none
    | _ => none)

/-- The requests of surviving dies that wait at the slices of die x, as messages again; their registrations end with their write-backs
(R109). -/
def State.waitedOn (s : State) (x : Nat) : List Instr :=
  (s.die x).homeQ.flatMap (fun (e : Nat × List HomeMsg) => (e.2.filter (fun m => !m.isFrom x)).filterMap (fun m => match m with
    | .read rd => some (.homeRead rd e.1)
    | .perform r => some (.homePerformedAccess r)
    | _ => none))

/-- Messages on their way to a stop that carries nothing any more are taken up where their lines are homed now; what has left it has been
received. -/
def State.unring (s : State) (stop : Nat) : State :=
  let l := s.ring.filter (fun (e : Nat × RingMsg) => e.2.dst == stop || e.2.src == stop)
  { s.unflit (l.map Prod.fst) with inflight := s.inflight ++ l.map (fun (e : Nat × RingMsg) => e.2.msg) }

/-- The far and CXL words of die x's range that are in L at its standby (R109): those lost already or owned by x's own cores when x still
answers, and every word of a line whose home-held bit is set when it does not. -/
def State.lostWords (s : State) (x : Nat) (answers : Bool) : List Nat :=
  if answers then
    ((s.die x).home.filter (fun (e : Nat × HomeSt) => !isNear (4 * e.1) && (e.2 == .lost || e.2.isOf x))).map Prod.fst
  else (s.homeHeld.filter (fun l => s.homedOn x (32 * l))).flatMap lineWords

/-- A full-word write-back lands at the standby home: the word is in D (R109). -/
def State.landAtStandby (s : State) (wd : Nat) (v : Word) (bad : Bool) : State :=
  (((s.setHome wd none).setMemWord wd v).setPoison wd bad).markHeld wd

/-- A surviving core gives a registered word homed on a lost die up (R109, R110): a near one is dropped, any other goes to the standby home as
a write-back and becomes V, or I where the lost die has recalled it. A fetch that was pending finds the word as the standby has it. -/
def State.surrender (s : State) (c : CoreId) (wd : Nat) (recalled : Bool) : State :=
  let x := (s.core c).l1Word wd
  if isNear (4 * wd) then
    if x.st.pending then s.abandon (.core c) wd
    else ((s.setCore c ((s.core c).dropL1 wd)).wordGranted c wd)
  else
    let lost := s.homeOf wd == some .lost
    let part := x.known != 15
    let hurt := part && s.poison.contains wd && !x.whole
    let base : Word := if lost then 0xFFFFFFFF else s.memWord wd
    let v := if hurt then base else x.over base
    let s := s.raiseStorers c wd ((if lost && part then Cause.olost else 0) ||| (if hurt then Cause.umem else 0))
    let s := s.landAtStandby wd v (x.bad || hurt)
    let s := if recalled then s.setCore c ((s.core c).dropL1 wd)
      else s.setL1Word c wd { st := .v, val := v, known := 15, bad := x.bad || hurt, fill := s.cycle }
    let s := (s.wordGranted c wd).backHome (fun d k => d == c.die && k == c.core) wd
    s.bindWord (stopOf c.die) c wd { val := v, bad := x.bad || hurt, lost := false }

/-- The registered words of surviving cores homed on die x, those granted first (R93). -/
def State.heldFrom (s : State) (x : Nat) : List (CoreId × Nat × Bool) :=
  let all := s.cores.flatMap (fun (e : Nat × Core) =>
    let c := coreOfKey e.1
    if c.die = x then []
    else (e.2.l1.filter (fun (w : Nat × L1Word) => w.2.st.owned && s.homedOn x w.1)).map (fun w => (c, w.1, w.2.st.pending)))
  all.filter (fun e => !e.2.2) ++ all.filter (fun e => e.2.2)

/-- The slices of surviving dies hold no registration of a word homed on die x any more (R109, R110). -/
def State.clearSlices (s : State) (x : Nat) : State :=
  (List.range 8).foldl (fun s d =>
    if d = x then s else let dd := s.die d; s.setDie d { dd with l2 := dd.l2.keep (fun wd y => y.st == .v || !s.homedOn x wd) }) s

/-- `LOSS_NOTICE` for die x (R106, R109, R110), taken by every die when the last has received it (log 58): records that name x enter L, its requests
and messages go, the standby takes the far and CXL lines homed on x over, surviving owners write their words back to it, and the requests that
waited at x go on there. Whether x still answers for its slices is a free value (log 52); what it knew of the host's copies is dropped (log 42). -/
def execLossNotice (die : Nat) (s : State) : Res :=
  if s.under.contains (.lossNotice die) then .next s
  else
  let answers := Config.lossAnswers s.cycle
  let back := s.carried die
  let asked := s.waitedOn die
  let gone := s.lostWords die answers
  let home := (s.die die).home
  let s := (s.dropMessages (fun m => lostMessage die m || (m.settles.map (fun wd => s.homedOn die wd)).getD false)).unring (stopOf die)
  let s := s.loseOwner die
  let s := s.setDie die { s.die die with home := [], homeQ := [], l2 := [], l2stamps := [], resident := [], roundAt := [], hostHeld := [],
                                         mayHold := [], snooped := [] }
  let s := { s with cores := s.cores.keep (fun k _ => (coreOfKey k).die != die),
                    homeHeld := s.homeHeld.filter (fun l => !s.homedOn die (32 * l)) }
  let s := gone.foldl (fun s wd => s.setHome wd (some .lost)) s
  let s := back.foldl (fun s (e : Nat × Word) => if isNear (4 * e.1) then s else s.landAtStandby e.1 e.2 (s.poison.contains e.1)) s
  let held := s.heldFrom die
  let s := held.foldl (fun s (e : CoreId × Nat × Bool) =>
    s.surrender e.1 e.2.1 (answers && !e.2.2 && (home.find e.2.1).isSome)) (s.clearSlices die)
  .next { s with inflight := s.inflight ++ asked }

/-- Words of die x's far and CXL range that have a record or a queue at another die. -/
def State.standingBy (s : State) (x : Nat) : List Nat :=
  ((List.range 8).flatMap (fun d =>
    if d = x then []
    else ((s.die d).home.keys ++ (s.die d).homeQ.keys).filter (fun wd => !isNear (4 * wd) && naturalHome (4 * wd) == x))).eraseDups

/-- The standby can give die x's lines back now: nothing is under way at any of their words. -/
def State.mayHandBack (s : State) (x : Nat) : Bool :=
  (s.standingBy x).all s.quiet &&
    s.under.all (fun m => match m.settles with | some wd => isNear (4 * wd) || naturalHome (4 * wd) != x | none => true)

/-- The standby gives die x's lines back (R109): every owned word of the range is recalled, its lines leave the standby's slices, memory is
current, and words in L carry their mark. -/
def State.handBack (s : State) (x : Nat) : State :=
  let s := (s.standingBy x).foldl (fun s wd => s.recall wd) s
  let s := (List.range 8).foldl (fun s d =>
    if d = x then s
    else
      (((s.die d).resident.map Prod.fst ++ ((s.die d).home.keys.map lineOf)).eraseDups.filter
        (fun l => !isNear (128 * l) && naturalHome (128 * l) == x && s.homes d l)).foldl (fun s l => s.dropLine d l) s) s
  s.setDieState (stopOf x) .inService

/-! ### The host's caches (R111, R112) -/

/-- Bytes as they leave over a link, with the link's poison indication (R77); a word in L goes to D (R91). -/
def State.sendData (s : State) (pa n : Nat) : State :=
  let ws := wordsOf pa n
  let s := s.callHome ws
  let s' := ws.foldl (fun s wd => s.findLost wd) s
  { s' with outbox := s.outbox ++ [.data (ws.any (fun wd => (s.curWord wd).bad)) (s.curBytes pa n)] }

/-- `HOST_SNOOP` of a host line (R111): words in O are recalled, the data is supplied, and the line's state changes; the step
takes it up once nothing is under way at the line. -/
def execHostSnoop (line : Nat) (k : SnoopKind) (s : State) : Res :=
  if s.claim (128 * line) ≠ some true then .next s
  else if ¬ s.readable (128 * line) 128 then .next s
  else
    let s := (lineWords line).foldl (fun s wd => s.recall wd) s
    let d := s.homeDie (128 * line)
    let s := s.sendData (128 * line) 128
    let x := s.die d
    match k with
    | .cur => .next s
    | .data =>
      .next (s.setDie d { x with hostHeld := x.hostHeld.set line (if x.hostHeld.get line .invalid = .invalid then .invalid else .shared) .invalid })
    | .inv => .next (s.setDie d { x with hostHeld := x.hostHeld.erase line })

/-- `BACK_INVALIDATE_RESPONSE` (R112): the line's host-may-hold bit clears, its words that waited on the host are in D, and the waiting
requests are served. -/
def execBackInvalidateResponse (line : Nat) (s : State) : Res :=
  let d := s.homeDie (128 * line)
  let x := s.die d
  let s := s.setDie d { x with mayHold := x.mayHold.filter (· ≠ line), snooped := x.snooped.filter (· ≠ line) }
  .next ((lineWords line).foldl (fun s wd =>
    (if s.homeOf wd = some (.waiting .host) then s.setHome wd none else s).homeServe wd) s)

/-- An access of the host lies in far memory wholly (R424), behind an I/O die whose link carries data (R5). -/
def State.farBytes (s : State) (pa n : Nat) : Bool :=
  match region pa, region (pa + n - 1) with
  | .far a, .far b => s.ioUp a && s.ioUp b
  | _, _ => false

/-- Bytes that have come over the link of an I/O die, with its poison indication or damaged on the way (R74, R77). -/
def State.putLinkBytes (s : State) (io pa : Nat) (bs : List Byte) (bad : Bool) : State :=
  let (hit, s) := s.flawed true io (wordsOf pa bs.length)
  let s := s.writeHome (ioStop io) pa bs
  ((wordsOf pa bs.length).filter (fun wd => bad || hit.contains wd)).foldl (fun s wd => s.setPoison wd true) s

/-- `HOST_CXL_MEM_ACCESS` (R112, R424): the host's reads and writes of far memory are performed at home; the step takes them up once
nothing is under way there. A read sets host-may-hold for its line; a read's bytes go out. -/
def execHostCxlMemAccess (req : HomeReq) (s : State) : Res :=
  if ¬ req.accs.all (fun a => s.farBytes a.pa a.size && (match a.act with | .read | .write _ => true | _ => false)) then .next s
  else if ¬ req.accs.all (fun a => s.canGet (ioStop ((s.ioOf a.pa).getD 0)) a.pa a.size) then .next s
  else
    .next (req.accs.foldl (fun s a =>
      match a.act with
      | .write v => (s.putLinkBytes ((s.ioOf a.pa).getD 0) a.pa (bytesOf a.size v) req.bad).noteCounters s none a.pa a.size
      | _ =>
        let d := s.homeDie a.pa
        (s.setDie d { s.die d with mayHold := insertNat (a.pa / 128) (s.die d).mayHold }).sendData a.pa a.size) s)

end Sys2Proof.Machine
end

