-- ==== Sys2Proof/Machine/Flags.lean ====
section
/-!
DEFINITION. Three-valued predicates (R185, R186) and the interval flags (R200, R201).
-/
namespace Sys2Proof.Machine

/-! ### Predicates (R185, R186) -/

/-- The codes of F, T and U; 11 is never written and acts as U. -/
abbrev qF : BitVec 2 := 0
abbrev qT : BitVec 2 := 1
abbrev qU : BitVec 2 := 2

/-- A predicate as it is written: 11 becomes 10. -/
def qNorm (a : BitVec 2) : BitVec 2 := if a = 3 then qU else a

def qOfBool (b : Bool) : BitVec 2 := if b then qT else qF

/-- `qand` (R186). -/
def qAnd (a b : BitVec 2) : BitVec 2 :=
  let a := qNorm a
  let b := qNorm b
  if a = qF ∨ b = qF then qF else if a = qT ∧ b = qT then qT else qU

/-- `qor` (R186). -/
def qOr (a b : BitVec 2) : BitVec 2 :=
  let a := qNorm a
  let b := qNorm b
  if a = qT ∨ b = qT then qT else if a = qF ∧ b = qF then qF else qU

/-- `qxor` (R186). -/
def qXor (a b : BitVec 2) : BitVec 2 :=
  let a := qNorm a
  let b := qNorm b
  if a = qU ∨ b = qU then qU else if a = b then qF else qT

/-- `qnot` (R186). -/
def qNot (a : BitVec 2) : BitVec 2 := if a = qF then qT else if a = qT then qF else qU

/-- `qsure` (R186): T only for T. -/
def qSure (a : BitVec 2) : BitVec 2 := if a = qT then qT else qF

/-- `qmaybe` (R186): F only for F. -/
def qMaybe (a : BitVec 2) : BitVec 2 := if a = qF then qF else qT

/-- The sixteen predicates of a lane as one word; q0 is stored as 01 (R185). -/
def Rod.predWord (r : Rod) (l : Nat) : Word :=
  (List.range 16).foldl (fun w n => w ||| ((r.pred n l).setWidth 32 <<< (2 * n))) 0

/-- Write q1 to q15 of a lane from one word, each 11 as 10 (R185, R250). -/
def Rod.setPredWord (r : Rod) (l : Nat) (w : Word) : Rod :=
  (List.range 16).foldl (fun r n => r.setPred n l (qNorm (w.extractLsb' (2 * n) 2))) r

end Sys2Proof.Machine
end

