-- ==== Sys2Proof/Machine/Engine.lean ====
section
/-!
DEFINITION. What the engines share: scratchpad bytes and full/empty lines (R55 to R58, R76), the furlong aperture (R15), reads
and writes of memory on a rod's behalf with their outcomes (R19, R27, R32, R101), layout records (R330), barriers (R323, R324),
and the issue of copies (R329 to R333).
-/
namespace Sys2Proof.Machine

/-! ### Scratchpad (R55 to R57, R76) -/

def Chain.byte (c : Chain) (o : Nat) : Byte := c.scr.get o 0

/-- A scratchpad word is marked poisoned. -/
def Chain.isBad (c : Chain) (o : Nat) : Bool := c.scrBad.contains (o / 4)

/-- The line is full (R57). -/
def Chain.full (c : Chain) (line : Nat) : Bool := c.fe.get line true

def Chain.setFull (c : Chain) (line : Nat) (v : Bool) : Chain := { c with fe := c.fe.set line v true }

/-- A byte as a reader sees it: 0xFF in a poisoned word (R76). -/
def Chain.seen (c : Chain) (o : Nat) : Byte := if c.isBad o then 0xFF else c.byte o

/-- n bytes as a little-endian number. -/
def Chain.nat (c : Chain) (o n : Nat) : Nat := ofBytes ((List.range n).map (fun i => c.seen (o + i)))

/-- A read of n bytes meets a poisoned word. -/
def Chain.anyBad (c : Chain) (o n : Nat) : Bool := (List.range n).any (fun i => c.isBad (o + i))

/-- Write bytes with the words' poison rule: all four bytes of a word end its poison, fewer have no effect on a poisoned word
(R75, R76). `known` is the set of offsets written, `bad` those whose word takes poison. -/
def Chain.putCells (c : Chain) (cells : List (Nat × Byte)) (bad : List Nat) : Chain :=
  let offs := cells.map Prod.fst
  let whole := fun (w : Nat) => [0, 1, 2, 3].all (fun i => offs.contains (4 * w + i))
  let ok := cells.filter (fun e => whole (e.1 / 4) || !c.isBad e.1)
  let scr := ok.foldl (fun (t : Tbl Byte) e => t.set e.1 e.2 0) c.scr
  let cleared := c.scrBad.filter (fun w => !whole w)
  { c with scr := scr, scrBad := (bad.map (· / 4)).foldl (fun l w => insertNat w l) cleared }

/-- Write a little-endian number of n bytes. -/
def Chain.put (c : Chain) (o n v : Nat) : Chain :=
  c.putCells ((bytesOf n v).zipIdx.map (fun e => (o + e.2, e.1))) []

/-- The lines that n bytes from o touch. -/
def linesOf (o n : Nat) : List Nat := (List.range ((o + n - 1) / 128 + 1 - o / 128)).map (fun i => o / 128 + i)

/-- The chain and offset a furlong-aperture offset names, when the access of n bytes there is allowed (R15). -/
def State.furlongPlace (s : State) (cid : Nat) (o n : Nat) : Option (Nat × Nat) :=
  match s.chain cid with
  | none => none
  | some c =>
    let chn := bitsOf o 22 19
    let off := bitsOf o 18 0
    let mates : Tbl Chain := match s.furlong c.furlong with
      | some _ => s.chains.filter (fun (e : Nat × Chain) => e.2.furlong == c.furlong && e.2.launch == c.launch && e.2.here)
      | none => [(cid, c)]
    match mates.find? (fun e => e.2.fchn == chn) with
    | none => none
    | some (k, t) =>
      let dieBit := match s.furlong c.furlong with
        | some f => decide (f.dieLo ≠ f.dieHi) && t.core.die == f.dieHi
        | none => false
      if dieBit = decide (bitsOf o 23 23 = 1) ∧ off + n ≤ t.scrSize then some (k, off) else none

/-! ### Where an address leads on behalf of a rod or an engine operation (R27, R30, R32) -/

inductive Where where
  | mem (pa : Nat) (ent : DWord)
  /-- an uncommitted sparse page, read -/
  | zero
  | viol
  /-- the access waits for the host or the commit unit -/
  | waits (x : XOut)
  deriving DecidableEq, Repr

/-- Resolve a translated address; an aperture address is a violation here (R16), as a denied page is (R30). -/
def State.resolve (s : State) (u : Walker) (asid : Nat) (denied : List Denied) (va : DWord) (kind : XKind) : Where × State :=
  match vaKind va with
  | .translated =>
    if denied.any (fun d => d.vpn == va.toNat / 65536 && d.kind == kind) then (.viol, s)
    else
      match s.translate u asid va.toNat kind with
      | (.frame pa p, s) => (.mem pa p, s)
      | (.violation, s) => (.viol, s)
      | (.sparse p l, s) => (if kind = .read then .zero else .waits (.sparse p l), s)
      | (.missing, s) => (.waits .missing, s)
      | (.busy pa n, s) => (.waits (.busy pa n), s)
  | _ => (.viol, s)

/-- The compute die a walker belongs to; an I/O die commits on CD0's behalf (log 21). -/
def Walker.onDie : Walker → Nat
  | .core c => c.die
  | .die d => d
  | .io _ => 0

/-- Post the page request, or ask for the commit, that a waiting access needs (R28, R29, R40); an access that waits for the caches alone asks
the host for the lines it may hold. -/
def State.askPage (s : State) (u : Walker) (asid va : Nat) (kind : XKind) (x : XOut) (q : Nat) : State :=
  match x with
  | .sparse _ _ => s.send (.commit u.onDie asid (va / 65536) q)
  | .busy pa n => s.clearWay pa n
  | _ => s.request u asid (va / 65536) (pageKind kind) q

/-- The access waits for the host or the commit unit, and not for the caches alone. -/
def XOut.suspends : XOut → Bool
  | .busy _ _ => false
  | _ => true

/-- The address space in which an operation works: that of its rod, or of a grid slot the launch that bound it (R366). -/
def State.opAsid (s : State) (o : Op) : Nat :=
  match o.kind with
  | .nb die gid _ => (((s.die die).grids.find gid).map (·.asid)).getD (s.asidOf o.rod)
  | _ => s.asidOf o.rod

/-- Suspend an operation on a page (R32); one that waits for the caches alone tries again. -/
def State.suspendOp (s : State) (n : Nat) (va : DWord) (kind : XKind) (x : XOut) : State :=
  match s.op n with
  | none => s
  | some o =>
    (s.setOp n { o with susp := x.suspends, pages := [(va.toNat / 65536, kind)] }).askPage (.core (s.coreOf o.rod)) (s.opAsid o) va.toNat kind x (s.queueOf o.rod).1

/-! ### Memory through a core's engines (R69, R76, R77, R101) -/

/-- Bytes read, whether a word was poisoned, and the late causes raised. -/
structure ERead where
  bytes : List Byte
  bad   : Bool
  cause : Word
  deriving DecidableEq, Repr

/-- Accesses of an engine at frames: address, length in bytes, entry. -/
abbrev Accesses := List (Nat × Nat × DWord)

/-- The words that accesses touch in memory, by aligned part of 16 bytes, with the entry of their page (R118). -/
def State.parts (s : State) (l : Accesses) : List (List Nat × DWord) :=
  let ws := (l.filter (fun e => s.reach e.1 == .memory)).flatMap (fun e => (wordsOf e.1 e.2.1).map (fun wd => (wd, e.2.2)))
  (ws.map (fun e => e.1 / 4)).eraseDups.map (fun k =>
    let mine := ws.filter (fun e => e.1 / 4 == k)
    ((mine.map Prod.fst).eraseDups, ((mine.map Prod.snd).headD 0)))

/-- The cache hint of an access performed at home (R71): a device page is held nowhere, a counter page ignores it. -/
def State.homeHint (s : State) (pa : Nat) (ent : DWord) (h : Hint) : Hint :=
  if s.classOf pa ent = .device then .noalloc else if Pte.cnt ent then .normal else h

/-- An access of an engine goes through its core's L1 (R69, R101). -/
def State.throughL1 (s : State) (pa : Nat) (ent : DWord) : Bool := s.classOf pa ent == .cached

/-- The accesses can be read in one step, each part whole (R101, R118). -/
def State.engineCan (s : State) (c : CoreId) (l : Accesses) : Bool :=
  (s.parts l).all (fun p => if s.throughL1 (4 * p.1.headD 0) p.2 then s.coreCan c p.1 else p.1.all (fun wd => s.quiet wd && s.homeNear (stopOf c.die) wd))

/-- The accesses can be written in one step (R101, R112). -/
def State.engineMay (s : State) (c : CoreId) (l : Accesses) : Bool :=
  (s.parts l).all (fun p =>
    if s.throughL1 (4 * p.1.headD 0) p.2 then p.1.all (s.coreMay c)
    else p.1.all (fun wd => s.quiet wd && !s.hostMay wd && s.homeNear (stopOf c.die) wd))

/-- The host is asked for the lines that keep accesses waiting (R112). -/
def State.clearWays (s : State) (l : Accesses) : State := l.foldl (fun s e => s.clearWay e.1 e.2.1) s

/-- The words of accesses: through the L1 on a cached page, at home otherwise. -/
def State.readParts (s : State) (c : CoreId) (l : Accesses) (h : Hint) : Tbl WordRead × State :=
  (s.parts l).foldl (fun (acc : Tbl WordRead × State) p =>
    let pa := 4 * p.1.headD 0
    let (rs, s) := if acc.2.throughL1 pa p.2 then acc.2.coreReads c p.1 h
      else acc.2.homeReads p.1 (acc.2.homeHint pa p.2 h).home (stopOf c.die)
    ((p.1.zip rs).foldl (fun (t : Tbl WordRead) e => t.put e.1 e.2) acc.1, s)) ([], s)

/-- n bytes at a frame among the words read. The device register space, like what reaches no memory, reads as ones with an access violation
(R19; log 35). -/
def State.partBytes (s : State) (t : Tbl WordRead) (pa n : Nat) : ERead :=
  if s.reach pa = .memory then
    let ws := (wordsOf pa n).filterMap t.find
    let word := fun (i : Nat) => (t.find ((pa + i) / 4)).getD { val := 0, bad := false, lost := false }
    { bytes := (List.range n).map (fun i => Word.byte (word i).seen ((pa + i) % 4)), bad := ws.any (fun w => w.bad && !w.lost),
      cause := ws.foldl (fun k w => k ||| w.cause) 0 }
  else { bytes := List.replicate n 0xFF, bad := false, cause := Cause.accv }

/-- n bytes read at a frame (R101). -/
def State.engineRead (s : State) (c : CoreId) (pa n : Nat) (ent : DWord) (h : Hint := .normal) : ERead × State :=
  let (t, s') := s.readParts c [(pa, n, ent)] h
  (s.partBytes t pa n, s')

/-- Bytes written at a frame, with the late causes of words partly written; with `bad` the words written become poisoned (R76, R77, R107). The
device register space, like what reaches no memory, takes nothing and is an access violation (log 35). -/
def State.engineWrite (s : State) (c : CoreId) (pa : Nat) (bs : List Byte) (ent : DWord) (bad : Bool) (h : Hint := .normal) : Word × State :=
  if s.reach pa = .memory then
    (wordsOf pa bs.length).foldl (fun (acc : Word × State) wd =>
      let (k, s) := acc
      let mask := byteMask pa bs.length wd
      let k := k ||| s.storeCause wd mask
      if s.throughL1 pa ent then
        let s := s.coreWrite c wd (bytesIn pa bs wd) mask h
        (k, if bad then s.setCore c ((s.core c).setL1 wd { (s.core c).l1Word wd with bad := true }) else s)
      else
        let put := fun (s : State) => s.putWord wd (bytesIn pa bs wd) mask
        let s := match (s.homeHint pa ent h).home with
          | some r => s.resideNow (s.homeDie (4 * wd)) (lineOf wd) r put
          | none => s
        let s := (put s).arrived (stopOf c.die) [wd]
        (k, if bad then s.setPoison wd true else s)) (0, s)
  else (Cause.accv, s)

/-! ### Layout records (R330) -/

def Layout.ofNat' (x : Nat) : Layout :=
  { base := BitVec.ofNat 64 (bitsOf x 63 0),
    dim := [bitsOf x 95 64, bitsOf x 127 96, bitsOf x 159 128],
    org := [sbits x 191 160, sbits x 223 192, sbits x 255 224],
    str1 := sbits x 319 256, str2 := sbits x 383 320,
    box := [bitsOf x 399 384, bitsOf x 415 400, bitsOf x 431 416],
    spitch := bitsOf x 447 432,
    esz := bitsOf x 450 448, fill := bitsOf x 453 452, pscale := sbits x 463 456, splane := bitsOf x 479 464 }

/-- The record at a scratchpad offset, when it can be read (R329, R342). -/
def Chain.record (c : Chain) (a : Nat) : Option Layout :=
  if a % 64 = 0 ∧ a + 64 ≤ c.scrSize then some (Layout.ofNat' (c.nat a 64)) else none

def Layout.dimAt (l : Layout) (k : Nat) : Int := (l.dim.getD k 0 : Nat)
def Layout.orgAt (l : Layout) (k : Nat) : Int := l.org.getD k 0
def Layout.boxAt (l : Layout) (k : Nat) : Nat := l.box.getD k 0
def Layout.elem (l : Layout) : Nat := 2 ^ l.esz

/-- An index lies within the tensor. -/
def Layout.inside (l : Layout) (x0 x1 x2 : Int) : Bool :=
  decide (0 ≤ x0) && decide (x0 < l.dimAt 0) && decide (0 ≤ x1) && decide (x1 < l.dimAt 1) && decide (0 ≤ x2) && decide (x2 < l.dimAt 2)

/-- The address of an index. -/
def Layout.addr (l : Layout) (b : Int) (x0 x1 x2 : Int) : Int :=
  (l.base.toNat : Int) + b + x0 * l.elem + x1 * l.str1 + x2 * l.str2

/-! ### Barriers (R323, R324) -/

def State.bar (s : State) : BarId → Bar
  | .chain c n => ((s.chain c).map (fun x => x.bars.get n Bar.reset)).getD Bar.reset
  | .furlong f n => ((s.furlong f).map (fun x => x.bars.get n Bar.reset)).getD Bar.reset
  | .launch l n => ((s.cmd l).map (fun x => x.lbars.get n Bar.reset)).getD Bar.reset

def State.setBar (s : State) (b : BarId) (x : Bar) : State :=
  match b with
  | .chain c n => s.modChain c (fun y => { y with bars := y.bars.set n x Bar.reset })
  | .furlong f n => match s.furlong f with
    | some y => { s with furlongs := s.furlongs.put f { y with bars := y.bars.set n x Bar.reset } }
    | none => s
  | .launch l n => s.modCmd l (fun y => { y with lbars := y.lbars.set n x Bar.reset })

/-- The rods of a chain that a mask names. -/
def maskRods (cid nrod : Nat) (m : BitVec 32) : List RodId :=
  ((List.range nrod).filter (fun k => m.getLsbD k)).map (fun k => ⟨cid, k⟩)

/-- The member rods of a barrier among the chains that have not retired. -/
def State.barMembers (s : State) (b : BarId) : List RodId :=
  match b with
  | .chain c n => match s.chain c, s.packet (s.launchOf ⟨c, 0⟩) with
    | some x, some p => maskRods c x.nrod (p.cbar.getD n 0)
    | _, _ => []
  | .furlong f n => match s.furlong f with
    | some y => match s.packet y.launch with
      | some p =>
        let e := p.fbar.getD n (0, 0)
        (s.chains.filter (fun c => c.2.furlong == f && c.2.launch == y.launch && e.1.getLsbD c.2.fchn)).flatMap
          (fun c => maskRods c.1 c.2.nrod e.2)
      | none => []
    | none => []
  | .launch l n => match s.packet l with
    | some p => (s.chains.filter (fun c => c.2.launch == l)).flatMap (fun c => maskRods c.1 c.2.nrod (p.lbar.getD n 0))
    | none => []

/-- A barrier a rod names by level and number; none where R323 raises illegal. -/
def State.barOf (s : State) (r : RodId) (lvl : BarLevel) (n : Nat) : Option BarId :=
  let id : Option BarId := match lvl with
    | .chain => if n < 16 then some (.chain r.chain n) else none
    | .furlong => if n < 4 then (s.chain r.chain).map (fun c => .furlong c.furlong n) else none
    | .launch =>
      if n < 2 ∧ ((s.packet (s.launchOf r)).map (·.cor)).getD false = true then some (.launch (s.launchOf r) n) else none
  id.filter (fun b => (s.barMembers b).contains r)

/-- The phase is complete (R324): every member has arrived or has no live lane, the counter is 0, and POSTED is set unless no
copy is tagged. -/
def State.barDue (s : State) (b : BarId) : Bool :=
  let x := s.bar b
  (s.barMembers b).all (fun r => x.arrived.contains (rodKey r) || ((s.rod r).map (fun y => y.live == 0)).getD true) &&
    x.bytes == 0 && (x.posted || !x.tagged) && !(s.barMembers b).isEmpty

/-- The phase advances, and the counter, POSTED and the arrivals start from 0 (R324); its waiters are released by a step of their own. -/
def Bar.next (x : Bar) : Bar := { x with phase := x.phase + 1, arrived := [], bytes := 0, posted := false, tagged := false, open' := x.open' + 1 }

/-- A wait on a phase goes on: it has not completed, or its waiters have still to be released (R166, R324). -/
def Bar.holds (x : Bar) (p : Nat) : Bool := decide (x.phase ≤ p + x.open') && decide (p ≤ x.phase)

/-- A phase that is due completes (R324). -/
def State.checkBar (s : State) (b : BarId) : State :=
  if s.barDue b then (s.setBar b (s.bar b).next).send (.barrierPhaseComplete b) else s

/-- Bytes of a copy land (R324): counted one by one in the tagged phase, which may complete at the byte that takes the counter to 0; the others
overshoot. -/
def State.landBytes (s : State) (r : RodId) (tag : Option (BarId × Nat)) (n : Nat) : State :=
  match tag with
  | none => s
  | some (b, p) =>
    let less := fun (s : State) (k : Nat) => (s.setBar b { s.bar b with bytes := sbits (truncInt 48 ((s.bar b).bytes - k)) 47 0 }).checkBar b
    let left := (s.bar b).bytes
    let k := if 0 < left ∧ left ≤ n then left.toNat else n
    if n = 0 then s
    else if (s.bar b).phase ≠ p then s.raise r Cause.bover
    else
      let t := less s k
      if n - k = 0 then t else if (t.bar b).phase = p then less t (n - k) else t.raise r Cause.bover

/-! ### Copies (R329 to R333) -/

/-- Copies that the streamer of a core holds (R332). -/
def State.copiesOn (s : State) (c : CoreId) : Nat :=
  (s.ops.filter (fun o => (match o.2.kind with | .copy _ => true | _ => false) && s.coreOf o.2.rod == c)).length

def Layout.pitch (l : Layout) : Nat := if l.spitch ≠ 0 then l.spitch else l.boxAt 0 * l.elem
def Layout.plane (l : Layout) : Nat := if l.splane ≠ 0 then 8 * l.splane else l.boxAt 1 * l.pitch

def Layout.boxEmpty (l : Layout) : Bool := l.boxAt 0 == 0 || l.boxAt 1 == 0 || l.boxAt 2 == 0

/-- The record and operands that R331 makes an access violation. -/
def copyFaulty (l : Layout) (b c size : Nat) : Bool :=
  let e := l.elem
  decide (4 < l.esz) || l.fill == 3 || (l.base.toNat + b) % e != 0 || l.str1 % e != 0 || l.str2 % e != 0 || c % e != 0 ||
    c % 4 != 0 ||
    decide ((size : Int) < c + ((l.boxAt 0 : Int) - 1) * e + ((l.boxAt 1 : Int) - 1) * l.pitch + ((l.boxAt 2 : Int) - 1) * l.plane + e)

/-- The rows of a box: dimension-1 and dimension-2 indices and the row's scratchpad offset. -/
def copyRows (l : Layout) (c : Nat) : List (Nat × Nat × Nat) :=
  (List.range (l.boxAt 2)).flatMap (fun i2 =>
    (List.range (l.boxAt 1)).map (fun i1 => (i1, i2, c + i1 * l.pitch + i2 * l.plane)))

/-- An element of a box: scratchpad offset, memory address, within bounds. -/
structure CopyElem where
  off : Nat
  va  : DWord
  inb : Bool
  deriving DecidableEq, Repr

/-- The elements of a copy that touch a scratchpad line. -/
def CopyOp.elemsOn (c : CopyOp) (line : Nat) : List CopyElem :=
  let l := c.lay
  let e := l.elem
  (copyRows l c.c).flatMap (fun r =>
    let (i1, i2, o) := r
    if 128 * line + 128 ≤ o ∨ o + l.boxAt 0 * e ≤ 128 * line then []
    else
      (List.range (l.boxAt 0)).filterMap (fun i0 =>
        let off := o + i0 * e
        if 128 * line + 128 ≤ off ∨ off + e ≤ 128 * line then none
        else
          let x0 := l.orgAt 0 + i0
          let x1 := l.orgAt 1 + i1
          let x2 := l.orgAt 2 + i2
          some { off := off, va := BitVec.ofInt 64 (l.addr c.b.toNat x0 x1 x2), inb := l.inside x0 x1 x2 }))

/-- The scratchpad lines that a copy's box touches, ascending. -/
def copyLines (l : Layout) (c : Nat) : List Nat :=
  (copyRows l c).foldl (fun acc r => (linesOf r.2.2 (l.boxAt 0 * l.elem)).foldl (fun a n => insertNat n a) acc) []

/-- A copy as the streamer takes it (R329, R331): its operation, the bytes a faulty copy counts at once, and the causes it raises; a poisoned word
of its record is one (R77). -/
def State.makeCopy (s : State) (r : RodId) (out : Bool) (a : Nat) (b : DWord) (c : Nat) (bar : Option BarId)
    (seq : Option DWord) (raw : Bool) (h : Hint) : CopyOp × Nat × Word :=
  let tag := bar.map (fun x => (x, (s.bar x).phase))
  match (s.chain r.chain).bind (fun ch => (ch.record a).map (fun l => (ch, l))) with
  | none =>
    ({ out := out, lay := Layout.ofNat' 0, b := b, c := c, bar := tag, seq := seq, raw := raw, lines := [], caused := true, hint := h }, 0, Cause.accv)
  | some (ch, l) =>
    let op : CopyOp := { out := out, lay := l, b := b, c := c, bar := tag, seq := seq, raw := raw, lines := [], caused := ch.anyBad a 64, hint := h }
    let k := if ch.anyBad a 64 then Cause.umem else 0
    if copyFaulty l b.toNat c ch.scrSize then
      ({ op with caused := true }, l.boxAt 0 * l.boxAt 1 * l.boxAt 2 * l.elem, k ||| Cause.accv)
    else if l.boxEmpty then (op, 0, k)
    else
      let ls := copyLines l c
      ({ op with lines := if out then ls.filter (fun n => (op.elemsOn n).any (·.inb)) else ls }, 0, k)

/-- Issue a copy, as an instruction or as a raw command: its causes are raised, the barrier is tagged, a faulty copy counts its bytes. -/
def State.issueCopy (s : State) (r : RodId) (op : CopyOp) (n : Nat) (k : Word) : State :=
  let s := s.raise r k
  let s := match op.bar with
    | some (b, _) => s.setBar b { s.bar b with tagged := true }
    | none => s
  s.landBytes r op.bar n

end Sys2Proof.Machine
end

