-- ==== Sys2Proof/Machine/MxCore.lean ====
section
/-!
DEFINITION. The matrix engine (R334 to R357): tiles, what an operation is when it issues, its K-steps, and what each operation
does when it completes.
-/
namespace Sys2Proof.Machine

/-! ### Tiles (R335) -/

def Tile.m (t : Tile) : Nat := 16 * (t.mq + 1)
def Tile.n (t : Tile) : Nat := 16 * (t.nq + 1)
def Tile.elem (t : Tile) (i j : Nat) : Nat := 256 * t.off + i * t.n + j
def Tile.lo (t : Tile) : Nat := 256 * t.off
def Tile.hi (t : Tile) : Nat := 256 * t.off + t.m * t.n

def Chain.tile (c : Chain) (t : Nat) : Tile := c.tiles.get t Tile.reset
def Chain.setTile (c : Chain) (t : Nat) (x : Tile) : Chain := { c with tiles := c.tiles.set t x Tile.reset }
def Chain.accAt (c : Chain) (k : Nat) : Acc := c.acc.get k Acc.reset
def Chain.setAcc (c : Chain) (k : Nat) (x : Acc) : Chain := { c with acc := c.acc.set k x Acc.reset }

/-- Every element of a tile cleared (R336, R337). -/
def Chain.clearElems (c : Chain) (lo hi : Nat) : Chain := { c with acc := c.acc.keep (fun k _ => decide (k < lo) || decide (hi ≤ k)) }

/-- The tile an operand of `mxclr` names (R336). -/
def tileOf (a : Nat) : Tile := { Tile.reset with valid := true, mq := bitsOf a 2 0, nq := bitsOf a 5 3, off := bitsOf a 11 6 }

/-! ### Issue (R336, R337, R342, R348, R351, R352) -/

/-- The tile a tile operation names. -/
def mxTile : Instr → Nat
  | .mxclr _ t _ | .mxwin _ t _ | .mxsp _ t _ | .mxst _ _ _ t _ | .mxsv _ t _ | .mxrs _ t _ | .mxrd _ _ t _ _ _ => t.toNat
  | .mxmm _ x _ _ _ | .mxim _ x _ _ _ | .mxcv _ x _ _ _ => x.tile.toNat
  | _ => 0

/-- The precise cause illegal of `mxclr`, `mxwin` and `mxsp`. -/
def Chain.mxIllegal (c : Chain) (ins : Instr) (a : Nat) : Bool :=
  let t := c.tile (mxTile ins)
  match ins with
  | .mxclr .. => bitsOf a 31 12 != 0 || decide (256 * c.accUnits < (tileOf a).hi)
  | .mxwin .. => !t.valid || decide (sbits a 31 0 < -512) || decide (511 < sbits a 31 0)
  | .mxsp .. =>
    !t.valid || decide (1 < bitsOf a 1 0) || decide (bitsOf a 1 0 < bitsOf a 4 4) || decide (bitsOf a 3 2 < bitsOf a 6 5) ||
      bitsOf a 31 7 != 0
  | _ => false

/-- The front-end fields that change at issue (R335, R336, R348). -/
def Chain.mxFront (c : Chain) (ins : Instr) (a : Nat) : Chain :=
  let k := mxTile ins
  match ins with
  | .mxclr .. =>
    let t := tileOf a
    let old := c.tile k
    let c := { c with tiles := c.tiles.filterMap (fun (e : Nat × Tile) =>
      if e.1 ≠ k ∧ e.2.valid ∧ t.lo < e.2.hi ∧ e.2.lo < t.hi then
        (let x := { e.2 with valid := false }; if x = Tile.reset then none else some (e.1, x))
      else some e) }
    c.setTile k { t with win := old.win, terms := old.terms, prog := old.prog }
  | .mxsp .. =>
    c.setTile k { c.tile k with gr := bitsOf a 1 0, gc := bitsOf a 3 2, pr := bitsOf a 4 4, pc := bitsOf a 6 5 }
  | _ => c

/-- The K-step S (R342). -/
def kStep (a b : PFmt) : Nat := if a.esz = 2 ∨ b.esz = 2 then 8 else if a.esz = 0 ∧ b.esz = 0 then 64 else 32

/-- A record the engine accepts for an element size (R342). -/
def mxRecOk (l : Layout) (esz : Nat) : Bool :=
  l.esz == esz && l.base.toNat % 2 ^ esz == 0 && l.str1 % (2 ^ esz : Nat) == 0 && l.str2 % (2 ^ esz : Nat) == 0

/-- The convolution record (R346). -/
def Conv.ofNat' (x : Nat) : Conv :=
  { kw := bitsOf x 15 0, kh := bitsOf x 31 16, cin := bitsOf x 47 32,
    sx := bitsOf x 79 64, sy := bitsOf x 95 80, dx := bitsOf x 111 96, dy := bitsOf x 127 112,
    px := sbits x 159 128, py := sbits x 191 160, ow := bitsOf x 223 192, orow := bitsOf x 255 224 }

def Conv.ok (v : Conv) : Bool :=
  v.kw != 0 && v.kh != 0 && v.cin != 0 && v.sx != 0 && v.sy != 0 && v.dx != 0 && v.dy != 0 && v.ow != 0

/-- The records of a product, checked as R342 and R346 say. -/
def Chain.mxProduct (c : Chain) (x : MxFields) (cv : Bool) (a k0 klen : Nat) : MxKind :=
  match c.record a, c.record (a + 64) with
  | some ra, some rb =>
    let rra := if x.ara then c.record (a + 128) else none
    let rrb := if x.bra then c.record (a + 192) else none
    let conv := if cv then (if a + 320 ≤ c.scrSize then some (Conv.ofNat' (c.nat (a + 256) 64)) else none) else none
    if mxRecOk ra x.af.esz && mxRecOk rb x.bf.esz && (!x.ara || rra.any (fun r => mxRecOk r 0)) &&
        (!x.bra || rrb.any (fun r => mxRecOk r 0)) && (!cv || conv.any Conv.ok) && (c.tile x.tile.toNat).valid then
      .prod x conv k0 klen ra rb rra rrb
    else .bad
  | _, _ => .bad

/-- An aligned address in translated memory (R352). -/
def mxAddrOk (a : DWord) : Bool := a.toNat % 64 == 0 && (match vaKind a with | .translated => true | _ => false)

/-- What the operation of an issued tile instruction is. -/
def Chain.mxKind (c : Chain) (ins : Instr) (a b k : DWord) : MxKind :=
  let t := c.tile (mxTile ins)
  match ins with
  | .mxclr .. => let x := tileOf a.toNat; .clr x.mq x.nq x.off
  | .mxwin .. => .win (sbits a.toNat 31 0)
  | .mxmm _ x _ _ _ | .mxim _ x _ _ _ => c.mxProduct x false a.toNat (bitsOf b.toNat 31 0) (bitsOf k.toNat 31 0)
  | .mxcv _ x _ _ _ => c.mxProduct x true a.toNat (bitsOf b.toNat 31 0) (bitsOf k.toNat 31 0)
  | .mxst _ v spc _ _ =>
    (match c.record a.toNat with
     | some l => if l.esz = v.esz ∧ t.valid then .st v spc l else .bad
     | none => .bad)
  | .mxsv .. => if t.valid ∧ mxAddrOk a then .sv a else .bad
  | .mxrs .. => if t.valid ∧ mxAddrOk a then .rs a else if t.valid then .win 0 else .bad
  | _ => .bad

/-- The operation raises an access violation when it issues. -/
def Chain.mxCauses (c : Chain) (ins : Instr) (a b k : DWord) : Bool :=
  match ins, c.mxKind ins a b k with
  | _, .bad => true
  | .mxrs .., .win _ => true
  | _, _ => false

/-- Operations the matrix engine of a core holds (R354). -/
def State.mxOn (s : State) (c : CoreId) : Nat :=
  (s.ops.filter (fun o => (match o.2.kind with | .mx _ => true | _ => false) && s.coreOf o.2.rod == c &&
    ((s.chain o.2.rod.chain).map Chain.here).getD false)).length

/-- Raise causes in every member of a gang (R342, R356). -/
def State.raiseGang (s : State) (cid : Nat) (gang : List Nat) (bits : Word) : State :=
  gang.foldl (fun s k => s.raise ⟨cid, k⟩ bits) s

/-- The records an operation reads at issue (R343, R346, R351, R357). -/
def Chain.mxSnap (c : Chain) (ins : Instr) (a : Nat) : Tbl Nat :=
  let take := fun (ks : List Nat) => ks.filterMap (fun k =>
    if (a + 64 * k) % 64 = 0 ∧ a + 64 * k + 64 ≤ c.scrSize then some (k, c.nat (a + 64 * k) 64) else none)
  match ins with
  | .mxmm _ x _ _ _ | .mxim _ x _ _ _ => take ([0, 1] ++ (if x.ara then [2] else []) ++ (if x.bra then [3] else []))
  | .mxcv _ x _ _ _ => take ([0, 1] ++ (if x.ara then [2] else []) ++ (if x.bra then [3] else []) ++ [4])
  | .mxst .. => take [0]
  | _ => []

/-- The operation that a tile instruction issues, and the state with its front-end fields changed and its causes raised. -/
def State.mxIssue (s : State) (r : RodId) (gang : List Nat) (ins : Instr) (word a b k : DWord) (raw : Bool) : MxOp × State :=
  match s.chain r.chain with
  | none =>
    ({ tile := 0, kind := .bad, gang := gang, word := word, aval := a, bval := b, cval := k, snap := [], shape := Tile.reset, prog := 0,
       raw := raw, caused := true }, s)
  | some c =>
    let kind := c.mxKind ins a b k
    let bad := c.mxCauses ins a b k
    let front := c.mxFront ins a.toNat
    let s := s.setChain r.chain front
    let snap := c.mxSnap ins a.toNat
    let hurt := snap.any (fun (e : Nat × Nat) => c.anyBad (a.toNat + 64 * e.1) 64)
    let s := s.raiseGang r.chain gang ((if bad then Cause.accv else 0) ||| (if hurt then Cause.umem else 0))
    ({ tile := mxTile ins, kind := kind, gang := gang, word := word, aval := a, bval := b, cval := k, snap := snap,
       shape := front.tile (mxTile ins), prog := 0, raw := raw, caused := bad || hurt }, s)

/-- The tile as an operation sees it: the front-end fields of its issue, the others as the scoreboard's order has left them (R335, R354;
log 56). -/
def MxOp.tileIn (m : MxOp) (c : Chain) : Tile :=
  let x := c.tile m.tile
  { m.shape with win := x.win, terms := x.terms, prog := x.prog }

/-! ### Elements (R192 to R195) -/

/-- An operand element: its midpoint (none for a NaN, a violation or poison), and its radius. -/
structure MxEl where
  v   : Option XR
  rad : XR
  deriving DecidableEq, Repr

/-- One product enters an element (R194). -/
def Acc.add (e : Acc) (w : Int) (x y : Option XR) : Acc :=
  let spc := fun (b : BitVec 3) => { e with spc := (if e.spc.getLsbD 2 then 3 else e.spc) ||| b }
  match x, y with
  | some (.fin p), some (.fin q) =>
    let u := p * q * two (123 - w)
    let t : Int := if u < 0 then -((-u).floor) else u.floor
    let sum := e.val + t
    { e with val := accWrap sum, ovf := e.ovf || decide (sum < -2 ^ 186) || decide (2 ^ 186 ≤ sum),
             lst := e.lst || decide ((t : Rat) ≠ u) }
  | some p, some q => let z := p.sign * q.sign; if z = 0 then spc 3 else if 0 < z then spc 1 else spc 2
  | _, _ => spc 3

/-- Round up in binary32, as a number (R344). -/
def up32 (x : XR) : XR := (fp32.value (fp32.up x)).getD .pinf

/-- One radius term (R344). -/
def radTerm (a b : MxEl) : XR :=
  match a.v, b.v with
  | some x, some y =>
    up32 ((up32 (x.abs.mul b.rad)).addHi (up32 (a.rad.mul (up32 (y.abs.addHi b.rad)))))
  | _, _ => .pinf

def Acc.addRad (e : Acc) (t : XR) : Acc :=
  { e with rad := BitVec.ofNat 32 (fp32.up (((fp32.value e.rad.toNat).getD .pinf).addHi t)) }

/-- Readout (R195). A radius word that is a NaN reads as +∞ (log 57). -/
def Acc.read (e : Acc) (t : Tile) (f : Fmt) : IvOut :=
  if e.ovf then f.out IV.entire false
  else
    let v := (e.val : Rat) * two (t.win - 123)
    let wide : Rat := if e.lst then (max 1 ((t.terms + 2 ^ 27 - 1) / 2 ^ 27) : Nat) * two (t.win - 96) else 0
    let w := ((fp32.value e.rad.toNat).getD .pinf).addHi (.fin wide)
    let lo := if e.spc.getLsbD 2 || e.spc.getLsbD 1 then XR.ninf else (XR.fin v).addLo w.neg
    let hi := if e.spc.getLsbD 2 || e.spc.getLsbD 0 then XR.pinf else (XR.fin v).addHi w
    f.out (IV.ofBounds (some lo) (some hi)) false

/-- The 24-byte save format (R193). -/
def Acc.toNat (e : Acc) : Nat :=
  truncInt 187 e.val + e.spc.toNat * 2 ^ 187 + (if e.lst then 2 ^ 190 else 0) + (if e.ovf then 2 ^ 191 else 0)

def Acc.ofNat' (x : Nat) (rad : Word) : Acc :=
  { val := sbits x 186 0, ovf := decide (bitsOf x 191 191 = 1), lst := decide (bitsOf x 190 190 = 1),
    spc := BitVec.ofNat 3 (bitsOf x 189 187), rad := rad }

/-- The tile header (R335). -/
def Tile.header (t : Tile) (prog : Nat) : List Byte :=
  bytesOf 8 (t.mq + t.nq * 2 ^ 3 + t.off * 2 ^ 6 + (if t.valid then 2 ^ 12 else 0) + truncInt 10 t.win * 2 ^ 14 + t.gr * 2 ^ 24 +
      t.gc * 2 ^ 26 + t.pr * 2 ^ 28 + t.pc * 2 ^ 29) ++
    bytesOf 8 t.terms ++ bytesOf 8 prog ++ List.replicate 40 0

/-- A tile from its header (R335). -/
def Tile.ofHeader (x : Nat) : Tile :=
  { valid := decide (bitsOf x 12 12 = 1), off := bitsOf x 11 6, mq := bitsOf x 2 0, nq := bitsOf x 5 3, gr := bitsOf x 25 24,
    gc := bitsOf x 27 26, pr := bitsOf x 28 28, pc := bitsOf x 30 29, win := sbits x 23 14, terms := bitsOf x 103 64,
    prog := bitsOf x 159 128 }

/-- The tile image (R352): header, elements, radius words. -/
def Chain.tileImage (c : Chain) (t : Tile) (prog : Nat) : List Byte :=
  let ks := (List.range (t.m * t.n)).map (fun i => t.lo + i)
  t.header prog ++ ks.flatMap (fun k => bytesOf 24 (c.accAt k).toNat) ++ ks.flatMap (fun k => bytesOf 4 (c.accAt k).rad.toNat)

/-- Length of a tile image. -/
def Tile.imageLen (t : Tile) : Nat := 64 + 28 * (t.m * t.n)

/-- Elements and radius words from the bytes after a header; a poisoned element word gives SPC 011 (R353). -/
def Chain.restoreElems (c : Chain) (t : Tile) (bs : List Byte) (bad : Nat → Bool) : Chain :=
  let n := t.m * t.n
  (List.range n).foldl (fun c i =>
    let e := ofBytes ((bs.drop (24 * i)).take 24)
    let r := BitVec.ofNat 32 (ofBytes ((bs.drop (24 * n + 4 * i)).take 4))
    let a := Acc.ofNat' e r
    let hurt := (List.range 24).any (fun j => bad (24 * i + j)) || (List.range 4).any (fun j => bad (24 * n + 4 * i + j))
    c.setAcc (t.lo + i) (if hurt then { a with spc := 3 } else a)) c

/-! ### Fetching operands (R341, R343, R356) -/

/-- A read that cannot be made yet answers the state to go on with (unchanged, or with the operation suspended). -/
abbrev Try (α : Type) := Except State (α × State)

/-- Change what a matrix operation has fetched of its step. -/
def State.modMx (s : State) (opn : Nat) (f : MxOp → MxOp) : State :=
  match s.op opn with
  | some o => (match o.kind with | .mx m => s.setOp opn { o with kind := .mx (f m) } | _ => s)
  | none => s

/-- Scratchpad lines for a step of an operation: as it found them when it waited for them, or as they are, once full (R57, R58, R355). -/
def State.holdLines (s : State) (opn cid : Nat) : List Nat → List HeldLine → Try (List HeldLine)
  | [], acc => .ok (acc, s)
  | line :: rest, acc =>
    let old := (s.op opn).bind (fun o => match o.kind with
      | .mx m => m.held.find? (fun h => h.chain == cid && h.line == line)
      | _ => none)
    match old, s.chain cid with
    | some h, _ => s.holdLines opn cid rest (acc ++ [h])
    | none, some c =>
      if c.full line then
        let h : HeldLine := { chain := cid, line := line, val := c.nat (128 * line) 128, bad := c.scrBad.filter (fun w => w / 32 == line) }
        (s.modMx opn (fun m => { m with held := m.held ++ [h] })).holdLines opn cid rest (acc ++ [h])
      else .error s
    | none, none => .error s

/-- n bytes from an offset among lines held, and whether a word of them has an error. -/
def heldBytes (hs : List HeldLine) (off n : Nat) : Nat × Bool :=
  let byte := fun (i : Nat) => match hs.find? (fun h => h.line == (off + i) / 128) with
    | some h => ((BitVec.ofNat 8 (bitsOf h.val (8 * ((off + i) % 128) + 7) (8 * ((off + i) % 128))) : Byte), h.bad.contains ((off + i) / 4))
    | none => (0, false)
  (ofBytes ((List.range n).map (fun i => (byte i).1)), (List.range n).any (fun i => (byte i).2))

/-- n bytes of an operand space for an operation: the value, whether it is poisoned or meets a violation, and the causes. A read that has to wait
for a page makes the whole fetch again (R356). -/
def State.mxRead (s : State) (opn : Nat) (o : Op) (spc : MxSpace) (addr : Int) (n : Nat) : Try (Nat × Bool × Word) :=
  let inChain := fun (cid off : Nat) => match s.holdLines opn cid (linesOf off n) [] with
    | .ok (hs, s) =>
      let (v, bad) := heldBytes hs off n
      Except.ok ((v, bad, (if bad then Cause.umem else 0)), s)
    | .error s => .error s
  match spc with
  | .sp =>
    match s.chain o.rod.chain with
    | some c => if 0 ≤ addr ∧ addr + n ≤ c.scrSize then inChain o.rod.chain addr.toNat else .ok ((0, true, Cause.accv), s)
    | none => .ok ((0, true, Cause.accv), s)
  | .fl =>
    match (if 0 ≤ addr then s.furlongPlace o.rod.chain addr.toNat n else none) with
    | some (cid, off) => inChain cid off
    | none => .ok ((0, true, Cause.accv), s)
  | .mem =>
    let va := BitVec.ofInt 64 addr
    match s.resolve (.core (s.coreOf o.rod)) (s.asidOf o.rod) o.denied va .read with
    | (.mem pa ent, s) =>
      if ¬ s.engineCan (s.coreOf o.rod) [(pa, n, ent)] then .error s
      else
        let (e, s) := s.engineRead (s.coreOf o.rod) pa n ent
        .ok ((ofBytes e.bytes, e.bad || e.cause != 0, e.cause), s)
    | (.zero, s) => .ok ((0, false, 0), s.mflag o.rod 1)
    | (.viol, s) => .ok ((0, true, Cause.accv), s)
    | (.waits x, s) => .error ((if x.suspends then s.modMx opn (fun m => { m with held := [] }) else s).suspendOp opn va .read x)

/-- The address of an index of a record in an operand space. -/
def mxAddr (l : Layout) (sz : Nat) (x0 x1 x2 : Int) : Int := (l.base.toNat : Int) + x0 * sz + x1 * l.str1 + x2 * l.str2

/-- One operand element with its radius (R343, R344). -/
def State.mxElem (s : State) (opn : Nat) (o : Op) (spc : MxSpace) (f : PFmt) (l : Layout) (rl : Option Layout)
    (x0 x1 x2 : Int) : Try (MxEl × Word) :=
  if ¬ l.inside x0 x1 x2 then .ok ((⟨some (.fin 0), .fin 0⟩, 0), s)
  else
    match s.mxRead opn o spc (mxAddr l (2 ^ f.esz) x0 x1 x2) (2 ^ f.esz) with
    | .error s => .error s
    | .ok ((v, bad, c), s) =>
      let val := if bad then none else f.fmt.value v
      match rl with
      | none => .ok ((⟨val, .fin 0⟩, c), s)
      | some r =>
        match s.mxRead opn o spc (mxAddr r 1 x0 x1 x2) 1 with
        | .error s => .error s
        | .ok ((k, kbad, kc), s) =>
          let rad := if kbad ∨ k = 255 then XR.pinf else .fin (rad8 k * two r.pscale)
          .ok ((⟨if kbad then none else val, rad⟩, c ||| kc), s)

/-- A list of operand elements, or the state to go on with. -/
def State.mxElems (s : State) (f : State → Nat × Nat → Try (MxEl × Word)) :
    List (Nat × Nat) → List MxEl → Word → Try (List MxEl × Word)
  | [], acc, c => .ok ((acc, c), s)
  | p :: rest, acc, c =>
    match f s p with
    | .error s => .error s
    | .ok ((e, k), s) => s.mxElems f rest (acc ++ [e]) (c ||| k)

/-- The index of A(i, k) of a convolution (R347); none beyond the kernel. -/
def convIndex (v : Conv) (p k : Nat) : Option (Int × Int × Int) :=
  let ci := k % v.cin
  let q := k / v.cin
  let kx := q % v.kw
  let ky := q / v.kw
  if v.kh ≤ ky then none
  else some ((ci : Int), ((p % v.ow * v.sx + kx * v.dx : Nat) : Int) - v.px, ((p / v.ow * v.sy + ky * v.dy : Nat) : Int) - v.py)

/-- The values of k that the step of a product adds (R342, R343). -/
def MxOp.ks (m : MxOp) (st klen : Nat) : List Nat := (List.range (Nat.min ((m.prog + 1) * st) klen - m.prog * st)).map (fun i => m.prog * st + i)

/-- The element A(i, k) of a product (R343, R347). -/
def State.mxElemA (s : State) (opn : Nat) (o : Op) (t : Tile) (x : MxFields) (conv : Option Conv) (k0 : Nat) (ra : Layout) (rra : Option Layout)
    (e : Nat × Nat) : Try (MxEl × Word) :=
  match conv with
  | none => s.mxElem opn o x.asp x.af ra rra (ra.orgAt 0 + (k0 + e.2 : Nat)) (ra.orgAt 1 + (e.1 + t.pr * t.m : Nat)) (ra.orgAt 2)
  | some v =>
    match convIndex v (v.orow + e.1 + t.pr * t.m) (k0 + e.2) with
    | none => .ok ((⟨some (.fin 0), .fin 0⟩, 0), s)
    | some (y0, y1, y2) => s.mxElem opn o x.asp x.af ra rra (ra.orgAt 0 + y0) (ra.orgAt 1 + y1) (ra.orgAt 2 + y2)

/-- The element B(j, k) of a product (R343). -/
def State.mxElemB (s : State) (opn : Nat) (o : Op) (t : Tile) (x : MxFields) (k0 : Nat) (rb : Layout) (rrb : Option Layout) (e : Nat × Nat) :
    Try (MxEl × Word) :=
  s.mxElem opn o x.bsp x.bf rb rrb (rb.orgAt 0 + (k0 + e.2 : Nat)) (rb.orgAt 1 + (e.1 + t.pc * t.n : Nat)) (rb.orgAt 2)

/-- The pairs of n rows or columns with the values of k. -/
def mxGrid (n : Nat) (ks : List Nat) : List (Nat × Nat) := (List.range n).flatMap (fun i => ks.map (fun k => (i, k)))

/-- An element of a tile once the products of a step have entered it (R194, R343, R344). -/
def Acc.addRow (e : Acc) (win : Int) (rad : Bool) (row : List (MxEl × MxEl)) : Acc :=
  row.foldl (fun (e : Acc) p =>
    let e := e.add win p.1.v p.2.v
    if rad then e.addRad (radTerm p.1 p.2) else e) e

/-- Row i of A beside column j of B, as a step of nk values of k has fetched them. -/
def mxRow (as bs : List MxEl) (nk i j : Nat) : List (MxEl × MxEl) :=
  (List.range nk).map (fun k => (as.getD (i * nk + k) ⟨some (.fin 0), .fin 0⟩, bs.getD (j * nk + k) ⟨some (.fin 0), .fin 0⟩))

/-- Every element of a tile once the products of a step have entered it. -/
def Chain.mxAccumulate (c : Chain) (t : Tile) (rad : Bool) (as bs : List MxEl) (nk : Nat) : Chain :=
  (List.range t.m).foldl (fun c i => (List.range t.n).foldl (fun (c : Chain) j =>
    c.setAcc (t.elem i j) ((c.accAt (t.elem i j)).addRow t.win rad (mxRow as bs nk i j))) c) c

/-- One K-step of a product (R343): every operand fetched, then every product added. Answers the state to go on with. -/
def State.mxProductStep (s : State) (opn : Nat) (o : Op) (m : MxOp) (x : MxFields) (conv : Option Conv) (k0 klen : Nat)
    (ra rb : Layout) (rra rrb : Option Layout) : State :=
  match s.chain o.rod.chain with
  | none => s
  | some c =>
    let t := m.tileIn c
    let ks := m.ks (kStep x.af x.bf) klen
    match s.mxElems (fun s e => s.mxElemA opn o t x conv k0 ra rra e) (mxGrid t.m ks) [] 0 with
    | .error s => s
    | .ok ((as, ca), s) =>
      match s.mxElems (fun s e => s.mxElemB opn o t x k0 rb rrb e) (mxGrid t.n ks) [] 0 with
      | .error s => s
      | .ok ((bs, cb), s) =>
        let c := match s.chain o.rod.chain with | some y => y | none => c
        let c := c.mxAccumulate t (x.ara || x.bra) as bs ks.length
        let c := c.setTile m.tile { c.tile m.tile with terms := Nat.min (t.terms + ks.length) (2 ^ 40 - 1), prog := m.prog + 1 }
        let s := (s.setChain o.rod.chain c).raiseGang o.rod.chain m.gang (ca ||| cb)
        s.setOpKind opn (.mx { m with prog := m.prog + 1, held := [], caused := m.caused || (ca ||| cb) != 0 })

/-! ### Completion of the other operations -/

/-- Whether each page of a range can be reached: the places of its 64 KiB pages, or the state to go on with. -/
def State.rangeOf (s : State) (opn : Nat) (o : Op) (va : DWord) (kind : XKind) : List Nat → List Where → Try (List Where)
  | [], acc => .ok (acc, s)
  | off :: rest, acc =>
    match s.resolve (.core (s.coreOf o.rod)) (s.asidOf o.rod) o.denied (va + BitVec.ofNat 64 off) kind with
    | (.waits x, s) => .error (s.suspendOp opn (va + BitVec.ofNat 64 off) kind x)
    | (w, s) => s.rangeOf opn o va kind rest (acc ++ [w])

/-- The 64-byte block offsets of a range. -/
def blocksOf (len : Nat) : List Nat := (List.range ((len + 63) / 64)).map (fun i => 64 * i)

/-- The memory accesses of the blocks of an image. -/
def blockAccesses (ws : List Where) : Accesses := ws.filterMap (fun w => match w with | .mem pa ent => some (pa, 64, ent) | _ => none)

/-- Write a byte image by 64-byte blocks until a block meets a violation (R352): the causes and whether all was written. -/
def State.writeImage (s : State) (r : RodId) : List (Where × List Byte) → Word × Bool × State
  | [] => (0, true, s)
  | (.mem pa ent, bs) :: rest =>
    let (k, t) := s.engineWrite (s.coreOf r) pa bs ent false
    if k ≠ 0 then (k, false, t) else (t.noteCounters s (some r) pa bs.length (Pte.cnt ent)).writeImage r rest
  | _ :: _ => (Cause.accv, false, s)

/-- Read a byte image by blocks: bytes, the poison of each byte, the causes, and whether a block met a violation. -/
def State.readImage (s : State) (c : CoreId) : List Where → List Byte × List Bool × Word × Bool × State
  | [] => ([], [], 0, false, s)
  | w :: rest =>
    match w with
    | .mem pa ent =>
      let (t, s1) := s.readParts c [(pa, 64, ent)] .normal
      let es := (List.range 16).map (fun i => s.partBytes t (pa + 4 * i) 4)
      let mine := es.foldl (fun k e => k ||| e.cause) 0
      let (bs, bd, k, v, s) := s1.readImage c rest
      (es.flatMap (·.bytes) ++ bs, es.flatMap (fun e => List.replicate 4 e.bad) ++ bd, mine ||| k, v || (mine &&& Cause.accv) != 0, s)
    | .zero =>
      let (bs, bd, k, v, s) := s.readImage c rest
      (List.replicate 64 0 ++ bs, List.replicate 64 false ++ bd, k, v, s)
    | _ =>
      let (bs, bd, k, _, s) := s.readImage c rest
      (List.replicate 64 0xFF ++ bs, List.replicate 64 false ++ bd, k ||| Cause.accv, true, s)

/-- The next elements that `mxst` writes: tile indices and index in the record (R351). -/
def mxStoreElems (t : Tile) (l : Layout) : List (Nat × Nat × Int × Int × Int) :=
  (List.range t.m).flatMap (fun i => (List.range t.n).filterMap (fun j =>
    let x0 := l.orgAt 0 + (j + t.pc * t.n : Nat)
    let x1 := l.orgAt 1 + (i + t.pr * t.m : Nat)
    if l.inside x0 x1 (l.orgAt 2) then some (i, j, x0, x1, l.orgAt 2) else none))

/-- Write one element of `mxst` (R351): the causes, or the state to go on with when a page waits. An element in two pages needs both, and a violation
in either skips it. -/
def State.mxWrite (s : State) (opn : Nat) (o : Op) (spc : MxSpace) (addr : Int) (bs : List Byte) : Try Word :=
  let inChain := fun (cid off : Nat) => match s.chain cid with
    | some c =>
      let c := c.putCells (bs.zipIdx.map (fun e => (off + e.2, e.1))) []
      let c := (linesOf off bs.length).foldl (fun (c : Chain) l => c.setFull l true) c
      Except.ok ((0 : Word), s.setChain cid c)
    | none => .ok (Cause.accv, s)
  match spc with
  | .sp =>
    match s.chain o.rod.chain with
    | some c => if 0 ≤ addr ∧ addr + bs.length ≤ c.scrSize then inChain o.rod.chain addr.toNat else .ok (Cause.accv, s)
    | none => .ok (Cause.accv, s)
  | .fl =>
    match (if 0 ≤ addr then s.furlongPlace o.rod.chain addr.toNat bs.length else none) with
    | some (cid, off) => inChain cid off
    | none => .ok (Cause.accv, s)
  | .mem =>
    let va := BitVec.ofInt 64 addr
    let cut := Nat.min bs.length (65536 - va.toNat % 65536)
    let parts := if cut < bs.length then [0, cut] else [0]
    match s.rangeOf opn o va .write parts [] with
    | .error s => .error s
    | .ok (ws, s) =>
      let core := s.coreOf o.rod
      let as := (ws.zip parts).filterMap (fun e => match e.1 with
        | .mem pa ent => some (pa, (if e.2 = 0 then bs.take cut else bs.drop cut), ent)
        | _ => none)
      let reach := as.map (fun a => (a.1, a.2.1.length, a.2.2))
      if as.length < parts.length then .ok (Cause.accv, s)
      else if ¬ s.engineMay core reach then .error (s.clearWays reach)
      else
        .ok (as.foldl (fun (acc : Word × State) a =>
          let (k, t) := acc.2.engineWrite core a.1 a.2.1 a.2.2 false
          (acc.1 ||| k, t.noteCounters acc.2 (some o.rod) a.1 a.2.1.length (Pte.cnt a.2.2))) (0, s))

/-- The elements of an `mxst` one after another; one that has to wait stops it, and it goes on there. -/
def State.mxStore (s : State) (opn : Nat) (o : Op) (v : View) (spc : MxSpace) (l : Layout) (c : Chain) (t : Tile) :
    List (Nat × Nat × Int × Int × Int) → Word → Except (State × Word) (Word × State)
  | [], k => .ok (k, s)
  | (i, j, x0, x1, x2) :: rest, k =>
    let bs := ((Acc.read (c.accAt (t.elem i j)) t v.fmt).pair.words v).flatMap (fun w => bytesOf 4 w.toNat)
    match s.mxWrite opn o spc (mxAddr l l.elem x0 x1 x2) bs with
    | .error s => .error (s.modMx opn (fun m => { m with wrote := (mxStoreElems t l).length - rest.length - 1, caused := m.caused || k != 0 }), k)
    | .ok (c', s) => s.mxStore opn o v spc l c t rest (k ||| c')

/-- Raw-port and flag effects of a completed matrix operation (R339, R359). -/
def State.mxEnd (s : State) (opn : Nat) (o : Op) (m : MxOp) (k : Word) : State :=
  let s := s.raiseGang o.rod.chain m.gang k
  let s := if m.raw then
      s.modRod o.rod (fun x => { x with mxOut := x.mxOut ++ [if m.caused || k != 0 then 1 else 0] })
    else s
  s.endOp opn

/-- Everything a matrix operation that adds no product does when it runs (R336, R337, R343, R350 to R353). -/
def State.mxFinish (s : State) (opn : Nat) (o : Op) (m : MxOp) : State :=
  match s.chain o.rod.chain with
  | none => s
  | some c =>
    let t := m.tileIn c
    let core := s.coreOf o.rod
    match m.kind with
    | .bad => s.mxEnd opn o m 0
    | .clr mq nq off =>
      let z : Tile := { t with mq := mq, nq := nq, off := off }
      let c := c.clearElems z.lo z.hi
      (s.setChain o.rod.chain (c.setTile m.tile { c.tile m.tile with win := 0, terms := 0, prog := 0 })).mxEnd opn o m 0
    | .win v =>
      let c := c.clearElems t.lo t.hi
      (s.setChain o.rod.chain (c.setTile m.tile { c.tile m.tile with win := v, terms := 0 })).mxEnd opn o m 0
    | .prod .. => (s.setChain o.rod.chain (c.setTile m.tile { c.tile m.tile with prog := 0 })).mxEnd opn o m 0
    | .rd v d ls row col =>
      let one := fun (l : Nat) =>
        let i := row.get l 0
        let j := col.get l 0
        if t.valid ∧ i < t.m ∧ j < t.n then (Acc.read (c.accAt (t.elem i j)) t v.fmt, (0 : Word))
        else (v.fmt.out .empty false, Cause.accv)
      let n := match d with | .w i => i.toNat | _ => 0
      let s := s.modRod o.rod (fun r =>
        let r := (lanes ls).foldl (fun (r : Rod) l =>
          ((one l).1.pair.words v).zipIdx.foldl (fun (r : Rod) e => r.setLw (n + e.2) l e.1) r) r
        { r with iflags := (lanes ls).foldl (fun f l => f ||| (one l).1.flags) r.iflags })
      s.mxEnd opn o m ((lanes ls).foldl (fun k l => k ||| (one l).2) 0)
    | .st v spc l =>
      match s.mxStore opn o v spc l c t ((mxStoreElems t l).drop m.wrote) 0 with
      | .error (s, k) => s.raiseGang o.rod.chain m.gang k
      | .ok (k, s) => s.mxEnd opn o m k
    | .sv a =>
      let img := c.tileImage t 0
      match s.rangeOf opn o a .write (blocksOf t.imageLen) [] with
      | .error s => s
      | .ok (ws, s) =>
        if ¬ s.engineMay core (blockAccesses ws) then s.clearWays (blockAccesses ws)
        else
        let (k, _, s) := s.writeImage o.rod (ws.zipIdx.map (fun e => (e.1, (img.drop (64 * e.2)).take 64)))
        s.mxEnd opn o m k
    | .rs a =>
      match s.rangeOf opn o a .read (blocksOf t.imageLen) [] with
      | .error s => s
      | .ok (ws, s) =>
        if ¬ s.engineCan core (blockAccesses ws) then s
        else
        let s := if ws.contains .zero then s.mflag o.rod 1 else s
        let (bs, bd, k, viol, s) := s.readImage core ws
        let h := Tile.ofHeader (ofBytes (bs.take 64))
        let cleared := (c.clearElems t.lo t.hi).setTile m.tile { c.tile m.tile with win := 0, terms := 0 }
        if viol ∨ ¬ h.valid ∨ h.mq ≠ t.mq ∨ h.nq ≠ t.nq then
          (s.setChain o.rod.chain cleared).mxEnd opn o m (k ||| Cause.accv)
        else
          let c := (c.restoreElems t (bs.drop 64) (fun i => bd.getD (64 + i) false)).setTile m.tile { c.tile m.tile with win := h.win, terms := h.terms }
          (s.setChain o.rod.chain c).mxEnd opn o m k

/-- An earlier operation of the same tile of the chain is still held (R354). -/
def State.mxBlocked (s : State) (opn : Nat) (o : Op) (m : MxOp) : Bool :=
  s.ops.any (fun e => decide (e.1 < opn) && e.2.rod.chain == o.rod.chain &&
    (match e.2.kind with | .mx x => x.tile == m.tile | _ => false))

/-- A product operation still has steps. -/
def MxOp.stepsLeft (m : MxOp) : Bool :=
  match m.kind with
  | .prod x _ _ klen _ _ _ _ => decide (m.prog * kStep x.af x.bf < klen)
  | _ => false

end Sys2Proof.Machine
end

