-- ==== Sys2Proof/Machine/Operands.lean ====
section
/-!
DEFINITION. Operand forms (R216, R219 to R224, R231, R232): special registers, ports, source modifiers, the checks made at issue
(R154, R333), integer and interval sources, and the writing of results.
-/
namespace Sys2Proof.Machine

/-! ### Special registers (R221) -/

/-- sr.flags (R210). -/
def Rod.srFlags (r : Rod) : Word :=
  (List.range 12).foldl (fun w n => if r.flagCount n = 0 then w else w ||| (1#32 <<< n)) 0

/-- A special register as lane l of a path reads it. -/
def State.sreg (s : State) (i : Iss) (r : SReg) (l : Nat) : DWord :=
  let x := i.rod
  let z := fun (w : Word) => w.setWidth 64
  match r with
  | .lane => BitVec.ofNat 64 l
  | .active => z i.slot.path.mask
  | .place => z (s.place i.rid)
  | .chain => BitVec.ofNat 64 (((s.chain i.rid.chain).map (·.num)).getD 0)
  | .role => x.role.setWidth 64
  | .iflags => z x.iflags
  | .mflags => z x.mflags
  | .cause => z x.cause
  | .skid => x.skid
  | .agelimit => z x.agelimit
  | .compat => z x.compat
  | .holdlimit => z x.holdlimit
  | .cycle => s.dieCycle (s.coreOf i.rid).die
  | .flags => z x.srFlags

/-! ### Checks at issue (R154) -/

/-- Words n of an operand lie in the window; with n = 0 one word, of which the instruction itself says in which lanes it is read. -/
def inWindow (x : Rod) (o : Operand) (n : Nat) : Bool :=
  match o with
  | .w k => decide (k.toNat + Nat.max 1 n ≤ x.window)
  | _ => true

/-- One of n words from word k of some lanes has an uncorrectable error (R76). -/
def Rod.badWords (x : Rod) (ls : List Nat) (k n : Nat) : Bool :=
  (List.range n).any (fun j => ls.any (fun l => x.regBad.contains (32 * (k + j) + l)))

/-- A register an operand reads in some lane has an uncorrectable error (R76). -/
def Rod.badReg (x : Rod) (ls : List Nat) (o : Operand) (n : Nat) : Bool :=
  !x.regBad.isEmpty &&
  (match o with
  | .w k => x.badWords ls k.toNat n
  | .s k => x.regBad.contains (8192 + 2 * k.toNat) || x.regBad.contains (8192 + 2 * k.toNat + 1)
  | _ => false)

/-! ### Source modifiers (R223) -/

/-- The lane that lane l reads a source from. -/
def modLane (m : Option SrcMod) (src : ModSrc) (l : Nat) : Nat :=
  match m with
  | none => l
  | some x =>
    if x.src ≠ src then l
    else
      let n := 2 ^ x.z.toNat
      let base := l - l % n
      let d := x.dist.toNat
      match x.kind with
      | .rot => base + (l - base + d) % n
      | .bfly => base + ((l - base) ^^^ (d % n))
      | .bcast => base + d % n

/-! ### Ports as sources (R220, R313, R333, R359, R371) -/

/-- A rod after the pops of an instruction, with the word each port gives each lane. -/
structure Popped where
  rod : Rod
  val : Port → Nat → Word

/-- The end record of a stream (R369). -/
def Stream.endRec (t : Stream) : PairRec := { i := 0xFFFFFFFF, j := 0xFFFFFFFF, d2 := t.stat, w3 := BitVec.ofNat 32 (Nat.min t.nrec 0xFFFFFFFF) }

/-- A word of a pair record. -/
def PairRec.word (p : PairRec) (n : Nat) : Word := if n = 0 then p.i else if n = 1 then p.j else if n = 2 then p.d2 else p.w3

/-- Read port.nb in each of a list of lanes (R371); none while one must wait. -/
def Stream.deal (t : Stream) : List Nat → Option (Stream × List (Nat × Word))
  | [] => some (t, [])
  | l :: rest =>
    let cur := t.cur.get l 0
    let t' : Option Stream :=
      if cur ≠ 0 then some t
      else match t.queue with
        | p :: q => some { t with queue := q, dealt := t.dealt.put l p }
        | [] => if t.ended then some { t with dealt := t.dealt.put l t.endRec } else none
    match t' with
    | none => none
    | some t =>
      let w := ((t.dealt.find l).map (fun p => p.word cur.toNat)).getD 0
      match Stream.deal { t with cur := t.cur.set l (cur + 1) 0 } rest with
      | none => none
      | some (t, ws) => some (t, (l, w) :: ws)

/-- Pop one port for the participating lanes; none while it must wait. DESIGN CHOICE (log 17): `perm` finds 0 in port.nb at another lane. -/
def Popped.pop (p : Popped) (g : Mask) (port : Port) : Option Popped :=
  let x := p.rod
  let put := fun (f : Nat → Word) (q : Port) (l : Nat) => if q = port then f l else p.val q l
  match port with
  | .mx => if g = 0 then some p else match x.mxOut with
    | w :: r => some { rod := { x with mxOut := r }, val := put (fun _ => w) }
    | [] => none
  | .cp => if g = 0 then some p else match x.cpOut with
    | w :: r => some { rod := { x with cpOut := r }, val := put (fun _ => w) }
    | [] => none
  | .gx => match x.gx with
    | w :: r =>
      if w.op.isNone then
        some { rod := { x with gx := r }.raise (if w.bad &&& g ≠ 0 then Cause.umem else 0),
               val := put (fun l => if w.bad.has l then 0xFFFFFFFF else w.vals.getD l 0) }
      else none
    | [] => none
  | .nb => match x.stream.deal (lanes g) with
    | some (t, ws) => some { rod := { x with stream := t }, val := put (fun l => (ws.find? (·.1 == l)).map (·.2) |>.getD 0) }
    | none => none

/-- The ports that operands name, once each. -/
def portsOf (os : List Operand) : List Port := (os.filterMap (fun o => match o with | .port p => some p | _ => none)).eraseDups

/-- Pop every port named; the answer for a port that must wait is that port. -/
def popAll (p : Popped) (g : Mask) : List Port → Except Port Popped
  | [] => .ok p
  | q :: rest => match p.pop g q with
    | some p => popAll p g rest
    | none => .error q

def portWait : Port → Wait
  | .mx => .matrix
  | .cp => .copy
  | .nb => .neighbour
  | .gx => .memory

/-! ### An instruction with its operands read -/

/-- What a meaning needs of an issuing instruction: the state with the pops made, the pair, the participating lanes, the modifier
and the popped words. -/
structure Ctx where
  s    : State
  i    : Iss
  g    : Mask
  m    : Option SrcMod
  port : Port → Nat → Word
  /-- the state before the pops, for an instruction that turns out to wait or to trap -/
  old  : State

/-- Issue an instruction: the window bound of every lane-word operand given with its words (R154), the copy-rights of a port.cp
destination (R333), the pops of its source ports (R220), and the cause of registers in error (R76). -/
def issue (s : State) (g : Guard) (m : Option SrcMod) (ds : List (Operand × Nat)) (srcs : List (Operand × Nat))
    (k : Ctx → Res) : Res :=
  withIss s (fun i =>
    let part := i.part g
    if ¬ (ds ++ srcs).all (fun o => inWindow i.rod o.1 o.2) then trap s i Cause.regidx
    else if (ds.any (fun o => o.1 == .port .cp)) ∧ i.rod.role ≠ 0 ∧ part ≠ 0 then trap s i Cause.copyr
    else
      match popAll ⟨i.rod, fun _ _ => 0⟩ part (portsOf (srcs.map Prod.fst)) with
      | .error p => wait s i (portWait p)
      | .ok p =>
        let ls := lanes part
        let bad := part != 0 && srcs.any (fun o => i.rod.badReg (ls ++ ls.map (modLane m .a) ++ ls.map (modLane m .b) ++ ls.map (modLane m .c)) o.1 o.2)
        let x := if bad then p.rod.raise Cause.umem else p.rod
        k { s := s.setRod i.rid x, i := i, g := part, m := m, port := p.val, old := s })

/-- An instruction has read a register word in error (R76). -/
def Ctx.mark (c : Ctx) (bad : Bool) : Ctx := if bad then { c with s := c.s.raise c.i.rid Cause.umem } else c

/-- The lowest participating lane (R231). -/
def Ctx.low (c : Ctx) : Nat := lowest c.g

/-- An integer source of lane l at width n (R216, R232, R238): `sgn` is the opcode's extension of lane words
and, in this model, of port words; a 32-bit special register is zero-extended (log 16). -/
def Ctx.int (c : Ctx) (src : ModSrc) (o : Operand) (sgn : Bool) (n l : Nat) : BitVec n :=
  let ext := fun (w : Word) => if sgn then w.signExtend n else w.setWidth n
  match o with
  | .w k => ext (c.i.rod.lw k.toNat (modLane c.m src l))
  | .s k => (c.i.rod.un k.toNat).setWidth n
  | .k k => (c.i.rod.kreg k.toNat l).signExtend n
  | .port p => ext (c.port p l)
  | .sr r => (c.s.sreg c.i r l).setWidth n
  | .int v => v.signExtend n
  | _ => 0

/-- A 32-bit integer source. -/
def Ctx.w32 (c : Ctx) (src : ModSrc) (o : Operand) (l : Nat) : Word := c.int src o false 32 l

/-- A 64-bit source held by a uniform register, an even lane pair (low half first), or a constant. -/
def Ctx.d64 (c : Ctx) (src : ModSrc) (o : Operand) (l : Nat) : DWord :=
  match o with
  | .w k => dword (c.i.rod.lw k.toNat (modLane c.m src l)) (c.i.rod.lw (k.toNat + 1) (modLane c.m src l))
  | .s k => c.i.rod.un k.toNat
  | .int v => v.signExtend 64
  | _ => 0

/-! ### Interval sources and destinations (R222, R270) -/

/-- The interval value of an inline constant. The enclosures of π, e and ln 2 come from rationals on either side. -/
def constIv : IConst → IV
  | .half => IV.point (1 / 2)
  | .quarter => IV.point (1 / 4)
  | .negHalf => IV.point (-1 / 2)
  | .pi => .mk (.fin (314159265358979323846264338327 / 10 ^ 29)) (.fin (314159265358979323846264338328 / 10 ^ 29))
  | .e => .mk (.fin (271828182845904523536028747135 / 10 ^ 29)) (.fin (271828182845904523536028747136 / 10 ^ 29))
  | .ln2 => .mk (.fin (693147180559945309417232121458 / 10 ^ 30)) (.fin (693147180559945309417232121459 / 10 ^ 30))
  | .entire => IV.entire
  | .empty => .empty
  | .unit => .mk (.fin 0) (.fin 1)
  | .sym => .mk (.fin (-1)) (.fin 1)

/-- The words of a register from word k of lane l. -/
def Rod.lws (x : Rod) (k n l : Nat) : List Word := (List.range n).map (fun j => x.lw (k + j) l)

/-- An interval source of lane l as a pair of codes (R270). -/
def Ctx.ivl (c : Ctx) (src : ModSrc) (v : View) (o : Operand) (l : Nat) : Pair :=
  match o with
  | .w k => Pair.ofWords v (c.i.rod.lws k.toNat v.words (modLane c.m src l))
  | .s k => let u := c.i.rod.un k.toNat; Pair.ofWords v [loWord u, hiWord u]
  | .int n => v.fmt.enclose (IV.point n.toInt)
  | .ic k => v.fmt.enclose (constIv k)
  | _ => v.fmt.emptyPair

/-- Set sticky interval flags (R201). -/
def Rod.setIflags (x : Rod) (f : Word) : Rod := { x with iflags := x.iflags ||| f }

/-- Write words to consecutive lane words of lane l. -/
def Rod.setWords (x : Rod) (k l : Nat) (ws : List Word) : Rod :=
  ws.zipIdx.foldl (fun (x : Rod) e => x.setLw (k + e.2) l e.1) x

/-- The number of a lane-word operand. -/
def wordNum : Operand → Nat
  | .w k => k.toNat
  | _ => 0

/-- Write words per participating lane and set the flags of all of them, and be done. -/
def Ctx.putWords (c : Ctx) (d : Operand) (f : Nat → List Word) (fl : Nat → Word) : Res :=
  finish (c.s.modRod c.i.rid (fun x =>
    ((lanes c.g).foldl (fun x l => x.setWords (wordNum d) l (f l)) x).setIflags ((lanes c.g).foldl (fun a l => a ||| fl l) 0))) c.i

/-- Write one interval result per participating lane (R271). -/
def Ctx.putIv (c : Ctx) (v : View) (d : Operand) (f : Nat → IvOut) : Res :=
  c.putWords d (fun l => (f l).pair.words v) (fun l => (f l).flags)

/-- Write a predicate per participating lane. -/
def Ctx.putPred (c : Ctx) (q : BitVec 4) (f : Nat → BitVec 2) : Res :=
  finish (c.s.modRod c.i.rid (fun x => x.setPreds c.g q.toNat f)) c.i

/-! ### Raw commands of port.mx (R359) -/

/-- What a push does: issue a command or not, wait for the engine, or trap. -/
inductive Push where
  | done (s : State)
  | waits (w : Wait)
  | traps (bits : Word)

/-- The tile operations that port.mx admits. -/
def rawAllowed : Instr → Bool
  | .mxclr .. | .mxwin .. | .mxsp .. | .mxmm .. | .mxim .. | .mxcv .. | .mxst .. => true
  | _ => false

def State.pushMx (s : State) (r : RodId) (v : Word) : Push :=
  match s.rod r, s.chain r.chain with
  | some x, some c =>
    match x.mxIn with
    | [hi, lo, a, b] =>
      let word := dword lo hi
      let s0 := s.setRod r { x with mxIn := [] }
      let drop := Push.done (s0.raise r Cause.accv)
      match decode word with
      | .ok ins =>
        if ¬ rawAllowed ins ∨ word.bits 47 21 ≠ 0 then drop
        else if c.mxIllegal ins a.toNat then .traps Cause.illegal
        else if ¬ s.engineReady r then .waits .memory
        else if s.mxOn c.core ≥ Config.mxOps then .waits .matrix
        else
          match ins with
          | .mxsp .. =>
            let s := s0.setChain r.chain (c.mxFront ins a.toNat)
            .done (s.modRod r (fun x => { x with mxOut := x.mxOut ++ [0] }))
          | _ =>
            let (m, s) := s0.mxIssue r [r.rod] ins word (a.setWidth 64) (b.setWidth 64) (v.setWidth 64) true
            .done (s.addOpNoFlag r (.mx m)).2
      | .error _ => drop
    | l => .done (s.setRod r { x with mxIn := l ++ [v] })
  | _, _ => .done s

/-! ### Raw commands of port.cp (R333) -/

/-- The barrier of a copy's engine fields: BLV and BNO; the outer none is a field that rejects or names no barrier of the rod. -/
def State.copyBar (s : State) (r : RodId) (blv bno : Nat) : Option (Option BarId) :=
  if blv = 0 then (if bno = 0 then some none else none)
  else if blv = 3 then none
  else (s.barOf r (if blv = 1 then .chain else .furlong) bno).map some

def State.pushCp (s : State) (r : RodId) (v : Word) : Push :=
  match s.rod r with
  | none => .done s
  | some x =>
    match x.cpIn with
    | [a, blo, bhi, c, e] =>
      let s0 := s.setRod r { x with cpIn := [] }
      if v ≠ 0 then .done (s0.raise r Cause.accv)
      else
        let out := e.getLsbD 31
        let seq := e.bits 8 0
        let seqOk := seq = 0 ∨ (out = true ∧ 0x100 ≤ seq ∧ seq ≤ 0x13F)
        match s.copyBar r (e.bits 20 19) (e.bits 18 15) with
        | some bar =>
          if ¬ seqOk ∨ e.bits 11 9 ≠ 0 then .traps Cause.illegal
          else if ¬ s.engineReady r (if seq = 0 then .furlong else .package) then .waits .memory
          else if s.copiesOn (s.coreOf r) ≥ Config.copyOps then .waits .copy
          else
            let (op, n, k) := s0.makeCopy r out a.toNat (dword blo bhi) c.toNat bar (if seq = 0 then none else some (x.un (seq - 0x100))) true
              (Hint.ofCode (BitVec.ofNat 3 (e.bits 14 12)))
            let s := s0.issueCopy r op n k
            .done (s.addOpNoFlag r (.copy op)).2
        | none => .traps Cause.illegal
    | l => .done (s.setRod r { x with cpIn := l ++ [v] })

/-! ### Writing integer results (R216, R219, R220, R231) -/

/-- Carry out a push, or leave the instruction unperformed. -/
def Ctx.afterPush (c : Ctx) (p : Push) : Res :=
  match p with
  | .done s => finish s c.i
  | .waits w => wait c.old c.i w
  | .traps b => trap c.old c.i b

/-- Write an integer result: per participating lane to a lane word, once from the lowest participating lane to a uniform register
or a port; nothing when no lane participates. -/
def Ctx.putInt (c : Ctx) (d : Operand) (f : (n : Nat) → Nat → BitVec n) : Res :=
  if c.g = 0 then finish c.s c.i
  else
    match d with
    | .w k => finish (c.s.modRod c.i.rid (fun x => x.setLws c.g k.toNat (fun l => f 32 l))) c.i
    | .s k => finish (c.s.modRod c.i.rid (fun x => x.setUn k.toNat (f 64 c.low))) c.i
    | .port .mx => c.afterPush (c.s.pushMx c.i.rid (f 32 c.low))
    | .port .cp => c.afterPush (c.s.pushCp c.i.rid (f 32 c.low))
    | _ => finish c.s c.i

end Sys2Proof.Machine
end

