-- ==== Sys2Proof/Machine/Control.lean ====
section
/-!
DEFINITION. Group 1, control: branches, calls, `yield`, `sleep` and `nop` (R251 to R256, R258 to R260).
-/
namespace Sys2Proof.Machine

/-- The target of an offset in 8-byte words, from the branching clause (R218). -/
def Iss.target (i : Iss) (off : DWord) : DWord := i.slot.path.pc + off * 8

/-- The fall-through of the issuing clause (R202). -/
def Iss.fall (i : Iss) : DWord := nextClause i.slot.path.pc ((i.slot.started.map (·.count)).getD 0)

/-- A control transfer ends its clause with the rod as given; without room on the stack it raises divergence overflow. -/
def transfer (s : State) (i : Iss) (o : Option Rod) : Res :=
  match o with
  | none => trap s i Cause.divovf
  | some r => .next ((s.setRod i.rid (r.clauseEnd i.sl i.slot s.cycle)).checkHalt i.rid)

/-- Place the sets of a branch, all in the issuing path's frame (R158). -/
def branchTo (s : State) (i : Iss) (sets : List (Mask × DWord)) : Res :=
  transfer s i ((i.rod.issued i.sl).divide i.sl s.cycle (sets.map (fun e => (e.1, e.2, i.slot.path.frame))))

/-- `br` (R252). -/
def execBr (g : Guard) (off : BitVec 48) (s : State) : Res :=
  withIss s (fun i =>
    let t := i.part g
    branchTo s i [(t, i.target (off.signExtend 64)), (i.slot.path.mask &&& ~~~t, i.fall)])

/-- `br3` (R253). -/
def execBr3 (q : BitVec 4) (offT offF offU : BitVec 16) (s : State) : Res :=
  withIss s (fun i =>
    let set := fun (v : BitVec 2) => maskOf (fun l => i.slot.path.mask.has l && qNorm (i.rod.pred q.toNat l) == v)
    branchTo s i [(set qT, i.target (offT.signExtend 64)), (set qF, i.target (offF.signExtend 64)),
      (set qU, i.target (offU.signExtend 64))])

/-- `join` (R157, R254). -/
def execJoin (off : BitVec 48) (s : State) : Res :=
  withIss s (fun i =>
    match i.rod.openFrame i.sl (i.target (off.signExtend 64)) with
    | none => trap s i Cause.divovf
    | some r => finish (s.setRod i.rid r) i)

/-- `call` (R255). -/
def execCall (g : Guard) (off : BitVec 48) (s : State) : Res :=
  withIss s (fun i =>
    let c := i.part g
    let rest := i.slot.path.mask &&& ~~~c
    if c = 0 then branchTo s i [(rest, i.fall)]
    else
      match i.rod.freeEntry with
      | none => trap s i Cause.divovf
      | some f =>
        let r := (i.rod.issued i.sl).setEntry f (.frame i.fall c 0 i.slot.path.frame)
        transfer s i (r.divide i.sl s.cycle
          [(c, i.target (off.signExtend 64), some f), (rest, i.fall, i.slot.path.frame)]))

/-- `ret` (R255): the participating lanes arrive at their frame's clause; the others go on at the fall-through. DEDUCED (log 19): without
participating lanes it falls through, in no frame too. -/
def execRet (g : Guard) (s : State) : Res :=
  withIss s (fun i =>
    let c := i.part g
    let rest := i.slot.path.mask &&& ~~~c
    if c = 0 then branchTo s i [(rest, i.fall)]
    else
      match i.slot.path.frame.map (fun f => (f, i.rod.entry f)) with
      | some (f, .frame pc e a par) =>
        let r := i.rod.issued i.sl
        if rest = 0 then transfer s i (some (r.goto i.sl pc s.cycle))
        else
          let r := r.setEntry f (.frame pc e (a ||| c) par)
          transfer s i (r.divide i.sl s.cycle [(rest, i.fall, some f)])
      | _ => trap s i Cause.illegal)

/-- The lanes of a mask by target, in order of each target's lowest lane (R256). -/
def targetSets (t : Nat → DWord) (ls : List Nat) : List (Mask × DWord) :=
  ((ls.map t).eraseDups).map (fun a => (maskOf (fun l => ls.contains l && t l == a), a))

/-- `jmpi` (R256). -/
def execJmpi (g : Guard) (a : Operand) (s : State) : Res :=
  issue s g none [] [(a, 2)] (fun c =>
    let t := fun (l : Nat) => c.d64 .a a l
    let ls := lanes c.g
    if ls.any (fun l => (t l).bits 2 0 != 0 || (t l).bits 63 56 != 0) then trap c.old c.i Cause.illegal
    else branchTo c.s c.i (targetSets t ls ++ [(c.i.slot.path.mask &&& ~~~c.g, c.i.fall)]))

/-- `yield` (R258): it takes effect when its clause ends. -/
def execYield (g : Guard) (s : State) : Res :=
  withIss s (fun i =>
    if i.part g = 0 then finish s i
    else finish (s.setRod i.rid (i.rod.setSlot i.sl (some { i.slot with yields := true }))) i)

/-- `sleep` (R259): it takes effect when its clause ends. -/
def execSleep (g : Guard) (a : Operand) (s : State) : Res :=
  issue s g none [] [(a, 1)] (fun c =>
    if c.g = 0 then finish c.s c.i
    else finish (c.s.modRod c.i.rid (fun x => x.setSlot c.i.sl (some { c.i.slot with napFor := some (c.w32 .a a c.low).toNat }))) c.i)

/-- `nop` (R260). -/
def execNop (_g : Guard) (s : State) : Res := withIss s (fun i => finish s i)

end Sys2Proof.Machine
end

