-- ==== Sys2Proof/Machine/Mem.lean ====
section
/-!
DEFINITION. Loads and stores (R305 to R315): `ld`, `st`, `ldmr`, `stmr`, `ld.xs`, `red.xs`, the scratchpad forms, `gth`, `prf`,
`inv`, `wbk` and `own`, with what completes them.
-/
namespace Sys2Proof

/-- The release and the acquire part of an order (R116). -/
def Order.rels : Order → Bool
  | .rel | .ar => true
  | _ => false
def Order.acqs : Order → Bool
  | .acq | .ar => true
  | _ => false

/-- The lane-word operands of an address, for the window check. -/
def MAddr.regs (ad : MAddr) : List (Operand × Nat) := [(ad.base, 2), (ad.index, 1)]

namespace Machine

/-! ### Addresses and where they lead (R305 to R307) -/

/-- The address of a lane (R217, R305). -/
def Ctx.addr (c : Ctx) (ad : MAddr) (z : Nat) (l : Nat) : DWord :=
  let b : DWord := match ad.base with | .s _ | .w _ | .int _ => c.d64 .a ad.base l | _ => 0
  b + c.int .b ad.index true 64 l + ad.ofs.signExtend 64 * BitVec.ofNat 64 z

/-- Where a lane's access leads. -/
inductive Spot where
  /-- byte off of the allocation of chain cid -/
  | scr (cid off : Nat)
  | mem (pa : Nat) (ent : DWord)
  /-- an uncommitted sparse page, read (R38) -/
  | zero
  | viol
  deriving DecidableEq, Repr

/-- What becomes of an instruction's addresses: they are known, or it waits. -/
inductive Spotted where
  | ready (s : State) (l : List (Nat × Spot))
  | waits (s : State) (w : Wait)
  | device

/-- An offset of n bytes in an allocation, at the alignment of R119. -/
def scrSpot (c : Option Chain) (cid off z : Nat) : Spot :=
  match c with
  | some x => if off % Nat.min z 4 = 0 ∧ off + z ≤ x.scrSize then .scr cid off else .viol
  | none => .viol

/-- One lane's address (R14, R15, R19, R27, R119); the second answer is a wait. -/
def State.spot (s : State) (i : Iss) (kind : XKind) (z : Nat) (a : DWord) : Option Spot × Option XOut × State :=
  match vaKind a with
  | .bad => (some .viol, none, s)
  | .scratch o => (some (scrSpot (s.chain i.rid.chain) i.rid.chain o z), none, s)
  | .furlong o =>
    match (if o % Nat.min z 4 = 0 then s.furlongPlace i.rid.chain o z else none) with
    | some (k, off) => (some (.scr k off), none, s)
    | none => (some .viol, none, s)
  | .translated =>
    if a.toNat % z ≠ 0 then (some .viol, none, s)
    else
      match s.resolve (.core (s.coreOf i.rid)) (s.asidOf i.rid) i.denied a kind with
      | (.mem pa ent, s) =>
        match s.reach pa with
        | .memory => (some (.mem pa ent), none, s)
        | .registers => (none, none, s)
        | _ => (some .viol, none, s)
      | (.zero, s) => (some .zero, none, s)
      | (.viol, s) => (some .viol, none, s)
      | (.waits x, s) => (none, some x, s)

/-- The addresses of the lanes that act (R28): when one waits, all wait, and each asks for its page; when only the caches keep table words
from being read, the instruction tries again. -/
def State.spotAll (s : State) (i : Iss) (kind : XKind) (z : Nat) (as : List (Nat × DWord)) : Spotted :=
  let step := fun (acc : State × List (Nat × Spot) × List (DWord × XOut) × Bool) (e : Nat × DWord) =>
    let (s, l, ws, dev) := acc
    match s.spot i kind z e.2 with
    | (some p, _, s) => (s, l ++ [(e.1, p)], ws, dev)
    | (none, some x, s) => (s, l, ws ++ [(e.2, x)], dev)
    | (none, none, s) => (s, l, ws, true)
  let (s, l, ws, dev) := as.foldl step (s, [], [], false)
  if dev then .device
  else if ws = [] then .ready s l
  else
    .waits (ws.foldl (fun s e =>
      s.askPage (.core (s.coreOf i.rid)) (s.asidOf i.rid) e.1.toNat kind e.2 (s.queueOf i.rid).1) s)
      (if ws.any (fun e => e.2.suspends) then .translation else .memory)

/-- Carry on with the lanes' places; the instruction waits for its pages, and device registers stop the model. -/
def Ctx.spots (c : Ctx) (kind : XKind) (z : Nat) (as : List (Nat × DWord)) (k : State → List (Nat × Spot) → Res) : Res :=
  match c.s.spotAll c.i kind z as with
  | .ready s l => k s l
  | .waits s w => wait s c.i w
  | .device => .refused .deviceRegisters

/-- The lines of scratchpads that lanes touch, waited for in a state (R58). -/
def lineWaits (full : Bool) (z : Nat) (l : List (Nat × Spot)) : List LineWait :=
  (l.flatMap (fun e => match e.2 with
    | .scr cid off => (linesOf off z).map (fun n => ({ chain := cid, line := n, full := full } : LineWait))
    | _ => [])).eraseDups

/-- The line is in the state waited for. -/
def State.lineMet (s : State) (w : LineWait) : Bool :=
  match s.chain w.chain with
  | some c => c.full w.line == w.full
  | none => false

/-- A part of an access can be performed: every line that it touches in one scratchpad is in the state waited for (R58). -/
def State.partMet (s : State) (ls : List LineWait) : Bool :=
  ls.isEmpty || (ls.map (·.chain)).any (fun c => (ls.filter (·.chain == c)).all s.lineMet)

/-- The lanes that act: all that participate, or the lowest of them for a uniform register (R306). -/
def Ctx.actors (c : Ctx) (d : Operand) : List Nat :=
  match d with
  | .s _ => if c.g = 0 then [] else [c.low]
  | _ => lanes c.g

/-- Late causes of lanes that met a violation (R307). -/
def violCause (l : List (Nat × Spot)) : Word := if l.any (fun e => e.2 == .viol) then Cause.accv else 0

/-! ### Loads (R207 to R209, R308) -/

/-- A word number that no fill carries, for words a home-performed read brings. -/
def uncachedWord (wd : Nat) : Nat := 2 ^ 60 + wd

/-- The access goes through the L1 (R69, R111). -/
def State.cached (s : State) : Spot → Bool
  | .mem pa ent => s.classOf pa ent == .cached
  | _ => false

/-- The bytes of a word that any lane of an instruction reads (R117). -/
def unionMask (z : Nat) (sp : List (Nat × Spot)) (wd : Nat) : BitVec 4 :=
  sp.foldl (fun m e => match e.2 with | .mem pa _ => m ||| byteMask pa z wd | _ => m) 0

/-- What an L1 gives at once for an access of z bytes: a word when the bytes that the instruction's lanes read of it hit, so that they read one
value (R117), or all words of an access of 8 or 16 bytes when they hit with values of one moment (R118). -/
def State.l1Hits (s : State) (c : CoreId) (pa z : Nat) (mask : Nat → BitVec 4) : Option (List WordRead) :=
  let ws := wordsOf pa z
  if ws.length = 1 then ((s.core c).hit (pa / 4) (mask (pa / 4))).map (fun w => [w]) else (s.core c).hits ws

/-- Add one lane's access to a load: words at hand are bound, others are waited for; uncached lanes go into the request. -/
def loadLane (s : State) (c : CoreId) (z lane : Nat) (p : Spot) (got : List Fetched) (mask : Nat → BitVec 4) (h : Hint)
    (l : LoadOp) (accs : List HomeAcc) : LoadOp × List HomeAcc × Word :=
  let n := (z + 3) / 4
  let put := fun (l : LoadOp) (j : Nat) (v : Word) => { l with got := l.got.put (64 * lane + j) v }
  match p with
  | .viol => ((List.range n).foldl (fun l j => put l j 0xFFFFFFFF) { l with offs := l.offs.set lane 4 0 }, accs, Cause.accv)
  | .zero => ((List.range n).foldl (fun l j => put l j 0) l, accs, 0)
  | .scr _ _ =>
    match got.find? (fun f => f.lane == lane) with
    | none => (l, accs, 0)
    | some f => ((List.range n).foldl (fun l j => put l j (wordAt f.val j)) l, accs, if f.bad then Cause.umem else 0)
  | .mem pa ent =>
    let l := { l with offs := l.offs.set lane (pa % 4) 0 }
    if s.classOf pa ent = .cached then
      let ws := wordsOf pa z
      match s.l1Hits c pa z mask with
      | some rs => (rs.zipIdx.foldl (fun l e => put l e.2 e.1.seen) l, accs, rs.foldl (fun k w => k ||| w.cause) 0)
      | none =>
        ({ l with need := l.need ++ ws.zipIdx.map (fun e => { lane := lane, pos := e.2, word := e.1, grp := decide (1 < ws.length) }) }, accs, 0)
    else
      ({ l with need := l.need ++ [{ lane := lane, pos := 0, word := uncachedWord (pa / 4) }] },
       accs ++ [{ lane := lane, pa := pa, size := z, act := .read, hint := s.homeHint pa ent h }], 0)

/-- The cached words that the lanes of an instruction touch. -/
def State.cachedWords (s : State) (z : Nat) (sp : List (Nat × Spot)) : List Nat :=
  (sp.flatMap (fun e => match e.2 with
    | .mem pa ent => if s.classOf pa ent = .cached then wordsOf pa z else []
    | _ => [])).eraseDups

/-- The words of accesses that are performed at home. -/
def State.homeWords (s : State) (z : Nat) (sp : List (Nat × Spot)) : List Nat :=
  (sp.flatMap (fun e => match e.2 with
    | .mem pa ent => if s.classOf pa ent = .cached then [] else wordsOf pa z
    | _ => [])).eraseDups

/-- No store of the core, nor one its die has taken, awaits its grant at the words: an access performed at home then finds it there (R126). -/
def State.homeReady (s : State) (c : CoreId) (ws : List Nat) : Bool := s.grantedAt c .package ws

/-- A rod has read an uncommitted page (R38). -/
def State.sparseRead (s : State) (r : RodId) (b : Bool) : State := if b then s.mflag r 1 else s

/-- Take a load on: the operation, its requests, its causes, the sparse-read flag (R38), and its completion when every word is at
hand. -/
def startLoad (s : State) (i : Iss) (z : Nat) (kind : LoadKind) (d : Operand) (ls : Mask) (sc : Scope) (o : Order) (h : Hint)
    (got : List Fetched) (sp : List (Nat × Spot)) : State :=
  let core := s.coreOf i.rid
  let l0 : LoadOp := { kind := kind, dst := d, lanes := ls, offs := [], need := [], got := [], sc := sc, ord := o, hint := h }
  let mask := unionMask z sp
  let (l, accs, k) := sp.foldl (fun (acc : LoadOp × List HomeAcc × Word) e =>
    let (l, a, k) := loadLane s core z e.1 e.2 got mask h acc.1 acc.2.1
    (l, a, acc.2.2 ||| k)) (l0, [], 0)
  let ask := ((l.need.map (·.word)).filter (· < 2 ^ 60)).eraseDups
  let ws := s.cachedWords z sp
  let s := s.readPending i.rid (ws.filter (fun wd => !ask.contains wd))
  let s := ((ws.filter (fun wd => !ask.contains wd)).map lineOf).eraseDups.foldl (fun s x => s.useLine core x h) s
  let s := ask.foldl (fun s wd => s.askWord core wd) s
  let (n, s) := s.addOp i (.load l)
  let s := (s.raise i.rid k).sparseRead i.rid (sp.any (·.2 == .zero))
  let s := if accs = [] then s else s.send (.homePerformedAccess { op := n, accs := accs, stop := some (stopOf core.die) })
  if l.need = [] then s.send (.loadComplete n) else s

/-- A load of the rod still waits for one of the words: the rod's later loads of it wait to issue, so that they never read an older value
(R126). -/
def State.awaits (s : State) (r : RodId) (ws : List Nat) : Bool :=
  s.hasOp r (fun k => match k with | .load l => ws.any l.waitsFor | _ => false)

/-- A rod may start a load: no update of its own is still to be performed, no acquire is pending, and a release is complete
(R116, R126, R128). -/
def State.mayLoad (s : State) (i : Iss) (sc : Scope) (o : Order) : Bool :=
  !s.posting i.rid && !s.acquiring i.rid && (!o.rels || s.released i.rid sc)

/-- A rod may start a store: as a load, with every earlier load's value bound (R128), and able to make the acquire of its order. -/
def State.mayStore (s : State) (i : Iss) (sc : Scope) (o : Order) : Bool :=
  s.mayLoad i sc o && !s.unbound i.rid && (!o.acqs || s.mayAcquire i.rid sc)

/-- The scratchpad lanes of a load, by scratchpad: what the parts whose lines are full read, beside what earlier parts have read, and the lines
that the others wait for (R58). -/
def State.readParted (s : State) (z : Nat) (sp : List (Nat × Spot)) (got : List Fetched) : List Fetched × List LineWait :=
  let due := sp.filter (fun e => match e.2 with | .scr _ _ => !got.any (fun f => f.lane == e.1) | _ => false)
  let chains := (due.filterMap (fun e => match e.2 with | .scr c _ => some c | _ => none)).eraseDups
  chains.foldl (fun (acc : List Fetched × List LineWait) c =>
    let mine := due.filter (fun e => match e.2 with | .scr k _ => k == c | _ => false)
    let lw := lineWaits true z mine
    if lw.all s.lineMet then
      (acc.1 ++ mine.filterMap (fun e => match e.2 with
        | .scr _ off => (s.chain c).map (fun ch => { lane := e.1, val := ch.nat off z, bad := ch.anyBad off z })
        | _ => none), acc.2)
    else (acc.1, acc.2 ++ lw)) (got, [])

/-- What earlier parts of the instruction at which a slot waits have read. -/
def Iss.fetched (i : Iss) : List Fetched :=
  match i.slot.wait with
  | some (.fullEmpty _ got) => got
  | _ => []

/-- The common course of a load from translated addresses and apertures (R308): its lines must be full (R57), for each scratchpad by itself
(R58). A load of a uniform register that no lane makes does nothing (R212). -/
def loadForm (s : State) (g : Guard) (z regs : Nat) (kind : LoadKind) (d : Operand) (ad : MAddr) (sc : Scope) (o : Order) (h : Hint) :
    Res :=
  issue s g none [(d, regs)] ad.regs (fun c =>
    if c.g = 0 ∧ d.isS then finish c.s c.i
    else if c.i.flagFull then wait c.old c.i .control
    else if ¬ c.s.mayLoad c.i sc o then wait c.s c.i .memory
    else
      let ls := c.actors d
      c.spots .read z (ls.map (fun l => (l, c.addr ad z l))) (fun s sp =>
        let (got, due) := s.readParted z sp c.i.fetched
        if due ≠ [] then wait s c.i (.fullEmpty due got)
        else
          let ws := s.homeWords z sp
          if s.awaits c.i.rid (s.cachedWords z sp) ∨ (ws ≠ [] ∧ (s.unbound c.i.rid ∨ ¬ s.homeReady (s.coreOf c.i.rid) ws)) then
            wait s c.i .memory
          else
            let s := if sp.any (fun e => match e.2 with | .scr _ _ => true | _ => false) then s.inherit c.i.rid else s
            finish (startLoad s c.i z kind d (maskOf ls.contains) sc o h got sp) c.i))

/-- `ld` (R308). -/
def execLd (g : Guard) (sz : Size) (d : Operand) (ad : MAddr) (sc : Scope) (o : Order) (h : Hint) (s : State) : Res :=
  loadForm s g sz.bytes sz.words (.plain sz) d ad sc o h

/-- `ldmr` (R309). -/
def execLdmr (g : Guard) (v : View) (d : Operand) (ad : MAddr) (sc : Scope) (o : Order) (h : Hint) (s : State) : Res :=
  loadForm s g (match v with | .y => 8 | _ => 4) v.words (.mr v) d ad sc o h

/-- The words a lane of a load writes and the interval flags they set (R190, R209, R308, R316). -/
def LoadOp.result (l : LoadOp) (lane : Nat) : List Word × Word :=
  let w := fun j => l.got.get (64 * lane + j) 0
  match l.kind with
  | .plain sz =>
    let off := l.offs.get lane 0
    match sz with
    | .x1 => ([if off = 4 then w 0 else (w 0 >>> (8 * off)) &&& 0xFF], 0)
    | .x2 => ([if off = 4 then w 0 else (w 0 >>> (8 * off)) &&& 0xFFFF], 0)
    | .x4 => ([w 0], 0)
    | .x8 => ([w 0, w 1], 0)
    | .x16 => ([w 0, w 1, w 2, w 3], 0)
  | .mr v =>
    let code := match v with | .y => ofWords [w 0, w 1] | _ => (w 0).toNat
    let p := mrcExpand v.fmt code
    (p.words v, p.flags v.fmt)
  | .xs v => ((List.range v.words).map w, 0)
  | .atom sz => (match sz with | .b32 => [w 0] | .b64 => [w 0, w 1], 0)

/-- `LOAD_COMPLETE` (R209): the result lands in its destination registers, the acquire of its order is performed (R116), and the
flag's count falls. -/
def execLoadComplete (op : Nat) (s : State) : Res :=
  match s.op op with
  | none => .next s
  | some o =>
    match o.kind with
    | .load l =>
      if l.need ≠ [] then .next s
      else if l.ord.acqs ∧ ¬ s.mayAcquire o.rod l.sc then .next (s.send (.loadComplete op))
      else
        let ls := lanes l.lanes
        let fl := ls.foldl (fun a n => a ||| (l.result n).2) l.iflags
        let s := s.modRod o.rod (fun x =>
          let x := x.setIflags fl
          match l.dst with
          | .s k => ls.foldl (fun (x : Rod) n =>
              x.setUn k.toNat (match (l.result n).1 with | [a] => a.setWidth 64 | a :: b :: _ => dword a b | [] => 0)) x
          | .w k => ls.foldl (fun (x : Rod) n => x.setWords k.toNat n (l.result n).1) x
          | _ => x)
        let s := if l.ord.acqs then s.acquire o.rod l.sc else s
        .next (s.endOp op)
    | _ => .next s

/-! ### Stores (R83, R84, R308) -/

/-- The core is the one that a word's home has recorded, so that its stores already stand in the coherence order (R93). -/
def State.inTenure (s : State) (c : CoreId) (wd : Nat) : Bool :=
  match s.homeOf wd with
  | some (.owned o) => (match o with | .core k => k == c | .die d => d == c.die && ((s.die d).l2Word wd).own == c.core | .host => false)
  | _ => false

/-- Bytes stored to a word through the L1 (R83): the causes raised, whether the word awaits a registration, whether it awaits a fetch that the
bytes are merged with (R84), and the state. A store takes its place in the coherence order at its registration, or at once in its core's tenure; the rods of its
core see it at once (R93, R144). -/
def State.storeWord (s : State) (c : CoreId) (wd : Nat) (v : Word) (mask : BitVec 4) (h : Hint) : Word × Bool × Bool × State :=
  let k := s.core c
  let x := k.l1Word wd
  let y : L1Word := { x with val := { x with val := v, known := mask }.over x.val, known := x.known ||| mask, bad := x.bad && mask != 15,
                             whole := x.whole || mask == 15 }
  match x.st with
  | .g =>
    if x.bad ∧ mask ≠ 15 then (Cause.umem, false, false, s)
    else (0, false, false, (s.setCore c ((k.openLine (lineOf wd) h.l1Retention).setL1 wd y)).noteWrite wd)
  | .gp | .gd =>
    let s' := s.setCore c ((k.openLine (lineOf wd) h.l1Retention).setL1 wd y)
    (0, true, mask != 15 && !x.whole, if s.inTenure c wd then s'.noteWrite wd else s'.noteWriteOn (· == c) wd)
  | _ =>
    let k := (k.openLine (lineOf wd) h.l1Retention).setL1 wd
      { st := .gp, val := { x with val := v, known := mask }.over 0, known := mask, bad := false, whole := mask == 15, ret := h.l2Retention }
    let s := ((s.setCore c k).noteWriteOn (· == c) wd).evictFor c (lineOf wd)
    let fetch := mask != 15
    (0, true, fetch,
      if s.homeDie (4 * wd) = c.die then s.send (if fetch then .homeRegisterFetch (.core c) wd else .homeRegister (.core c) wd)
      else s.send (.nonhomeRegistration c wd fetch))

/-- Bytes stored at a physical address through the L1, and the words that await registration. -/
def State.storeBytes (s : State) (c : CoreId) (r : RodId) (pa : Nat) (bs : List Byte) (h : Hint) : State :=
  (wordsOf pa bs.length).foldl (fun s wd =>
    let (k, waits, fetch, s) := s.storeWord c wd (bytesIn pa bs wd) (byteMask pa bs.length wd) h
    let s := s.modRod r (fun x =>
      { x.raise k with stores := if waits then insertNat wd x.stores else x.stores, parts := if fetch then insertNat wd x.parts else x.parts })
    s.useLine c (lineOf wd) h) s

/-- Bytes written to a scratchpad, by an access that leaves its lines in a state (R57, R76). -/
def State.storeScr (s : State) (r : RodId) (cid off : Nat) (bs : List Byte) (full : Option Bool) : State :=
  match s.chain cid with
  | none => s
  | some ch =>
    let n := bs.length
    let part := (wordsOf off n).any (fun w => byteMask off n w != 15 && ch.scrBad.contains w)
    let ch := ch.putCells (bs.zipIdx.map (fun e => (off + e.2, e.1))) []
    let ch := match full with
      | some f => (linesOf off n).foldl (fun (c : Chain) l => c.setFull l f) ch
      | none => ch
    (s.setChain cid ch).raise r (if part then Cause.umem else 0)

/-- Words of a core that the lanes' stores would newly ask to register (R99). -/
def newWords (s : State) (c : CoreId) (z : Nat) (sp : List (Nat × Spot)) : Nat :=
  ((s.cachedWords z sp).filter (fun wd => !((s.core c).l1Word wd).st.owned)).length

/-- Store the bytes of each lane where it leads, lanes ascending so that the highest supplies a byte (R117). -/
def storeLanes (s : State) (i : Iss) (sp : List (Nat × Spot)) (f : Nat → List Byte) (full : Option Bool) (h : Hint) : State :=
  let core := s.coreOf i.rid
  let accs := sp.filterMap (fun e => match e.2 with
    | .mem pa ent =>
      if s.classOf pa ent = .cached then none
      else some ({ lane := e.1, pa := pa, size := (f e.1).length, act := .write (ofBytes (f e.1)), hint := s.homeHint pa ent h, cnt := Pte.cnt ent } : HomeAcc)
    | _ => none)
  let s := sp.foldl (fun s e => match e.2 with
    | .scr cid off => s.storeScr i.rid cid off (f e.1) full
    | .mem pa ent => if s.classOf pa ent = .cached then s.storeBytes core i.rid pa (f e.1) h else s
    | _ => s) s
  let s := s.raise i.rid (violCause sp)
  if accs = [] then s
  else
    let (n, s) := s.addOpNoFlag i.rid .posted
    s.send (.homePerformedAccess { op := n, accs := accs, stop := some (stopOf core.die) })

/-- The common course of a store (R308): release, write, acquire as its order says (R116). -/
def storeForm (s : State) (g : Guard) (z regs : Nat) (a : Operand) (ad : MAddr) (sc : Scope) (o : Order) (h : Hint)
    (f : Ctx → Nat → List Byte) : Res :=
  issue s g none [] ((a, regs) :: ad.regs) (fun c =>
    if c.g = 0 ∧ a.isS then finish c.s c.i
    else if ¬ c.s.mayStore c.i sc o then wait c.s c.i .memory
    else
      let ls := c.actors a
      c.spots .write z (ls.map (fun l => (l, c.addr ad z l))) (fun s sp =>
        let core := s.coreOf c.i.rid
        if (s.core core).pending + newWords s core z sp > Config.pendingRegs ∨ ¬ s.homeReady core (s.homeWords z sp) then wait s c.i .memory
        else
          let s := storeLanes s c.i sp (f c) (some true) h
          finish (if o.acqs then s.acquire c.i.rid sc else s) c.i))

/-- The bytes a sized store writes for a lane (R308). -/
def Ctx.storeData (c : Ctx) (a : Operand) (z : Nat) (l : Nat) : List Byte :=
  match a with
  | .w k => bytesOf z (ofWords (c.i.rod.lws k.toNat ((z + 3) / 4) l))
  | .s k => bytesOf z (c.i.rod.un k.toNat).toNat
  | _ => bytesOf z 0

/-- `st` (R308). -/
def execSt (g : Guard) (sz : Size) (a : Operand) (ad : MAddr) (sc : Scope) (o : Order) (h : Hint) (s : State) : Res :=
  storeForm s g sz.bytes sz.words a ad sc o h (fun c l => c.storeData a sz.bytes l)

/-- `stmr` (R309). -/
def execStmr (g : Guard) (v : View) (a : Operand) (ad : MAddr) (sc : Scope) (o : Order) (h : Hint) (s : State) : Res :=
  let z := match v with | .y => 8 | _ => 4
  storeForm s g z v.words a ad sc o h (fun c l => bytesOf z (mrcCompress v.fmt ((c.ivl .a v a l).iv v.fmt)))

/-! ### Exact sums (R198, R199, R318) -/

/-- A lane's cell: an aperture, a device page or a counter page is a violation (R318). -/
def cellSpot : Spot → Spot
  | .mem pa ent => if Pte.cnt ent ∨ Pte.pageClass ent = .device then .viol else .mem pa ent
  | .zero => .zero
  | _ => .viol

/-- `ld.xs` (R199, R318). -/
def execLdXs (g : Guard) (v : View) (d : Operand) (ad : MAddr) (sc : Scope) (o : Order) (s : State) : Res :=
  issue s g none [(d, v.words)] ad.regs (fun c =>
    if c.i.flagFull then wait c.old c.i .control
    else if ¬ c.s.mayStore c.i sc o then wait c.s c.i .memory
    else
      let ls := lanes c.g
      c.spots .read 128 (ls.map (fun l => (l, c.addr ad 128 l))) (fun s sp =>
        let sp := sp.map (fun e => (e.1, cellSpot e.2))
        let accs := sp.filterMap (fun e => match e.2 with
          | .mem pa _ => some ({ lane := e.1, pa := pa, size := 128, act := .xsRead } : HomeAcc)
          | _ => none)
        let need := accs.map (fun a => ({ lane := a.lane, pos := 0, word := uncachedWord (a.pa / 4) } : LoadPart))
        let fixed := sp.filterMap (fun e => match e.2 with
          | .viol => some (e.1, v.fmt.outPair v.fmt.emptyPair false)
          | .zero => some (e.1, xsRead v.fmt 0 0)
          | _ => none)
        let got := fixed.foldl (fun (t : Tbl Word) e =>
          ((e.2.pair.words v).zipIdx).foldl (fun (t : Tbl Word) w => t.put (64 * e.1 + w.2) w.1) t) ([] : Tbl Word)
        let fl := fixed.foldl (fun a e => a ||| e.2.flags) 0
        let core := s.coreOf c.i.rid
        if ¬ s.homeReady core (accs.flatMap HomeAcc.words) then wait s c.i .memory
        else
          let l : LoadOp :=
            { kind := .xs v, dst := d, lanes := c.g, offs := [], need := need, got := got, sc := sc, ord := o, hint := .normal, iflags := fl }
          let (n, s) := s.addOp c.i (.load l)
          let s := (s.raise c.i.rid (violCause sp)).sparseRead c.i.rid (sp.any (·.2 == .zero))
          finish (if accs = [] then s.send (.loadComplete n)
            else s.send (.homePerformedAccess { op := n, accs := accs, stop := some (stopOf core.die) })) c.i))

/-- `red.xs` (R198, R318). -/
def execRedXs (g : Guard) (a : Operand) (ad : MAddr) (sc : Scope) (o : Order) (s : State) : Res :=
  issue s g none [] ((a, 2) :: ad.regs) (fun c =>
    if ¬ c.s.mayStore c.i sc (if o.rels then o else .plain) then wait c.s c.i .memory
    else
      let ls := lanes c.g
      c.spots .write 128 (ls.map (fun l => (l, c.addr ad 128 l))) (fun s sp =>
        let sp := sp.map (fun e => (e.1, cellSpot e.2))
        let accs := sp.filterMap (fun e => match e.2 with
          | .mem pa _ =>
            let ws := c.i.rod.lws (wordNum a) 2 e.1
            some ({ lane := e.1, pa := pa, size := 128, act := .xsAdd (ws.getD 0 0) (ws.getD 1 0) } : HomeAcc)
          | _ => none)
        let core := s.coreOf c.i.rid
        if ¬ s.homeReady core (accs.flatMap HomeAcc.words) then wait s c.i .memory
        else
          let s := s.raise c.i.rid (violCause sp)
          if accs = [] then finish s c.i
          else
            let (n, s) := s.addOpNoFlag c.i.rid .posted
            finish (s.send (.homePerformedAccess { op := n, accs := accs, stop := some (stopOf core.die) })) c.i))

/-! ### Scratchpad forms (R57, R58, R310, R311) -/

/-- The offsets of the lanes in the issuing chain's allocation (R310). -/
def Ctx.offsets (c : Ctx) (ad : MAddr) (z : Nat) (ls : List Nat) : List (Nat × Spot) :=
  ls.map (fun l => (l, scrSpot (c.s.chain c.i.rid.chain) c.i.rid.chain (c.addr ad z l).toNat z))

/-- The lines that the lanes touch take a state. -/
def State.setLines (s : State) (z : Nat) (sp : List (Nat × Spot)) (full : Bool) : State :=
  (lineWaits full z sp).foldl (fun s w => s.modChain w.chain (fun c => c.setFull w.line full)) s

/-- What an access that changes a line's state waits for, as a release at core scope would (R142): the rod's reductions and uncached stores are
performed and its loads bound. -/
def State.lineRelease (s : State) (r : RodId) : Bool := !s.posting r && !s.unbound r

/-- `lds` and `ldtk`: the reads, and for `ldtk` the emptying, in one step. -/
def scrLoad (s : State) (g : Guard) (sz : Size) (d : Operand) (ad : MAddr) (sc : Scope) (o : Order) (take : Bool) : Res :=
  issue s g none [(d, sz.words)] ad.regs (fun c =>
    if c.g = 0 ∧ d.isS then finish c.s c.i
    else if c.i.flagFull then wait c.old c.i .control
    else if c.s.acquiring c.i.rid || (o.rels && !c.s.released c.i.rid sc) || (take && !c.s.lineRelease c.i.rid) then wait c.s c.i .memory
    else
      let ls := c.actors d
      let sp := c.offsets ad sz.bytes ls
      let lw := lineWaits true sz.bytes sp
      if ¬ lw.all c.s.lineMet then wait c.s c.i (.fullEmpty lw [])
      else
        let s := c.s.inherit c.i.rid
        let s := startLoad s c.i sz.bytes (.plain sz) d (maskOf ls.contains) sc o .normal (s.readParted sz.bytes sp []).1 sp
        finish (if take then s.setLines sz.bytes sp false else s) c.i)

/-- `lds` (R310). -/
def execLds (g : Guard) (sz : Size) (d : Operand) (ad : MAddr) (sc : Scope) (o : Order) (_h : Hint) (s : State) : Res :=
  scrLoad s g sz d ad sc o false

/-- `ldtk` (R310). -/
def execLdtk (g : Guard) (sz : Size) (d : Operand) (ad : MAddr) (sc : Scope) (o : Order) (_h : Hint) (s : State) : Res :=
  scrLoad s g sz d ad sc o true

/-- `sts` and `stfl`. -/
def scrStore (s : State) (g : Guard) (sz : Size) (a : Operand) (ad : MAddr) (sc : Scope) (o : Order) (empty : Bool) : Res :=
  issue s g none [] ((a, sz.words) :: ad.regs) (fun c =>
    if c.g = 0 ∧ a.isS then finish c.s c.i
    else if c.s.acquiring c.i.rid || (o.rels && !c.s.released c.i.rid sc) || !c.s.lineRelease c.i.rid || (o.acqs && !c.s.mayAcquire c.i.rid sc) then
      wait c.s c.i .memory
    else
      let ls := c.actors a
      let sp := c.offsets ad sz.bytes ls
      let lw := lineWaits false sz.bytes sp
      if empty && !lw.all c.s.lineMet then wait c.s c.i (.fullEmpty lw [])
      else
        let s := if empty then c.s.inherit c.i.rid else c.s
        let s := storeLanes s c.i sp (c.storeData a sz.bytes) (some true) .normal
        finish (if o.acqs then s.acquire c.i.rid sc else s) c.i)

/-- `sts` (R310). -/
def execSts (g : Guard) (sz : Size) (a : Operand) (ad : MAddr) (sc : Scope) (o : Order) (_h : Hint) (s : State) : Res :=
  scrStore s g sz a ad sc o false

/-- `stfl` (R310). -/
def execStfl (g : Guard) (sz : Size) (a : Operand) (ad : MAddr) (sc : Scope) (o : Order) (_h : Hint) (s : State) : Res :=
  scrStore s g sz a ad sc o true

/-- `FULL_EMPTY_RELEASE` (R58): the waiting access performs, once every line that it touches in a scratchpad meets its
condition. -/
def execFullEmptyRelease (r : RodId) (sl : SlotId) (s : State) : Res :=
  match (s.rod r).bind (·.slot sl) with
  | none => .next s
  | some x =>
    match x.wait, x.word.map decode with
    | some (.fullEmpty lw _), some (.ok i) =>
      if ¬ s.partMet lw then .next s
      else
        let s := { s with cur := some (r, sl) }
        match i with
        | .ld g sz d ad sc o h => execLd g sz d ad sc o h s
        | .ldmr g v d ad sc o h => execLdmr g v d ad sc o h s
        | .lds g sz d ad sc o h => execLds g sz d ad sc o h s
        | .ldtk g sz d ad sc o h => execLdtk g sz d ad sc o h s
        | .stfl g sz a ad sc o h => execStfl g sz a ad sc o h s
        | _ => .next (s.modRod r (fun y => y.setSlot sl (some { x with wait := none })))
    | _, _ => .next s

/-- `fest` (R311). -/
def execFest (g : Guard) (full : Bool) (ad : MAddr) (_h : Hint) (s : State) : Res :=
  issue s g none [] ad.regs (fun c =>
    let sp := c.offsets ad 1 (lanes c.g)
    if ¬ c.s.lineRelease c.i.rid then wait c.s c.i .memory
    else finish ((c.s.setLines 1 sp full).raise c.i.rid (violCause sp)) c.i)

/-- `feq` (R311). -/
def execFeq (g : Guard) (d : Operand) (ad : MAddr) (_h : Hint) (s : State) : Res :=
  issue s g none [(d, 1)] ad.regs (fun c =>
    let sp := c.offsets ad 1 (lanes c.g)
    let c := { c with s := c.s.raise c.i.rid (violCause sp) }
    c.putWords d (fun l => match sp.find? (fun e => e.1 == l) with
      | some (_, .scr cid off) => [match c.s.chain cid with | some ch => if ch.full (off / 128) then 1 else 0 | none => 0]
      | _ => [0xFFFFFFFF]) (fun _ => 0))

/-! ### Gather and prefetch (R312 to R314) -/

/-- What a gather has still to read of a lane (R58, R119): an access of memory whole, one of a scratchpad by its words. -/
def gatherReads (n : Nat) (lane : Nat) (a : DWord) : List (Nat × Nat × DWord) :=
  match vaKind a with
  | .scratch _ | .furlong _ => (List.range n).map (fun j => (lane, j, a))
  | _ => [(lane, 0, a)]

/-- `gth` (R312, R313): a row of the queue is taken for the operation, whatever the guard; with no lane it is a row of zeros. -/
def execGth (g : Guard) (sz : Size) (ad : MAddr) (h : Hint) (s : State) : Res :=
  issue s g none [] ad.regs (fun c =>
    let n := sz.bytes / 4
    if c.i.flagFull then wait c.old c.i .control
    else if ¬ c.s.engineReady c.i.rid ∨ c.i.rod.gx.length + n > Config.gatherWords then wait c.s c.i .memory
    else if c.g = 0 then
      finish (c.s.modRod c.i.rid (fun x => { x with gx := x.gx ++ List.replicate n { op := none, vals := List.replicate 32 0 } })) c.i
    else
      let reads := (lanes c.g).flatMap (fun l => gatherReads n l (c.addr ad sz.bytes l))
      let (op, s) := c.s.addOp c.i (.gather { words := n, reads := reads, hint := h })
      finish (s.modRod c.i.rid (fun x => { x with gx := x.gx ++ List.replicate n { op := some op, vals := List.replicate 32 0 } })) c.i)

/-- Write the columns of a row that an operation reserved. -/
def fillRow (op : Nat) (cols : List GxWord) : List GxWord → List GxWord
  | [] => []
  | x :: rest =>
    if x.op = some op then
      cols.headD { op := none, vals := [] } :: fillRow op (cols.drop 1) rest
    else x :: fillRow op cols rest

/-- A column of the row that a gather has read, with the lanes whose word of it is poisoned (R75, R77). -/
def GatherOp.column (g : GatherOp) (j : Nat) : GxWord :=
  { op := none, vals := (List.range 32).map (fun l => g.got.get (16 * l + j) 0), bad := maskOf (fun l => g.bad.contains (16 * l + j)) }

/-- Words of a lane go into a gather, each with its poison. -/
def GatherOp.put (g : GatherOp) (lane j : Nat) (ws : List (Word × Bool)) : GatherOp :=
  { g with got := ws.zipIdx.foldl (fun (t : Tbl Word) e => t.put (16 * lane + j + e.2) e.1.1) g.got,
           bad := ws.zipIdx.foldl (fun l e => if e.1.2 then insertNat (16 * lane + j + e.2) l else l) g.bad }

/-- The scratchpad words of a gather that can be read now: in each scratchpad, in rising order up to the first line that is not full (R58). -/
def State.gatherNow (s : State) (l : List ((Nat × Nat × DWord) × Nat × Nat)) : List ((Nat × Nat × DWord) × Nat × Nat) :=
  l.filter (fun e => l.all (fun f =>
    f.2.1 != e.2.1 || decide (e.2.2 < f.2.2 / 128 * 128) || ((s.chain f.2.1).map (fun ch => ch.full (f.2.2 / 128))).getD true))

/-- Reads of a gather where they lead: the words read, the reads still to be made, the causes, a sparse read. -/
def State.gatherStep (s : State) (o : Op) (g : GatherOp) (sp : List ((Nat × Nat × DWord) × Spot)) : GatherOp × Word × Bool × State :=
  let core := s.coreOf o.rod
  let z := 4 * g.words
  let mems : Accesses := sp.filterMap (fun e => match e.2 with | .mem pa ent => some (pa, z, ent) | _ => none)
  let scrs := sp.filterMap (fun e => match e.2 with | .scr c off => some (e.1, c, off + 4 * e.1.2.1) | _ => none)
  let now := s.gatherNow scrs
  let can := s.engineCan core mems
  let (t, s') := if can then (s.readPending o.rod (mems.flatMap (fun e => wordsOf e.1 e.2.1))).readParts core mems g.hint else ([], s)
  let (g', k) := sp.foldl (fun (acc : GatherOp × Word) e =>
    let (g, k) := acc
    let (lane, j, _) := e.1
    match e.2 with
    | .viol => (g.put lane j (List.replicate (if j = 0 then g.words else 1) (0xFFFFFFFF, false)), k ||| Cause.accv)
    | .zero => (g.put lane 0 (List.replicate g.words (0, false)), k)
    | .scr c off =>
      if now.any (fun f => f.1 == e.1) then
        match s.chain c with
        | some ch => (g.put lane j [(BitVec.ofNat 32 (ch.nat (off + 4 * j) 4), ch.anyBad (off + 4 * j) 4)],
            if ch.anyBad (off + 4 * j) 4 then k ||| Cause.umem else k)
        | none => (g, k)
      else (g, k)
    | .mem pa _ =>
      if can then
        let rs := (List.range g.words).map (fun m => s.partBytes t (pa + 4 * m) 4)
        (g.put lane 0 (rs.map (fun r => (wordAt (ofBytes r.bytes) 0, r.bad))), rs.foldl (fun k r => k ||| r.cause) k)
      else (g, k)) (g, 0)
  let left := sp.filter (fun e => match e.2 with
    | .mem _ _ => !can
    | .scr _ _ => !now.any (fun f => f.1 == e.1)
    | _ => false)
  ({ g' with reads := left.map Prod.fst }, k, sp.any (fun e => e.2 == .zero), s')

/-- `GATHER_ROW_ARRIVE` (R312, R313): the operation makes the reads that it can, line by line in a scratchpad as its lines are full (R57, R58);
it is suspended on a page (R32), and its row arrives when none is left. -/
def execGatherRowArrive (op : Nat) (s : State) : Res :=
  match s.op op with
  | none => .next s
  | some o =>
    match o.kind with
    | .gather gt =>
      if o.susp then .next s
      else
        match s.rod o.rod with
        | none => .next s
        | some x =>
          let i : Iss := { rid := o.rod, sl := .a, rod := { x with denied := o.denied }, slot := Slot.fresh { pc := 0, idx := 0, mask := 0, frame := none, wait := 0 } 0 }
          match s.spotAll i .read (4 * gt.words) (gt.reads.zipIdx.map (fun e => (e.2, e.1.2.2))) with
          | .device => .refused .deviceRegisters
          | .waits s w => .next (match s.op op with
            | some o => s.setOp op { o with susp := w == .translation, pages := gt.reads.map (fun e => (e.2.2.toNat / 65536, .read)) }
            | none => s)
          | .ready s sp =>
            let (g, k, sprd, s) := s.gatherStep o gt ((gt.reads.zip sp).map (fun e => (e.1, e.2.2)))
            let s := (s.raise o.rod k).sparseRead o.rod sprd
            if g.reads ≠ [] then .next (s.setOpKind op (.gather g))
            else
              .next ((s.modRod o.rod (fun x => { x with gx := fillRow op ((List.range g.words).map g.column) x.gx })).endOp op)
    | _ => .next s

/-- Where the forms that skip every page but a frame of cached memory find an address (R102, R103, R314): its frame, or none where it is skipped;
the outer none is a walk that has to wait. -/
def State.cachedFrame (s : State) (i : Iss) (a : DWord) : Option (Option Nat) × State :=
  match vaKind a with
  | .translated =>
    match s.translate (.core (s.coreOf i.rid)) (s.asidOf i.rid) a.toNat .read with
    | (.frame pa ent, s) => (some (if s.classOf pa ent = .cached ∧ s.reach pa = .memory then some pa else none), s)
    | (.busy _ _, s) => (none, s)
    | (_, s) => (some none, s)
  | _ => (some none, s)

/-- A line is filled into a core's L1, or into its die's slice alone, as a hint asks; words at which something is under way are left out
(R314). -/
def State.prefetch (s : State) (c : CoreId) (line : Nat) (h : Hint) : State :=
  (lineWords line).foldl (fun s wd =>
    if ¬ s.coreCan c [wd] ∨ ((s.core c).hit wd 15).isSome then s
    else if h.allocL1 then (s.coreReads c [wd] h).2
    else
      let remote := s.homeDie (4 * wd) ≠ c.die
      let w := s.curWord wd
      if remote ∧ (s.die c.die).l2State wd ≠ .i then s
      else
        let s := s.homeSide wd (some h.l2Retention)
        if remote ∧ ¬ w.lost then s.fillL2 c.die wd w h.l2Retention s.cycle else s) s

/-- `prf` (R314): the lines are filled into the L1, or into the die's slice alone. -/
def execPrf (g : Guard) (ad : MAddr) (h : Hint) (s : State) : Res :=
  issue s g none [] ad.regs (fun c =>
    let core := c.s.coreOf c.i.rid
    finish ((lanes c.g).foldl (fun s l =>
      match s.cachedFrame c.i (c.addr ad 1 l) with
      | (some (some pa), s) => s.prefetch core (pa / 128) h
      | (_, s) => s) c.s) c.i)

/-! ### Ranges and blocks (R102, R103, R315) -/

/-- The words of a byte range on cached frames, as intervals of word numbers, page by page; none while a walk has to wait. -/
def State.rangeWords (s : State) (i : Iss) (first n : Nat) : Option (List (Nat × Nat)) × State :=
  let stop := Nat.min (first + n) (2 ^ 56)
  if n = 0 ∨ stop ≤ first then (some [], s)
  else
    let pages := (List.range ((stop - 1) / 65536 + 1 - first / 65536)).map (fun k => first / 65536 + k)
    pages.foldl (fun (acc : Option (List (Nat × Nat)) × State) p =>
      let lo := Nat.max first (65536 * p)
      let hi := Nat.min stop (65536 * p + 65536)
      match acc.2.cachedFrame i (BitVec.ofNat 64 lo) with
      | (some (some pa), s) => (acc.1.map (fun l => l ++ [(pa / 4, (pa + (hi - lo) + 3) / 4)]), s)
      | (some none, s) => (acc.1, s)
      | (none, s) => (none, s)) (some [], s)

def inRanges (l : List (Nat × Nat)) (wd : Nat) : Bool := l.any (fun e => decide (e.1 ≤ wd) && decide (wd < e.2))

/-- A range instruction's base and length, from the lowest participating lane (R315). -/
def Ctx.range (c : Ctx) (n : Operand) (ad : MAddr) : Option (List (Nat × Nat)) × State :=
  c.s.rangeWords c.i (c.addr ad 1 c.low).toNat (match n with | .s k => (c.i.rod.un k.toNat).toNat | _ => (c.w32 .a n c.low).toNat)

/-- `inv` (R102). -/
def execInv (g : Guard) (n : Operand) (ad : MAddr) (_h : Hint) (s : State) : Res :=
  issue s g none [] ((n, 1) :: ad.regs) (fun c =>
    if c.g = 0 then finish c.s c.i
    else if c.i.flagFull then wait c.old c.i .control
    else
      match c.range n ad with
      | (none, s) => wait s c.i .memory
      | (some l, s) =>
      let core := s.coreOf c.i.rid
      finish (s.setCore core { s.core core with l1 := (s.core core).l1.keep (fun wd x => !(x.st == .v && inRanges l wd)) }) c.i)

/-- `wbk` (R102): registered words are written back, those in Gp and Gd when their package-level grant comes. -/
def execWbk (g : Guard) (n : Operand) (ad : MAddr) (_h : Hint) (s : State) : Res :=
  issue s g none [] ((n, 1) :: ad.regs) (fun c =>
    if c.g = 0 then finish c.s c.i
    else if c.i.flagFull then wait c.old c.i .control
    else
      match c.range n ad with
      | (none, s) => wait s c.i .memory
      | (some l, s) =>
      let core := s.coreOf c.i.rid
      let own := (s.core core).l1.filter (fun (e : Nat × L1Word) => e.2.st.owned && inRanges l e.1)
      let ws := own.map Prod.fst
      if ws = [] then finish s c.i
      else
        let due := (own.filter (fun (e : Nat × L1Word) => e.2.st != .g)).map Prod.fst
        let s := (s.addOp c.i (.wbk due (ws.filter (fun wd => !due.contains wd)))).2
        finish (ws.foldl (fun s wd => s.writeBackV core wd) s) c.i)

/-- A word that `own` asks for: registered with a fetch, at the retention of its hint (R70, R103). -/
def State.ownWord (s : State) (c : CoreId) (r : RodId) (wd : Nat) (h : Hint) : State :=
  let k := (s.core c).openLine (lineOf wd) h.l1Retention
  let x := k.l1Word wd
  let s := s.setCore c (k.setL1 wd { st := .gp, val := x.val, known := 0, bad := false, ret := h.l2Retention })
  let s := (s.evictFor c (lineOf wd)).modRod r (fun x => { x with parts := insertNat wd x.parts })
  if s.homeDie (4 * wd) = c.die then s.send (.homeRegisterFetch (.core c) wd) else s.send (.nonhomeRegistration c wd true)

/-- The words that lanes name, of cached frames; none while a walk has to wait. -/
def State.namedWords (s : State) (i : Iss) (as : List DWord) : Option (List Nat) × State :=
  as.foldl (fun (acc : Option (List Nat) × State) a =>
    match acc.2.cachedFrame i a with
    | (some (some pa), s) => (acc.1.map (insertNat (pa / 4)), s)
    | (some none, s) => (acc.1, s)
    | (none, s) => (none, s)) (some [], s)

/-- `own` (R103). -/
def execOwn (g : Guard) (ad : MAddr) (h : Hint) (s : State) : Res :=
  issue s g none [] ad.regs (fun c =>
    if c.i.flagFull then wait c.old c.i .control
    else
      let core := c.s.coreOf c.i.rid
      let as := (lanes c.g).map (fun l => c.addr ad 1 l)
      let bad := as.any (fun a => a.toNat % 4 != 0)
      match c.s.namedWords c.i (as.filter (fun a => a.toNat % 4 == 0)) with
      | (none, s) => wait s c.i .memory
      | (some ws, s) =>
        let new := ws.filter (fun wd => !((s.core core).l1Word wd).st.owned)
        if (s.core core).pending + new.length > Config.pendingRegs then wait s c.i .memory
        else
          let s := s.raise c.i.rid (if bad then Cause.accv else 0)
          let s := new.foldl (fun s wd => s.ownWord core c.i.rid wd h) s
          let s := (ws.map lineOf).eraseDups.foldl (fun s x => s.useLine core x h) s
          let due := ws.filter (fun wd => ((s.core core).l1Word wd).st != .g)
          finish (if due = [] then s else (s.addOp c.i (.words due)).2) c.i)

end Machine

end Sys2Proof
end

