-- ==== Sys2Proof/Machine/Copies.lean ====
section
/-!
DEFINITION. Copies (R329 to R333): their issue, the lines as they land, and their completion.
-/
namespace Sys2Proof.Machine

/-- The common course of `cpy` and `cpyo` (R153, R329, R332). -/
def copyForm (s : State) (g : Guard) (out : Bool) (a b k : Operand) (bar : Option CopyBar) (seq : Option (BitVec 6))
    (h : Hint) : Res :=
  issue s g none [] [(a, 1), (b, 2), (k, 1)] (fun c =>
    if c.g = 0 then finish c.s c.i
    else if c.i.rod.role ≠ 0 then trap c.old c.i Cause.copyr
    else
      match s.copyBar c.i.rid (match bar with | none => 0 | some x => if x.furlong then 2 else 1) (match bar with | none => 0 | some x => x.no.toNat) with
      | none => trap c.old c.i Cause.illegal
      | some bid =>
        if c.i.flagFull then wait c.old c.i .control
        else if ¬ c.s.engineReady c.i.rid (if seq.isSome then .package else .furlong) then wait c.old c.i .memory
        else if c.s.copiesOn (c.s.coreOf c.i.rid) ≥ Config.copyOps then wait c.old c.i .copy
        else
          let (op, n, k) := c.s.makeCopy c.i.rid out (c.w32 .a a c.low).toNat (c.d64 .b b c.low) (c.w32 .c k c.low).toNat bid
            (seq.map (fun r => c.i.rod.un r.toNat)) false h
          finish ((c.s.issueCopy c.i.rid op n k).addOp c.i (.copy op)).2 c.i)

/-- `cpy` (R329). -/
def execCpy (g : Guard) (a b c : Operand) (bar : Option CopyBar) (h : Hint) (s : State) : Res := copyForm s g false a b c bar none h

/-- `cpyo` (R329). -/
def execCpyo (g : Guard) (a b c : Operand) (bar : Option CopyBar) (h : Hint) (seq : Option (BitVec 6)) (s : State) : Res :=
  copyForm s g true a b c bar seq h

/-- A piece of an element within one line and one scratchpad word: offset, length, and the byte of the element it begins at. -/
def elemPieces (off e line : Nat) : List (Nat × Nat × Nat) :=
  let lo := Nat.max off (128 * line)
  let hi := Nat.min (off + e) (128 * line + 128)
  if e < 4 then (if lo < hi then [(lo, hi - lo, lo - off)] else [])
  else (List.range ((hi - lo + 3) / 4)).map (fun i => (lo + 4 * i, Nat.min 4 (hi - lo - 4 * i), lo + 4 * i - off))

/-- Where every in-bounds element of a line leads, or the state to go on with (R32). -/
def State.copyPlaces (s : State) (opn : Nat) (o : Op) (kind : XKind) : List CopyElem → List (CopyElem × Where) →
    Except State (List (CopyElem × Where) × State)
  | [], acc => .ok (acc, s)
  | e :: rest, acc =>
    if ¬ e.inb then s.copyPlaces opn o kind rest (acc ++ [(e, .zero)])
    else
      match s.resolve (.core (s.coreOf o.rod)) (s.asidOf o.rod) o.denied e.va kind with
      | (.waits x, s) => .error (s.suspendOp opn e.va kind x)
      | (w, s) => s.copyPlaces opn o kind rest (acc ++ [(e, w)])

/-- What lands of one line: bytes of scratchpad, offsets whose words take poison, causes, bytes counted, a sparse read. -/
structure Landing where
  cells : List (Nat × Byte)
  bad   : List Nat
  cause : Word
  count : Nat
  sprd  : Bool

/-- The memory accesses of a line's elements. -/
def copyAccesses (c : CopyOp) (line : Nat) (ps : List (CopyElem × Where)) : Accesses :=
  ps.flatMap (fun p => match p.2 with
    | .mem pa ent => (elemPieces p.1.off c.lay.elem line).map (fun e => (pa + e.2.2, e.2.1, ent))
    | _ => [])

/-- One element into the scratchpad, from the words read (R331, R77). -/
def State.landIn (s : State) (t : Tbl WordRead) (c : CopyOp) (line : Nat) (e : CopyElem) (w : Where) (x : Landing) : Landing :=
  (elemPieces e.off c.lay.elem line).foldl (fun (x : Landing) p =>
    let (off, n, j) := p
    let put := fun (bs : List Byte) (bad : Bool) (k : Word) (sp : Bool) =>
      ({ cells := x.cells ++ bs.zipIdx.map (fun b => (off + b.2, b.1)), bad := if bad then off :: x.bad else x.bad,
         cause := x.cause ||| k, count := x.count + n, sprd := x.sprd || sp } : Landing)
    if ¬ e.inb then
      (if c.lay.fill = 2 then x else put (List.replicate n (if c.lay.fill = 1 then 0xFF else 0)) false 0 false)
    else
      match w with
      | .mem pa _ => let r := s.partBytes t (pa + j) n; put r.bytes r.bad r.cause false
      | .zero => put (List.replicate n 0) false 0 true
      | _ => put (List.replicate n 0xFF) false Cause.accv false) x

/-- One element out to memory (R331, R77). -/
def State.landOut (s : State) (r : RodId) (c : CopyOp) (line : Nat) (e : CopyElem) (w : Where) (x : Landing) : Landing × State :=
  (elemPieces e.off c.lay.elem line).foldl (fun (acc : Landing × State) p =>
    let (off, n, j) := p
    let (x, s) := acc
    match w, s.chain r.chain with
    | .mem pa ent, some ch =>
      let bs := (List.range n).map (fun i => ch.byte (off + i))
      let bad := ch.anyBad off n
      let (k, t) := s.engineWrite (s.coreOf r) (pa + j) bs ent bad c.hint
      ({ x with cause := x.cause ||| k ||| (if bad then Cause.umem else 0), count := x.count + n }, t.noteCounters s (some r) (pa + j) n (Pte.cnt ent))
    | _, _ => ({ x with cause := x.cause ||| Cause.accv, count := x.count + n }, s)) (x, s)

/-- `COPY_LINE_LAND` (R57, R331, R332): the next line of a copy lands once it is in the state waited for, with every page of its
elements at hand and nothing under way at their words; its bytes are counted in the tagged phase, and a line written is full. -/
def execCopyLineLand (op line : Nat) (s : State) : Res :=
  match s.op op with
  | none => .next s
  | some o =>
    match o.kind, s.chain o.rod.chain with
    | .copy c, some ch =>
      if o.susp ∨ c.lines.head? ≠ some line ∨ ch.full line ≠ c.out then .next s
      else
        match s.copyPlaces op o (if c.out then .write else .read) ((c.elemsOn line).filter (fun e => e.inb || !c.out)) [] with
        | .error s => .next s
        | .ok (ps, s) =>
          let core := s.coreOf o.rod
          let l := copyAccesses c line ps
          if ¬ (if c.out then s.engineMay core l else s.engineCan core l) then .next (s.clearWays (if c.out then l else []))
          else
          let x0 : Landing := ⟨[], [], 0, 0, false⟩
          let (x, s) :=
            if c.out then ps.foldl (fun (acc : Landing × State) p => acc.2.landOut o.rod c line p.1 p.2 acc.1) (x0, s)
            else
              let (t, s') := s.readParts core l c.hint
              (ps.foldl (fun (x : Landing) p => s.landIn t c line p.1 p.2 x) x0, s')
          let s := if c.out then s else s.modChain o.rod.chain (fun ch => (ch.putCells x.cells x.bad).setFull line true)
          let s := (s.raise o.rod x.cause).mflag o.rod (if x.sprd then 1 else 0)
          let s := s.setOpKind op (.copy { c with lines := c.lines.drop 1, caused := c.caused || x.cause != 0 })
          .next (s.landBytes o.rod c.bar x.count)
    | _, _ => .next s

/-- A completed copy leaves (R332, R333). -/
def State.copyEnd (s : State) (op : Nat) (o : Op) (c : CopyOp) (k : Word) : State :=
  let s := s.raise o.rod k
  let s := if c.raw then s.modRod o.rod (fun x => { x with cpOut := x.cpOut ++ [if c.caused || k != 0 then 1 else 0] }) else s
  s.endOp op

/-- `COPY_COMPLETE` (R331 to R333): with every line landed, the increment that SEQ names is made for the rod. -/
def execCopyComplete (op : Nat) (s : State) : Res :=
  match s.op op with
  | none => .next s
  | some o =>
    match o.kind with
    | .copy c =>
      if o.susp ∨ c.lines ≠ [] then .next s
      else
        match c.seq with
        | none => .next (s.copyEnd op o c 0)
        | some va =>
          if va.toNat % 8 ≠ 0 then .next (s.copyEnd op o c Cause.accv)
          else
            match s.resolve (.core (s.coreOf o.rod)) (s.asidOf o.rod) o.denied va .write with
            | (.waits x, s) => .next (s.suspendOp op va .write x)
            | (.mem pa ent, s) =>
              if Pte.cnt ent ∧ s.reach pa = .memory ∧ ¬ s.canPut (stopOf (s.coreOf o.rod).die) pa 8 then .next (s.clearWay pa 8)
              else if Pte.cnt ent ∧ s.reach pa = .memory then
                .next ((s.counterAdd (some o.rod) pa 1).copyEnd op o c 0)
              else .next (s.copyEnd op o c Cause.accv)
            | (_, s) => .next (s.copyEnd op o c Cause.accv)
    | _ => .next s

end Sys2Proof.Machine
end

