-- ==== Sys2Proof/Machine/Pages.lean ====
section
/-!
DEFINITION. Page instructions and the allocator (R44 to R52), and what ends a wait on a page: walks, commits, the host's answers and
invalidations (R28 to R36, R40, R43).
-/
namespace Sys2Proof.Machine

/-! ### Waits on pages (R28, R30, R32) -/

/-- The rods and slots on the cores that p holds of that wait on translation, and the rods whose handler entry does (R403). -/
def State.translationWaits (s : State) (p : CoreId → Bool) : List (RodId × SlotId) :=
  s.rods.flatMap (fun (e : Nat × Rod) =>
    let r := rodOfKey e.1
    if ¬ p (s.coreOf r) then []
    else [SlotId.a, SlotId.b].filterMap (fun sl => match (e.2.slot sl).bind (·.wait) with
      | some .translation => some (r, sl)
      | _ => if sl = .a ∧ e.2.run = .halted then some (r, sl) else none))

/-- The waiting accesses of the cores that p holds of walk again, and those of the I/O dies that io holds of: rods replay, suspended operations
and commands go on (R28, R32). A saved chain whose resume waited is ready to resume (R470). -/
def State.replay (s : State) (p : CoreId → Bool) (io : Nat → Bool) : State :=
  let s := (s.translationWaits p).foldl (fun s e => s.send (.translationReplay e.1 e.2)) s
  { s with
    roundDue := s.roundDue || s.cmds.any (fun (e : Nat × Cmd) => e.2.susp && e.2.packet.isSome),
    ops := s.ops.map (fun (e : Nat × Op) => if p (s.coreOf e.2.rod) then (e.1, { e.2 with susp := false, pages := [] }) else e),
    cmds := s.cmds.map (fun (e : Nat × Cmd) =>
      let mine := match e.2.kind with
        | .neighbour q => p ⟨q.die, 0⟩
        | .dma _ => io (e.2.queue / 512)
        | .launch _ => true
        | .none => false
      if mine then (e.1, { e.2 with susp := false }) else e) }

/-- A command, or what a launch does without a rod, waits for a page (R32). -/
def State.cmdWait (s : State) (n : Nat) (u : Walker) (va : DWord) (kind : XKind) (x : XOut) : State :=
  match s.cmd n with
  | none => s
  | some c =>
    (s.setCmd n { c with susp := x.suspends, pages := if x.suspends then (va.toNat / 65536, kind) :: c.pages else c.pages }).askPage u c.asid
      va.toNat kind x c.queue

/-- What the command waited for has been done: the denials it has met are used up (R30). -/
def State.cmdDone (s : State) (n : Nat) : State := s.modCmd n (fun c => { c with pages := [], denied := [] })

/-- A command is suspended (R32). -/
def State.cmdSusp (s : State) (n : Nat) : Bool := ((s.cmd n).map (·.susp)).getD false

/-- `TRANSLATION_REPLAY` (R28): the suspended instruction issues again whole. -/
def execTranslationReplay (r : RodId) (sl : SlotId) (s : State) : Res :=
  match (s.rod r).bind (·.slot sl) with
  | some x =>
    if x.wait = some .translation then .next (s.endWait r sl) else .next s
  | none => .next s

/-- `WALK_COMPLETE` (R34): one walk of a die serves every waiter of the die; a waiter that still has no frame asks again (R30). A commit of the
writers of an I/O die runs on CD0 (log 21). -/
def execWalkComplete (die asid vpn : Nat) (k : XKind) (s : State) : Res :=
  .next (((s.translate (.die die) asid (65536 * vpn) k).2).replay (fun c => c.die == die) (fun _ => die == 0))

/-- The waits that hold a physical word under a discarded translation walk again (R36): `seqwt`s issue again, and `waitany`s arm again until the
time that they were to wait. `v` and `a` say whose. -/
def State.rearm (s : State) (a : Nat → Bool) (v : Armed → Bool) : State :=
  { s with rods := s.rods.map (fun (e : Nat × Rod) =>
      let f := fun (o : Option Slot) => o.map (fun (x : Slot) => match x.wait with
        | some (.waitany arm til) => if a (s.asidOf (rodOfKey e.1)) ∧ arm.any v then { x with wait := some (.waitany [] til) } else x
        | some (.seqwt _ _) =>
          if a (s.asidOf (rodOfKey e.1)) then { x with wait := none, started := if s.windingUp (rodOfKey e.1) e.2 then none else x.started } else x
        | _ => x)
      (e.1, { e.2 with slotA := f e.2.slotA, slotB := f e.2.slotB })) }

/-- A frame has been installed in a page (R40): every waiter on its translation, on whatever die, walks again, and so does what waits on a word
of the page. -/
def State.pageInstalled (s : State) (asid vpn : Nat) : State :=
  (s.replay (fun _ => true) (fun _ => true)).rearm (fun a => a == asid)
    (fun w => decide (2 ^ 60 ≤ w.word) && decide ((w.word - 2 ^ 60) / 16384 = vpn))

/-- `COMMIT` (R40, R41) for a writer of queue q: a frame is installed, or an earlier commit is found or an entry that has lost W, and the waiters on
the page's translation replay, with the entry as it now is; an empty pool posts a page request of kind 4 to the writer's ring, counted in the
descriptor's PREQ (R29, R42, R387; log 49). It comes again while something is under way at a word it needs. -/
def execCommit (die asid vpn : Nat) (s : State) (q : Nat := 0) : Res :=
  match s.commit asid vpn die with
  | .error (pa, n) => .next ((s.clearWay pa n).send (.commit die asid vpn q))
  | .ok (.installed, s) => .next (s.pageInstalled asid vpn)
  | .ok (.poolEmpty, t) =>
    let n := (t.die die).reqs.length
    let u := t.request (.die die) asid vpn 4 q
    if (u.die die).reqs.length = n ∨ (u.die die).poolEn = false then .next u
    else
      match u.poolCount die 56 with
      | .ok u => .next u
      | .error (pa, n) => .next ((s.clearWay pa n).send (.commit die asid vpn q))
  | .ok (_, s) => .next ((s.discardPage asid vpn).replay (fun c => c.die == die) (fun _ => die == 0))

/-! ### The host's answers (R30, R35, R36, R43) -/

/-- The kind of access a page request serves. -/
def reqKind (k : Nat) : XKind := if k = 1 then .read else if k = 3 then .fetch else .write

/-- `PGRSP_RETRY` (R30): every waiting access walks again; a response that matches no request is ignored, as one is whose DIE names no I/O die. -/
def execPgrspRetry (iod : Bool) (die tag : Nat) (s : State) : Res :=
  if iod then
    if 2 ≤ die then .next s
    else
      let x := s.iod die
      if ¬ x.reqs.any (·.tag == tag) then .next s
      else .next ((s.setIod die { x with reqs := x.reqs.filter (·.tag ≠ tag) }).replay (fun _ => false) (fun i => i == die))
  else
    let x := s.die die
    match x.reqs.find? (·.tag == tag) with
    | none => .next s
    | some q =>
      let s := s.setDie die { x with reqs := x.reqs.filter (·.tag ≠ tag) }
      .next (s.send (.walkComplete die q.asid q.vpn (reqKind q.kind)))

/-- What a list of pages waited for makes of a denial. -/
def deniedOf (pages : List (Nat × XKind)) (d : Denied) : List Denied := if pages.contains (d.vpn, d.kind) then [d] else []

/-- Commands that wait for a page and p holds of take its denial (R30). -/
def State.denyCmds (s : State) (p : Cmd → Bool) (d : Denied) : State :=
  { s with cmds := s.cmds.map (fun (e : Nat × Cmd) =>
      if p e.2 then (e.1, { e.2 with denied := e.2.denied ++ deniedOf e.2.pages d }) else e) }

def Queue.log2 (q : Queue) : Nat := q.qbase.bits 4 0

/-- The slots of a queue's ring that wait to be fetched. -/
def Queue.holds (q : Queue) : Nat := (q.widx - q.ridx).toNat

/-- The address of the ring slot of an index. -/
def Queue.slotAt (q : Queue) (i : Word) : Nat := 4096 * q.qbase.bits 51 12 + 8 * (i.toNat % 2 ^ q.log2)

/-- The fetch of a queue's next packet reads a page of an address space (R389). -/
def State.fetchReads (s : State) (q asid vpn : Nat) : Bool :=
  let x := s.queue q
  let slot : DWord := BitVec.ofNat 64 (s.curNat (x.slotAt x.ridx) 8)
  let va := 64 * slot.bits 55 6
  x.holds != 0 && x.qcfg.bits 47 32 == asid && (va / 65536 == vpn || (va + 511) / 65536 == vpn)

/-- `PGRSP_DENY` (R30): every waiting access takes the VIOLATION outcome: those of the die's rods, of its operations and neighbour commands, of
launches' own accesses, and, on CD0, those of the DMA writers it commits for (log 21). -/
def execPgrspDeny (iod : Bool) (die tag : Nat) (s : State) : Res :=
  if iod then
    if 2 ≤ die then .next s
    else
      let x := s.iod die
      match x.reqs.find? (·.tag == tag) with
      | none => .next s
      | some q =>
        let fetched := s.queues.keys.any (fun n => n / 512 == die && s.fetchReads n q.asid q.vpn) && q.kind == 1
        let s := s.setIod die { x with reqs := x.reqs.filter (·.tag ≠ tag), denied := if fetched then x.denied ++ [q] else x.denied }
        let s := s.denyCmds (fun c => c.asid == q.asid && c.queue / 512 == die && (match c.kind with | .dma _ => true | _ => false))
          { vpn := q.vpn, kind := reqKind q.kind }
        .next (s.replay (fun _ => false) (fun i => i == die))
  else
    let x := s.die die
    match x.reqs.find? (·.tag == tag) with
    | none => .next s
    | some q =>
      let d : Denied := { vpn := q.vpn, kind := reqKind q.kind }
      let s := s.setDie die { x with reqs := x.reqs.filter (·.tag ≠ tag) }
      let s := (s.translationWaits (fun c => c.die == die)).foldl (fun s e =>
        if s.asidOf e.1 = q.asid then s.modRod e.1 (fun y => { y with denied := y.denied ++ [{ d with sl := e.2 }] }) else s) s
      let s := { s with ops := s.ops.map (fun (e : Nat × Op) =>
        if e.2.susp && (s.coreOf e.2.rod).die == die && s.opAsid e.2 == q.asid then
          (e.1, { e.2 with denied := e.2.denied ++ deniedOf e.2.pages d })
        else e) }
      let s := s.denyCmds (fun c => c.asid == q.asid && (match c.kind with
        | .neighbour p => p.die == die
        | .dma _ => die == 0
        | .launch _ => true
        | .none => false)) d
      .next (s.replay (fun c => c.die == die) (fun _ => die == 0))

def State.xlicBusy (s : State) : Bool := s.xlic.getLsbD 63

/-- Operations with accesses under way at physical words that they have translated (R36). An engine translates and performs an access in one
step, and translates again what it has still to do. -/
def OpKind.accesses : OpKind → Bool
  | .load l => l.need != []
  | .posted | .free _ _ _ => true
  | .gather _ | .copy _ | .mx _ | .nb _ _ _ | .table .. | .words _ | .wbk _ _ => false

/-- An invalidation starts (R35, R36): what it names is discarded, waits under a discarded translation walk again, and XLIC.BUSY is 1 until every
access under way in the address spaces in scope has performed. -/
def State.invalidate (s : State) (xlic : DWord) (p : Xlat → Bool) (w : WalkEnt → Bool) (a : Nat → Bool) : State :=
  if s.xlicBusy then s
  else
    let s := { s.discardXlat p w a with
      xlic := xlic ||| (1 <<< 63),
      xlicOps := (s.ops.filter (fun (e : Nat × Op) => e.2.kind.accesses && a (s.asidOf e.2.rod))).map Prod.fst,
      xlicWords := s.cores.flatMap (fun (e : Nat × Core) =>
        (e.2.l1.filter (fun (x : Nat × L1Word) => x.2.st.pending)).map (fun (x : Nat × L1Word) => (coreOfKey e.1, x.1))) }
    (s.rearm a (fun _ => true)).send .invalidationComplete

/-- `XLIC_INVALIDATE_PAGES` (R35): SCOPE 00, COUNT pages from XLIA's VPN in its ASID; 0 means 1. -/
def execXlicInvalidatePages (count : Word) (s : State) : Res :=
  let n := Nat.max 1 count.toNat
  let asid := s.xlia.bits 15 0
  let v := s.xlia.bits 55 16
  .next (s.invalidate (count.setWidth 64)
    (fun x => x.asid == asid && decide (x.vpn < v + n) && decide (v < x.vpn + x.span))
    (fun e => e.asid == asid && decide (walkPrefix e.level (65536 * v) ≤ e.pre) && decide (e.pre ≤ walkPrefix e.level (65536 * (v + n - 1))))
    (fun a => a == asid))

/-- `XLIC_INVALIDATE_ASID` (R35): SCOPE 01. -/
def execXlicInvalidateAsid (s : State) (count : Word := 0) : Res :=
  let asid := s.xlia.bits 15 0
  .next (s.invalidate ((1 <<< 32) ||| count.setWidth 64) (fun x => x.asid == asid) (fun e => e.asid == asid) (fun a => a == asid))

/-- `XLIC_INVALIDATE_ALL` (R35): SCOPE 10. -/
def execXlicInvalidateAll (s : State) (count : Word := 0) : Res :=
  .next (s.invalidate ((2 <<< 32) ||| count.setWidth 64) (fun _ => true) (fun _ => true) (fun _ => true))

/-- An access that was under way when the invalidation began has still to perform (R36). -/
def State.accessesOpen (s : State) : Bool :=
  s.xlicOps.any (fun n => match s.op n with | some o => o.kind.accesses | none => false) ||
    s.xlicWords.any (fun e => ((s.core e.1).l1Word e.2).st.pending)

/-- `INVALIDATION_COMPLETE` (R36): BUSY falls once every access under way has performed. -/
def execInvalidationComplete (s : State) : Res :=
  if s.accessesOpen then .next (s.send .invalidationComplete)
  else .next { s with xlic := s.xlic &&& 0x7FFFFFFFFFFFFFFF, xlicOps := [], xlicWords := [] }

/-- A frame that POOLPUSH may append to a list (R43). -/
def pushOk (die l pa : Nat) : Bool :=
  match l with
  | 0 => region pa == .near die && pa % 65536 == 0
  | 1 => pa % 65536 == 0 && (match region pa with | .far _ | .cxl => true | _ => false)
  | 2 => pa % 4096 == 0
  | _ => false

/-- What a write of POOLPUSH does; the error is a range of memory at which something is under way (R43). -/
def State.poolTake (s : State) (die : Nat) (v : DWord) : Except (Nat × Nat) State := do
  let pa := 4096 * v.bits 51 12
  let l := v.bits 1 0
  if ¬ (s.die die).poolEn then .ok s
  else if pushOk die l pa then
    let (b, t) ← s.poolPush die l pa
    if b then .ok t else t.poolCount die 60
  else s.poolCount die 60

/-- `POOLPUSH` (R43); the step takes it up once nothing is under way at the descriptor and its list. -/
def execPoolpush (die : Nat) (v : DWord) (s : State) : Res :=
  match s.poolTake die v with
  | .ok s => .next s
  | .error _ => .next s

/-! ### Commit, decommit, query (R44 to R46, R315) -/

/-- The lanes of a page instruction in ascending order, one after the other: their result words, or the range of memory that one waits for. -/
def pageLanes (f : State → DWord → Except (Nat × Nat) (Word × State)) (addr : Nat → DWord) :
    List Nat → State → List (Nat × Word) → Except (Nat × Nat) (List (Nat × Word) × State)
  | [], s, out => .ok (out, s)
  | l :: rest, s, out =>
    match f s (addr l) with
    | .ok (v, s) => pageLanes f addr rest s (out ++ [(l, v)])
    | .error x => .error x

/-- The course of a page instruction (R44 to R46): a result word per participating lane; with nothing performed it tries again while something is
under way at a word it needs. -/
def pageForm (s : State) (g : Guard) (d : Operand) (ad : MAddr) (f : State → Iss → DWord → Except (Nat × Nat) (Word × State)) : Res :=
  issue s g none [(d, 1)] ad.regs (fun c =>
    if c.i.flagFull then wait c.old c.i .control
    else
      match pageLanes (fun s a => f s c.i a) (c.addr ad 1) (lanes c.g) c.s [] with
      | .error (pa, n) => wait (c.s.clearWay pa n) c.i .memory
      | .ok (out, s) =>
        let word := fun (l : Nat) => match out.find? (fun e => e.1 == l) with | some e => e.2 | none => 0
        Ctx.putWords { c with s := s } d (fun l => [word l]) (fun _ => 0))

/-- The code of `pgcm` for a commit's outcome (R44). -/
def CommitOut.code : CommitOut → Word
  | .installed => 0
  | .won => 1
  | .mapped => 2
  | .poolEmpty => 3
  | .readOnly | .absent => 4

/-- `pgcm` on one page (R44). -/
def State.pageCommit (s : State) (i : Iss) (a : DWord) : Except (Nat × Nat) (Word × State) :=
  match vaKind a with
  | .translated =>
    let core := s.coreOf i.rid
    let asid := s.asidOf i.rid
    match s.translate (.core core) asid a.toNat .read with
    | (.frame _ ent, s) => .ok (if Pte.spr ent then 1 else 2, s)
    | (.sparse p _, s) =>
      if ¬ Pte.w p then .ok (4, s)
      else
        match s.commit asid (a.toNat / 65536) core.die with
        | .ok (r, s) => .ok (r.code, if r = .installed then s.pageInstalled asid (a.toNat / 65536) else s)
        | .error x => .error x
    | (.busy pa n, _) => .error (pa, n)
    | (_, s) => .ok (4, s)
  | _ => .ok (4, s)

/-- `pgcm` (R44). -/
def execPgcm (g : Guard) (d : Operand) (ad : MAddr) (_h : Hint) (s : State) : Res := pageForm s g d ad (fun s i a => s.pageCommit i a)

/-- Every cached copy of a frame's words goes, registered ones too, without a write-back (R45). -/
def State.dropFrame (s : State) (f : Nat) : State :=
  let inF := fun (wd : Nat) => decide (f ≤ 4 * wd) && decide (4 * wd < f + 65536)
  { s with
    homeHeld := s.homeHeld.filter (fun l => !inF (32 * l)),
    cores := s.cores.map (fun e => (e.1, { e.2 with l1 := e.2.l1.keep (fun k _ => !inF k) })),
    dies := s.dies.map (fun e => (e.1, { e.2 with home := e.2.home.keep (fun k _ => !inF k), l2 := e.2.l2.keep (fun k _ => !inF k),
                                                  resident := e.2.resident.filter (fun x => !inF (32 * x.1)) })),
    rods := s.rods.map (fun e => (e.1, { e.2 with stores := e.2.stores.filter (fun wd => !inF wd), parts := e.2.parts.filter (fun wd => !inF wd) })) }

/-- An access of a frame has still to perform: a load to be bound, or a request on its way to its home (R36, R45). -/
def State.frameOpen (s : State) (f : Nat) : Bool :=
  let inF := fun (wd : Nat) => decide (f ≤ 4 * wd) && decide (4 * wd < f + 65536)
  !s.frameQuiet f ||
    s.under.any (fun m => match m with | .homePerformedAccess r => r.words.any inF | m => (m.readsFor.map (fun e => inF e.2)).getD false) ||
    s.ops.any (fun (e : Nat × Op) => match e.2.kind with | .load l => l.need.any (fun p => inF (p.word % 2 ^ 60)) | _ => false)

/-- The decommit of a page whose entry under the lock is p at address pte (R45): room on the list first, then the entry, the translations, the
copies and the list's new frame. -/
def State.dropPage (s : State) (asid vpn die : Nat) (p : DWord) (pte : Nat) : Except (Nat × Nat) (Word × State) := do
  let f := 4096 * Pte.oa p / 65536 * 65536
  let (die, l) := match region f with | .near d => (d, 0) | _ => (die, 1)
  let x := s.die die
  let (cap, s) ← s.readPhys (.die die) (x.poolBase + capAt l) 4
  let (n, s) ← s.readPhys (.die die) (x.poolBase + countAt l) 4
  if ¬ x.poolEn ∨ cap ≤ n then .ok (3, s)
  else if s.frameOpen f then .error (f, 65536)
  else
    let s ← s.writePhys (.die die) pte 8 (p &&& ~~~1).toNat
    let (_, s) ← ((s.discardPage asid vpn).dropFrame f).poolPush die l f
    .ok (0, s.rearm (fun a => a == asid) (fun _ => true))

/-- `pgdc` on one page (R45). -/
def State.pageDecommit (s : State) (i : Iss) (a : DWord) : Except (Nat × Nat) (Word × State) :=
  match vaKind a with
  | .translated =>
    let core := s.coreOf i.rid
    let asid := s.asidOf i.rid
    match s.translate (.core core) asid a.toNat .read with
    | (.frame _ _, s) | (.sparse _ _, s) =>
      match s.entryOf (.core core) asid a.toNat with
      | .error x => .error x
      | .ok (some (p, _, pte), s) =>
        if Pte.v p ∧ Pte.spr p then s.dropPage asid (a.toNat / 65536) core.die p pte
        else .ok (if Pte.v p then 2 else if Pte.spr p then 1 else 4, s)
      | .ok (none, s) => .ok (4, s)
    | (.busy pa n, _) => .error (pa, n)
    | (_, s) => .ok (4, s)
  | _ => .ok (4, s)

/-- `pgdc` (R45). -/
def execPgdc (g : Guard) (d : Operand) (ad : MAddr) (_h : Hint) (s : State) : Res := pageForm s g d ad (fun s i a => s.pageDecommit i a)

/-- The word of `pgq` (R46). -/
def pgqWord (size home : Nat) (tier w back : Bool) (state : Nat) : Word :=
  BitVec.ofNat 32 (size * 2 ^ 10 + home * 2 ^ 7 + (if tier then 64 else 0) + (if w then 32 else 0) + (if back then 16 else 0) + state)

/-- `pgq` on one page (R46): no request, no commit, no change of the entry. -/
def State.pageQuery (s : State) (i : Iss) (a : DWord) : Except (Nat × Nat) (Word × State) :=
  match vaKind a with
  | .translated =>
    match s.entryOf (.core (s.coreOf i.rid)) (s.asidOf i.rid) a.toNat with
    | .error x => .error x
    | .ok (none, s) => .ok (pgqWord 3 0 false false false 4, s)
    | .ok (some (p, level, _), s) =>
      if ¬ Pte.v p then
        .ok (if Pte.spr p then pgqWord 3 0 (Pte.tier p) (Pte.w p) false 1 else pgqWord 3 0 false false false 0, s)
      else
        let pa := 4096 * Pte.oa p + a.toNat % pageBytes level / 65536 * 65536
        if s.reach pa = .lost then .ok (pgqWord 3 0 false false false 4, s)
        else
          .ok (pgqWord (3 - level) (s.homeDie pa) (Pte.tier p) (Pte.w p) (!isNear pa) (if Pte.spr p then 3 else 2), s)
  | _ => .ok (pgqWord 3 0 false false false 4, s)

/-- `pgq` (R46). -/
def execPgq (g : Guard) (d : Operand) (ad : MAddr) (_h : Hint) (s : State) : Res := pageForm s g d ad (fun s i a => s.pageQuery i a)

/-! ### The device allocator (R47 to R52) -/

/-- What stops an access of the allocator: a violation, or a page or a word to wait for. -/
inductive AStop where
  | viol
  | waits (va : DWord) (kind : XKind) (x : XOut)

abbrev ATry (α : Type) := Except (AStop × State) (α × State)

/-- The physical address of an 8-byte datum at a virtual address, for the allocator. -/
def State.allocPlace (s : State) (i : Iss) (va : Nat) (kind : XKind) : ATry (Option Nat) :=
  match s.resolve (.core (s.coreOf i.rid)) (s.asidOf i.rid) i.denied (BitVec.ofNat 64 va) kind with
  | (.mem pa _, s) => if s.reach pa = .memory then .ok (some pa, s) else .error (.viol, s)
  | (.zero, s) => .ok (none, s)
  | (.viol, s) => .error (.viol, s)
  | (.waits x, s) => .error (.waits (BitVec.ofNat 64 va) kind x, s)

/-- A datum of the allocator, read at its home (R49): an uncommitted page reads 0 (R38), a poisoned word all ones (R76). -/
def State.allocRead (s : State) (i : Iss) (va : Nat) : ATry Nat :=
  match s.allocPlace i va .read with
  | .ok (some pa, s) =>
    let stop := stopOf (s.coreOf i.rid).die
    if s.canGet stop pa 8 then let (v, k, s) := s.homeNat stop pa 8; .ok (v, s.raise i.rid k)
    else .error (.waits (BitVec.ofNat 64 va) .read (.busy pa 8), s)
  | .ok (none, s) => .ok (0, s.mflag i.rid 1)
  | .error e => .error e

def State.allocWrite (s : State) (i : Iss) (va v : Nat) : ATry Unit :=
  match s.allocPlace i va .write with
  | .ok (some pa, s) =>
    let stop := stopOf (s.coreOf i.rid).die
    if s.canPut stop pa 8 then .ok ((), s.writeHome stop pa (bytesOf 8 v)) else .error (.waits (BitVec.ofNat 64 va) .write (.busy pa 8), s)
  | .ok (none, s) => .ok ((), s)
  | .error e => .error e

/-- The size class of n bytes (R47). -/
def sizeClass (n : Nat) : Nat := ((List.range 11).find? (fun c => decide (n ≤ 2 ^ (6 + c)))).getD 10

/-- A block of a class lies in the arena at its alignment (R47, R49, R50). -/
def blockOk (base limit cls b : Nat) : Bool := b % 2 ^ (6 + cls) == 0 && decide (base ≤ b) && decide (b + 2 ^ (6 + cls) ≤ limit)

/-- HEAD of a class and die (R48). -/
def headAt (desc cls d : Nat) : Nat := desc + 64 + 64 * cls + 8 * d

/-- Add one to a count of the descriptor. -/
def State.allocCount (s : State) (i : Iss) (va : Nat) : ATry Unit :=
  match s.allocRead i va with
  | .ok (n, s) => s.allocWrite i va ((n + 1) % 2 ^ 64)
  | .error e => .error e

/-- One pop at a list's head (R49): the block, or 0. -/
def State.popBlock (s : State) (i : Iss) (desc cls d : Nat) : ATry Nat :=
  match s.allocRead i (headAt desc cls d) with
  | .error e => .error e
  | .ok (0, s) => .ok (0, s)
  | .ok (b, s) =>
    match s.allocRead i desc, s.allocRead i (desc + 8), s.allocRead i b with
    | .ok (base, _), .ok (limit, _), .ok (x, s) =>
      let cut := x != 0 && !blockOk base limit cls x
      match s.allocWrite i (headAt desc cls d) (if cut then 0 else x) with
      | .error e => .error e
      | .ok (_, s) =>
        if cut then
          match s.allocCount i (desc + 16) with
          | .ok (_, s) => .ok (b, s)
          | .error e => .error e
        else .ok (b, s)
    | .error e, _, _ | _, .error e, _ | _, _, .error e => .error e

/-- The dies' lists in turn, from the own die on (R49). -/
def State.popAny (s : State) (i : Iss) (desc cls own : Nat) : Nat → ATry Nat
  | 0 => .ok (0, s)
  | fuel + 1 =>
    match s.popBlock i desc cls ((own + (7 - fuel)) % 8) with
    | .ok (0, s) => s.popAny i desc cls own fuel
    | r => r

/-- One lane of `dalloc` (R49): the block, and whether it was refused. -/
def State.allocLane (s : State) (i : Iss) (n : Nat) : ATry (Nat × Bool) :=
  match s.astEntry (.core (s.coreOf i.rid)) (s.asidOf i.rid) with
  | .error x => .error (.waits 0 .read (.busy x.1 x.2), s)
  | .ok (e, s) =>
  if e.aen = false ∨ n = 0 ∨ 65536 < n then .ok ((0, true), s)
  else
    match s.popAny i e.adesc (sizeClass n) (s.coreOf i.rid).die 8 with
    | .error x => .error x
    | .ok (0, s) =>
      match s.allocCount i (e.adesc + 24) with
      | .ok (_, s) => .ok ((0, true), s)
      | .error x => .error x
    | .ok (b, s) => .ok ((b, false), s)

/-- The lanes of an allocator instruction in turn. A lane that meets a violation takes `bad`; a page that is missing stops all of
them with the state in which to ask for it. -/
def allocLanes {α : Type} (f : State → Nat → ATry α) (bad : α) : List Nat → State → List (Nat × α) → Word →
    Except (DWord × XKind × XOut × State) (List (Nat × α) × Word × State)
  | [], s, out, k => .ok (out, k, s)
  | l :: rest, s, out, k =>
    match f s l with
    | .ok (v, s) => allocLanes f bad rest s (out ++ [(l, v)]) k
    | .error (.viol, s) => allocLanes f bad rest s (out ++ [(l, bad)]) (k ||| Cause.accv)
    | .error (.waits va kind x, s) => .error (va, kind, x, s)

/-- The instruction waits for a page, or for what is under way at a word, with nothing performed. -/
def Ctx.pageWait (c : Ctx) (va : DWord) (kind : XKind) (x : XOut) : Res :=
  wait (c.s.askPage (.core (c.s.coreOf c.i.rid)) (c.s.asidOf c.i.rid) va.toNat kind x (c.s.queueOf c.i.rid).1) c.i
    (if x.suspends then .translation else .memory)

/-- `dalloc` (R49, R51, R212, R315): an atomic access, and an acquire at package scope. -/
def execDalloc (g : Guard) (d n : Operand) (_h : Hint) (s : State) : Res :=
  issue s g none [(d, 2)] [(n, 1)] (fun c =>
    if c.g = 0 ∧ d.isS then finish c.s c.i
    else if c.i.flagFull then wait c.old c.i .control
    else if ¬ c.s.mayStore c.i .package .acq then wait c.s c.i .memory
    else
      let size := fun l => match n with | .s k => (c.i.rod.un k.toNat).toNat | _ => (c.w32 .a n l).toNat
      match allocLanes (fun s l => s.allocLane c.i (size l)) (2 ^ 64 - 1, false) (c.actors d) c.s [] 0 with
      | .error (va, kind, x, _) => c.pageWait va kind x
      | .ok (out, k, s) =>
        let s := (s.raise c.i.rid k).acquire c.i.rid .package
        let s := s.modRod c.i.rid (fun x =>
          let x := if out.any (·.2.2) then { x with mflags := x.mflags ||| 2 } else x
          out.foldl (fun (x : Rod) e => match d with
            | .s r => x.setUn r.toNat (BitVec.ofNat 64 e.2.1)
            | _ => x.setWords (wordNum d) e.1 [wordAt e.2.1 0, wordAt e.2.1 1]) x)
        finish s c.i)

/-- One lane of `dfree` as it issues (R50; log 50): whether its block is bad, and the push that frees it. -/
def State.freeLane (s : State) (i : Iss) (lane a n : Nat) : ATry (Bool × Option HomeAcc) :=
  match s.astEntry (.core (s.coreOf i.rid)) (s.asidOf i.rid) with
  | .error x => .error (.waits 0 .read (.busy x.1 x.2), s)
  | .ok (e, s) =>
  if e.aen = false ∨ a = 0 then .ok ((false, none), s)
  else if n = 0 ∨ 65536 < n then .ok ((true, none), s)
  else
    let cls := sizeClass n
    match s.allocRead i e.adesc with
    | .error x => .error x
    | .ok (base, s) =>
    match s.allocRead i (e.adesc + 8) with
    | .error x => .error x
    | .ok (limit, s) =>
      if ¬ blockOk base limit cls a then .ok ((true, none), s)
      else
        match s.allocPlace i (headAt e.adesc cls (s.coreOf i.rid).die) .write with
        | .error x => .error x
        | .ok (none, s) => .ok ((false, none), s)
        | .ok (some head, s) =>
        match s.allocPlace i a .write with
        | .error x => .error x
        | .ok (none, s) => .ok ((false, none), s)
        | .ok (some link, s) => .ok ((false, some { lane := lane, pa := head, size := 8, act := .push a link }), s)

/-- Operations of a rod whose accesses a `dfree` releases (R50): loads to be bound, updates to be performed, earlier frees. -/
def State.freeAfter (s : State) (r : RodId) : List Nat :=
  (s.ops.filter (fun (e : Nat × Op) => e.2.rod == r && (match e.2.kind with
    | .load l => l.need != []
    | .posted | .free _ _ _ => true
    | _ => false))).map Prod.fst

/-- A `dfree` can push now: what it releases is registered or performed (R50, R85). -/
def State.mayPush (s : State) (r : RodId) (ws ops : List Nat) : Bool :=
  s.grantedAt (s.coreOf r) .package ws && ops.all (fun n => match (s.op n).map Op.kind with
    | some (.load l) => l.need == []
    | some _ => false
    | none => true)

/-- `dfree` (R50, R51, R315): its lanes' checks, and an operation of the load/store unit that releases at package scope and then pushes. -/
def execDfree (g : Guard) (n : Operand) (ad : MAddr) (_h : Hint) (s : State) : Res :=
  issue s g none [] ((n, 1) :: ad.regs) (fun c =>
    if c.g = 0 then finish c.s c.i
    else if c.s.acquiring c.i.rid then wait c.s c.i .memory
    else
      let size := fun l => match n with | .s k => (c.i.rod.un k.toNat).toNat | _ => (c.w32 .a n l).toNat
      match allocLanes (fun s l => s.freeLane c.i l (c.addr ad 1 l).toNat (size l)) (false, none) (lanes c.g) c.s [] 0 with
      | .error (va, kind, x, _) => c.pageWait va kind x
      | .ok (out, k, s) =>
        let s := (s.raise c.i.rid k).modRod c.i.rid (fun x => if out.any (·.2.1) then { x with mflags := x.mflags ||| 4 } else x)
        match out.filterMap (·.2.2) with
        | [] => finish s c.i
        | accs =>
          let req : HomeReq := { op := s.nextId, accs := accs, stop := some (stopOf (s.coreOf c.i.rid).die) }
          finish (s.addOpNoFlag c.i.rid (.free (some req) ((s.rod c.i.rid).map (·.stores) |>.getD []) (s.freeAfter c.i.rid))).2 c.i)

end Sys2Proof.Machine
end

