-- ==== Sys2Proof/Machine/Sync.lean ====
section
/-!
DEFINITION. Atomics and reductions (R316, R317), fences, `xfence` and `acqr` (R319 to R321), `waitany` (R322), barriers (R323,
R324, R166) and sequence counters (R325, R326).
-/
namespace Sys2Proof

/-- Bytes of an atomic's operand (R316). -/
def AmoSize.bytes : AmoSize → Nat
  | .b32 => 4 | .b64 => 8

namespace Machine

/-! ### Atomics and reductions -/

/-- The operands v and v2 of a lane (R316). -/
def Ctx.amoArgs (c : Ctx) (a : Operand) (sz : AmoSize) (l : Nat) : Nat × Nat :=
  let n := sz.bytes / 4
  let ws := c.i.rod.lws (wordNum a) (2 * n) l
  (ofWords (ws.take n), ofWords (ws.drop n))

/-- An atomic in a scratchpad: the old value, the cause, the state (R76, R317). -/
def scrAmo (s : State) (cid off n : Nat) (op : AmoOp) (v v2 : Nat) : Nat × Word × State :=
  match s.chain cid with
  | none => (0, 0, s)
  | some ch =>
    if ch.anyBad off n then (2 ^ (8 * n) - 1, Cause.umem, s)
    else
      let old := ch.nat off n
      (old, 0, s.setChain cid (ch.put off n (amoApply op (8 * n) old v v2)))

/-- The lanes of an `atom` or `red` that reach a scratchpad, in ascending order: old values and causes. -/
def scrAmos (s : State) (c : Ctx) (op : AmoOp) (sz : AmoSize) (a : Operand) (sp : List (Nat × Spot)) :
    List (Nat × Nat) × Word × State :=
  sp.foldl (fun (acc : List (Nat × Nat) × Word × State) e =>
    match e.2 with
    | .scr cid off =>
      let (v, v2) := c.amoArgs a sz e.1
      let (old, k, s) := scrAmo acc.2.2 cid off sz.bytes op v v2
      (acc.1 ++ [(e.1, old)], acc.2.1 ||| k, s)
    | _ => acc) ([], 0, s)

/-- The accesses of an `atom` or `red` performed at home or at the target (R137). -/
def homeAmos (s : State) (c : Ctx) (op : AmoOp) (sz : AmoSize) (a : Operand) (h : Hint) (sp : List (Nat × Spot)) : List HomeAcc :=
  sp.filterMap (fun e => match e.2 with
    | .mem pa ent =>
      let (v, v2) := c.amoArgs a sz e.1
      some { lane := e.1, pa := pa, size := sz.bytes, act := .amo op v v2, hint := s.homeHint pa ent h, cnt := Pte.cnt ent }
    | _ => none)

/-- Addresses of an atomic are aligned to the operand size, in an aperture too (R316). -/
def alignAmo (sz : AmoSize) (sp : List (Nat × Spot)) : List (Nat × Spot) :=
  sp.map (fun e => match e.2 with
    | .scr _ off => if off % sz.bytes = 0 then e else (e.1, .viol)
    | _ => e)

/-- `atom` (R135, R137, R316, R317): as a sequentially consistent fence at its scope on both sides. -/
def execAtom (g : Guard) (op : AmoOp) (sz : AmoSize) (d : Operand) (ad : MAddr) (sc : Scope) (_o : Order) (h : Hint) (s : State) : Res :=
  let n := sz.bytes / 4
  issue s g none [(d, n)] ((d, if op = .cas then 2 * n else n) :: ad.regs) (fun c =>
    if c.i.flagFull then wait c.old c.i .control
    else if ¬ (c.s.mayStore c.i sc .ar) then wait c.s c.i .memory
    else
      c.spots .write sz.bytes ((lanes c.g).map (fun l => (l, c.addr { ad with ofs := 0 } 0 l))) (fun s sp =>
        let sp := alignAmo sz sp
        let accs := homeAmos s c op sz d h sp
        let core := s.coreOf c.i.rid
        if ¬ s.homeReady core (accs.flatMap HomeAcc.words) then wait s c.i .memory
        else
        let (olds, k, s) := scrAmos s c op sz d sp
        let put := fun (t : Tbl Word) (l v : Nat) => (List.range n).foldl (fun (t : Tbl Word) j => t.put (64 * l + j) (wordAt v j)) t
        let got := olds.foldl (fun t e => put t e.1 e.2) ([] : Tbl Word)
        let got := sp.foldl (fun t e => if e.2 = .viol then put t e.1 (2 ^ 64 - 1) else t) got
        let need := accs.map (fun a => ({ lane := a.lane, pos := 0, word := uncachedWord (a.pa / 4) } : LoadPart))
        let l : LoadOp := { kind := .atom sz, dst := d, lanes := c.g, offs := [], need := need, got := got, sc := sc, ord := .ar, hint := h }
        let (m, s) := s.addOp c.i (.load l)
        let s := s.raise c.i.rid (k ||| violCause sp)
        finish (if accs = [] then s.send (.loadComplete m) else s.send (.homePerformedAccess { op := m, accs := accs, stop := some (stopOf core.die) })) c.i))

/-- `red` (R136, R317): performed after the rod has gone on. -/
def execRed (g : Guard) (op : AmoOp) (sz : AmoSize) (a : Operand) (ad : MAddr) (sc : Scope) (o : Order) (h : Hint) (s : State) : Res :=
  issue s g none [] ((a, sz.bytes / 4) :: ad.regs) (fun c =>
    if ¬ (c.s.mayStore c.i sc (if o.rels then o else .plain)) then wait c.s c.i .memory
    else
      c.spots .write sz.bytes ((lanes c.g).map (fun l => (l, c.addr { ad with ofs := 0 } 0 l))) (fun s sp =>
        let sp := alignAmo sz sp
        let accs := homeAmos s c op sz a h sp
        let core := s.coreOf c.i.rid
        if ¬ s.homeReady core (accs.flatMap HomeAcc.words) then wait s c.i .memory
        else
        let (_, k, s) := scrAmos s c op sz a sp
        let s := s.raise c.i.rid (k ||| violCause sp)
        if accs = [] then finish s c.i
        else
          let (m, s) := s.addOpNoFlag c.i.rid .posted
          finish (s.send (.homePerformedAccess { op := m, accs := accs, stop := some (stopOf core.die) })) c.i))

/-! ### Fences (R132 to R134, R319, R320) -/

/-- A fence: its release wait, then its acquire, once per rod. -/
def fenceForm (s : State) (g : Guard) (sc : Scope) (rel acq : Bool) : Res :=
  withIss s (fun i =>
    if i.part g = 0 then finish s i
    else if s.acquiring i.rid || s.unbound i.rid || (rel && !s.released i.rid sc) || (acq && !s.mayAcquire i.rid sc) then wait s i .memory
    else finish (if acq then s.acquire i.rid sc else s) i)

/-- `fence.acq` (R132). -/
def execFenceAcq (g : Guard) (sc : Scope) (s : State) : Res := fenceForm s g sc false true

/-- `fence.rel` (R132). -/
def execFenceRel (g : Guard) (sc : Scope) (s : State) : Res := fenceForm s g sc true false

/-- `fence.acqrel` (R132). -/
def execFenceAcqRel (g : Guard) (sc : Scope) (s : State) : Res := fenceForm s g sc true true

/-- `fence.sc` (R130, R132). -/
def execFenceSc (g : Guard) (sc : Scope) (s : State) : Res := fenceForm s g sc true true

/-- `fence.engine` (R132, R133): a store is written into the L1 or the scratchpad when it issues; uncached ones are waited for, and what an engine
operation would wait for. -/
def execFenceEngine (g : Guard) (_sc : Scope) (s : State) : Res :=
  withIss s (fun i =>
    if i.part g = 0 then finish s i else if ¬ s.engineReady i.rid then wait s i .memory else finish s i)

/-- `xfence` (R134, R320, R400): late causes that have arrived trap at the instruction after it. -/
def execXfence (g : Guard) (s : State) : Res :=
  withIss s (fun i =>
    if i.part g = 0 then finish s i
    else if ¬ s.opsDone i.rid then wait s i .ops
    else if i.rod.lateCauses ≠ 0 ∧ i.rod.inHandler = false then .next (s.trapAfter i 0)
    else finish s i)

/-- `acqr` (R104, R321). -/
def execAcqr (g : Guard) (sc : Scope) (a : Operand) (s : State) : Res :=
  issue s g none [] [(a, 1)] (fun c =>
    if c.g = 0 then finish c.s c.i
    else if c.s.acquiring c.i.rid || c.s.unbound c.i.rid then wait c.old c.i .memory
    else
      let v := c.w32 .a a c.low
      let t := v.bits 15 8
      let k := v.bits 7 0
      if 7 < t ∨ 47 < k then
        if ¬ c.s.mayAcquire c.i.rid sc then wait c.old c.i .memory
        else finish ((c.s.raise c.i.rid Cause.accv).acquire c.i.rid sc) c.i
      else if ¬ c.s.inService t then .next ((c.s.raise c.i.rid Cause.olost).promoted c.i.rid c.i.sl (c.s.acqrClass c.i.rid t sc) false)
      else .next ((c.s.toDie (c.s.coreOf c.i.rid).die t (.promotion ⟨t, k⟩ c.i.rid c.i.sl sc)).waitOn c.i.rid c.i.sl .promotion))

/-! ### `waitany` (R144, R322) -/

/-- The value `waitany` finds in a word: the rod's own L1 when it has written it, else the word as it stands. -/
def State.armValue (s : State) (c : CoreId) (p : Spot) : WordRead :=
  match p with
  | .mem pa _ =>
    let x := (s.core c).l1Word (pa / 4)
    if x.st.owned then { val := x.over (s.curWord (pa / 4)).val, bad := x.bad, lost := false } else s.curWord (pa / 4)
  | _ => { val := 0, bad := false, lost := false }

/-- The word can be read for `waitany`: the core owns it, or nothing is under way at it. -/
def State.armReady (s : State) (c : CoreId) (p : Spot) : Bool :=
  match p with
  | .mem pa _ => ((s.core c).l1Word (pa / 4)).st.owned || s.quiet (pa / 4)
  | _ => true

/-- The time to which an issuing `waitany` waits: the one that it began with, where it arms again under a new translation (R36). -/
def Iss.waitUntil (i : Iss) (now tmo : Nat) : Option Nat :=
  match i.slot.wait with
  | some (.waitany _ til) => til
  | _ => if tmo = 0 then none else some (now + tmo)

/-- `waitany` (R322): misaligned, aperture and violation addresses are not armed. -/
def execWaitany (g : Guard) (d : Operand) (ad : MAddr) (_h : Hint) (s : State) : Res :=
  issue s g none [(d, 1)] ((d, 1) :: ad.regs) (fun c =>
    if c.g = 0 then finish c.s c.i
    else if ¬ c.s.mayLoad c.i .rod .plain then wait c.s c.i .memory
    else
      let tmo := (ad.ofs.toNat) * 1024
      let as := ((lanes c.g).take 4).map (fun l => (l, c.addr { ad with ofs := 0 } 0 l))
      c.spots .read 4 as (fun s sp =>
        let sp := sp.map (fun e => match e.2 with | .scr _ _ => (e.1, Spot.viol) | _ => e)
        let core := s.coreOf c.i.rid
        if ¬ sp.all (fun e => s.armReady core e.2) then wait s c.i (match c.i.slot.wait with | some (.waitany _ til) => .waitany [] til | _ => .memory)
        else
        let s := (s.raise c.i.rid (sp.foldl (fun k e => k ||| (s.armValue core e.2).cause) (violCause sp))).sparseRead c.i.rid (sp.any (·.2 == .zero))
        let armed := (sp.zipIdx).filter (fun e => e.1.2 != .viol)
        match armed.find? (fun e => (s.armValue core e.1.2).seen != c.i.rod.lw (wordNum d) e.1.1) with
        | some e =>
          let res := BitVec.ofNat 32 (8 + e.2)
          finish (s.modRod c.i.rid (fun x => x.setLws c.g (wordNum d) (fun _ => res))) c.i
        | none =>
          let arm := armed.map (fun e => match e.1.2 with
            | .mem pa _ => ({ word := pa / 4, pos := e.2 } : Armed)
            | _ => { word := 2 ^ 60 + (((as.find? (fun x => x.1 == e.1.1)).map (fun x => x.2.toNat / 4)).getD 0), pos := e.2 })
          wait s c.i (.waitany arm (c.i.waitUntil s.cycle tmo))))

/-- A `waitany` returns a result word in every participating lane, and the armed words' copies in V of the core's L1 and its die's slice become I,
so that a later load reads the waking write (R126, R144). In a rod that is stopped or held it has performed nothing, and issues again (R402,
R440). -/
def State.waitanyReturn (s : State) (r : RodId) (sl : SlotId) (arm : List Armed) (res : Word) : State :=
  match s.rod r with
  | none => s
  | some x =>
    if x.frozen || s.windingUp r x then s.endWait r sl else
    match (x.slot sl).bind (fun y => y.word.map (fun w => (y, decode w))) with
    | some (y, .ok (.waitany g d _ _)) =>
      let i : Iss := { rid := r, sl := sl, rod := x, slot := y }
      let s := s.dropCopies (s.coreOf r) (arm.map (·.word))
      (s.modRod r (fun x => x.setLws (i.part g) (wordNum d) (fun _ => res))).advance r sl
    | _ => s

/-- `WAITANY_WAKE` (R144, R322): a write to an armed word, or to another word of an armed line, which is spurious. -/
def execWaitanyWake (r : RodId) (sl : SlotId) (wd : Nat) (s : State) : Res :=
  match ((s.rod r).bind (·.slot sl)).bind (·.wait) with
  | some (.waitany arm _) =>
    match arm.find? (fun a => a.word == wd) with
    | some a => .next (s.waitanyReturn r sl arm (BitVec.ofNat 32 a.pos))
    | none =>
      match arm.find? (fun a => lineOf a.word == lineOf wd) with
      | some a => .next (s.waitanyReturn r sl arm (BitVec.ofNat 32 (4 + a.pos)))
      | none => .next s
  | _ => .next s

/-- `WAITANY_TIMEOUT` (R322). -/
def execWaitanyTimeout (r : RodId) (sl : SlotId) (s : State) : Res :=
  match ((s.rod r).bind (·.slot sl)).bind (·.wait) with
  | some (.waitany arm (some t)) => if t ≤ s.cycle then .next (s.waitanyReturn r sl arm 16) else .next s
  | _ => .next s

/-! ### Barriers (R141, R323, R324, R166) -/

/-- The scope of a barrier level's arrivals and waits (R141). -/
def barScope : BarLevel → Scope
  | .chain => .chain
  | .furlong => .furlong
  | .launch => .package

/-- The barrier number an operand holds (R323). -/
def Ctx.barNo (c : Ctx) (n : Operand) : Nat := (c.d64 .a n 0).toNat

/-- The arrival of a rod in the current phase (R324). -/
def State.joinBar (s : State) (b : BarId) (r : RodId) : State :=
  let x := s.bar b
  (s.setBar b { x with arrived := insertNat (rodKey r) x.arrived, last := x.last.put (rodKey r) x.phase }).checkBar b

/-- The four forms check the barrier (R323), and act once per rod. -/
def barForm (s : State) (g : Guard) (n : Operand) (lvl : BarLevel) (srcs : List (Operand × Nat)) (k : Ctx → BarId → Res) : Res :=
  issue s g none [] ((n, 1) :: srcs) (fun c =>
    if c.g = 0 then finish c.s c.i
    else
      match c.s.barOf c.i.rid lvl (c.barNo n) with
      | none => trap c.old c.i Cause.illegal
      | some b => k c b)

/-- `barv` (R324). -/
def execBarv (g : Guard) (n : Operand) (lvl : BarLevel) (s : State) : Res :=
  barForm s g n lvl [] (fun c b =>
    let x := c.s.bar b
    if x.arrived.contains (rodKey c.i.rid) then wait c.s c.i (.barrier b x.phase)
    else if ¬ c.s.released c.i.rid (barScope lvl) then wait c.s c.i .memory
    else finish (c.s.joinBar b c.i.rid) c.i)

/-- The wait of a rod for a phase p of a barrier (R141, R324). -/
def barAwait (s : State) (i : Iss) (b : BarId) (lvl : BarLevel) (p : Nat) (done : Bar → Bar) : Res :=
  if (s.bar b).holds p then wait s i (.barrier b p)
  else if ¬ s.mayAcquire i.rid (barScope lvl) then wait s i (.barrier b p)
  else finish ((s.setBar b (done (s.bar b))).acquire i.rid (barScope lvl)) i

/-- `barw` (R324): the phase of the rod's last arrival since its last `barw`, otherwise the phase current when it began to wait. -/
def execBarw (g : Guard) (n : Operand) (lvl : BarLevel) (s : State) : Res :=
  barForm s g n lvl [] (fun c b =>
    let x := c.s.bar b
    let p := match x.last.find (rodKey c.i.rid) with
      | some p => p
      | none => match c.i.slot.wait with
        | some (.barrier b' p) => if b' = b then p else x.phase
        | _ => x.phase
    barAwait c.s c.i b lvl p (fun x => { x with last := x.last.erase (rodKey c.i.rid) }))

/-- `bars` (R324): on a chain barrier it first acts as `xfence`, and traps at itself when a late cause is set; then it arrives, and
waits. -/
def execBars (g : Guard) (n : Operand) (lvl : BarLevel) (s : State) : Res :=
  barForm s g n lvl [] (fun c b =>
    let x := c.s.bar b
    let key := 2 ^ 32 * rodKey c.i.rid + c.i.slot.path.mask.toNat
    match x.mid.find key with
    | some p => barAwait c.s c.i b lvl p (fun x => { x with last := x.last.erase (rodKey c.i.rid), mid := x.mid.erase key })
    | none =>
      if lvl = .chain ∧ ¬ c.s.opsDone c.i.rid then wait c.s c.i .ops
      else if lvl = .chain ∧ c.i.rod.lateCauses ≠ 0 ∧ c.i.rod.inHandler = false then trap c.s c.i 0
      else if x.arrived.contains (rodKey c.i.rid) then wait c.s c.i (.barrier b x.phase)
      else if ¬ c.s.released c.i.rid (barScope lvl) then wait c.s c.i .memory
      else
        let s := c.s.joinBar b c.i.rid
        wait (s.setBar b { s.bar b with mid := (s.bar b).mid.put key x.phase }) c.i (.barrier b x.phase))

/-- `barb` (R324). -/
def execBarb (g : Guard) (n : Operand) (bytes : Operand) (lvl : BarLevel) (s : State) : Res :=
  barForm s g n lvl [(bytes, 1)] (fun c b =>
    let x := c.s.bar b
    let v : Int := (c.w32 .b bytes c.low).toNat
    finish ((c.s.setBar b { x with bytes := sbits (truncInt 48 (x.bytes + v)) 47 0, posted := true }).checkBar b) c.i)

/-- The barrier is of a furlong that lies on two dies (R166). -/
def State.twoDies (s : State) (b : BarId) : Bool :=
  match b with
  | .furlong f _ => match s.furlong f with | some y => y.dieLo != y.dieHi | none => false
  | _ => false

/-- The waiters of the oldest phase that has completed are released (R324). -/
def State.releaseBar (s : State) (b : BarId) : State := s.setBar b { s.bar b with open' := (s.bar b).open' - 1 }

/-- `BARRIER_PHASE_COMPLETE` (R324, R166): a phase that is due completes, and its waiters are released; on two dies the local step is followed by
the remote one, which crosses the ring. -/
def execBarrierPhaseComplete (b : BarId) (s : State) : Res :=
  if (s.bar b).open' = 0 then .next (s.checkBar b)
  else
    match b with
    | .furlong f _ =>
      match s.furlong f with
      | some y => if y.dieLo ≠ y.dieHi then .next (s.toDie y.dieLo y.dieHi (.furlongRemotePhase b)) else .next (s.releaseBar b)
      | none => .next (s.releaseBar b)
    | _ => .next (s.releaseBar b)

/-- `FURLONG_REMOTE_PHASE` (R141, R166): every arrival's release was granted before it arrived, so the waiters on both dies are released. -/
def execFurlongRemotePhase (b : BarId) (s : State) : Res :=
  if (s.bar b).open' = 0 then .next s else .next (s.releaseBar b)

/-! ### Sequence counters (R143, R325, R326) -/

/-- The value added by `seqinc` (R325). -/
def Ctx.seqAdd (c : Ctx) (a : Operand) : Nat := (c.d64 .b a c.low).toNat

/-- Where a counter lies (R25, R325). -/
inductive CounterAt where
  | at' (pa : Nat)
  /-- an uncommitted page with CNT = 1, which reads 0 (R38) -/
  | zero
  | viol
  deriving DecidableEq, Repr

/-- A counter's place, for the lowest participating lane's address: a violation unless its page has CNT = 1 (R25, R325). -/
def State.counterSpot (s : State) (i : Iss) (a : DWord) (sp : List (Nat × Spot)) : CounterAt :=
  match sp with
  | (_, .mem pa ent) :: _ => if Pte.cnt ent then .at' pa else .viol
  | (_, .zero) :: _ =>
    match (s.translate (.core (s.coreOf i.rid)) (s.asidOf i.rid) a.toNat .read).1 with
    | .sparse p _ => if Pte.cnt p then .zero else .viol
    | _ => .viol
  | _ => .viol

/-- Add to a counter, for a rod (R143, R326). -/
def State.seqAdd (s : State) (r : RodId) (pa v : Nat) : State := s.counterAdd (some r) pa v

/-- `seqinc` (R325). -/
def execSeqinc (g : Guard) (a : Operand) (ad : MAddr) (sc : Scope) (o : Order) (_h : Hint) (s : State) : Res :=
  issue s g none [] ((a, 2) :: ad.regs) (fun c =>
    let va := c.addr { ad with ofs := 0 } 0 c.low
    if c.g = 0 then finish c.s c.i
    else if ¬ (c.s.mayStore c.i sc (if o.rels then o else .plain)) then wait c.s c.i .memory
    else
      c.spots .write 8 [(c.low, va)] (fun s sp =>
        match s.counterSpot c.i va sp with
        | .at' pa =>
          if ¬ s.canPut (stopOf (s.coreOf c.i.rid).die) pa 8 then wait (s.clearWay pa 8) c.i .memory else finish (s.seqAdd c.i.rid pa (c.seqAdd a)) c.i
        | _ => finish (s.raise c.i.rid Cause.accv) c.i))

/-- `seqwt` (R325, R326): a counter on an uncommitted page reads 0 and sets the sparse-read flag (R38). -/
def execSeqwt (g : Guard) (d : Operand) (ad : MAddr) (sc : Scope) (o : Order) (_h : Hint) (s : State) : Res :=
  issue s g none [(d, 1)] ((d, 1) :: ad.regs) (fun c =>
    let va := c.addr { ad with ofs := 0 } 0 c.low
    if c.g = 0 then finish c.s c.i
    else if ¬ (c.s.mayLoad c.i sc .plain && !c.s.unbound c.i.rid && (!o.acqs || c.s.mayAcquire c.i.rid sc)) then wait c.s c.i .memory
    else
      let thr := c.d64 .a d c.low
      let n := match d with | .s k => k.toNat | _ => 0
      let done := fun (s : State) (v : Nat) =>
        let s := s.modRod c.i.rid (fun x => x.setUn n (BitVec.ofNat 64 v))
        finish (if o.acqs then s.acquire c.i.rid sc else s) c.i
      c.spots .read 8 [(c.low, va)] (fun s sp =>
        match s.counterSpot c.i va sp with
        | .viol => finish ((s.raise c.i.rid Cause.accv).modRod c.i.rid (fun x => x.setUn n 0)) c.i
        | .zero =>
          let s := s.sparseRead c.i.rid true
          if thr = 0 then done s 0 else wait s c.i (.seqwt (2 ^ 60 + va.toNat) thr)
        | .at' pa =>
          if ¬ s.canGet (stopOf (s.coreOf c.i.rid).die) pa 8 then wait s c.i .memory
          else if s.curNat pa 8 < thr.toNat then wait s c.i (.seqwt pa thr)
          else let (v, k, s) := s.homeNat (stopOf (s.coreOf c.i.rid).die) pa 8 none; done (s.raise c.i.rid k) v))

/-- `SEQWT_WAKE` (R326): the counter has reached the threshold, and the waiting `seqwt` performs; in a rod that cannot issue it goes on waiting. -/
def execSeqwtWake (r : RodId) (sl : SlotId) (s : State) : Res :=
  match (s.rod r).filter (s.canIssue r) |>.bind (·.slot sl) with
  | none => .next s
  | some x =>
    match x.wait, x.word.map decode with
    | some (.seqwt pa thr), some (.ok (.seqwt g d ad sc o h)) =>
      if s.seqReached pa thr then execSeqwt g d ad sc o h { s with cur := some (r, sl) } else .next s
    | _, _ => .next s

end Machine

end Sys2Proof
end

