-- ==== Sys2Proof/Machine/Pool.lean ====
section
/-!
DEFINITION. Register claim (R154, R261, R262), and the work pool: segments, spill areas, stealing, termination (R150, R168 to R175,
R471) with its instructions (R263 to R269).
-/
namespace Sys2Proof.Machine

/-! ### Register claim -/

/-- A whole-number operand that acts once per rod. -/
def Ctx.once (c : Ctx) (a : Operand) : Nat := (c.d64 .a a c.low).toNat

/-- An outstanding operation writes a lane word at or above a bound (R262). -/
def opWritesFrom (k : OpKind) (bound : Nat) : Bool :=
  let top := fun (d : Operand) (n : Nat) => match d with | .w w => decide (bound < w.toNat + n) | _ => false
  match k with
  | .load l => top l.dst (match l.kind with
      | .plain sz => (sz.bytes + 3) / 4 | .mr v | .xs v => v.words | .atom sz => sz.bytes / 4)
  | .mx m => match m.kind with | .rd v d _ _ _ => top d v.words | _ => false
  | .nb _ _ (.move _ _ d _) | .nb _ _ (.stat d _) => top d 1
  | _ => false

/-- `rgive` (R154, R262). -/
def execRgive (g : Guard) (a : Operand) (s : State) : Res :=
  issue s g none [] [(a, 1)] (fun c =>
    let n := c.once a
    let x := c.i.rod
    if c.g = 0 ∨ n = 0 then finish c.s c.i
    else if n % 8 ≠ 0 ∨ x.window < n + 8 then trap c.old c.i Cause.regidx
    else if (c.s.rodOps c.i.rid).any (fun k => match c.s.op k with | some o => opWritesFrom o.kind (x.window - n) | none => false) then
      wait c.old c.i .rgive
    else
      let w := x.window - n
      let q := quadOf c.i.rid
      let s := c.s.modRod c.i.rid (fun x => { x with window := w, w := x.w.keep (fun k _ => decide (k < 32 * w)),
                                                     regBad := x.regBad.filter (fun k => decide (k < 32 * w) || decide (8192 ≤ k)) })
      finish (s.modChain c.i.rid.chain (fun ch => { ch with pool := ch.pool.set q (ch.pool.get q 0 + n) 0 })) c.i)

/-- A (rod, slot) pair of a chain waits in `rtake`. -/
def State.waitsRtake (s : State) (cid : Nat) (e : Nat × SlotId) : Bool :=
  ((s.rod ⟨cid, e.1⟩).bind (·.slot e.2)).bind (·.wait) == some .rtake

/-- `rtake` (R154): the oldest waiting one of the chain on the quadrant is served when the pool holds enough. DESIGN CHOICE (log 61): one whose
path ageing has swapped out loses its place. -/
def execRtake (g : Guard) (a : Operand) (s : State) : Res :=
  issue s g none [] [(a, 1)] (fun c =>
    let n := c.once a
    let x := c.i.rod
    let q := quadOf c.i.rid
    match c.s.chain c.i.rid.chain with
    | none => finish c.s c.i
    | some ch =>
      let mates := (List.range ch.nrod).filter (fun k => k % 4 = q)
      let w := ((c.s.packet ch.launch).map (·.window)).getD 8
      if c.g = 0 ∨ n = 0 then finish c.s c.i
      else if n % 8 ≠ 0 ∨ 256 < x.window + n ∨ w * mates.length < x.window + n + 8 * (mates.length - 1) then trap c.old c.i Cause.regidx
      else
        let me := (c.i.rid.rod, c.i.sl)
        let queue := ch.rtakeQ.filter (fun e => c.s.waitsRtake c.i.rid.chain e)
        let queue := if queue.contains me then queue else queue ++ [me]
        if (queue.filter (fun e => e.1 % 4 == q)).head? = some me ∧ n ≤ ch.pool.get q 0 then
          let s := c.s.setChain c.i.rid.chain { ch with pool := ch.pool.set q (ch.pool.get q 0 - n) 0, rtakeQ := queue.filter (· ≠ me) }
          finish (s.modRod c.i.rid (fun x => { x with window := x.window + n })) c.i
        else wait (c.s.setChain c.i.rid.chain { ch with rtakeQ := queue }) c.i .rtake)

/-- `RTAKE_GRANT` (R154): a waiting `rtake` is tried again. -/
def execRtakeGrant (r : RodId) (sl : SlotId) (s : State) : Res :=
  match (s.rod r).bind (·.slot sl) with
  | none => .next s
  | some x =>
    match x.wait, x.word.map decode with
    | some .rtake, some (.ok (.rtake g a)) => execRtake g a { s with cur := some (r, sl) }
    | _, _ => .next s

/-! ### Segments and spill areas (R150, R168, R170, R171, R471) -/

/-- For whom the pool works: the launch, the core, the pages denied, the rod. -/
structure PoolFor where
  lid    : Nat
  core   : CoreId
  denied : List Denied
  rod    : Option RodId
  deriving DecidableEq, Repr

/-- What stops a pool action with nothing performed: a page, or stores of the rod that a spill must release first. -/
inductive PStop where
  | page (va : DWord) (kind : XKind) (x : XOut) (s : State)
  | memory
  deriving DecidableEq, Repr

abbrev PTry (α : Type) := Except PStop (α × State)

def State.asidOfLaunch (s : State) (lid : Nat) : Nat := ((s.cmd lid).map (·.asid)).getD 0

/-- The segment a launch has on a core. -/
def State.seg (s : State) (lid : Nat) (c : CoreId) : Option Segment := (s.cmd lid).bind (fun x => x.segs.find (coreKey c))

def State.setSeg (s : State) (lid : Nat) (c : CoreId) (g : Option Segment) : State :=
  s.modCmd lid (fun x => { x with segs := match g with | some g => x.segs.put (coreKey c) g | none => x.segs.erase (coreKey c) })

def Segment.reset : Segment := { entries := [], spill := true, steal := true, recv := none, units := [] }

/-- A launch's pool entries per segment, E (R149). -/
def Packet.poolE (p : Packet) : Nat := if p.poolK = 0 then 0 else 2 ^ p.poolK

/-- The spill area of a die (R388). -/
def Packet.spillAt (p : Packet) (die : Nat) : Nat := p.spBase.toNat + die * p.spStr

/-- The causes of a word read for the pool go to the rod that acts, if one does (R38, R76). -/
def State.areaMark (s : State) (u : PoolFor) (bits : Word) (sparse : Bool) : State :=
  match u.rod with
  | some r => (s.raise r bits).sparseRead r sparse
  | none => s

/-- A word of the spill area: none where the area is a violation. -/
def State.areaRead (s : State) (u : PoolFor) (va n : Nat) : PTry (Option Nat) :=
  match s.resolve (.core u.core) (s.asidOfLaunch u.lid) u.denied (BitVec.ofNat 64 va) .read with
  | (.mem pa _, s) =>
    if s.reach pa ≠ .memory then .ok (none, s)
    else if ¬ s.canGet (stopOf u.core.die) pa n then .error (.page (BitVec.ofNat 64 va) .read (.busy pa n) s)
    else let (v, k, s) := s.homeNat (stopOf u.core.die) pa n; .ok (some v, s.areaMark u k false)
  | (.zero, s) => .ok (some 0, s.areaMark u 0 true)
  | (.viol, s) => .ok (none, s)
  | (.waits x, s) => .error (.page (BitVec.ofNat 64 va) .read x s)

def State.areaWrite (s : State) (u : PoolFor) (va n v : Nat) : PTry Bool :=
  match s.resolve (.core u.core) (s.asidOfLaunch u.lid) u.denied (BitVec.ofNat 64 va) .write with
  | (.mem pa ent, s) =>
    if s.reach pa ≠ .memory then .ok (false, s)
    else if ¬ s.canPut (stopOf u.core.die) pa n then .error (.page (BitVec.ofNat 64 va) .write (.busy pa n) s)
    else .ok (true, (s.writeHome (stopOf u.core.die) pa (bytesOf n v)).noteCounters s u.rod pa n (Pte.cnt ent))
  | (.waits x, s) => .error (.page (BitVec.ofNat 64 va) .write x s)
  | (_, s) => .ok (false, s)

/-- Write the words of an entry. -/
def State.areaEntry (s : State) (u : PoolFor) (va : Nat) : List Word → PTry Bool
  | [] => .ok (true, s)
  | w :: rest =>
    match s.areaWrite u va 4 w.toNat with
    | .ok (true, s) => s.areaEntry u (va + 4) rest
    | r => r

/-- Read the words of an entry. -/
def State.areaWords (s : State) (u : PoolFor) (va : Nat) : Nat → List Word → PTry (Option (List Word))
  | 0, ws => .ok (some ws, s)
  | n + 1, ws =>
    match s.areaRead u va 4 with
    | .ok (some v, s) => s.areaWords u (va + 4) n (ws ++ [BitVec.ofNat 32 v])
    | .ok (none, s) => .ok (none, s)
    | .error e => .error e

/-- What came of putting entries in a spill area. -/
inductive Spilled where
  | stored | noRoom | violation
  deriving DecidableEq, Repr

/-- Move entries, oldest first, to the spill area of the core's die, all or none (R170, R171). -/
def State.spillAll (s : State) (u : PoolFor) (p : Packet) (items : List (List Word)) : PTry Spilled :=
  let base := p.spillAt u.core.die
  if p.spCap = 0 then .ok (.noRoom, s)
  else
    match s.areaRead u base 4 with
    | .error e => .error e
    | .ok (none, s) => .ok (.violation, s)
    | .ok (some top, s) =>
      if p.spCap < top + items.length then .ok (.noRoom, s)
      else
        match s.areaRead u (base + 8) 8 with
        | .error e => .error e
        | .ok (none, s) => .ok (.violation, s)
        | .ok (some n, s) =>
          match s.areaEntry u (base + 64 + 64 * top) items.flatten with
          | .error e => .error e
          | .ok (false, s) => .ok (.violation, s)
          | .ok (true, s) =>
            match s.areaWrite u (base + 8) 8 ((n + items.length) % 2 ^ 64) with
            | .error e => .error e
            | .ok (false, s) => .ok (.violation, s)
            | .ok (true, s) =>
              match s.areaWrite u base 4 (top + items.length) with
              | .error e => .error e
              | .ok (ok, s) => .ok (if ok then .stored else .violation, s)

/-- Count a drop in DROPS (R171); an area of capacity 0 does not exist. -/
def State.spillDrop (s : State) (u : PoolFor) (p : Packet) : PTry Bool :=
  if p.spCap = 0 then .ok (true, s)
  else
    match s.areaRead u (p.spillAt u.core.die + 16) 8 with
    | .error e => .error e
    | .ok (none, s) => .ok (false, s)
    | .ok (some n, s) => s.areaWrite u (p.spillAt u.core.die + 16) 8 ((n + 1) % 2 ^ 64)

/-- Steal requests that satisfy p, of a launch and a thief, are withdrawn, at the thief, on their way, and in the mailboxes (R173). -/
def State.withdrawSteals (s : State) (p : Nat → CoreId → Bool) : State :=
  let s := s.dropMessages (fun m => match m with | .stealRequest lid _ t => p lid t | _ => false)
  { s with
    cores := s.cores.map (fun (e : Nat × Core) => (e.1, { e.2 with stealFor := e.2.stealFor.filter (fun l => !p l (coreOfKey e.1)) })),
    dies := s.dies.map (fun (e : Nat × Die) => (e.1, { e.2 with mailbox := e.2.mailbox.filter (fun q => !p q.launch q.thief) })) }

/-- A change of the launch's outstanding count (R174); at 0 every steal request of the launch is withdrawn (R173). -/
def State.outstand (s : State) (lid : Nat) (n : Int) : State :=
  let s := s.modCmd lid (fun x => { x with outstanding := ((x.outstanding : Int) + n).toNat })
  match s.cmd lid with
  | some x => if x.outstanding ≠ 0 then s else s.withdrawSteals (fun l _ => l == lid)
  | none => s

/-- A core's steal request for a launch has been answered (R172, R173). -/
def State.stealEnds (s : State) (lid : Nat) (c : CoreId) : State :=
  let k := s.core c
  if k.stealFor = some lid then s.setCore c { k with stealFor := none } else s

/-- A push (R170, R173): to the thief whose request the die holds, to the segment, or, of a full segment, after its oldest half has
gone to the spill area. The answer is the causes for the pushing rod; a dropped item is not counted. -/
def State.poolPushItem (s : State) (u : PoolFor) (p : Packet) (released : Bool) (item : List Word) : PTry Word :=
  let d := s.die u.core.die
  match d.mailbox.find? (·.launch == u.lid) with
  | some q =>
    let s := ((s.setDie u.core.die { d with mailbox := d.mailbox.erase q }).stealEnds u.lid q.thief).outstand u.lid 1
    match s.seg u.lid q.thief with
    | some g => .ok (0, s.setSeg u.lid q.thief (some { g with recv := some (item, u.core) }))
    | none => .ok (0, s.send (.stolenItemReturn u.lid u.core item))
  | none =>
    match s.seg u.lid u.core with
    | none => .ok (Cause.poolovf, s)
    | some g =>
      if g.entries.length < p.poolE then .ok (0, (s.setSeg u.lid u.core (some { g with entries := item :: g.entries })).outstand u.lid 1)
      else
        let drop := fun (s : State) =>
          match s.spillDrop u p with
          | .error e => .error e
          | .ok (ok, s) => .ok (Cause.poolovf ||| (if ok then 0 else Cause.accv), s)
        if ¬ g.spill then drop s
        else if ¬ released then .error .memory
        else
          let half := p.poolE / 2
          match s.spillAll u p (g.entries.reverse.take half) with
          | .error e => .error e
          | .ok (.noRoom, s) => drop s
          | .ok (.violation, s) => .ok (Cause.poolovf ||| Cause.accv, s)
          | .ok (.stored, s) =>
            .ok (0, (s.setSeg u.lid u.core (some { g with entries := item :: g.entries.take (g.entries.length - half) })).outstand u.lid 1)

/-- A popped item, where it came from: a stolen one names the core that pushed it. -/
inductive Popped' where
  | nothing
  | own (item : List Word)
  | spilled (item : List Word)
  | stolen (item : List Word) (from' : CoreId)
  deriving DecidableEq, Repr

/-- A pop (R170): the receive slot, the newest entry of the segment, the top of the die's spill area. -/
def State.poolPopItem (s : State) (u : PoolFor) (p : Packet) : PTry Popped' :=
  match s.seg u.lid u.core with
  | none => .ok (.nothing, s)
  | some g =>
    match g.recv, g.entries with
    | some (item, c), _ => .ok (.stolen item c, s.setSeg u.lid u.core (some { g with recv := none }))
    | none, item :: rest => .ok (.own item, s.setSeg u.lid u.core (some { g with entries := rest }))
    | none, [] =>
      if p.spCap = 0 then .ok (.nothing, s)
      else
        let base := p.spillAt u.core.die
        match s.areaRead u base 4 with
        | .error e => .error e
        | .ok (none, s) => .ok (.nothing, s)
        | .ok (some 0, s) => .ok (.nothing, s)
        | .ok (some (n + 1), s) =>
          match s.areaWords u (base + 64 + 64 * n) 16 [] with
          | .error e => .error e
          | .ok (none, s) => .ok (.nothing, s)
          | .ok (some ws, s) =>
            match s.areaWrite u base 4 n with
            | .error e => .error e
            | .ok (ok, s) => .ok (if ok then .spilled ws else .nothing, s)

/-! ### Stealing (R172, R173) -/

/-- The nearest compute die in a ring direction (R172). -/
def stealVictim (d : Nat) (up : Bool) : Nat := if up then (d + 1) % 8 else (d + 7) % 8

/-- An empty `take` posts a steal request unless stealing is off or the core has one pending; its direction alternates with each request of the
core, starting downward (R172, R268). -/
def State.postSteal (s : State) (u : PoolFor) : State :=
  match s.seg u.lid u.core with
  | none => s
  | some g =>
    let k := s.core u.core
    if ¬ g.steal ∨ k.stealFor.isSome then s
    else (s.setCore u.core { k with stealFor := some u.lid, stealUp := !k.stealUp }).toDie u.core.die (stealVictim u.core.die k.stealUp)
      (.stealRequest u.lid (stealVictim u.core.die k.stealUp) u.core)

/-- `STEAL_REQUEST` (R172): it joins the victim die's mailbox, or is answered at once with no item. -/
def execStealRequest (lid victim : Nat) (thief : CoreId) (s : State) : Res :=
  if (s.core thief).stealFor ≠ some lid then .next s
  else
    let d := s.die victim
    let here := s.chains.any (fun (e : Nat × Chain) => e.2.launch == lid && e.2.core.die == victim && e.2.here)
    if ¬ s.inService victim ∨ ¬ here ∨ 96 ≤ d.mailbox.length then .next (s.stealEnds lid thief)
    else .next (s.setDie victim { d with mailbox := d.mailbox ++ [{ launch := lid, thief := thief }] })

/-- Give a returned item a place (R173): the die's spill area, the core's own segment, or nowhere. -/
def State.placeReturned (s : State) (u : PoolFor) (p : Packet) (item : List Word) : PTry Unit :=
  match s.spillAll u p [item] with
  | .error e => .error e
  | .ok (.stored, s) => .ok ((), s)
  | .ok (_, s) =>
    match s.seg u.lid u.core with
    | some g =>
      if g.entries.length < p.poolE then .ok ((), s.setSeg u.lid u.core (some { g with entries := item :: g.entries }))
      else match s.spillDrop u p with
        | .ok (_, s) => .ok ((), s.outstand u.lid (-1))
        | .error e => .error e
    | none => match s.spillDrop u p with
      | .ok (_, s) => .ok ((), s.outstand u.lid (-1))
      | .error e => .error e

/-- Every store of the core has reached its die, as a release at die scope of all that the core has issued needs (R85, R171). -/
def State.coreReleased (s : State) (c : CoreId) : Bool := (s.core c).l1.all (fun (e : Nat × L1Word) => e.2.st != .gp)

/-- The launch's denied pages, for a pool action that no rod makes. -/
def State.poolFor (s : State) (lid : Nat) (core : CoreId) : PoolFor :=
  { lid := lid, core := core, denied := ((s.cmd lid).map (·.denied)).getD [], rod := none }

/-- `STOLEN_ITEM_RETURN` (R173): its spill is a release at die scope of what the pushing core has issued, and it waits for a page as an access of
that core would. -/
def execStolenItemReturn (lid : Nat) (pusher : CoreId) (item : List Word) (s : State) : Res :=
  match s.packet lid with
  | none => .next s
  | some p =>
    let u := s.poolFor lid pusher
    if s.cmdSusp lid ∨ ¬ s.coreReleased pusher then .next (s.send (.stolenItemReturn lid pusher item))
    else
      match s.placeReturned u p item with
      | .ok (_, s) => .next (s.cmdDone lid)
      | .error (.page va kind x s) => .next ((s.cmdWait lid (.core pusher) va kind x).send (.stolenItemReturn lid pusher item))
      | .error .memory => .next (s.send (.stolenItemReturn lid pusher item))

/-- Empty a segment's entries, oldest first, into the die's spill area; an entry without room is dropped and counted (R150). -/
def State.drainSegment (s : State) (u : PoolFor) (p : Packet) : List (List Word) → PTry Unit
  | [] => .ok ((), s)
  | item :: rest =>
    match s.spillAll u p [item] with
    | .error e => .error e
    | .ok (.stored, s) => s.drainSegment u p rest
    | .ok (_, s) =>
      match s.spillDrop u p with
      | .error e => .error e
      | .ok (_, s) => (s.outstand u.lid (-1)).drainSegment u p rest

/-- Release a launch's segment on a core (R150, R173); the spill of its entries is a release at die scope (R171). -/
def State.releaseSegment (s : State) (u : PoolFor) (p : Packet) : PTry Unit :=
  match s.seg u.lid u.core with
  | none => .ok ((), s)
  | some g =>
    if g.entries ≠ [] ∧ ¬ s.coreReleased u.core then .error .memory
    else
    match s.drainSegment u p g.entries.reverse with
    | .error e => .error e
    | .ok (_, s) =>
      let s := match g.recv with
        | some (item, c) => s.toDie u.core.die c.die (.stolenItemReturn u.lid c item)
        | none => s
      .ok ((), (s.setSeg u.lid u.core none).withdrawSteals (fun l t => l == u.lid && t == u.core))

/-! ### The instructions (R263 to R269) -/

/-- The course of a pool form: illegal in a launch without a pool (R263). -/
def poolForm (s : State) (g : Guard) (ds srcs : List (Operand × Nat)) (k : Ctx → Packet → PoolFor → Res) : Res :=
  issue s g none ds srcs (fun c =>
    let lid := c.s.launchOf c.i.rid
    match c.s.packet lid with
    | none => trap c.old c.i Cause.illegal
    | some p =>
      if p.poolK = 0 then trap c.old c.i Cause.illegal
      else k c p { lid := lid, core := c.s.coreOf c.i.rid, denied := c.i.denied, rod := some c.i.rid })

/-- A pool instruction that cannot go on waits, with nothing performed. -/
def Ctx.poolWait (c : Ctx) : PStop → Res
  | .page va kind x _ => c.pageWait va kind x
  | .memory => wait c.old c.i .memory

/-- Lanes push in ascending order (R169): the predicate of each lane that held an item stays T whatever becomes of the push. -/
def pushLanes (u : PoolFor) (p : Packet) (released : Bool) : List (Nat × List Word) → State → Word → PTry Word
  | [], s, k => .ok (k, s)
  | (_, item) :: rest, s, k =>
    match s.poolPushItem u p released item with
    | .ok (x, s) => pushLanes u p released rest s (k ||| x)
    | .error e => .error e

/-- An entry of 16 words (R168). -/
def poolEntry (ws : List Word) : List Word := (ws ++ List.replicate 16 0).take 16

/-- Push items and write what the lanes get: a push is a release at core scope (R267), and one that spills at die scope (R171). -/
def pushForm (c : Ctx) (p : Packet) (u : PoolFor) (items : List (Nat × List Word)) (q : BitVec 4) (put : Rod → Rod) : Res :=
  let noItem := (lanes c.g).any (fun l => !c.i.rod.held.has l)
  if ¬ c.s.released c.i.rid .core then wait c.old c.i .memory
  else
  match pushLanes u p (c.s.released c.i.rid .die) items c.s (if noItem then Cause.poolovf else 0) with
  | .error e => c.poolWait e
  | .ok (k, s) =>
    let s := (s.raise c.i.rid k).modRod c.i.rid put
    finish (s.modRod c.i.rid (fun x => x.setPreds c.g q.toNat (fun l => if items.any (·.1 == l) then 1 else 0))) c.i

/-- `split` (R169, R264). -/
def execSplit (g : Guard) (v : View) (x : BitVec 8) (q : BitVec 4) (b : BitVec 8) (n : BitVec 4) (s : State) : Res :=
  poolForm s g [(.w x, v.words)] [(.w x, v.words), (.w b, n.toNat)] (fun c p u =>
    let f := v.fmt
    let cuts := (lanes c.g).filterMap (fun l =>
      if ¬ c.i.rod.held.has l then none
      else (splitIv f ((c.ivl .a v (.w x) l).iv f)).map (fun e =>
        (l, (f.out e.1 false).pair.words v, poolEntry ((f.out e.2 false).pair.words v ++ c.i.rod.lws b.toNat n.toNat l))))
    pushForm c p u (cuts.map (fun e => (e.1, e.2.2))) q (fun y => cuts.foldl (fun (y : Rod) e => y.setWords x.toNat e.1 e.2.1) y))

/-- `fork` (R169, R265): n is the count of payload words less one. -/
def execFork (g : Guard) (q : BitVec 4) (b : BitVec 8) (n : BitVec 4) (s : State) : Res :=
  poolForm s g [] [(.w b, n.toNat + 1)] (fun c p u =>
    pushForm c p u ((lanes (c.g &&& c.i.rod.held)).map (fun l => (l, poolEntry (c.i.rod.lws b.toNat (n.toNat + 1) l)))) q id)

/-- What a `take` has given the lanes served so far: entries, whether one came from the spill area, and the core a stolen one came
from. -/
structure Taken where
  got    : List (Nat × List Word)
  spill  : Bool
  stolen : Option CoreId
  deriving DecidableEq, Repr

/-- Lanes pop in ascending order (R174). -/
def popLanes (u : PoolFor) (p : Packet) : List Nat → State → Taken → PTry Taken
  | [], s, t => .ok (t, s)
  | l :: rest, s, t =>
    match s.poolPopItem u p with
    | .error e => .error e
    | .ok (.nothing, s) => popLanes u p rest s t
    | .ok (.own w, s) => popLanes u p rest s { t with got := t.got ++ [(l, w)] }
    | .ok (.spilled w, s) => popLanes u p rest s { t with got := t.got ++ [(l, w)], spill := true }
    | .ok (.stolen w c, s) => popLanes u p rest s { t with got := t.got ++ [(l, w)], stolen := some c }

/-- `take` (R174, R266): held items finish, then the lanes pop; a stolen item is followed by the promotion of R173, for which the
issued `take` waits. DEDUCED (log 30): one that answers F everywhere it finds nothing posts no request. -/
def execTake (g : Guard) (d : BitVec 8) (q : BitVec 4) (s : State) : Res :=
  poolForm s g [(.w d, 16)] [] (fun c p u =>
    if c.g = 0 then finish c.s c.i
    else
      let ended := count (c.g &&& c.i.rod.held)
      let s := (c.s.modRod c.i.rid (fun x => { x with held := x.held &&& ~~~c.g })).outstand u.lid (-(ended : Int))
      match popLanes u p (lanes c.g) s ⟨[], false, none⟩ with
      | .error e => c.poolWait e
      | .ok (t, s) =>
        let left := ((s.cmd u.lid).map (·.outstanding)).getD 0
        let some' := fun (l : Nat) => t.got.any (·.1 == l)
        let s := s.modRod c.i.rid (fun x =>
          let x := t.got.foldl (fun (x : Rod) e => x.setWords d.toNat e.1 e.2) x
          let x := { x with held := x.held ||| maskOf some' }
          x.setPreds c.g q.toNat (fun l => if some' l then 1 else if left = 0 then 0 else 2))
        let s := if t.got ≠ [] then s.inherit c.i.rid else s
        let s := if t.spill then s.acquire c.i.rid .die else s
        let s := if t.got.length < (lanes c.g).length ∧ left ≠ 0 then s.postSteal u else s
        match t.stolen with
        | some from' => .next ((s.toDie u.core.die from'.die (.promotion from' c.i.rid c.i.sl .package)).waitOn c.i.rid c.i.sl .take)
        | none => finish s c.i)

/-- `poolcfg` (R268). -/
def execPoolcfg (g : Guard) (a : Operand) (s : State) : Res :=
  poolForm s g [] [(a, 1)] (fun c _ u =>
    if c.g = 0 then finish c.s c.i
    else
      let v := c.once a
      match c.s.seg u.lid u.core with
      | none => finish c.s c.i
      | some x => finish (c.s.setSeg u.lid u.core (some { x with spill := v % 2 = 1, steal := v / 2 % 2 = 1 })) c.i)

/-- `poolst` (R175, R269). -/
def execPoolst (g : Guard) (d : BitVec 8) (s : State) : Res :=
  poolForm s g [(.w d, 1)] [] (fun c _ u =>
    let x := (c.s.seg u.lid u.core).getD Segment.reset
    c.putWords (.w d) (fun l => [BitVec.ofNat 32 ((if x.recv.isSome then 2 ^ 13 else 0) + (if (c.s.core u.core).stealFor.isSome then 2 ^ 12 else 0) +
      (if c.i.rod.held.has l then 2 ^ 11 else 0) + x.entries.length)]) (fun _ => 0))

end Sys2Proof.Machine
end

