-- ==== Sys2Proof/Machine/Launch.lean ====
section
/-!
DEFINITION. Command packets and their checks (R388, R389, R393, R426), the room a chain needs (R55, R149, R150, R334), its placing
(R165, R395), and its start (R145, R151, R152, R174).
-/
namespace Sys2Proof.Machine

/-! ### Packets as numbers -/

/-- The 64-bit word of a packet at a byte offset. -/
def pword (x o : Nat) : DWord := BitVec.ofNat 64 (bitsOf x (8 * o + 63) (8 * o))

/-- Bits h:l of the 64-bit word at an offset. -/
def pbits (x o h l : Nat) : Nat := (pword x o).bits h l

/-- A launch packet (R388). -/
def Packet.ofNat' (x : Nat) : Packet :=
  { entry := pword x 0x00, handler := pword x 0x08,
    chains := pbits x 0x10 63 32, asid := pbits x 0x10 31 16, nrod := pbits x 0x10 15 11 + 1, furl := pbits x 0x10 10 7 + 1,
    poolK := pbits x 0x10 3 0, window := 8 * (pbits x 0x18 60 56 + 1), depth := pbits x 0x18 55 48 + 1, scr := pbits x 0x18 47 40,
    acc := pbits x 0x18 39 33, cor := pbits x 0x18 32 32 = 1, rst := pbits x 0x18 31 31 = 1,
    roles := (List.range 32).map (fun k => BitVec.ofNat 4 (bitsOf x (8 * 0x20 + 4 * k + 3) (8 * 0x20 + 4 * k))),
    spBase := pword x 0x30, spCap := pbits x 0x38 63 32, spStr := pbits x 0x38 31 0,
    args := (List.range 8).map (fun k => pword x (0x40 + 8 * k)),
    ctr := (List.range 4).map (fun i => (pword x (0x80 + 16 * i), pword x (0x88 + 16 * i))),
    rd := (List.range 4).map (fun i => (pword x (0xC0 + 16 * i), pword x (0xC8 + 16 * i))),
    wr := (List.range 4).map (fun i => (pword x (0x100 + 16 * i), pword x (0x108 + 16 * i))),
    cbar := (List.range 16).map (fun b => BitVec.ofNat 32 (bitsOf x (8 * (0x140 + 4 * b) + 31) (8 * (0x140 + 4 * b)))),
    fbar := (List.range 4).map (fun b => (BitVec.ofNat 16 (pbits x (0x180 + 8 * b) 47 32), BitVec.ofNat 32 (pbits x (0x180 + 8 * b) 31 0))),
    lbar := [BitVec.ofNat 32 (pbits x 0x1A0 31 0), BitVec.ofNat 32 (pbits x 0x1A0 63 32)],
    ids := pword x 0x1A8, ldone := pword x 0x1B0, gdone := pword x 0x1B8, pdone := pword x 0x1C0, jdone := pword x 0x1C8,
    svBase := pword x 0x1D0, svSlots := pbits x 0x1D8 63 32, svStr := pbits x 0x1D8 31 0 }

/-- A DMA packet (R426). -/
def DmaPkt.ofNat' (x : Nat) : DmaPkt :=
  { src := pword x 0, dst := pword x 8, len := pbits x 0x10 39 0, op := pbits x 0x18 63 56, qp := pbits x 0x18 55 32,
    arg := BitVec.ofNat 32 (pbits x 0x18 31 0), done := pword x 0x20, ids := pword x 0x28, rst := pbits x 0x30 0 0 = 1 }

/-- A neighbour packet (R393). -/
def NbPkt.ofNat' (x : Nat) : NbPkt := { desc := pword x 0, die := pbits x 8 2 0, done := pword x 0x10, ids := pword x 0x18 }

/-! ### Identities and completion counters (R388, R390) -/

def Cmd.ids (c : Cmd) : DWord :=
  match c.kind with
  | .launch p => p.ids
  | .dma p => p.ids
  | .neighbour p => p.ids
  | .none => 0

/-- The command belongs to levels at all: one refused for reason 6 or 7 does not (R389). -/
def Cmd.known (c : Cmd) : Bool := match c.kind with | .none => false | _ => true

def idsAt (ids : DWord) : Level → Nat
  | .launch => 0
  | .graph => ids.bits 31 16
  | .phase => ids.bits 47 32
  | .job => ids.bits 63 48

/-- END bit of a level. -/
def endsLevel (ids : DWord) : Level → Bool
  | .launch => true
  | .graph => ids.getLsbD 0
  | .phase => ids.getLsbD 1
  | .job => ids.getLsbD 2

/-- The completion counter of a level that a command names. A DMA or neighbour packet has one, its own. -/
def Cmd.counter (c : Cmd) (l : Level) : DWord :=
  match c.kind, l with
  | .launch p, .launch => p.ldone
  | .launch p, .graph => p.gdone
  | .launch p, .phase => p.pdone
  | .launch p, .job => p.jdone
  | .dma p, .launch => p.done
  | .neighbour p, .launch => p.done
  | _, _ => 0

/-- Drop a counter that fails the checks of reason 3. -/
def CmdKind.dropCounter (k : CmdKind) (l : Level) : CmdKind :=
  match k, l with
  | .launch p, .launch => .launch { p with ldone := 0 }
  | .launch p, .graph => .launch { p with gdone := 0 }
  | .launch p, .phase => .launch { p with pdone := 0 }
  | .launch p, .job => .launch { p with jdone := 0 }
  | .dma p, _ => .dma { p with done := 0 }
  | .neighbour p, _ => .neighbour { p with done := 0 }
  | k, _ => k

/-- The levels whose counters a command reads: those that END selects, and its own (R389). -/
def Cmd.levels (c : Cmd) : List Level := [.launch] ++ ([Level.graph, .phase, .job].filter (fun l => endsLevel c.ids l))

/-! ### Ranges (R177) -/

/-- A range rounded outward: first byte and end; none for length 0. -/
def rounded (e : DWord × DWord) : Option (Nat × Nat) :=
  if e.2 = 0 then none
  else some (e.1.toNat / 256 * 256, (e.1.toNat + e.2.toNat + 255) / 256 * 256)

def overlaps (a b : List (DWord × DWord)) : Bool :=
  (a.filterMap rounded).any (fun x => (b.filterMap rounded).any (fun y => decide (x.1 < y.2) && decide (y.1 < x.2)))

/-- Two launches conflict (R177): p before q. -/
def conflicts (p q : Packet) : Bool := p.asid == q.asid && (overlaps p.wr (q.rd ++ q.wr) || overlaps p.rd q.wr)

/-- The launch is restartable (R431). -/
def Packet.restartable (p : Packet) : Bool := p.rst && p.poolK == 0 && !overlaps p.rd p.wr

/-! ### The room a chain needs (R150, R334) -/

def Packet.stackUnits (p : Packet) : Nat := (p.nrod * p.depth * 32 + Config.scrUnit - 1) / Config.scrUnit
def Packet.segUnits (p : Packet) : Nat := if p.poolE = 0 then 0 else (p.poolE * 64 + 64 + Config.scrUnit - 1) / Config.scrUnit

/-- Rods of a chain of n on quadrant q. -/
def rodsOnQuad (n q : Nat) : Nat := ((List.range n).filter (fun k => k % 4 = q)).length

/-- The size of a chain's save image (R409), without pool entries beyond the segment. -/
def alignUp (n k : Nat) : Nat := (n + k - 1) / k * k

/-- What is in use on a core. -/
structure Load where
  chains : Nat
  rods   : Nat
  quads  : List (Nat × Nat)
  units  : List Nat
  accs   : List (Nat × Nat)
  segs   : List Nat
  /-- the core takes no chain: it is held, or vacated (R395) -/
  closed : Bool
  deriving DecidableEq, Repr

/-- The load of an idle core. -/
def Load.idle : Load := { chains := 0, rods := 0, quads := [(0, 0), (0, 0), (0, 0), (0, 0)], units := [], accs := [], segs := [], closed := false }

/-- The room a chain takes on a core: where its allocation, its stacks, its accumulators and a new segment lie. -/
structure Room where
  base  : Nat
  stack : List Nat
  acc   : Nat
  seg   : Option (List Nat)
  deriving DecidableEq, Repr

/-- The lowest start of n free accumulator units beside those taken. -/
def accPlace (accs : List (Nat × Nat)) (n : Nat) : Option Nat :=
  (List.range 65).find? (fun b => decide (b + n ≤ 64) && accs.all (fun e => n == 0 || e.2 == 0 || decide (b + n ≤ e.1) || decide (e.1 + e.2 ≤ b)))

/-- Fit one chain of a launch beside a load (R150, R334): the allocation at the lowest free run, stacks and segment in the highest
free units. -/
def Load.fit (x : Load) (lid : Nat) (p : Packet) : Option Room :=
  let free := fun (u : Nat) => !x.units.contains u
  let quadOk := (List.range 4).all (fun q =>
    let (r, w) := x.quads.getD q (0, 0)
    let n := rodsOnQuad p.nrod q
    decide (r + n ≤ 16) && decide (w + n * p.window ≤ 1024))
  if x.closed ∨ 8 ≤ x.chains ∨ ¬ quadOk then none
  else
    match (List.range Config.scrUnits).find? (fun b => decide (b + p.scr ≤ Config.scrUnits) && (List.range p.scr).all (fun i => free (b + i))),
      accPlace x.accs p.acc with
    | some b, some a =>
      let others := ((List.range Config.scrUnits).reverse).filter (fun u => free u && (decide (u < b) || decide (b + p.scr ≤ u)))
      let segN := if x.segs.contains lid then 0 else p.segUnits
      if others.length < p.stackUnits + segN then none
      else some { base := b, stack := others.take p.stackUnits, acc := a,
                  seg := if segN = 0 then none else some ((others.drop p.stackUnits).take segN) }
    | _, _ => none

/-- A load with one more chain of a launch. -/
def Load.add (x : Load) (lid : Nat) (p : Packet) (r : Room) : Load :=
  { chains := x.chains + 1, rods := x.rods + p.nrod,
    quads := (List.range 4).map (fun q => let (n, w) := x.quads.getD q (0, 0); (n + rodsOnQuad p.nrod q, w + rodsOnQuad p.nrod q * p.window)),
    units := (List.range p.scr).map (r.base + ·) ++ r.stack ++ (r.seg.getD []) ++ x.units,
    accs := (r.acc, p.acc) :: x.accs,
    segs := if r.seg.isSome then lid :: x.segs else x.segs, closed := x.closed }

/-- The load of a core. -/
def State.load (s : State) (c : CoreId) : Load :=
  let base := (s.residents c).foldl (fun (x : Load) e =>
    match s.packet e.2.launch with
    | some p => x.add e.2.launch p { base := e.2.scrBase / Config.scrUnit, stack := e.2.units, acc := e.2.accBase, seg := none }
    | none => x) Load.idle
  s.cmds.foldl (fun (x : Load) e =>
    match e.2.segs.find (coreKey c) with
    | some g => { x with units := g.units ++ x.units, segs := e.1 :: x.segs }
    | none => x) base

/-- Loads of cores while chains are placed. -/
abbrev Loads := List (CoreId × Load)

/-- The core that fits a chain with the fewest resident rods, the first of equals (R395). -/
def pickCore (ls : Loads) (lid : Nat) (p : Packet) : Option (CoreId × Room) :=
  (ls.foldl (fun (best : Option (CoreId × Room × Nat)) e =>
    match e.2.fit lid p with
    | none => best
    | some r => match best with
      | none => some (e.1, r, e.2.rods)
      | some b => if e.2.rods < b.2.2 then some (e.1, r, e.2.rods) else some b) none).map (fun b => (b.1, b.2.1))

/-- Place n chains one after another; none when one does not fit. -/
def placeChains (lid : Nat) (p : Packet) : Nat → Loads → List (CoreId × Room) → Option (List (CoreId × Room) × Loads)
  | 0, ls, acc => some (acc, ls)
  | n + 1, ls, acc =>
    match pickCore ls lid p with
    | none => none
    | some (c, r) => placeChains lid p n (ls.map (fun e => if e.1 = c then (e.1, e.2.add lid p r) else e)) (acc ++ [(c, r)])

/-- The most chains of n that fit. -/
def mostChains (lid : Nat) (p : Packet) (ls : Loads) : Nat → Nat
  | 0 => 0
  | n + 1 => if (placeChains lid p (n + 1) ls []).isSome then n + 1 else mostChains lid p ls n

def loadRods (ls : Loads) : Nat := (ls.map (fun e => e.2.rods)).sum

/-- The first of a list for which a number is least. -/
def leastOf {α : Type} (f : α → Nat) (l : List α) : Option α :=
  l.foldl (fun b x => match b with | none => some x | some y => if f x < f y then some x else some y) none

/-- The adjacent pairs of dies (R3). -/
def diePairs : List (Nat × Nat) := ((List.range 7).map (fun d => (d, d + 1))).filter (fun e => adjacent e.1 e.2)

/-- Place a furlong of n chains (R165): on one die, else on an adjacent pair; the places, and the lowest and highest die. -/
def placeFurlong (lid : Nat) (p : Packet) (n : Nat) (dieLoads : Nat → Loads) : Option (List (CoreId × Room) × Nat × Nat) :=
  let ones := (List.range 8).filterMap (fun d => (placeChains lid p n (dieLoads d) []).map (fun x => (d, x.1)))
  match leastOf (fun e => loadRods (dieLoads e.1)) ones with
  | some (d, x) => some (x, d, d)
  | none =>
    let twos := diePairs.filterMap (fun e =>
      let k := mostChains lid p (dieLoads e.1) n
      match placeChains lid p k (dieLoads e.1) [], placeChains lid p (n - k) (dieLoads e.2) [] with
      | some a, some b => some (e, a.1 ++ b.1)
      | _, _ => none)
    (leastOf (fun e => loadRods (dieLoads e.1.1) + loadRods (dieLoads e.1.2)) twos).map (fun e => (e.2, e.1.1, e.1.2))

/-- The loads of the cores of a die in service, in order; a held or vacated core counts in its die's rods and takes no chain (R165, R395). -/
def State.dieLoads (s : State) (d : Nat) : Loads :=
  if ¬ s.inService d then []
  else ((List.range 48).map (fun k => (⟨d, k⟩ : CoreId))).map (fun c => (c, { s.load c with closed := (s.core c).isHeld || (s.core c).vacated }))

/-- The loads of dies of an idle package (R389). -/
def idleLoads (d : Nat) : Loads := (List.range 48).map (fun k => (⟨d, k⟩, Load.idle))

/-- Every chain of a launch can be resident at once beside given loads: chain by chain, or furlong by furlong. -/
def placeAll (lid : Nat) (p : Packet) (left : Nat) : Nat → (Nat → Loads) → Bool
  | 0, _ => left == 0
  | fuel + 1, ls =>
    if left = 0 then true
    else
      let n := Nat.min p.furl left
      match placeFurlong lid p n ls with
      | none => false
      | some (xs, _, _) =>
        let ls' := xs.foldl (fun (f : Nat → Loads) x => fun d =>
          (f d).map (fun e => if e.1 = x.1 then (e.1, e.2.add lid p x.2) else e)) ls
        let fixed := (List.range 8).map ls'
        placeAll lid p (left - n) fuel (fun d => fixed.getD d [])

/-- The whole package as one list of cores, for a launch without furlongs (R395). -/
def allLoads (f : Nat → Loads) : Loads := (List.range 8).flatMap f

/-! ### Refusals at fetch (R389) -/

/-- A counter address passes the checks of reason 3: 0, or aligned on a page with CNT = 1. -/
def State.counterOk (s : State) (io asid : Nat) (va : DWord) (kind : XKind) : Bool :=
  va == 0 || (match s.counterPlace (.io io) asid va.toNat kind with | .at' _ | .zero => true | _ => false)

/-- The save size of a chain (R409): the furlong barriers are there with F above 1, the matrix section with accumulators. -/
def Packet.saveSize (p : Packet) : Nat :=
  let rod := 256
  let scr := alignUp (rod + 44288 * p.nrod) 64
  let fe := alignUp (scr + Config.scrUnit * p.scr) 64
  let stk := alignUp (fe + (Config.scrUnit * p.scr / 128 + 7) / 8) 64
  let pool := alignUp (stk + 32 * p.depth * p.nrod) 64
  let bar := alignUp (pool + (if p.poolE = 0 then 0 else 64 + 64 + 64 * p.poolE)) 64
  let last := bar + 256 + (if p.furl = 1 then 0 else 64)
  if p.acc = 0 then last else last + 64 + 512 + 64 * 8 + 28 * 256 * p.acc + 384 * 16

/-- A barrier mask names a member outside the launch, or LBAR is used without COR, or the roles lack exactly one 0 (reason 4). -/
def Packet.membersBad (p : Packet) : Bool :=
  let rodsBad := fun (m : BitVec 32) => decide (2 ^ p.nrod ≤ m.toNat)
  p.cbar.any rodsBad || p.fbar.any (fun e => decide (2 ^ p.furl ≤ e.1.toNat) || rodsBad e.2) || p.lbar.any rodsBad ||
    (!p.cor && p.lbar.any (· != 0)) || ((p.roles.take p.nrod).filter (· == 0)).length != 1

/-- A field outside its limits (reason 2). -/
def Packet.fieldsBad (p : Packet) : Bool :=
  p.chains == 0 || decide (10 < p.poolK) || decide (p.depth < 4) || p.scr == 0 || decide (128 < p.scr) || decide (64 < p.acc) ||
    p.entry.toNat % 8 != 0 || p.handler.toNat % 8 != 0 || p.spStr % 64 != 0 || p.svStr % 64 != 0

/-- What cannot be resident on an idle package (reason 5). -/
def Packet.tooBig (lid : Nat) (p : Packet) : Bool :=
  if p.cor then !placeAll lid p p.chains p.chains idleLoads
  else if 1 < p.furl then (placeFurlong lid p (Nat.min p.furl p.chains) idleLoads).isNone
  else (Load.idle.fit lid p).isNone

/-- The reason to refuse a fetched command of a queue, 0 for none; the lowest of those that apply. -/
def State.refusal (s : State) (io asid : Nat) (k : CmdKind) (levels : List (Level × DWord)) : Nat :=
  let badCtr := levels.any (fun e => !s.counterOk io asid e.2 .write)
  match k with
  | .launch p =>
    if p.asid ≠ asid then 1
    else if p.fieldsBad then 2
    else if badCtr ∨ p.ctr.any (fun e => !s.counterOk io asid e.1 .read) then 3
    else if p.membersBad then 4
    else if p.tooBig 0 then 5
    else if 0 < p.svSlots ∧ p.svStr < p.saveSize then 9
    else 0
  | .dma p => if 4 < p.op then 2 else if badCtr then 3 else 0
  | .neighbour _ => if badCtr then 3 else 0
  | .none => 0

/-! ### The start of a chain (R145, R151, R152, R174) -/

/-- A rod at dispatch (R151, R338). -/
def Rod.start (p : Packet) (k rslot now : Nat) : Rod :=
  { role := p.roles.getD k 0, window := p.window, w := [],
    u := p.args.zipIdx.foldl (fun (t : Tbl DWord) e => t.set e.2 e.1 0) [],
    q := [], k := [],
    slotA := some (Slot.fresh { pc := p.entry, idx := 0, mask := 0xFFFFFFFF, frame := none, wait := now } now), slotB := none,
    depth := p.depth, stack := [], shadowA := none, shadowB := none, cause := 0, skid := 0, iflags := 0, mflags := 0,
    agelimit := 4096, compat := 0, holdlimit := 10000000, flags := [], gang := 1#32 <<< k, held := 0xFFFFFFFF, gx := [], mxIn := [],
    mxOut := [], cpIn := [], cpOut := [], stream := Stream.reset, stores := [], parts := [], run := .running, frozen := false, lastSlot := .a,
    oldStack := [], denied := [], rslot := rslot, regBad := [] }

/-- The lowest rod-slot number free on a quadrant of a core. -/
def State.freeRslot (s : State) (c : CoreId) (q : Nat) : Nat :=
  let used := (s.quadRods c q).map (fun e => e.2.rslot)
  ((List.range 17).find? (fun n => !used.contains n)).getD 16

/-- The pages of the declared read ranges, as frames: the 64 KiB pages of each; none when there are more than 4,096, or when something is under
way at a table word that a walk of one needs. -/
def State.rangeFrames (s : State) (asid : Nat) (core : CoreId) (p : Packet) : Option (List (Nat × Nat × Nat)) :=
  let rs := p.rd.filterMap rounded
  let pages := rs.map (fun (r : Nat × Nat) => (r.2 + 65535) / 65536 - r.1 / 65536)
  if 4096 < pages.sum then none
  else if rs.any (fun r => (List.range ((r.2 + 65535) / 65536 - r.1 / 65536)).any (fun i =>
    match (s.translate (.core core) asid (65536 * (r.1 / 65536 + i)) .read).1 with | .busy _ _ => true | _ => false)) then none
  else some (rs.flatMap (fun r => (List.range ((r.2 + 65535) / 65536 - r.1 / 65536)).filterMap (fun i =>
    let vpn := r.1 / 65536 + i
    match (s.translate (.core core) asid (65536 * vpn) .read).1 with
    | .frame pa _ =>
      let lo := Nat.max r.1 (65536 * vpn) - 65536 * vpn
      let hi := Nat.min r.2 (65536 * vpn + 65536) - 65536 * vpn
      some (pa, lo, hi)
    | _ => none)))

/-- The discards of a chain's start (R145, R327): V copies of the core's L1 and of the die's non-home L2 over the declared read
ranges; all of them when the ranges' frames are not known at once, or when device code launched the chain. -/
def State.startDiscards (s : State) (asid : Nat) (core : CoreId) (p : Packet) (whole : Bool) : State :=
  match (if whole then none else s.rangeFrames asid core p) with
  | none => s.acquireAt core .package
  | some fs =>
    let hit := fun (wd : Nat) => fs.any (fun f => decide (f.1 + f.2.1 ≤ 4 * wd) && decide (4 * wd < f.1 + f.2.2))
    let k := s.core core
    let s := s.setCore core { k with l1 := k.l1.keep (fun wd x => !(x.st == .v && hit wd)) }
    let d := s.die core.die
    s.setDie core.die { d with l2 := d.l2.keep (fun wd x => !(x.st == .v && hit wd)) }

/-- A core receives a chain of a launch: another launch's chain discards its instruction cache (R59). -/
def State.receiveLaunch (s : State) (core : CoreId) (lid : Nat) : State :=
  let k := s.core core
  if k.lastLaunch = some lid then s else s.setCore core { k with lastLaunch := some lid, icache := [], icTags := [], icLru := [] }

/-- A new segment where the chain's room holds one (R150, R268). -/
def State.openSegment (s : State) (lid : Nat) (core : CoreId) (r : Room) : State :=
  match r.seg with
  | some us => s.setSeg lid core (some { Segment.reset with units := us })
  | none => s

/-- Dispatch one chain onto a core in a furlong (R145, R150 to R152, R174). -/
def State.startChain (s : State) (lid : Nat) (cmd : Cmd) (p : Packet) (num fid fchn : Nat) (core : CoreId) (r : Room) : State :=
  let (cid, s) := s.fresh
  let s := ((s.receiveLaunch core lid).startDiscards cmd.asid core p cmd.dev).openSegment lid core r
  let c : Chain :=
    { launch := lid, num := num, core := core, furlong := fid, fchn := fchn, nrod := p.nrod, pool := [], rtakeQ := [],
      scrBase := Config.scrUnit * r.base, scrSize := Config.scrUnit * p.scr, units := r.stack, scr := [], scrBad := [], fe := [],
      bars := [], accBase := r.acc, accUnits := p.acc, acc := [], tiles := [], latches := [], resumes := 0, state := .resident,
      charge := 0, recvBy := none }
  let s := s.setChain cid c
  let s := (List.range p.nrod).foldl (fun (s : State) k => s.setRod ⟨cid, k⟩ (Rod.start p k (s.freeRslot core (k % 4)) s.cycle)) s
  s.modCmd lid (fun x => { x with live := x.live ++ [cid], state := .running })

end Sys2Proof.Machine
end

