-- ==== Sys2Proof/Machine/Neighbour.lean ====
section
/-!
DEFINITION. The neighbour-list engine (R361 to R381): grid descriptors and cells, binning, moved particles, pair streams, and the
instructions of R372. Geometry is exact, in the rationals.
-/
namespace Sys2Proof.Machine

/-! ### Geometry (R363, R364, R368, R370) -/

/-- The value of a finite binary32 word. -/
def finRat (w : Word) : Option Rat :=
  match fp32.value w.toNat with
  | some (.fin q) => some q
  | _ => none

/-- Three finite coordinates. -/
def finPos (ws : List Word) : Option (List Rat) :=
  match ws.map finRat with
  | [some x, some y, some z] => some [x, y, z]
  | _ => none

/-- A finite field of a valid descriptor. -/
def ratOf (w : Word) : Rat := (finRat w).getD 0

def GridDesc.orgAt (d : GridDesc) (a : Nat) : Rat := ratOf (d.org.getD a 0)
def GridDesc.extAt (d : GridDesc) (a : Nat) : Rat := ratOf (d.ext.getD a 0)
def GridDesc.periodic (d : GridDesc) (a : Nat) : Bool := d.per.getLsbD a

/-- NC_a (R363). -/
def GridDesc.nc (d : GridDesc) (a : Nat) : Nat := Nat.max 1 (d.extAt a / ratOf d.edge).floor.toNat

def GridDesc.ncell (d : GridDesc) : Nat := d.nc 0 * d.nc 1 * d.nc 2

/-- Store words a bound grid takes (R361). -/
def GridDesc.storeWords (d : GridDesc) : Nat := d.ncell * (d.cap + 1)

/-- u of R364 on an axis: the offset in the box, wrapped or clamped. -/
def GridDesc.offset (d : GridDesc) (a : Nat) (p : Rat) : Rat :=
  let u := p - d.orgAt a
  let e := d.extAt a
  if d.periodic a then u - e * ((u / e).floor : Int)
  else if u < 0 then 0 else if e < u then e else u

/-- The wrapped position on an axis. -/
def GridDesc.wrapped (d : GridDesc) (a : Nat) (p : Rat) : Rat := if d.periodic a then d.orgAt a + d.offset a p else p

/-- The cell of a position (R364). -/
def GridDesc.cell (d : GridDesc) (p : List Rat) : Nat :=
  let c := fun (a : Nat) => Nat.min (d.nc a - 1) (d.offset a (p.getD a 0) / ratOf d.edge).floor.toNat
  c 0 + d.nc 0 * (c 1 + d.nc 1 * c 2)

/-- s_a and dx'_a of the minimum image from p to q on an axis (R368). -/
def GridDesc.image (d : GridDesc) (a : Nat) (p q : Rat) : Int × Rat :=
  let dx := d.wrapped a q - d.wrapped a p
  let e := d.extAt a
  let s : Int := if ¬ d.periodic a then 0 else if e / 2 < dx then -1 else if dx ≤ -e / 2 then 1 else 0
  (s, dx + s * e)

/-- The images and the squared distance of two positions (R368). -/
def GridDesc.dist (d : GridDesc) (p q : List Rat) : List Int × Rat :=
  let im := [0, 1, 2].map (fun a => d.image a (p.getD a 0) (q.getD a 0))
  (im.map Prod.fst, (im.map (fun e => e.2 * e.2)).foldl (· + ·) 0)

/-- Indices on an axis within 1 of c, counted cyclically on a periodic axis (R367). -/
def GridDesc.around (d : GridDesc) (a c : Nat) : List Nat :=
  let n := d.nc a
  if d.periodic a then ([(c + n - 1) % n, c, (c + 1) % n].foldl (fun l x => insertNat x l) [])
  else (List.range 3).filterMap (fun k => if 1 ≤ c + k ∧ c + k ≤ n then some (c + k - 1) else none)

/-- The neighbours of a cell, ascending (R367). -/
def GridDesc.neighbours (d : GridDesc) (c : Nat) : List Nat :=
  let cx := c % d.nc 0
  let cy := c / d.nc 0 % d.nc 1
  let cz := c / d.nc 0 / d.nc 1
  (d.around 2 cz).flatMap (fun z => (d.around 1 cy).flatMap (fun y => (d.around 0 cx).map (fun x => x + d.nc 0 * (y + d.nc 1 * z))))

/-- Insert into an ascending list that may hold a number more than once. -/
def insertMember (n : Nat) : List Nat → List Nat
  | [] => [n]
  | x :: r => if n ≤ x then n :: x :: r else x :: insertMember n r

def Grid.members (g : Grid) (c : Nat) : List Nat := g.cells.get c []

/-- The particles that a member i of an owning cell is paired with, ascending (R365, R367). -/
def Grid.partners (g : Grid) (c i : Nat) : List Nat :=
  (((g.desc.neighbours c).filter (c ≤ ·)).flatMap (fun cj =>
    (g.members cj).filter (fun j => if cj = c then i < j else j ≠ i))).foldl (fun l j => insertMember j l) []

/-- The words of an offset 0x58 to 0x00 of a descriptor (R362). -/
def GridDesc.ofNat' (x : Nat) : GridDesc :=
  let q : Nat → DWord := fun o => BitVec.ofNat 64 (bitsOf x (8 * o + 63) (8 * o))
  let w : Nat → Word := fun o => BitVec.ofNat 32 (bitsOf x (8 * o + 31) (8 * o))
  { pos := q 0, ref := q 8, spill := q 16, stat := q 24, done := q 32, npart := (w 40).toNat, scap := (w 44).toNat,
    per := BitVec.ofNat 3 ((q 48).bits 50 48), cap := (q 48).bits 40 32, pstr := (w 48).toNat,
    org := [w 56, w 60, w 64], ext := [w 68, w 72, w 76], cut := w 80, skin := w 84, edge := w 88 }

/-- A descriptor's own fields are valid (R363), but for what lies in memory and in the store. -/
def GridDesc.fieldsOk (d : GridDesc) : Bool :=
  (d.org ++ d.ext ++ [d.cut, d.skin, d.edge]).all (fun w => (finRat w).isSome) &&
  [0, 1, 2].all (fun a => decide (0 < d.extAt a)) && decide (0 < ratOf d.cut) && decide (0 ≤ ratOf d.skin) &&
  decide (ratOf d.cut + ratOf d.skin ≤ ratOf d.edge) &&
  [0, 1, 2].all (fun a => !d.periodic a || decide (2 * (ratOf d.cut + ratOf d.skin) ≤ d.extAt a)) &&
  decide (1 ≤ d.cap) && decide (d.cap ≤ 256) && d.pstr != 0 && d.pstr % 16 == 0 && decide (d.npart ≤ 0xFFFFFFFE) &&
  d.pos.toNat % 16 == 0 && d.ref.toNat % 16 == 0 && (d.scap == 0 || d.spill.toNat % 4 == 0) && d.stat.toNat % 8 == 0 &&
  d.done.toNat % 8 == 0 && decide (d.ncell ≤ 2 ^ 24)

/-! ### The engine's accesses (R374, R379) -/

/-- For whom the engine of a die works: the address space, the pages it has been denied, and the rod, if a rod issued the operation. -/
structure NbFor where
  die    : Nat
  asid   : Nat
  denied : List Denied
  rod    : Option RodId
  deriving DecidableEq, Repr

/-- An engine action: done, or stopped at a page it must wait for. -/
abbrev NbTry (α : Type) := Except (DWord × XKind × XOut × State) (α × State)

/-- Words of one aligned part of memory, read at home once nothing is under way at them: none for a violation; an uncommitted page reads 0 and
marks the rod (R32, R39). -/
def State.nbRead (s : State) (u : NbFor) (va : DWord) (n : Nat) : NbTry (Option (List WordRead)) :=
  match s.resolve (.die u.die) u.asid u.denied va .read with
  | (.mem pa _, s) =>
    if s.reach pa ≠ .memory then .ok (none, s)
    else if ¬ s.canGet (stopOf u.die) pa (4 * n) then .error (va, .read, .busy pa (4 * n), s)
    else
      let (ws, s) := s.homeReads (wordsOf pa (4 * n)) (some 1) (stopOf u.die)
      .ok (some ws, s)
  | (.zero, s) => .ok (some (List.replicate n { val := 0, bad := false, lost := false }), match u.rod with | some r => s.mflag r 1 | none => s)
  | (.viol, s) => .ok (none, s)
  | (.waits x, s) => .error (va, .read, x, s)

/-- The die's slice gives up its copies of words that its engine has written at their home (R138, R381). -/
def State.dropSlice (s : State) (d : Nat) (ws : List Nat) : State :=
  let x := s.die d
  s.setDie d { x with l2 := x.l2.keep (fun k y => !(ws.contains k && y.st == .v)) }

/-- Write words, each with its poison; false for a violation. -/
def State.nbWrite (s : State) (u : NbFor) (va : DWord) (ws : List (Word × Bool)) : NbTry Bool :=
  match s.resolve (.die u.die) u.asid u.denied va .write with
  | (.mem pa ent, s) =>
    if s.reach pa ≠ .memory then .ok (false, s)
    else if ¬ s.canPut (stopOf u.die) pa (4 * ws.length) then .error (va, .write, .busy pa (4 * ws.length), s)
    else
      let t := ws.zipIdx.foldl (fun (s : State) e => if e.1.2 then s.setPoison (pa / 4 + e.2) true else s)
        (s.writeHome (stopOf u.die) pa (ws.flatMap (fun e => bytesOf 4 e.1.toNat)))
      .ok (true, (t.dropSlice u.die (wordsOf pa (4 * ws.length))).noteCounters s u.rod pa (4 * ws.length) (Pte.cnt ent))
  | (.waits x, s) => .error (va, .write, x, s)
  | (_, s) => .ok (false, s)

/-- What an operation does to its slot, and the causes it raises in its rod. -/
structure NbRun where
  grid  : Grid
  cause : Word
  deriving DecidableEq, Repr

/-- Bits of the grid status (R366). -/
def Grid.mark (g : Grid) (bits : DWord) : Grid := { g with status := g.status ||| bits }
def Grid.nspill (g : Grid) : Nat := g.status.bits 63 32

def NbRun.raise (x : NbRun) (k : Word) : NbRun := { x with cause := x.cause ||| k }

/-- Write words for an operation; a violation is a late cause. -/
def State.nbPut (s : State) (u : NbFor) (x : NbRun) (va : Nat) (ws : List (Word × Bool)) : NbTry NbRun :=
  match s.nbWrite u (BitVec.ofNat 64 va) ws with
  | .ok (true, s) => .ok (x, s)
  | .ok (false, s) => .ok (x.raise Cause.accv, s)
  | .error e => .error e

/-- Spill a particle (R365): `pos` is its position as read. -/
def State.nbSpill (s : State) (u : NbFor) (x : NbRun) (i : Nat) (pos : Option (List (Word × Bool))) : NbTry NbRun :=
  let d := x.grid.desc
  let ref := match pos with
    | some ws => s.nbPut u x (d.ref.toNat + 16 * i) (ws ++ [(0xFFFFFFFF, false)])
    | none => s.nbPut u x (d.ref.toNat + 16 * i + 12) [(0xFFFFFFFF, false)]
  match ref with
  | .error e => .error e
  | .ok (x, s) =>
    let n := x.grid.nspill
    let count := fun (x : NbRun) (bits : DWord) =>
      let g := x.grid.mark bits
      { x with grid := { g with status := merge64 (mask64 63 32) g.status (BitVec.ofNat 64 (Nat.min (n + 1) (2 ^ 32 - 1) * 2 ^ 32)) } }
    if n < d.scap then
      match s.nbPut u x (d.spill.toNat + 4 * n) [(BitVec.ofNat 32 i, false)] with
      | .ok (x, s) => .ok (count x 2, s)
      | .error e => .error e
    else .ok (count x 6, s)

/-- Causes of words read (R76, R107). -/
def causesOf (ws : List WordRead) : Word := ws.foldl (fun k w => k ||| w.cause) 0

/-- Bin one particle (R365). -/
def State.nbBinOne (s : State) (u : NbFor) (x : NbRun) (i : Nat) : NbTry NbRun :=
  let d := x.grid.desc
  match s.nbRead u (BitVec.ofNat 64 (d.pos.toNat + i * d.pstr)) 3 with
  | .error e => .error e
  | .ok (none, s) => .ok (x.raise Cause.accv, s)
  | .ok (some ws, s) =>
    let x := x.raise (causesOf ws)
    let raw := ws.map (fun w => (w.seen, w.bad && !w.lost))
    if ws.any (fun w => w.bad && !w.lost) then s.nbSpill u { x with grid := x.grid.mark 0x20 } i (some raw)
    else
      match finPos (ws.map WordRead.seen) with
      | none => s.nbSpill u { x with grid := x.grid.mark 0x10 } i (some raw)
      | some p =>
        let c := d.cell p
        match s.nbPut u x (d.ref.toNat + 16 * i) (raw ++ [(BitVec.ofNat 32 c, false)]) with
        | .error e => .error e
        | .ok (x, s) =>
          let ms := x.grid.members c
          let put := fun (x : NbRun) (l : List Nat) => { x with grid := { x.grid with cells := x.grid.cells.set c (insertMember i l) [] } }
          if ms.length < d.cap then .ok (put x ms, s)
          else
            match ms.getLast? with
            | some g =>
              if i < g then
                match s.nbSpill u x g none with
                | .ok (x, s) => .ok (put x ms.dropLast, s)
                | .error e => .error e
              else s.nbSpill u x i none
            | none => s.nbSpill u x i none

/-- Carry out an action for each of n numbers from `first`, in ascending order. -/
def nbFold (f : State → NbRun → Nat → NbTry NbRun) (first : Nat) : Nat → State → NbRun → NbTry NbRun
  | 0, s, x => .ok (x, s)
  | n + 1, s, x =>
    match f s x first with
    | .ok (x, s) => nbFold f (first + 1) n s x
    | .error e => .error e

/-- Bin particles first to first + count − 1 (R374). -/
def State.nbBin (s : State) (u : NbFor) (x : NbRun) (first count : Nat) : NbTry NbRun :=
  let np := x.grid.desc.npart
  let stop := Nat.min (first + count) np
  let x := if count ≠ 0 ∧ np < first + count then x.raise Cause.accv else x
  nbFold (fun s x i => s.nbBinOne u x i) first (stop - first) s x

/-- A particle read for its displacement: its position words where it takes part, whether it has moved, and the bits of R369 its
read sets (R366, R369, R370, R376). A reference that cannot be read, or is not finite, counts as moved. -/
def State.nbParticle (s : State) (u : NbFor) (x : NbRun) (i : Nat) : NbTry (NbRun × Option (List Word) × Bool × Word) :=
  let d := x.grid.desc
  match s.nbRead u (BitVec.ofNat 64 (d.pos.toNat + i * d.pstr)) 3 with
  | .error e => .error e
  | .ok (none, s) => .ok ((x.raise Cause.accv, none, false, 4), s)
  | .ok (some ws, s) =>
    let x := x.raise (causesOf ws)
    if ws.any (fun w => w.bad && !w.lost) then .ok (({ x with grid := x.grid.mark 0x20 }, none, false, 8), s)
    else
      let pw := ws.map WordRead.seen
      match finPos pw with
      | none => .ok ((x, none, true, 0), s)
      | some p =>
        match s.nbRead u (BitVec.ofNat 64 (d.ref.toNat + 16 * i)) 3 with
        | .error e => .error e
        | .ok (none, s) => .ok ((x.raise Cause.accv, some pw, true, 0), s)
        | .ok (some rs, s) =>
          let x := x.raise (causesOf rs)
          match finPos (rs.map WordRead.seen) with
          | none => .ok ((x, some pw, true, 0), s)
          | some r =>
            let h := ratOf d.skin / 2
            .ok ((x, some pw, decide (h * h < (d.dist r p).2), 0), s)

/-- The moved particles among a list (R376). -/
def State.nbMoved (s : State) (u : NbFor) (x : NbRun) : List Nat → Nat → NbTry (NbRun × Nat)
  | [], n => .ok ((x, n), s)
  | i :: rest, n =>
    match s.nbParticle u x i with
    | .ok ((x, _, m, _), s) => s.nbMoved u x rest (if m then n + 1 else n)
    | .error e => .error e

/-- The binned particles of a range below NPART, ascending. -/
def Grid.binned (g : Grid) (first count : Nat) : List Nat :=
  (g.cells.vals.flatMap id).foldl (fun l i => if first ≤ i ∧ i < first + count ∧ i < g.desc.npart then insertNat i l else l) []

/-! ### Slots (R361, R366, R373, R377, R378) -/

def State.grid (s : State) (die gid : Nat) : Option Grid := (s.die die).grids.find gid

def State.setGrid (s : State) (die gid : Nat) (g : Option Grid) : State :=
  let x := s.die die
  s.setDie die { x with grids := match g with | some g => x.grids.put gid g | none => x.grids.erase gid }

/-- The slot as an operation of a launch may use it (R377). -/
def State.gridFor (s : State) (die gid lid : Nat) : Option Grid := (s.grid die gid).filter (fun g => g.owner == lid)

/-- The status copy of R366. -/
def State.nbStatus (s : State) (u : NbFor) (x : NbRun) : NbTry NbRun :=
  if x.grid.desc.stat = 0 then .ok (x, s)
  else s.nbPut u x x.grid.desc.stat.toNat [(loWord x.grid.status, false), (hiWord x.grid.status, false)]

/-- The increment of DONE at a completion (R378). -/
def State.nbDone (s : State) (u : NbFor) (x : NbRun) : NbTry NbRun :=
  let va := x.grid.desc.done
  if va = 0 then .ok (x, s)
  else
    match s.resolve (.die u.die) u.asid u.denied va .write with
    | (.mem pa ent, s) =>
      if ¬ (Pte.cnt ent ∧ s.reach pa = .memory) then .ok (x.raise Cause.accv, s)
      else if ¬ s.canPut (stopOf u.die) pa 8 then .error (va, .write, .busy pa 8, s)
      else
        .ok (x, (s.counterAdd u.rod pa 1).dropSlice u.die (wordsOf pa 8))
    | (.waits w, s) => .error (va, .write, w, s)
    | (_, s) => .ok (x.raise Cause.accv, s)

/-- A descriptor read in its eight parts (R362): none where the read meets a violation or a poisoned word. -/
def State.nbDesc (s : State) (u : NbFor) (va : Nat) : NbTry (Option GridDesc) :=
  let rec parts : Nat → State → List Word → NbTry (Option (List Word))
    | 0, s, ws => .ok (some ws, s)
    | n + 1, s, ws =>
      match s.nbRead u (BitVec.ofNat 64 (va + 16 * (7 - n))) 4 with
      | .error e => .error e
      | .ok (none, s) => .ok (none, s)
      | .ok (some rs, s) => if rs.any (fun w => w.bad || w.lost) then .ok (none, s) else parts n s (ws ++ rs.map (·.val))
  match parts 8 s [] with
  | .error e => .error e
  | .ok (none, s) => .ok (none, s)
  | .ok (some ws, s) => .ok (some (GridDesc.ofNat' (ofWords ws)), s)

/-- Store words held by the other slots of a die (R363). -/
def State.storeHeld (s : State) (die gid : Nat) : Nat :=
  (((s.die die).grids.filter (fun (e : Nat × Grid) => e.1 != gid)).map (fun e => e.2.desc.storeWords)).sum

/-- Read and check the descriptor at va for a slot (R363). -/
def State.nbCheck (s : State) (u : NbFor) (gid va : Nat) : NbTry (Option GridDesc) :=
  if va % 64 ≠ 0 then .ok (none, s)
  else
    match s.nbDesc u va with
    | .error e => .error e
    | .ok (none, s) => .ok (none, s)
    | .ok (some d, s) =>
      if ¬ d.fieldsOk ∨ Config.gridStore < d.storeWords + s.storeHeld u.die gid then .ok (none, s)
      else if d.done = 0 then .ok (some d, s)
      else
        match s.resolve (.die u.die) u.asid u.denied d.done .write with
        | (.mem _ ent, s) => .ok (if Pte.cnt ent then some d else none, s)
        | (.waits x, s) => .error (d.done, .write, x, s)
        | (_, s) => .ok (none, s)

/-- `nbgrid` on a slot for an owner (R373): the bound grid, or none for an invalid descriptor, which frees the slot. -/
def State.nbBind (s : State) (u : NbFor) (owner gid va : Nat) : NbTry (Option NbRun) :=
  match s.nbCheck u gid va with
  | .error e => .error e
  | .ok (none, s) => .ok (none, s.setGrid u.die gid none)
  | .ok (some d, s) =>
    let g : Grid := { owner := owner, asid := u.asid, desc := d, cells := [], status := 1 }
    match s.nbStatus u { grid := g, cause := 0 } with
    | .error e => .error e
    | .ok (x, s) => .ok (some x, s.setGrid u.die gid (some g))

/-! ### The instructions (R372 to R378) -/

/-- The operations outstanding on a slot; the stream of a chain that has been saved is not (R382). -/
def State.slotOps (s : State) (die gid : Nat) : List Nat :=
  Tbl.keys (s.ops.keep (fun _ o => ((s.chain o.rod.chain).map Chain.here).getD false &&
    (match o.kind with | .nb d g _ => d == die && g == gid | _ => false)))

/-- The course of a neighbour instruction: once per rod, after the die-scope release of R379; its DONE counter is seen in the package (R138). -/
def nbForm (s : State) (g : Guard) (long : Bool) (ds srcs : List (Operand × Nat)) (k : Ctx → Res) : Res :=
  issue s g none ds srcs (fun c =>
    if c.g = 0 then finish c.s c.i
    else if long && c.i.flagFull then wait c.old c.i .control
    else if ¬ (c.s.engineReady c.i.rid .package && c.s.released c.i.rid .die) then wait c.old c.i .memory
    else k c)

/-- The die whose engine a rod's instructions name. -/
def Ctx.nbDie (c : Ctx) : Nat := (c.s.coreOf c.i.rid).die

/-- `nbgrid` (R373): a slot of another live launch is left alone; else it waits for the operations that the slot has been given, and for the
descriptor. -/
def execNbgrid (g : Guard) (gid : BitVec 2) (a : Operand) (s : State) : Res :=
  nbForm s g false [] [(a, 2)] (fun c =>
    let die := c.nbDie
    let lid := c.s.launchOf c.i.rid
    if (match c.s.grid die gid.toNat with | some x => x.owner != lid | none => false) then finish (c.s.raise c.i.rid Cause.accv) c.i
    else if c.s.slotOps die gid.toNat ≠ [] then wait c.old c.i .neighbour
    else
      let u : NbFor := { die := die, asid := c.s.asidOf c.i.rid, denied := c.i.denied, rod := some c.i.rid }
      match c.s.nbBind u lid gid.toNat (c.d64 .a a c.low).toNat with
      | .error (va, kind, x, _) => c.pageWait va kind x
      | .ok (none, s) => finish (s.raise c.i.rid Cause.accv) c.i
      | .ok (some x, s) => finish (s.raise c.i.rid x.cause) c.i)

/-- Issue an operation on a slot; one without a register destination counts in a flag only where the clause names one. -/
def nbIssue (c : Ctx) (gid : BitVec 2) (k : NbKind) : Res := finish (c.s.addOp c.i (.nb c.nbDie gid.toNat k)).2 c.i

/-- `nbbin` (R374). -/
def execNbbin (g : Guard) (gid : BitVec 2) (a b : Operand) (s : State) : Res :=
  nbForm s g true [] [(a, 1), (b, 1)] (fun c => nbIssue c gid (.bin (c.w32 .a a c.low).toNat (c.w32 .b b c.low).toNat))

/-- `nbpair` (R375): it waits until every record of the rod's previous stream has been dealt. A range that runs past the last number that LAST holds
runs past NCELL. -/
def execNbpair (g : Guard) (gid : BitVec 2) (a b : Operand) (s : State) : Res :=
  nbForm s g true [] [(a, 1), (b, 1)] (fun c =>
    let t := c.i.rod.stream
    if t.opened ∧ ¬ (t.ended ∧ t.queue = []) then wait c.old c.i .neighbour
    else
      let first := (c.w32 .a a c.low).toNat
      let stop := first + (c.w32 .b b c.low).toNat
      let far := decide (2 ^ 32 ≤ stop)
      let last := Nat.min stop (2 ^ 32 - 1)
      let (n, s) := c.s.addOp c.i (.nb c.nbDie gid.toNat (.pair []))
      let t : Stream := { Stream.reset with gid := gid.toNat, opened := true, ended := false, cell := first, last := last, op := some n }
      let s := s.modRod c.i.rid (fun x => { x with stream := { t with dealt := x.stream.dealt, stat := if far then 4 else 0 } })
      finish (if far then s.raise c.i.rid Cause.accv else s) c.i)

/-- `nbstat` (R377). -/
def execNbstat (g : Guard) (gid : BitVec 2) (d : Operand) (s : State) : Res :=
  nbForm s g true [(d, 1)] [] (fun c => nbIssue c gid (.stat d c.g))

/-- `nbmove` (R376). -/
def execNbmove (g : Guard) (gid : BitVec 2) (d b k : Operand) (s : State) : Res :=
  nbForm s g true [(d, 1)] [(b, 1), (k, 1)] (fun c =>
    nbIssue c gid (.move (c.w32 .b b c.low).toNat (c.w32 .c k c.low).toNat d c.g))

/-- `nbclr` (R377). -/
def execNbclr (g : Guard) (gid : BitVec 2) (s : State) : Res := nbForm s g true [] [] (fun c => nbIssue c gid .clr)

/-! ### The operations at their turn (R380) -/

/-- An earlier operation on the slot has not completed. -/
def State.nbBlocked (s : State) (op die gid : Nat) : Bool := (s.slotOps die gid).any (· < op)

def State.nbFor (s : State) (o : Op) (die : Nat) : NbFor :=
  { die := die, asid := s.opAsid o, denied := o.denied, rod := some o.rod }

/-- Write a result where a neighbour operation's destination stands. -/
def Rod.putNb (x : Rod) (d : Operand) (m : Mask) (v : DWord) : Rod :=
  match d with
  | .w k => x.setLws m k.toNat (fun _ => loWord v)
  | .s k => x.setUn k.toNat v
  | _ => x

/-- An operation leaves: its slot, its causes, its destination, its completion flag. -/
def State.nbLeave (s : State) (op : Nat) (o : Op) (die gid : Nat) (x : NbRun) : State :=
  ((s.setGrid die gid (some x.grid)).raise o.rod x.cause).endOp op

/-- An operation ends with its status copy and its increment of DONE (R366, R378), or waits for a page. -/
def State.nbFinish (s : State) (s0 : State) (op : Nat) (o : Op) (die gid : Nat) (done : Bool) (x : NbRun) (put : Rod → Rod) : State :=
  match s.nbStatus (s0.nbFor o die) x with
  | .error (va, kind, w, _) => s0.suspendOp op va kind w
  | .ok (x, s) =>
    match (if done then s.nbDone (s0.nbFor o die) x else .ok (x, s)) with
    | .error (va, kind, w, _) => s0.suspendOp op va kind w
    | .ok (x, s) => (s.modRod o.rod put).nbLeave op o die gid x

/-- `NB_OP_COMPLETE` (R374, R376, R377, R380): a binning, moving, clearing or status operation whose turn has come takes effect as a
whole. -/
def execNbOpComplete (op : Nat) (s : State) : Res :=
  match s.op op with
  | none => .next s
  | some o =>
    match o.kind with
    | .nb die gid k =>
      if o.susp ∨ s.nbBlocked op die gid then .next s
      else
        let u := s.nbFor o die
        let bad := fun (put : Rod → Rod) => .next (((s.raise o.rod Cause.accv).modRod o.rod put).endOp op)
        match k with
        | .pair _ => .next s
        | .stat d m =>
          match s.grid die gid with
          | none => .next ((s.modRod o.rod (fun x => x.putNb d m 0)).endOp op)
          | some g => .next (s.nbFinish s op o die gid false ⟨g, 0⟩ (fun x => x.putNb d m g.status))
        | .clr =>
          match s.gridFor die gid (s.launchOf o.rod) with
          | none => bad id
          | some g => .next (s.nbFinish s op o die gid true ⟨{ g with cells := [], status := g.status &&& 1 }, 0⟩ id)
        | .bin first count =>
          match s.gridFor die gid (s.launchOf o.rod) with
          | none => bad id
          | some g =>
            match s.nbBin u ⟨g, 0⟩ first count with
            | .error (va, kind, w, _) => .next (s.suspendOp op va kind w)
            | .ok (x, t) => .next (t.nbFinish s op o die gid true x id)
        | .move first count d m =>
          match s.gridFor die gid (s.launchOf o.rod) with
          | none => bad (fun x => x.putNb d m 0)
          | some g =>
            match s.nbMoved u ⟨g, 0⟩ (g.binned first count) 0 with
            | .error (va, kind, w, _) => .next (s.suspendOp op va kind w)
            | .ok ((x, n), t) =>
              let x := if n = 0 then x else { x with grid := x.grid.mark 8 }
              .next (t.nbFinish s op o die gid true x (fun y => y.putNb d m (BitVec.ofNat 64 (Nat.min n (2 ^ 32 - 1)))))
    | _ => .next s

/-! ### The pair stream (R367 to R371, R375) -/

/-- How a stream stands while it looks for its next record. -/
structure Scan where
  run  : NbRun
  seen : Tbl Seen
  stat : Word
  deriving DecidableEq, Repr

/-- A particle as the stream has read it, or reads it now. -/
def State.scanOne (s : State) (u : NbFor) (x : Scan) (i : Nat) : NbTry (Scan × Option (List Word)) :=
  match x.seen.find i with
  | some e => .ok ((x, e.pos), s)
  | none =>
    match s.nbParticle u x.run i with
    | .error e => .error e
    | .ok ((run, pos, moved, bits), s) =>
      let run := if moved then { run with grid := run.grid.mark 8 } else run
      .ok (({ run := run, seen := x.seen.put i ⟨pos⟩, stat := x.stat ||| bits ||| (if moved then 1 else 0) }, pos), s)

/-- The record of two particles, if the pair passes (R368, R369). -/
def GridDesc.record (d : GridDesc) (i j : Nat) (pi pj : List Word) : Option PairRec :=
  match finPos pi, finPos pj with
  | some p, some q =>
    let (im, d2) := d.dist p q
    let cut := ratOf d.cut
    if d2 ≤ cut * cut then
      let code := fun (n : Nat) => BitVec.ofInt 2 (im.getD n 0)
      some { i := BitVec.ofNat 32 i, j := BitVec.ofNat 32 j, d2 := BitVec.ofNat 32 (fp32.up (.fin d2)),
             w3 := (code 2 ++ code 1 ++ code 0).setWidth 32 }
    else none
  | _, _ => none

/-- A place in a stream: cell, ordinal of i, ordinal of j. -/
structure Place where
  cell : Nat
  ipos : Nat
  jpos : Nat
  deriving DecidableEq, Repr

/-- The next record among the partners of i from ordinal jpos on. -/
def State.scanJ (s : State) (u : NbFor) (x : Scan) (i : Nat) (pi : List Word) : List Nat → Nat → NbTry (Scan × Option (PairRec × Nat))
  | [], _ => .ok ((x, none), s)
  | j :: rest, jpos =>
    match s.scanOne u x j with
    | .error e => .error e
    | .ok ((x, pj), s) =>
      match pj.bind (fun pj => x.run.grid.desc.record i j pi pj) with
      | some r => .ok ((x, some (r, jpos + 1)), s)
      | none => s.scanJ u x i pi rest (jpos + 1)

/-- The next record of a cell from its member of ordinal ipos on. -/
def State.scanI (s : State) (u : NbFor) (x : Scan) (c : Nat) : List Nat → Nat → Nat → NbTry (Scan × Option (PairRec × Place))
  | [], _, _ => .ok ((x, none), s)
  | i :: rest, ipos, jpos =>
    match s.scanOne u x i with
    | .error e => .error e
    | .ok ((x, none), s) => s.scanI u x c rest (ipos + 1) 0
    | .ok ((x, some pi), s) =>
      match s.scanJ u x i pi ((x.run.grid.partners c i).drop jpos) jpos with
      | .error e => .error e
      | .ok ((x, some (r, j)), s) => .ok ((x, some (r, ⟨c, ipos, j⟩)), s)
      | .ok ((x, none), s) => s.scanI u x c rest (ipos + 1) 0

/-- The next record of the cells listed; only the first takes up ordinals that are not 0. -/
def State.scanC (s : State) (u : NbFor) (x : Scan) : List (Nat × List Nat) → Place → NbTry (Scan × Option (PairRec × Place))
  | [], _ => .ok ((x, none), s)
  | (c, ms) :: rest, p =>
    let here : Place := if p.cell = c then p else ⟨c, 0, 0⟩
    match s.scanI u x c (ms.drop here.ipos) here.ipos here.jpos with
    | .error e => .error e
    | .ok ((x, some r), s) => .ok ((x, some r), s)
    | .ok ((x, none), s) => s.scanC u x rest p

/-- The search of a stream for its next record from where it stands. -/
def State.scanStream (s : State) (u : NbFor) (g : Grid) (t : Stream) (seen : Tbl Seen) : NbTry (Scan × Option (PairRec × Place)) :=
  let cells := g.cells.filter (fun (e : Nat × List Nat) => decide (t.cell ≤ e.1) && decide (e.1 < t.last))
  s.scanC u ⟨⟨g, 0⟩, seen, t.stat⟩ cells ⟨t.cell, t.ipos, t.jpos⟩

/-- The stream of a rod at its turn: its operation, die and grid (none when it must end with VIOL). -/
def State.streamOf (s : State) (r : RodId) : Option (Nat × Op × Nat × Tbl Seen × Option Grid) :=
  match s.rod r with
  | none => none
  | some x =>
    match x.stream.op with
    | none => none
    | some n =>
      match s.op n with
      | none => none
      | some o =>
        match o.kind with
        | .nb die gid (.pair seen) =>
          if o.susp ∨ s.nbBlocked n die gid ∨ x.stream.ended then none
          else some (n, o, die, seen, s.gridFor die gid (s.launchOf r))
        | _ => none

/-- Keep what a search has read, in the grid, the rod and the operation. -/
def State.keepScan (s : State) (n : Nat) (r : RodId) (die gid : Nat) (x : Scan) (f : Stream → Stream) : State :=
  let s := ((s.setGrid die gid (some x.run.grid)).raise r x.run.cause).setOpKind n (.nb die gid (.pair x.seen))
  s.modRod r (fun y => { y with stream := f { y.stream with stat := x.stat ||| (if x.run.grid.nspill = 0 then 0 else 2) } })

/-- `NB_PAIR_RECORD` (R367 to R369, R371): the next record of a rod's stream joins its queue, unless that holds 64 or the stream has
no further record. -/
def execNbPairRecord (r : RodId) (s : State) : Res :=
  match s.streamOf r, s.rod r with
  | some (n, o, die, seen, some g), some y =>
    if Config.pairRecords ≤ y.stream.queue.length then .next s
    else
      match s.scanStream (s.nbFor o die) g y.stream seen with
      | .error (va, kind, w, _) => .next (s.suspendOp n va kind w)
      | .ok ((_, none), _) => .next s
      | .ok ((x, some (rec', p)), s) =>
        .next (s.keepScan n r die y.stream.gid x (fun t =>
          { t with queue := t.queue ++ [rec'], cell := p.cell, ipos := p.ipos, jpos := p.jpos, nrec := t.nrec + 1 }))
  | _, _ => .next s

/-- The end record is in place (R369, R375), and the operation completes. -/
def State.streamEnd (s : State) (r : RodId) (n : Nat) (stat : Word) : State :=
  (s.modRod r (fun y => { y with stream := { y.stream with ended := true, stat := stat, cell := y.stream.last, op := none } })).endOp n

/-- `NB_STREAM_END` (R369, R375, R377): a stream with no further record, or without a slot of its launch, ends. -/
def execNbStreamEnd (r : RodId) (s : State) : Res :=
  match s.streamOf r, s.rod r with
  | some (n, _, _, _, none), some y => .next ((s.raise r Cause.accv).streamEnd r n (y.stream.stat ||| 4))
  | some (n, o, die, seen, some g), some y =>
    let u := s.nbFor o die
    match s.scanStream u g y.stream seen with
    | .error (va, kind, w, _) => .next (s.suspendOp n va kind w)
    | .ok ((_, some _), _) => .next s
    | .ok ((x, none), t) =>
      let past := decide (g.desc.ncell < y.stream.last) && decide (y.stream.cell < y.stream.last)
      let x := if past then { x with stat := x.stat ||| 4, run := x.run.raise Cause.accv } else x
      let stat := x.stat ||| (if g.nspill = 0 then 0 else 2)
      match t.nbStatus u x.run with
      | .error (va, kind, w, _) => .next (s.suspendOp n va kind w)
      | .ok (run, t) =>
        match t.nbDone u run with
        | .error (va, kind, w, _) => .next (s.suspendOp n va kind w)
        | .ok (run, t) =>
          .next ((t.keepScan n r die y.stream.gid { x with run := run } id).streamEnd r n stat)
  | _, _ => .next s

/-- The stream has no further record: its end is due. -/
def State.streamDry (s : State) (r : RodId) : Bool :=
  match s.streamOf r, s.rod r with
  | some (_, _, _, _, none), _ => true
  | some (_, o, die, seen, some g), some y =>
    match s.scanStream (s.nbFor o die) g y.stream seen with
    | .ok ((_, none), _) => true
    | .error _ => true
    | _ => false
  | _, _ => false

end Sys2Proof.Machine
end

