-- ==== Sys2Proof/Machine/IntAlu.lean ====
section
/-!
DEFINITION. Group 0: integer and bit arithmetic, moves, conversions, addresses, permutation and index registers (R234 to R245).
-/
namespace Sys2Proof.Machine

/-! ### Results at width N (R234 to R237) -/

/-- A shift count: b[7:0] (R236). -/
def countOf {n : Nat} (b : BitVec n) : Nat := b.toNat % 256

/-- floor(a·b / 2^N), signed. -/
def aluMulh (n : Nat) (a b : BitVec n) : BitVec n := BitVec.ofInt n (a.toInt * b.toInt / 2 ^ n)

/-- floor(a·b / 2^N), unsigned. -/
def aluMulhn (n : Nat) (a b : BitVec n) : BitVec n := BitVec.ofNat n (a.toNat * b.toNat / 2 ^ n)

/-- floor((a·b + c) / 2^N), signed. -/
def aluMadh (n : Nat) (a b c : BitVec n) : BitVec n := BitVec.ofInt n ((a.toInt * b.toInt + c.toInt) / 2 ^ n)

def aluDiv (n : Nat) (a b : BitVec n) : BitVec n := if b = 0 then -1 else a.sdiv b
def aluDivn (n : Nat) (a b : BitVec n) : BitVec n := if b = 0 then -1 else a / b
def aluRem (n : Nat) (a b : BitVec n) : BitVec n := if b = 0 then a else a.srem b
def aluRemn (n : Nat) (a b : BitVec n) : BitVec n := if b = 0 then a else a % b

/-- Position and length of a bit field (R237). -/
def fieldPos {n : Nat} (b : BitVec n) : Nat := b.toNat % 256
def fieldLen {n : Nat} (b : BitVec n) : Nat := Nat.min (b.toNat / 256 % 256) (n - fieldPos b)

def aluBfx (n : Nat) (a b : BitVec n) : BitVec n :=
  if fieldLen b = 0 then 0 else ((a >>> fieldPos b) <<< (n - fieldLen b)).sshiftRight (n - fieldLen b)

def aluBfxn (n : Nat) (a b : BitVec n) : BitVec n :=
  if fieldLen b = 0 then 0 else ((a >>> fieldPos b) <<< (n - fieldLen b)) >>> (n - fieldLen b)

def aluBfi (n : Nat) (a b c : BitVec n) : BitVec n :=
  let mask : BitVec n := BitVec.ofNat n (2 ^ fieldLen c - 1) <<< fieldPos c
  (a &&& ~~~mask) ||| ((b <<< fieldPos c) &&& mask)

def aluPopc (n : Nat) (a : BitVec n) : BitVec n := BitVec.ofNat n ((List.range n).filter a.getLsbD).length
def aluClz (n : Nat) (a : BitVec n) : BitVec n := BitVec.ofNat n (if a = 0 then n else n - 1 - Nat.log2 a.toNat)
def aluCtz (n : Nat) (a : BitVec n) : BitVec n := BitVec.ofNat n (((List.range n).find? a.getLsbD).getD n)

/-! ### Forms -/

/-- A two-source instruction; `sgn` is its Ext column. -/
def int2 (s : State) (g : Guard) (d a b : Operand) (m : Option SrcMod) (sgn : Bool)
    (f : (n : Nat) → BitVec n → BitVec n → BitVec n) : Res :=
  issue s g m [(d, 1)] [(a, 1), (b, 1)] (fun c =>
    c.putInt d (fun n l => f n (c.int .a a sgn n l) (c.int .b b sgn n l)))

/-- A one-source instruction. -/
def int1 (s : State) (g : Guard) (d a : Operand) (m : Option SrcMod) (sgn : Bool) (f : (n : Nat) → BitVec n → BitVec n) : Res :=
  issue s g m [(d, 1)] [(a, 1)] (fun c => c.putInt d (fun n l => f n (c.int .a a sgn n l)))

/-- A three-source instruction. -/
def int3 (s : State) (g : Guard) (d a b c : Operand) (m : Option SrcMod) (sgn : Bool)
    (f : (n : Nat) → BitVec n → BitVec n → BitVec n → BitVec n) : Res :=
  issue s g m [(d, 1)] [(a, 1), (b, 1), (c, 1)] (fun x =>
    x.putInt d (fun n l => f n (x.int .a a sgn n l) (x.int .b b sgn n l) (x.int .c c sgn n l)))

/-- `add` (R234). -/
def execAdd (g : Guard) (d a b : Operand) (m : Option SrcMod) (s : State) : Res :=
  int2 s g d a b m true (fun _ a b => a + b)

/-- `sub` (R234). -/
def execSub (g : Guard) (d a b : Operand) (m : Option SrcMod) (s : State) : Res :=
  int2 s g d a b m true (fun _ a b => a - b)

/-- `mul` (R234). -/
def execMul (g : Guard) (d a b : Operand) (m : Option SrcMod) (s : State) : Res :=
  int2 s g d a b m true (fun _ a b => a * b)

/-- `mulh` (R234): signed. -/
def execMulh (g : Guard) (d a b : Operand) (m : Option SrcMod) (s : State) : Res :=
  int2 s g d a b m true (aluMulh)

/-- `mulhn` (R234): unsigned. -/
def execMulhn (g : Guard) (d a b : Operand) (m : Option SrcMod) (s : State) : Res :=
  int2 s g d a b m false (aluMulhn)

/-- `div` (R235). -/
def execDiv (g : Guard) (d a b : Operand) (m : Option SrcMod) (s : State) : Res :=
  int2 s g d a b m true (aluDiv)

/-- `divn` (R235). -/
def execDivn (g : Guard) (d a b : Operand) (m : Option SrcMod) (s : State) : Res :=
  int2 s g d a b m false (aluDivn)

/-- `rem` (R235). -/
def execRem (g : Guard) (d a b : Operand) (m : Option SrcMod) (s : State) : Res :=
  int2 s g d a b m true (aluRem)

/-- `remn` (R235). -/
def execRemn (g : Guard) (d a b : Operand) (m : Option SrcMod) (s : State) : Res :=
  int2 s g d a b m false (aluRemn)

/-- `min` (R234): signed. -/
def execMin (g : Guard) (d a b : Operand) (m : Option SrcMod) (s : State) : Res :=
  int2 s g d a b m true (fun _ a b => if a.slt b then a else b)

/-- `minn` (R234): unsigned. -/
def execMinn (g : Guard) (d a b : Operand) (m : Option SrcMod) (s : State) : Res :=
  int2 s g d a b m false (fun _ a b => if a.ult b then a else b)

/-- `max` (R234): signed. -/
def execMax (g : Guard) (d a b : Operand) (m : Option SrcMod) (s : State) : Res :=
  int2 s g d a b m true (fun _ a b => if a.slt b then b else a)

/-- `maxn` (R234): unsigned. -/
def execMaxn (g : Guard) (d a b : Operand) (m : Option SrcMod) (s : State) : Res :=
  int2 s g d a b m false (fun _ a b => if a.ult b then b else a)

/-- `and` (R234). -/
def execAnd (g : Guard) (d a b : Operand) (m : Option SrcMod) (s : State) : Res :=
  int2 s g d a b m false (fun _ a b => a &&& b)

/-- `or` (R234). -/
def execOr (g : Guard) (d a b : Operand) (m : Option SrcMod) (s : State) : Res :=
  int2 s g d a b m false (fun _ a b => a ||| b)

/-- `xor` (R234). -/
def execXor (g : Guard) (d a b : Operand) (m : Option SrcMod) (s : State) : Res :=
  int2 s g d a b m false (fun _ a b => a ^^^ b)

/-- `andn` (R234). -/
def execAndn (g : Guard) (d a b : Operand) (m : Option SrcMod) (s : State) : Res :=
  int2 s g d a b m false (fun _ a b => a &&& ~~~b)

/-- `shl` (R236). -/
def execShl (g : Guard) (d a b : Operand) (m : Option SrcMod) (s : State) : Res :=
  int2 s g d a b m false (fun _ a b => a <<< countOf b)

/-- `shr` (R236). -/
def execShr (g : Guard) (d a b : Operand) (m : Option SrcMod) (s : State) : Res :=
  int2 s g d a b m false (fun _ a b => a >>> countOf b)

/-- `sar` (R236). -/
def execSar (g : Guard) (d a b : Operand) (m : Option SrcMod) (s : State) : Res :=
  int2 s g d a b m true (fun _ a b => a.sshiftRight (countOf b))

/-- `rol` (R236). -/
def execRol (g : Guard) (d a b : Operand) (m : Option SrcMod) (s : State) : Res :=
  int2 s g d a b m false (fun _ a b => a.rotateLeft (countOf b))

/-- `bfx` (R237). -/
def execBfx (g : Guard) (d a b : Operand) (m : Option SrcMod) (s : State) : Res :=
  int2 s g d a b m true (aluBfx)

/-- `bfxn` (R237). -/
def execBfxn (g : Guard) (d a b : Operand) (m : Option SrcMod) (s : State) : Res :=
  int2 s g d a b m false (aluBfxn)

/-- `mad` (R234). -/
def execMad (g : Guard) (d a b c : Operand) (m : Option SrcMod) (s : State) : Res :=
  int3 s g d a b c m true (fun _ a b c => a * b + c)

/-- `madh` (R234): signed, exact. -/
def execMadh (g : Guard) (d a b c : Operand) (m : Option SrcMod) (s : State) : Res :=
  int3 s g d a b c m true (aluMadh)

/-- `bfi` (R237). -/
def execBfi (g : Guard) (d a b c : Operand) (m : Option SrcMod) (s : State) : Res :=
  int3 s g d a b c m false (aluBfi)

/-- `neg` (R234). -/
def execNeg (g : Guard) (d a : Operand) (m : Option SrcMod) (s : State) : Res :=
  int1 s g d a m true (fun _ a => -a)

/-- `abs` (R234). -/
def execAbs (g : Guard) (d a : Operand) (m : Option SrcMod) (s : State) : Res :=
  int1 s g d a m true (fun _ a => if a.slt 0 then -a else a)

/-- `not` (R234). -/
def execNot (g : Guard) (d a : Operand) (m : Option SrcMod) (s : State) : Res :=
  int1 s g d a m false (fun _ a => ~~~a)

/-- `popc` (R234). -/
def execPopc (g : Guard) (d a : Operand) (m : Option SrcMod) (s : State) : Res :=
  int1 s g d a m false (aluPopc)

/-- `clz` (R234). -/
def execClz (g : Guard) (d a : Operand) (m : Option SrcMod) (s : State) : Res :=
  int1 s g d a m false (aluClz)

/-- `ctz` (R234). -/
def execCtz (g : Guard) (d a : Operand) (m : Option SrcMod) (s : State) : Res :=
  int1 s g d a m false (aluCtz)

/-- `brev` (R234). -/
def execBrev (g : Guard) (d a : Operand) (m : Option SrcMod) (s : State) : Res :=
  int1 s g d a m false (fun _ a => a.reverse)

/-- `mov` (R238). -/
def execMov (g : Guard) (d a : Operand) (m : Option SrcMod) (s : State) : Res :=
  int1 s g d a m false (fun _ a => a)

/-- `sel` (R234): a where qN is T. -/
def execSel (g : Guard) (d a b : Operand) (q : BitVec 4) (m : Option SrcMod) (s : State) : Res :=
  issue s g m [(d, 1)] [(a, 1), (b, 1)] (fun c =>
    c.putInt d (fun n l => if c.i.rod.pred q.toNat l = qT then c.int .a a false n l else c.int .b b false n l))

/-- `ldi` (R239). -/
def execLdi (g : Guard) (mode : LdiMode) (d : Operand) (imm : Word) (s : State) : Res :=
  issue s g none [(d, 1)] [] (fun c =>
    c.putInt d (fun n _ => match mode with
      | .sext => imm.signExtend n
      | .zext => imm.setWidth n
      | .hi => (dword (loWord (match d with | .s k => c.i.rod.un k.toNat | _ => 0)) imm).setWidth n))

/-- Width and signedness of an integer type (R215). -/
def intType : Ty → Nat × Bool
  | .i8 => (8, true)
  | .i16 => (16, true)
  | .i32 => (32, true)
  | .i64 => (64, true)
  | .n8 => (8, false)
  | .n16 => (16, false)
  | .n32 => (32, false)
  | _ => (64, false)

/-- The least and the greatest value of an integer type. -/
def intRange (t : Ty) : Int × Int :=
  if (intType t).2 then (-2 ^ ((intType t).1 - 1), 2 ^ ((intType t).1 - 1) - 1) else (0, 2 ^ (intType t).1 - 1)

/-- The value of the low bits of x as a type. -/
def asType (t : Ty) (x : Nat) : Int := if (intType t).2 then sbits x ((intType t).1 - 1) 0 else (bitsOf x ((intType t).1 - 1) 0 : Nat)

/-- An integer brought into a type by saturation or reduction (R240). -/
def toType (t : Ty) (sat : Bool) (v : Int) : Int :=
  if sat then clampInt (intRange t).1 (intRange t).2 v else asType t (truncInt 64 v)

/-- `cvt` (R240). -/
def execCvt (g : Guard) (dt st : Ty) (sat : Bool) (d a : Operand) (m : Option SrcMod) (s : State) : Res :=
  issue s g m [(d, 1)] [(a, 1)] (fun c =>
    c.putInt d (fun n l => BitVec.ofInt n (toType dt sat (asType st (c.int .a a (intType st).2 64 l).toNat))))

/-- `lea` (R241): once per rod to a uniform register, per lane to a pair. -/
def execLea (g : Guard) (d a b c : Operand) (m : Option SrcMod) (s : State) : Res :=
  issue s g m [(d, 2)] [(a, 2), (b, 1), (c, 1)] (fun x =>
    let v := fun (l : Nat) => x.d64 .a a l + x.int .b b true 64 l <<< ((x.w32 .c c l).toNat % 16)
    match d with
    | .w _ => x.putWords d (fun l => [loWord (v l), hiWord (v l)]) (fun _ => 0)
    | _ => x.putInt d (fun n l => (v l).setWidth n))

/-- `perm` (R242): the value of a in lane b(l)[4:0]. -/
def execPerm (g : Guard) (d a b : Operand) (m : Option SrcMod) (s : State) : Res :=
  issue s g m [(d, 1)] [(a, 0), (b, 1)] (fun c =>
    let from' := fun (l : Nat) => (c.w32 .b b l).toNat % 32
    let c := c.mark (c.i.rod.badReg ((lanes c.g).map (fun l => modLane m .a (from' l))) a 1)
    c.putInt d (fun n l => (c.w32 .a a (from' l)).setWidth n))

/-- `kset` (R243). -/
def execKset (g : Guard) (k : BitVec 2) (imm : BitVec 10) (s : State) : Res :=
  issue s g none [] [] (fun c =>
    finish (c.s.modRod c.i.rid (fun x => (lanes c.g).foldl (fun x l => x.setK k.toNat l imm) x)) c.i)

/-- `kadd` (R244). -/
def execKadd (g : Guard) (k : BitVec 2) (a b : Operand) (m : Option SrcMod) (s : State) : Res :=
  issue s g m [] [(a, 1), (b, 1)] (fun c =>
    finish (c.s.modRod c.i.rid (fun x =>
      (lanes c.g).foldl (fun x l => x.setK k.toNat l ((c.int .a a true 32 l + c.int .b b true 32 l).setWidth 10)) x)) c.i)

/-- The register index a lane reaches (R245). -/
def relIndex (x : Rod) (base k : Nat) (l : Nat) : Int := base + (x.kreg k l).toInt

/-- The index of a lane is out of the window or misaligned (R245). -/
def relBad (x : Rod) (base k n l : Nat) : Bool :=
  decide (relIndex x base k l < 0) || decide ((x.window : Int) < relIndex x base k l + n) || relIndex x base k l % n != 0

/-- `rdx` (R245). -/
def execRdx (g : Guard) (d base : BitVec 8) (k : BitVec 2) (n : NWords) (s : State) : Res :=
  issue s g none [(.w d, n.toNat)] [(.w base, 0)] (fun c =>
    let x := c.i.rod
    if (lanes c.g).any (relBad x base.toNat k.toNat n.toNat) then trap c.old c.i Cause.regidx
    else
      let at' := fun (l : Nat) => (relIndex x base.toNat k.toNat l).toNat
      (c.mark ((lanes c.g).any (fun l => x.badWords [l] (at' l) n.toNat))).putWords (.w d) (fun l => x.lws (at' l) n.toNat l) (fun _ => 0))

/-- `wrx` (R245). -/
def execWrx (g : Guard) (base : BitVec 8) (k : BitVec 2) (b : BitVec 8) (n : NWords) (s : State) : Res :=
  issue s g none [(.w base, 1)] [(.w b, n.toNat)] (fun c =>
    let x := c.i.rod
    if (lanes c.g).any (relBad x base.toNat k.toNat n.toNat) then trap c.old c.i Cause.regidx
    else finish (c.s.modRod c.i.rid (fun y => (lanes c.g).foldl (fun y l =>
      y.setWords (relIndex x base.toNat k.toNat l).toNat l (x.lws b.toNat n.toNat l)) y)) c.i)

end Sys2Proof.Machine
end

