-- ==== Sys2Proof/Machine/Pred.lean ====
section
/-!
DEFINITION. Group 1, predicates: integer comparison, the Kleene forms, votes and moves between predicates and words (R246 to R250).
-/
namespace Sys2Proof.Machine

/-- A relation on numbers (R246). -/
def cmpRel (r : CmpRel) (a b : Int) : Bool :=
  match r with
  | .eq => decide (a = b)
  | .ne => decide (a ≠ b)
  | .lt => decide (a < b)
  | .le => decide (a ≤ b)
  | .gt => decide (b < a)
  | .ge => decide (b ≤ a)

/-- `cmp` (R246). -/
def execCmp (g : Guard) (ty : Ty) (rel : CmpRel) (q : BitVec 4) (a b : Operand) (m : Option SrcMod) (s : State) : Res :=
  issue s g m [] [(a, 1), (b, 1)] (fun c =>
    let v := fun (src : ModSrc) (o : Operand) (l : Nat) => asType ty (c.int src o (intType ty).2 64 l).toNat
    c.putPred q (fun l => qOfBool (cmpRel rel (v .a a l) (v .b b l))))

/-- A Kleene form of two sources (R247). -/
def kleene2 (s : State) (g : Guard) (qd qa qb : BitVec 4) (f : BitVec 2 → BitVec 2 → BitVec 2) : Res :=
  issue s g none [] [] (fun c => c.putPred qd (fun l => f (c.i.rod.pred qa.toNat l) (c.i.rod.pred qb.toNat l)))

/-- A Kleene form of one source (R247). -/
def kleene1 (s : State) (g : Guard) (qd qa : BitVec 4) (f : BitVec 2 → BitVec 2) : Res :=
  issue s g none [] [] (fun c => c.putPred qd (fun l => f (c.i.rod.pred qa.toNat l)))

/-- `qand` (R186, R247). -/
def execQand (g : Guard) (qd qa qb : BitVec 4) (s : State) : Res := kleene2 s g qd qa qb qAnd

/-- `qor` (R186, R247). -/
def execQor (g : Guard) (qd qa qb : BitVec 4) (s : State) : Res := kleene2 s g qd qa qb qOr

/-- `qxor` (R186, R247). -/
def execQxor (g : Guard) (qd qa qb : BitVec 4) (s : State) : Res := kleene2 s g qd qa qb qXor

/-- `qnot` (R186, R247). -/
def execQnot (g : Guard) (qd qa : BitVec 4) (s : State) : Res := kleene1 s g qd qa qNot

/-- `qsure` (R186, R247). -/
def execQsure (g : Guard) (qd qa : BitVec 4) (s : State) : Res := kleene1 s g qd qa qSure

/-- `qmaybe` (R186, R247). -/
def execQmaybe (g : Guard) (qd qa : BitVec 4) (s : State) : Res := kleene1 s g qd qa qMaybe

/-- `qmov` (R247). -/
def execQmov (g : Guard) (qd qa : BitVec 4) (s : State) : Res := kleene1 s g qd qa qNorm

/-- The vote over a list of predicate values (R248). -/
def voteOf (mode : VoteMode) (vs : List (BitVec 2)) : BitVec 2 :=
  match mode with
  | .all => if vs.all (· == qT) then qT else if vs.any (· == qF) then qF else qU
  | .any => if vs.any (· == qT) then qT else if vs.all (· == qF) then qF else qU
  | .same => qOfBool (vs.all (fun v => some (qNorm v) == (vs.map qNorm).head?))

/-- `qvote` (R248). -/
def execQvote (g : Guard) (mode : VoteMode) (qd qa : BitVec 4) (s : State) : Res :=
  issue s g none [] [] (fun c =>
    c.putPred qd (fun _ => voteOf mode ((lanes c.g).map (fun l => c.i.rod.pred qa.toNat l))))

/-- The lanes of G whose predicate holds a value, with 11 taken as U (R249). -/
def Ctx.predMask (c : Ctx) (qa : Nat) (v : BitVec 2) : Mask := maskOf (fun l => c.g.has l && qNorm (c.i.rod.pred qa l) == v)

/-- `qmask` (R249). -/
def execQmask (g : Guard) (mode : MaskMode) (d : Operand) (qa : BitVec 4) (s : State) : Res :=
  issue s g none [(d, 1)] [] (fun c =>
    c.putInt d (fun n l => match mode with
      | .t => (c.predMask qa.toNat qT).setWidth n
      | .f => (c.predMask qa.toNat qF).setWidth n
      | .u => (c.predMask qa.toNat qU).setWidth n
      | .word => (c.i.rod.predWord l).setWidth n))

/-- `qfrom` (R250). -/
def execQfrom (g : Guard) (mode : FromMode) (qd : BitVec 4) (a : Operand) (m : Option SrcMod) (s : State) : Res :=
  issue s g m [] [(a, 1)] (fun c =>
    let v := c.w32 .a a
    match mode with
    | .nz => c.putPred qd (fun l => qOfBool (c.int .a a false 64 l != 0))
    | .code => c.putPred qd (fun l => qNorm ((v l).extractLsb' 0 2))
    | .bit => c.putPred qd (fun l => qOfBool ((v l).getLsbD l))
    | .word => finish (c.s.modRod c.i.rid (fun x => (lanes c.g).foldl (fun x l => x.setPredWord l (v l)) x)) c.i)

end Sys2Proof.Machine
end

