-- ==== Sys2Proof/Machine/Save.lean ====
section
/-!
DEFINITION. Images: the registers of a rod (R407), the divergence stack (R161), the pair stream (R382), matrix descriptors (R357),
and the save image of a chain (R408 to R410); the saving and the resuming of chains (R397, R398).
-/
namespace Sys2Proof.Machine

/-! ### Registers (R407, R410) -/

def wbytes (w : Word) : List Byte := bytesOf 4 w.toNat
def dbytes (d : DWord) : List Byte := bytesOf 8 d.toNat

/-- The k registers of a lane as one word. -/
def Rod.kWord (x : Rod) (l : Nat) : Nat :=
  (x.kreg 0 l).toNat + (x.kreg 1 l).toNat * 2 ^ 16 + (x.kreg 2 l).toNat * 2 ^ 32 + (x.kreg 3 l).toNat * 2 ^ 48

/-- s0 to s63, the predicates and the k registers: 0x040 to 0x3BF of a register image. -/
def Rod.regBytes (x : Rod) : List Byte :=
  (List.range 64).flatMap (fun n => dbytes (x.un n)) ++ (List.range 32).flatMap (fun l => wbytes (x.predWord l)) ++
    (List.range 32).flatMap (fun l => bytesOf 8 (x.kWord l))

/-- Words 0 to n − 1 of every lane. -/
def Rod.wordBytes (x : Rod) (n : Nat) : List Byte := (List.range n).flatMap (fun i => (List.range 32).flatMap (fun l => wbytes (x.lw i l)))

/-- A little-endian number in a list of bytes. -/
def natAt (bs : List Byte) (o n : Nat) : Nat := ofBytes ((bs.drop o).take n)

/-- Read back what `regBytes` wrote, from offset o. -/
def Rod.setRegBytes (x : Rod) (bs : List Byte) (o : Nat) : Rod :=
  let x := (List.range 64).foldl (fun (x : Rod) n => x.setUn n (BitVec.ofNat 64 (natAt bs (o + 8 * n) 8))) x
  let x := (List.range 32).foldl (fun (x : Rod) l => x.setPredWord l (BitVec.ofNat 32 (natAt bs (o + 512 + 4 * l) 4))) x
  (List.range 32).foldl (fun (x : Rod) l =>
    let v := natAt bs (o + 640 + 8 * l) 8
    (List.range 4).foldl (fun (x : Rod) n => x.setK n l (BitVec.ofNat 10 (v >>> (16 * n)))) x) x

/-- Read back words 0 to n − 1 of every lane. -/
def Rod.setWordBytes (x : Rod) (bs : List Byte) (o n : Nat) : Rod :=
  (List.range n).foldl (fun (x : Rod) i => (List.range 32).foldl (fun (x : Rod) l =>
    x.setLw i l (BitVec.ofNat 32 (natAt bs (o + 128 * i + 4 * l) 4))) x) x

/-! ### Stack entries and slots (R161) -/

def frameCode (f : Option Nat) : Nat := f.getD 0xFFFF
def codeFrame (n : Nat) : Option Nat := if n = 0xFFFF then none else some n

def Path.entry (p : Path) (now : Nat) : Nat :=
  1 * 2 ^ 254 + p.idx * 2 ^ 248 + p.pc.bits 55 3 * 2 ^ 195 + p.mask.toNat * 2 ^ 160 + frameCode p.frame * 2 ^ 112 +
    Nat.min (now - p.wait) 0xFFFFFFFF * 2 ^ 64

def SEntry.toNat (now : Nat) : SEntry → Nat
  | .free => 0
  | .path p => p.entry now
  | .frame pc ex ar par =>
    2 * 2 ^ 254 + pc.bits 55 3 * 2 ^ 195 + ex.toNat * 2 ^ 160 + ar.toNat * 2 ^ 128 + frameCode par * 2 ^ 112

def SEntry.ofNat' (x now : Nat) : SEntry :=
  let pc := BitVec.ofNat 64 (bitsOf x 247 195 * 8)
  let m := BitVec.ofNat 32 (bitsOf x 191 160)
  let f := codeFrame (bitsOf x 127 112)
  match bitsOf x 255 254 with
  | 1 => .path { pc := pc, idx := bitsOf x 251 248, mask := m, frame := f, wait := now - bitsOf x 95 64 }
  | 2 => .frame pc m (BitVec.ofNat 32 (bitsOf x 159 128)) f
  | _ => .free

/-- A slot or shadow slot as a path entry; a path that holds a slot has waited 0 cycles since it last held one. -/
def pathBytes (p : Option Path) (now : Nat) : List Byte := bytesOf 32 (match p with | some p => p.entry now | none => 0)

def slotBytes (o : Option Slot) : List Byte := pathBytes (o.map (fun x => x.path)) ((o.map (fun x => x.path.wait)).getD 0)

def imagePath (bs : List Byte) (o now idx : Nat) : Option Path :=
  match SEntry.ofNat' (natAt bs o 32) now with
  | .path p => some { p with idx := idx }
  | _ => none

/-! ### The pair stream (R382) -/

def PairRec.bytes (p : PairRec) : List Byte := wbytes p.i ++ wbytes p.j ++ wbytes p.d2 ++ wbytes p.w3

def PairRec.zero : PairRec := { i := 0, j := 0, d2 := 0, w3 := 0 }

def pairAt (bs : List Byte) (o : Nat) : PairRec :=
  let w := fun (k : Nat) => BitVec.ofNat 32 (natAt bs (o + k) 4)
  { i := w 0, j := w 4, d2 := w 8, w3 := w 12 }

def Stream.image (t : Stream) : List Byte :=
  (List.range 64).flatMap (fun n => (t.queue.getD n PairRec.zero).bytes) ++
  (List.range 32).flatMap (fun l => (t.dealt.get l PairRec.zero).bytes) ++
  bytesOf 8 ((List.range 32).foldl (fun (a : Nat) l => a + (t.cur.get l 0).toNat * 2 ^ (2 * l)) 0) ++
  bytesOf 8 (t.gid * 2 ^ 34 + (if t.opened then 2 ^ 33 else 0) + (if t.ended then 2 ^ 32 else 0) + t.queue.length) ++
  bytesOf 8 (t.cell + t.last * 2 ^ 32) ++ bytesOf 8 (t.ipos + t.jpos * 2 ^ 32) ++
  bytesOf 8 (t.stat.toNat + Nat.min t.nrec 0xFFFFFFFF * 2 ^ 32) ++ List.replicate 472 0

def Stream.ofImage (bs : List Byte) (o : Nat) (op : Option Nat) : Stream :=
  let n := natAt bs (o + 0x608) 8
  { queue := (List.range (Nat.min 64 (bitsOf n 31 0))).map (fun k => pairAt bs (o + 16 * k)),
    dealt := (List.range 32).foldl (fun (t : Tbl PairRec) l => t.put l (pairAt bs (o + 0x400 + 16 * l))) [],
    cur := (List.range 32).foldl (fun (t : Tbl (BitVec 2)) l => t.set l (BitVec.ofNat 2 (natAt bs (o + 0x600) 8 >>> (2 * l))) 0) [],
    gid := bitsOf n 35 34, opened := bitsOf n 33 33 = 1, ended := bitsOf n 32 32 = 1,
    cell := natAt bs (o + 0x610) 4, last := natAt bs (o + 0x614) 4, ipos := natAt bs (o + 0x618) 4, jpos := natAt bs (o + 0x61C) 4,
    stat := BitVec.ofNat 32 (natAt bs (o + 0x620) 4), nrec := natAt bs (o + 0x624) 4, op := op }

/-! ### A rod image (R410) -/

/-- Bytes padded with zeros to a length. -/
def padTo (n : Nat) (bs : List Byte) : List Byte := bs ++ List.replicate (n - bs.length) 0

def slotIdx (o : Option Slot) : Nat := match o with | some x => x.path.idx | none => 0
def shadowIdx (o : Option Path) : Nat := match o with | some p => p.idx | none => 0

def Rod.image (x : Rod) (now : Nat) : List Byte :=
  let head := wbytes x.iflags ++ wbytes x.cause ++ wbytes x.agelimit ++ wbytes x.mflags ++ dbytes x.skid ++ wbytes x.holdlimit ++
    wbytes x.compat ++ wbytes x.held ++ wbytes x.gang ++
    bytesOf 8 (x.window / 8 * 2 ^ 56 + slotIdx x.slotA * 2 ^ 52 + slotIdx x.slotB * 2 ^ 48 + shadowIdx x.shadowA * 2 ^ 44 +
      shadowIdx x.shadowB * 2 ^ 40 + x.gx.length * 2 ^ 32) ++
    (List.range 12).flatMap (fun n => bytesOf 1 (x.flagCount n))
  padTo 0x40 head ++ slotBytes x.slotA ++ slotBytes x.slotB ++ pathBytes x.shadowA now ++
    pathBytes x.shadowB now ++ x.regBytes ++ List.replicate 0xC0 0 ++
    (List.range 32).flatMap (fun l => padTo 256 (x.gx.flatMap (fun c => wbytes (c.vals.getD l 0)))) ++
    x.stream.image ++ padTo 32768 (x.wordBytes x.window)

/-- The image words at which the poisoned words of a rod's registers and of its gather queue stand (R75). -/
def Rod.imageBad (x : Rod) : List Nat :=
  (x.regBad.map (fun k => if k < 8192 then 0x2D00 / 4 + k else 0xC0 / 4 + (k - 8192))) ++
    x.gx.zipIdx.flatMap (fun e => (lanes e.1.bad).map (fun l => 0x500 / 4 + 64 * l + e.2))

/-- A rod from its image at an offset, with the image words that are poisoned; what the image does not hold stays as the rod kept it. Reserved
bits of the registers are ignored (R9). -/
def Rod.ofImage (x : Rod) (bs : List Byte) (bad : List Nat) (o now : Nat) : Rod :=
  let w := fun (k : Nat) => BitVec.ofNat 32 (natAt bs (o + k) 4)
  let win := natAt bs (o + 0x28) 8
  let mk := fun (p : Option Path) => p.map (fun p => Slot.fresh p now)
  let x := { x with
    iflags := w 0 &&& 0xF, cause := w 4 &&& 0xFF037F7F, agelimit := w 8, mflags := w 12 &&& 7, skid := BitVec.ofNat 64 (natAt bs (o + 16) 8), holdlimit := w 0x18,
    compat := w 0x1C &&& 3, held := w 0x20, gang := w 0x24, window := 8 * bitsOf win 63 56, w := [], u := [], q := [], k := [], regBad := [],
    slotA := mk (imagePath bs (o + 0x40) now (bitsOf win 55 52)), slotB := mk (imagePath bs (o + 0x60) now (bitsOf win 51 48)),
    shadowA := imagePath bs (o + 0x80) now (bitsOf win 47 44), shadowB := imagePath bs (o + 0xA0) now (bitsOf win 43 40),
    flags := (List.range 12).foldl (fun (t : Tbl Nat) n => t.set n (natAt bs (o + 0x30 + n) 1) 0) [],
    gx := (List.range (bitsOf win 39 32)).map (fun c =>
      { op := none, vals := (List.range 32).map (fun l => BitVec.ofNat 32 (natAt bs (o + 0x500 + 256 * l + 4 * c) 4)),
        bad := maskOf (fun l => bad.contains (o / 4 + 0x500 / 4 + 64 * l + c)) }),
    stream := Stream.ofImage bs (o + 0x2500) x.stream.op, stores := [], parts := [] }
  let x := (x.setRegBytes bs (o + 0xC0)).setWordBytes bs (o + 0x2D00) x.window
  let within := fun (first n to' : Nat) =>
    (bad.filter (fun k => decide ((o + first) / 4 ≤ k) && decide (k < (o + first) / 4 + n))).map (fun k => k - (o + first) / 4 + to')
  { x with regBad := within 0x2D00 (32 * x.window) 0 ++ within 0xC0 128 8192 }

/-! ### The sections of a chain's image (R408, R409) -/

/-- The operation descriptor of R357: guard and fields a, b and c of the word as 0. -/
def MxOp.descriptor (m : MxOp) : List Byte :=
  let gang := m.gang.foldl (fun (g : Nat) k => g ||| (1 <<< k)) 0
  padTo 64 (dbytes (m.word &&& 0xFF800000001FFFFF) ++ dbytes m.aval ++ dbytes m.bval ++ dbytes m.cval ++ bytesOf 8 (m.prog + gang * 2 ^ 32)) ++
    (List.range 5).flatMap (fun k => bytesOf 64 (m.snap.get k 0))

/-- The fields of the product that a descriptor's word names. -/
def wordFields (w : DWord) (x : MxFields) : MxFields :=
  match decode w with
  | .ok (.mxmm _ y _ _ _) | .ok (.mxim _ y _ _ _) | .ok (.mxcv _ y _ _ _) => y
  | _ => x

/-- An operation taken up from its descriptor: its records are the snapshots (R357). -/
def MxOp.ofDescriptor (m : MxOp) (bs : List Byte) (o : Nat) : MxOp :=
  let d := fun (k : Nat) => BitVec.ofNat 64 (natAt bs (o + 8 * k) 8)
  let snap := fun (k : Nat) => natAt bs (o + 64 + 64 * k) 64
  let lay := fun (k : Nat) => Layout.ofNat' (snap k)
  let kind := match m.kind with
    | .prod x conv _ _ _ _ rra rrb =>
      .prod (wordFields (d 0) x) (conv.map (fun _ => Conv.ofNat' (snap 4))) (bitsOf (d 2).toNat 31 0) (bitsOf (d 3).toNat 31 0) (lay 0) (lay 1)
        (rra.map (fun _ => lay 2)) (rrb.map (fun _ => lay 3))
    | .st v spc _ => .st v spc (lay 0)
    | .sv _ => .sv (d 1)
    | .rs _ => .rs (d 1)
    | .clr _ _ _ => let t := tileOf (d 1).toNat; .clr t.mq t.nq t.off
    | k => k
  { m with word := d 0, aval := d 1, bval := d 2, cval := d 3, prog := natAt bs (o + 0x20) 4, kind := kind,
           snap := (List.range 5).foldl (fun (t : Tbl Nat) k => t.set k (snap k) 0) [] }

/-- The matrix operations of a chain, in scoreboard order. -/
def State.chainMx (s : State) (cid : Nat) : List (Nat × MxOp) :=
  s.ops.filterMap (fun (e : Nat × Op) => if e.2.rod.chain ≠ cid then none else match e.2.kind with | .mx m => some (e.1, m) | _ => none)

def boundTiles (c : Chain) : List Nat := (List.range 8).filter (fun t => (c.tile t).valid)

/-- The MX section. -/
def State.mxSection (s : State) (cid : Nat) (c : Chain) : List Byte :=
  let ops := s.chainMx cid
  let mask := (boundTiles c).foldl (fun (m : Nat) t => m ||| (1 <<< t)) 0
  padTo 64 (bytesOf 2 (ops.length + mask * 2 ^ 8)) ++ (List.range 8).flatMap (fun t => (c.tile t).header (c.tile t).prog) ++
    (boundTiles c).flatMap (fun t => c.tileImage (c.tile t) (c.tile t).prog) ++ ops.flatMap (fun e => e.2.descriptor)

/-- A barrier of 16 bytes. -/
def Bar.image (x : Bar) (arrived : Nat) : List Byte :=
  bytesOf 8 (x.phase % 2 ^ 32 + arrived * 2 ^ 32) ++
    bytesOf 8 ((if x.posted then 2 ^ 63 else 0) + (if x.tagged then 2 ^ 62 else 0) + truncInt 48 x.bytes)

/-- The rods of a chain that have arrived, as a mask. -/
def Bar.arrivedMask (x : Bar) (cid : Nat) : Nat :=
  x.arrived.foldl (fun (m : Nat) k => if (rodOfKey k).chain = cid then m ||| (1 <<< (rodOfKey k).rod) else m) 0

/-- A barrier from its image; the phase keeps the bits above 32 that the rods' tags use. -/
def Bar.ofImage (x : Bar) (bs : List Byte) (o : Nat) (arrived : List Nat → List Nat) : Bar :=
  let lo := natAt bs o 4
  let hi := natAt bs (o + 8) 8
  { x with phase := if x.phase % 2 ^ 32 = lo then x.phase else lo, arrived := arrived x.arrived, posted := bitsOf hi 63 63 = 1,
           tagged := bitsOf hi 62 62 = 1, bytes := sbits hi 47 0, open' := 0 }

/-- The sections of an image in order, as they are to be laid out: none for a section that is absent. -/
def State.sections (s : State) (cid : Nat) (c : Chain) (pool : Option (List (List Word) × Option (List Word))) : List (List Byte) :=
  let rods := (c.rodIds cid).flatMap (fun r => match s.rod r with | some x => x.image s.cycle | none => List.replicate 44288 0)
  let scr := (List.range c.scrSize).map c.byte
  let fe := (List.range ((c.scrSize / 128 + 7) / 8)).map (fun i =>
    BitVec.ofNat 8 ((List.range 8).foldl (fun (m : Nat) j => if c.full (8 * i + j) then m ||| (1 <<< j) else m) 0))
  let stk := (c.rodIds cid).flatMap (fun r => match s.rod r with
    | some x => (List.range x.depth).flatMap (fun i => bytesOf 32 ((x.entry i).toNat s.cycle))
    | none => [])
  let pl := match pool with
    | none => []
    | some (es, recv) =>
      padTo 64 (bytesOf 8 (es.length + (if recv.isSome then 2 ^ 32 else 0))) ++ (recv.getD []).flatMap wbytes ++ es.flatMap (fun e => e.flatMap wbytes)
  let bars := (List.range 16).flatMap (fun n => let x := s.bar (.chain cid n); x.image (x.arrivedMask cid))
  let fb := match s.furlong c.furlong with
    | some f => if 1 < f.size ∧ c.fchn = 0 then (List.range 4).flatMap (fun n => let x := s.bar (.furlong c.furlong n); x.image x.arrived.length) else []
    | none => []
  let mx := if boundTiles c = [] ∧ s.chainMx cid = [] then [] else s.mxSection cid c
  [rods, scr, fe, stk, pl, bars, fb, mx]

/-- Lay sections out from offset 256, each on a multiple of 64: their offsets, 0 for an absent one, and the bytes. -/
def layOut : List (List Byte) → Nat → List Nat × List Byte
  | [], _ => ([], [])
  | x :: rest, o =>
    if x.isEmpty then let (os, bs) := layOut rest o; (0 :: os, bs)
    else
      let y := padTo (alignUp x.length 64) x
      let (os, bs) := layOut rest (o + y.length)
      (o :: os, y ++ bs)

/-- The whole image (R408). -/
def State.chainImage (s : State) (cid : Nat) (c : Chain) (pool : Option (List (List Word) × Option (List Word))) : List Byte :=
  let (os, body) := layOut (s.sections cid c pool) 256
  let (q, ring) := s.queueOf ⟨cid, 0⟩
  let furl := match s.furlong c.furlong with | some f => decide (1 < f.size) && c.fchn == 0 | none => false
  let hnd := (c.rodIds cid).any (fun r => ((s.rod r).map Rod.inHandler).getD false)
  padTo 256 (bytesOf 8 (q * 2 ^ 32 + ring) ++ bytesOf 8 (c.num * 2 ^ 32 + (c.nrod - 1) * 2 ^ 27) ++
    bytesOf 8 ((if furl then 2 ^ 56 else 0) + c.fchn * 2 ^ 52 + (if hnd then 2 ^ 51 else 0) + c.resumes) ++ os.flatMap (bytesOf 8)) ++ body

/-- The words of an image that are poisoned: those of the rods' registers and gather queues and of the scratchpad (R75). -/
def State.imageBad (s : State) (cid : Nat) (c : Chain) (img : List Byte) : List Nat :=
  let sect := fun (k : Nat) => natAt img (0x18 + 8 * k) 8 / 4
  (c.rodIds cid).flatMap (fun r => match s.rod r with
    | some x => x.imageBad.map (fun k => sect 0 + 44288 / 4 * r.rod + k)
    | none => []) ++ c.scrBad.map (fun w => sect 1 + w)

/-! ### Reaching a save slot -/

/-- The frames of a range of memory, by 64-byte blocks, or the page or block that is waited for; none for a violation. -/
def State.slotFrames (s : State) (u : Walker) (asid : Nat) (denied : List Denied) (va : Nat) (kind : XKind) : List Nat → List (Option Nat) →
    Except (DWord × XOut × State) (Option (List (Option Nat)) × State)
  | [], acc => .ok (some acc, s)
  | o :: rest, acc =>
    match s.resolve u asid denied (BitVec.ofNat 64 (va + o)) kind with
    | (.mem pa _, s) =>
      if s.reach pa ≠ .memory then .ok (none, s)
      else if (if kind = .write then s.canPut u.stop pa 64 else s.canGet u.stop pa 64) then s.slotFrames u asid denied va kind rest (acc ++ [some pa])
      else .error (BitVec.ofNat 64 (va + o), .busy pa 64, s)
    | (.zero, s) => s.slotFrames u asid denied va kind rest (acc ++ [none])
    | (.viol, s) => .ok (none, s)
    | (.waits x, s) => .error (BitVec.ofNat 64 (va + o), x, s)

/-- The address of a save slot (R388). -/
def Packet.slotAt (p : Packet) (n : Nat) : Nat := p.svBase.toNat + n * p.svStr

/-! ### Saving (R398) -/

/-- A slot has stopped as for a halt (R402), with no handler to come. -/
def slotQuiet (o : Option Slot) : Bool := slotStopped o

/-- What of a chain's operations a save waits for (R382, R398): all but matrix operations with steps and pair streams. -/
def saveWaits (o : Op) : Bool :=
  match o.kind with
  | .mx m => match m.kind with | .rd .. => true | _ => false
  | .nb _ _ (.pair _) => false
  | _ => true

/-- An operation that stands at a full/empty line which no one is left to change. -/
def State.opStuck (s : State) (o : Op) : Bool :=
  match o.kind, s.chain o.rod.chain with
  | .copy c, some ch => !o.susp && (match c.lines.head? with | some l => ch.full l != c.out | none => false)
  | .gather g, some _ =>
    let ps := g.reads.filterMap (fun r => match vaKind r.2.2 with
      | .scratch off => some (r, o.rod.chain, off + 4 * r.2.1)
      | .furlong off => (s.furlongPlace o.rod.chain off (4 * g.words)).map (fun p => (r, p.1, p.2 + 4 * r.2.1))
      | _ => none)
    !o.susp && ps.length == g.reads.length && ps != [] && (s.gatherNow ps).isEmpty
  | _, _ => false

/-- A chain that is being saved has stopped: its rods, its operations, its stores (R147, R398). -/
def State.chainQuiet (s : State) (cid : Nat) (c : Chain) : Bool :=
  (c.rodIds cid).all (fun r => match s.rod r with
    | some x => slotQuiet x.slotA && slotQuiet x.slotB && s.released r .package
    | none => true) &&
  s.ops.all (fun (e : Nat × Op) => e.2.rod.chain != cid || !saveWaits e.2)

/-- Only stuck operations keep the chain from being saved: it cannot be saved. -/
def State.chainStuck (s : State) (cid : Nat) (c : Chain) : Bool :=
  (c.rodIds cid).all (fun r => match s.rod r with
    | some x => slotQuiet x.slotA && slotQuiet x.slotB
    | none => true) &&
  s.ops.any (fun (e : Nat × Op) => e.2.rod.chain == cid && s.opStuck e.2)

/-- The chain is the launch's last on its core. -/
def State.lastOnCore (s : State) (cid : Nat) (c : Chain) : Bool :=
  (s.residents c.core).all (fun e => e.1 == cid || e.2.launch != c.launch)

/-- Take the pool segment of a core out for an image (R409): entries go to the spill area, oldest first, while it has room; the rest
and the receive item are for the image. -/
def State.takeSegment (s : State) (u : PoolFor) (p : Packet) : List (List Word) → PTry (List (List Word))
  | [] => .ok ([], s)
  | item :: rest =>
    match s.spillAll u p [item] with
    | .error e => .error e
    | .ok (.stored, s) => s.takeSegment u p rest
    | .ok (_, s) => .ok (item :: rest, s)

/-- Release what a chain holds of its core: its place, its stacks and its allocation are free once its state is `saved`. -/
def State.dropSegment (s : State) (lid : Nat) (core : CoreId) : State :=
  (s.setSeg lid core none).withdrawSteals (fun l t => l == lid && t == core)

/-- The status so far of the chain's open streams: SPILLED while their grid has spilled particles (R369, R382). -/
def State.noteSpills (s : State) (cid : Nat) : State :=
  s.ops.foldl (fun (s : State) (e : Nat × Op) => match e.2.kind with
    | .nb die gid (.pair _) =>
      if e.2.rod.chain = cid ∧ ((s.gridFor die gid (s.launchOf e.2.rod)).map Grid.nspill).getD 0 ≠ 0 then
        s.modRod e.2.rod (fun x => { x with stream := { x.stream with stat := x.stream.stat ||| 2 } })
      else s
    | _ => s) s

/-- Write one quiet chain's image to its slot (R398): the state with the chain saved, the page it waits for, or a slot that cannot
be reached. -/
def State.saveChain (s : State) (cid : Nat) (c : Chain) (p : Packet) (slot : Nat) : Except PStop (Bool × State) :=
  let u := s.poolFor c.launch c.core
  let seg := if s.lastOnCore cid c then s.seg c.launch c.core else none
  let taken : PTry (Option (List (List Word) × Option (List Word))) := match seg with
    | none => .ok (none, s)
    | some g => match s.takeSegment u p g.entries.reverse with
      | .ok (es, s) => .ok (some (es, g.recv.map Prod.fst), s)
      | .error e => .error e
  match taken with
  | .error e => .error e
  | .ok (pool, s1) =>
    let s1 := s1.noteSpills cid
    let img := s1.chainImage cid c pool
    let bad := s1.imageBad cid c img
    match s1.slotFrames (.core c.core) (s.asidOfLaunch c.launch) u.denied (p.slotAt slot) .write (blocksOf img.length) [] with
    | .error (va, x, t) => .error (.page va .write x t)
    | .ok (none, _) => .ok (false, s)
    | .ok (some fs, s1) =>
      let s1 := fs.zipIdx.foldl (fun (s : State) e => match e.1 with
        | some pa => (bad.filter (fun k => k / 16 == e.2)).foldl (fun (s : State) k => s.setPoison (pa / 4 + k % 16) true)
            (s.writeHome (stopOf c.core.die) pa ((img.drop (64 * e.2)).take 64))
        | none => s) s1
      let s1 := if seg.isSome then s1.dropSegment c.launch c.core else s1
      .ok (true, s1.setChain cid { c with state := .saved slot, units := [], recvBy := seg.bind (fun g => g.recv.map Prod.snd), latches := [] })

/-! ### Resuming (R398, R152) -/

/-- A chain from its image, with the image words that are poisoned; what the image does not hold stays as it was kept. -/
def State.restoreChain (s : State) (cid : Nat) (c : Chain) (bs : List Byte) (bad : List Nat) : State :=
  let sect := fun (k : Nat) => natAt bs (0x18 + 8 * k) 8
  let now := s.cycle
  let s := (c.rodIds cid).foldl (fun (s : State) r => s.modRod r (fun x =>
    let x := x.ofImage bs bad (sect 0 + 44288 * r.rod) now
    { x with stack := (List.range x.depth).foldl (fun (t : Tbl SEntry) i =>
        t.set i (SEntry.ofNat' (natAt bs (sect 3 + 32 * (x.depth * r.rod + i)) 32) now) .free) [] })) s
  let bar := fun (n : Nat) (x : Bar) => x.ofImage bs (sect 5 + 16 * n) (fun old =>
    let m := natAt bs (sect 5 + 16 * n + 4) 4
    if x.arrivedMask cid = m then old else ((List.range 32).filter (fun k => m.testBit k)).map (fun k => rodKey ⟨cid, k⟩))
  let bars := (List.range 16).foldl (fun (t : Tbl Bar) n => t.set n (bar n (c.bars.get n Bar.reset)) Bar.reset) []
  let mx := sect 7
  let tiles := if mx = 0 then [] else (List.range 8).foldl (fun (t : Tbl Tile) k =>
    t.set k (Tile.ofHeader (natAt bs (mx + 64 + 64 * k) 64)) Tile.reset) []
  let c := { c with
    num := natAt bs 0x0C 4, resumes := natAt bs 0x10 4 + 1,
    scr := (List.range c.scrSize).foldl (fun (t : Tbl Byte) i => t.set i (bs.getD (sect 1 + i) 0) 0) [],
    scrBad := (bad.filter (fun k => decide (sect 1 / 4 ≤ k) && decide (k < sect 1 / 4 + c.scrSize / 4))).map (fun k => k - sect 1 / 4),
    fe := (List.range (c.scrSize / 128)).foldl (fun (t : Tbl Bool) i => t.set i ((natAt bs (sect 2 + i / 8) 1).testBit (i % 8)) true) [],
    bars := bars, tiles := tiles, acc := [] }
  let bound := if mx = 0 then [] else (List.range 8).filter (fun t => (natAt bs (mx + 1) 1).testBit t)
  let (c, o) := bound.foldl (fun (acc : Chain × Nat) t =>
    let y := acc.1.tile t
    (acc.1.restoreElems y (bs.drop (acc.2 + 64)) (fun _ => false), acc.2 + y.imageLen)) (c, mx + 64 + 512)
  let s := s.setChain cid c
  let s := match s.furlong c.furlong with
    | some f =>
      if sect 6 = 0 then s
      else { s with furlongs := s.furlongs.put c.furlong { f with bars := (List.range 4).foldl (fun (t : Tbl Bar) n =>
        t.set n ((f.bars.get n Bar.reset).ofImage bs (sect 6 + 16 * n) id) Bar.reset) f.bars } }
    | none => s
  (s.chainMx cid).zipIdx.foldl (fun (s : State) e => s.setOpKind e.1.1 (.mx (e.1.2.ofDescriptor bs (o + 384 * e.2)))) s

/-- An open stream continues on the slot its image names, on the die where its rod now runs, and reads positions afresh (R382). -/
def State.moveStreams (s : State) (cid die : Nat) : State :=
  s.ops.foldl (fun (s : State) (e : Nat × Op) =>
    match e.2.kind with
    | .nb _ _ (.pair _) =>
      if e.2.rod.chain = cid then s.setOpKind e.1 (.nb die (((s.rod e.2.rod).map (·.stream.gid)).getD 0) (.pair [])) else s
    | _ => s) s

/-- The pool entries and receive item of an image, for the segment of the core it resumes on, newest first. -/
def imagePool (bs : List Byte) : List (List Word) × Option (List Word) :=
  let o := natAt bs (0x18 + 32) 8
  if o = 0 then ([], none)
  else
    let n := natAt bs o 4
    let item := fun (k : Nat) => (List.range 16).map (fun i => BitVec.ofNat 32 (natAt bs (k + 4 * i) 4))
    let recv := natAt bs (o + 4) 1 % 2 = 1
    let first := o + 64 + (if recv then 64 else 0)
    (((List.range n).map (fun k => item (first + 64 * k))).reverse, if recv then some (item (o + 64)) else none)

/-- The rods of a chain that resumes take rod slots, one after another (R435). -/
def State.takeRslots (s : State) (cid : Nat) (c : Chain) : State :=
  let s := (c.rodIds cid).foldl (fun (s : State) q => s.modRod q (fun x => { x with rslot := 16 })) s
  (c.rodIds cid).foldl (fun (s : State) q => s.modRod q (fun x => { x with rslot := s.freeRslot c.core (quadOf q) })) s

/-- Resume a saved chain on a core (R59, R147, R152, R398): its image is read, the chain restored, the slot freed. The pool entries of its image
come before those that the launch's segment on the core already holds, and an item in the receive slot there goes back (log 54). -/
def State.resumeChain (s : State) (cid : Nat) (c : Chain) (p : Packet) (slot : Nat) (core : CoreId) (r : Room) : Except PStop (Bool × State) :=
  let lid := c.launch
  let u := s.poolFor lid core
  match s.slotFrames (.core core) (s.asidOfLaunch lid) u.denied (p.slotAt slot) .read (blocksOf p.svStr) [] with
  | .error (va, x, t) => .error (.page va .read x t)
  | .ok (none, _) => .ok (false, s)
  | .ok (some fs, s) =>
    let bs := fs.flatMap (fun f => match f with | some pa => s.curBytes pa 64 | none => List.replicate 64 0)
    let bad := fs.zipIdx.flatMap (fun e => match e.1 with
      | some pa => ((List.range 16).filter (fun i => (s.curWord (pa / 4 + i)).bad)).map (fun i => 16 * e.2 + i)
      | none => [])
    let s := ((s.receiveLaunch core lid).acquireAt core .package).openSegment lid core r
    let (es, recv) := imagePool bs
    let s := match s.seg lid core with
      | some g =>
        let s := match recv, c.recvBy, g.recv with
          | some _, some _, some (w, k) => s.toDie core.die k.die (.stolenItemReturn lid k w)
          | _, _, _ => s
        s.setSeg lid core (some { g with entries := es ++ g.entries, recv := match recv, c.recvBy with | some w, some k => some (w, k) | _, _ => g.recv })
      | none => s
    let c := { c with core := core, scrBase := Config.scrUnit * r.base, units := r.stack, accBase := r.acc, state := .resident, recvBy := none }
    let s := (((s.setChain cid c).restoreChain cid c bs bad).takeRslots cid c).moveStreams cid core.die
    let s := (c.rodIds cid).foldl (fun (s : State) q => match s.rod q with
      | some x => if x.run = .halted then s.send (.handlerEntry q) else s.checkHalt q
      | none => s) s
    .ok (true, s.modCmd lid (fun x => { x with slots := x.slots.filter (· ≠ slot) }))

end Sys2Proof.Machine
end

