-- ==== Sys2Proof/Machine/Sched.lean ====
section
/-!
DEFINITION. Commands (R384 to R391, R430): fetch, refusal, readiness, completion and publication; the scheduler (R392 to R395, R470);
cancellation (R328, R396); pre-emption (R397, R398); device launches (R327) and `exit` (R167, R257).
-/
namespace Sys2Proof.Machine

/-! ### Completion and publication (R390, R391, R430) -/

def CmdState.isDone : CmdState → Bool
  | .complete | .published => true
  | _ => false

def Cmd.isDone (c : Cmd) : Bool := c.state.isDone

/-- The status word of a publication is written (R391). -/
def State.putStatus (s : State) (q asid va v : Nat) : Except (Nat × Nat) State :=
  match s.translate (.io (q / 512)) asid va .write with
  | (.frame pa _, s) => s.writePhys (.io (q / 512)) pa 8 v
  | (.busy pa n, _) => .error (pa, n)
  | (_, s) => .ok s

/-- Publish a level's status through a counter (R391): the status word, then the increment; dropped, with event 0x17, where the
counter can no longer be reached. The error is a range of memory that something is under way at. -/
def State.publish (s : State) (q asid : Nat) (va : DWord) (code reason : Nat) : Except (Nat × Nat) State :=
  if va = 0 then .ok s
  else
    match s.counterPlace (.io (q / 512)) asid va.toNat .write with
    | .at' pa =>
      if ¬ (s.canPut (ioStop (q / 512)) pa 8) then .error (pa, 8)
      else
        match s.putStatus q asid (va.toNat + 8) (code + reason * 2 ^ 8) with
        | .ok s => .ok ((s.writeHome (ioStop (q / 512)) pa (bytesOf 8 (s.curNat pa 8 + 1))).noteCounters s none pa 8)
        | .error x => .error x
    | .busy pa n => .error (pa, n)
    | _ => .ok (s.event q (eventRecord asid 0 0x17 va.toNat))

/-- Every earlier command of the queue has published (R430). -/
def State.inOrder (s : State) (c : Cmd) : Bool :=
  s.cmds.all (fun (e : Nat × Cmd) => e.2.queue != c.queue || decide (c.seq ≤ e.2.seq) || e.2.state == .published)

/-- Commands of a level's identity, among those appended before a number and after the level's last publication (R390). -/
def State.levelCmds (s : State) (e : Cmd) (l : Level) : List (Nat × Cmd) :=
  let same := fun (c : Cmd) => c.known && c.asid == e.asid && idsAt c.ids l == idsAt e.ids l
  let from' := s.cmds.foldl (fun (n : Nat) x => if same x.2 ∧ x.2.pubs.contains l ∧ x.2.waitSeq < e.waitSeq then Nat.max n x.2.waitSeq else n) 0
  s.cmds.filter (fun (x : Nat × Cmd) => same x.2 && decide (x.2.seq < e.waitSeq) && decide (from' ≤ x.2.seq))

/-- A level that an END command ends is complete: every member appended before that command was fetched has published, and no slot
appended before it is still unfetched in a queue of the address space. -/
def State.levelReady (s : State) (n : Nat) (l : Level) : Bool :=
  match s.cmd n with
  | none => false
  | some e =>
    e.known && e.state == .published && endsLevel e.ids l && l != .launch && !e.pubs.contains l &&
    s.queues.all (fun (q : Nat × Queue) => q.2.qcfg.bits 47 32 != e.asid || q.2.seqs.all (fun x => decide (e.waitSeq ≤ x))) &&
    (s.levelCmds e l).all (fun x => x.2.state == .published)

/-- The levels published before a level (R391). -/
def levelsBefore : Level → List Level
  | .launch => []
  | .graph => [.launch]
  | .phase => [.launch, .graph]
  | .job => [.launch, .graph, .phase]

/-- A level of a command may be published: the lower levels that its members end, and that are complete too, have been (R391). -/
def State.levelTurn (s : State) (n : Nat) (l : Level) : Bool :=
  match s.cmd n with
  | none => false
  | some e => (s.levelCmds e l).all (fun x => (levelsBefore l).all (fun k => !s.levelReady x.1 k))

/-- Ask for the publications that have become due. -/
def State.askPublish (s : State) : State :=
  let s := s.cmds.foldl (fun (s : State) e =>
    if e.2.state == .complete && s.inOrder e.2 then s.send (.levelComplete .launch e.1) else s) s
  [Level.graph, .phase, .job].foldl (fun (s : State) l => s.cmds.foldl (fun (s : State) e =>
    if s.levelReady e.1 l then s.send (.levelComplete l e.1) else s) s) s

/-- A command completes with a code and a reason: its grid slots and segments are released (R361). -/
def State.completeCmd (s : State) (n code reason : Nat) : State :=
  match s.cmd n with
  | none => s
  | some c =>
    if c.isDone then s
    else
      let s := s.setCmd n { c with state := .complete, code := Nat.max c.code code, reason := if c.reason = 0 then reason else c.reason, segs := [] }
      let s := { s with dies := s.dies.map (fun (e : Nat × Die) =>
        (e.1, { e.2 with grids := e.2.grids.keep (fun _ g => g.owner != n) })) }
      (s.withdrawSteals (fun l _ => l == n)).askPublish

/-- A refusal (R389): event 0x18, and completion with CODE 1. -/
def State.refuseCmd (s : State) (n reason : Nat) : State :=
  match s.cmd n with
  | none => s
  | some c => (s.event c.queue (eventRecord c.asid 0 0x18 (reason * 2 ^ 56 + c.ring))).completeCmd n 1 reason

/-! ### The end of a chain (R150, R167, R394) -/

/-- A charge in whole core-cycles (R394). -/
def chargeOf (n : Nat) : Nat := (n + 839) / 840

/-- EST(L) (R394). -/
def Cmd.est (c : Cmd) : Nat :=
  let l := c.charges.take 16
  if l = [] then 4096 else (l.sum + l.length - 1) / l.length

/-- DEF saturates in 32 bits (R384). -/
def satDef (x : Int) : Int := clampInt (-(2 ^ 31)) (2 ^ 31 - 1) x

def State.addDef (s : State) (q : Nat) (x : Int) : State := let y := s.queue q; s.setQueue q { y with def' := satDef (y.def' + x) }

/-- Check the barriers that a chain or rod which has ended may have been missing at (R324). -/
def State.checkBars (s : State) (c : Chain) (cid : Nat) : State :=
  let s := (List.range 16).foldl (fun (s : State) n => s.checkBar (.chain cid n)) s
  let s := (List.range 4).foldl (fun (s : State) n => s.checkBar (.furlong c.furlong n)) s
  (List.range 2).foldl (fun (s : State) n => s.checkBar (.launch c.launch n)) s

/-- The stores of a chain's rods that are not yet package-granted. -/
def State.chainStores (s : State) (cid : Nat) (c : Chain) : List (CoreId × Nat) :=
  (c.rodIds cid).flatMap (fun r => match s.rod r with | some x => x.stores.map (fun wd => (c.core, wd)) | none => [])

/-- A chain leaves: its rods, operations and place go, and the charge of one that retires is settled (R394). -/
def State.removeChain (s : State) (cid : Nat) (c : Chain) (retired : Bool) : State :=
  let owed := s.chainStores cid c
  let s := { s with rods := s.rods.keep (fun k _ => (rodOfKey k).chain != cid), chains := s.chains.erase cid,
                    ops := s.ops.keep (fun _ o => o.rod.chain != cid) }
  let s := if s.chains.any (fun (e : Nat × Chain) => e.2.furlong == c.furlong) then s else { s with furlongs := s.furlongs.erase c.furlong }
  let s := match s.cmd c.launch with
    | some x => if retired then s.addDef x.queue ((x.est : Int) - chargeOf c.charge) else s
    | none => s
  let s := s.modCmd c.launch (fun x =>
    let cs := if retired then (chargeOf c.charge :: x.charges).take 16 else x.charges
    { x with live := x.live.filter (· ≠ cid), charges := cs, owed := x.owed ++ owed })
  { s with roundDue := s.roundDue || retired }.checkBars c cid

/-- A chain all of whose lanes have exited retires (R167); its segment's entries may have to wait for a page (R471). -/
def State.retireChain (s : State) (cid : Nat) (denied : List Denied) : PTry Unit :=
  match s.chain cid with
  | none => .ok ((), s)
  | some c =>
    match s.packet c.launch with
    | none => .ok ((), s)
    | some p =>
      let released := if s.lastOnCore cid c then s.releaseSegment { s.poolFor c.launch c.core with denied := denied } p else .ok ((), s)
      match released with
      | .error e => .error e
      | .ok (_, s) =>
        let s := (s.removeChain cid c true).modCmd c.launch (fun x => { x with retired := x.retired + 1 })
        match s.cmd c.launch with
        | some x => .ok ((), if x.retired = p.chains ∧ x.live = [] then s.completeCmd c.launch 0 0 else s)
        | none => .ok ((), s)

/-- `exit` (R160, R167, R257): it waits as `xfence`, traps at itself on late causes, and otherwise removes its lanes. -/
def execExit (g : Guard) (s : State) : Res :=
  withIss s (fun i =>
    let m := i.part g
    if m = 0 then finish s i
    else if ¬ s.opsDone i.rid then wait s i .ops
    else if i.rod.lateCauses ≠ 0 ∧ i.rod.inHandler = false then trap s i 0
    else
      let s1 := s.outstand (s.launchOf i.rid) (-(count (m &&& i.rod.held) : Int))
      let s1 := s1.modRod i.rid (fun x => { x with held := x.held &&& ~~~m })
      if i.slot.path.mask &&& ~~~m ≠ 0 then finish (s1.modRod i.rid (fun x => (x.dropLanes m).mergeOld s.cycle)) i
      else
        let s1 := s1.modRod i.rid (fun x => (x.issued i.sl).exitLanes i.sl m s.cycle)
        if ((s1.rod i.rid).map Rod.live).getD 0 ≠ 0 then .next (s1.checkHalt i.rid)
        else
          match s1.chain i.rid.chain with
          | none => .next s1
          | some c =>
            let s1 := s1.modRod i.rid (fun x => { x with slotA := none, slotB := none, stack := [], run := .running })
            if (c.rodIds i.rid.chain).any (fun r => ((s1.rod r).map Rod.live).getD 0 != 0) then .next (s1.checkBars c i.rid.chain)
            else
              match s1.retireChain i.rid.chain i.denied with
              | .ok (_, s) => .next s
              | .error (.page va kind x t) =>
                wait (s.askPage (.core c.core) (s.asidOf i.rid) va.toNat kind x (t.queueOf i.rid).1) i
                  (if x.suspends then .translation else .memory)
              | .error .memory => wait s i .memory)

/-! ### Cancellation (R328, R396) -/

/-- A slot of a cancelled chain has stopped: at a clause boundary, or at an instruction that waits. -/
def slotCancelled (o : Option Slot) : Bool :=
  match o with
  | none => true
  | some x => x.started.isNone || x.stopped || (x.wait.isSome && !(x.wait.map Wait.issued).getD false)

/-- A cancelled chain can go: its rods have stopped, and no issued operation is left that can still act. -/
def State.chainGone (s : State) (cid : Nat) (c : Chain) : Bool :=
  !c.here ||
  ((c.rodIds cid).all (fun r => match s.rod r with | some x => slotCancelled x.slotA && slotCancelled x.slotB | none => true) &&
   s.ops.all (fun (e : Nat × Op) => e.2.rod.chain != cid || s.opStuck e.2 ||
     (match e.2.kind with | .nb _ _ (.pair _) => true | .gather _ => !e.2.susp | _ => false)))

/-- Discard a cancelled chain; a segment it was the last to use goes with its items. -/
def State.discardChain (s : State) (cid : Nat) (c : Chain) : State :=
  let s := if c.here && s.lastOnCore cid c then s.dropSegment c.launch c.core else s
  let slot := match c.state with | .saved n | .saving n => some n | .resident => none
  (s.removeChain cid c false).modCmd c.launch (fun x => { x with slots := x.slots.filter (fun n => some n != slot) })

/-- Release the rods of a hold that a chain of a launch caused (R396). -/
def State.releaseHeld (s : State) (c : CoreId) : State :=
  let chains := s.heldChains c
  let s := s.setCore c { s.core c with isHeld := false, holdRod := none, holdEnd := none }
  let s := s.setDie c.die { s.die c.die with attach := (s.die c.die).attach &&& ~~~((1 : DWord) <<< c.core) }
  let still := fun (e : Nat × Chain) => s.cores.any (fun (k : Nat × Core) =>
    k.2.isHeld && (s.heldChains (coreOfKey k.1)).any (fun x => x.1 == e.1))
  let s := chains.foldl (fun (s : State) e => if still e then s else
    (e.2.rodIds e.1).foldl (fun (s : State) r => s.modRod r (fun x => { x with frozen := false, stage := [] })) s) s
  { s with roundDue := true }

/-- A rod of a cancelled chain is held no longer, and issues nothing more if it was (R396). -/
def Rod.shed (y : Rod) : Rod :=
  let stop := fun (z : Slot) => { z with started := none, wait := none }
  if y.frozen then { y with frozen := false, run := .running, slotA := y.slotA.map stop, slotB := y.slotB.map stop } else y

/-- A cancelled chain that is held is released (R396), and with it the hold that it caused. -/
def State.shedChain (s : State) (cid : Nat) (c : Chain) : State :=
  let s := (c.rodIds cid).foldl (fun (s : State) r => s.modRod r Rod.shed) s
  if (c.rodIds cid).any (fun r => (s.core c.core).holdRod == some r) then s.releaseHeld c.core else s

/-- The effects of a cancel on one command that has not completed. -/
def State.cancelCmd (s : State) (n code : Nat) : State :=
  match s.cmd n with
  | none => s
  | some x =>
    if x.isDone ∨ x.cancelled then s
    else if x.live = [] then (s.setCmd n { x with cancelled := true }).completeCmd n code 0
    else
      let s := s.setCmd n { x with cancelled := true, code := code }
      let s := x.live.foldl (fun (s : State) cid =>
        match s.chain cid with
        | none => s
        | some c => s.shedChain cid c) s
      s.send (.levelComplete .launch n)

/-- Cancel every command that p holds of. -/
def State.cancelAll (s : State) (p : Cmd → Bool) (code : Nat) : State :=
  s.cmds.foldl (fun (s : State) e => if p e.2 then s.cancelCmd e.1 code else s) s

/-- A cancel covers a command. -/
def Cancel.covers (k : Cancel) (c : Cmd) : Bool :=
  (match k.level with
   | .launch => c.queue == k.queue && c.ring == k.idx
   | l => c.known && c.asid == k.asid && idsAt c.ids l == k.id) && k.upTo.all (fun n => decide (c.seq < n))

/-- A fetched command ends a cancel (R396): the named slot, or the level's END command. -/
def Cancel.endedBy (k : Cancel) (c : Cmd) : Bool := k.covers c && (k.level == .launch || endsLevel c.ids k.level)

/-- A command that ends a cancel has been fetched, and what it ends has not completed. -/
def State.endFetched (s : State) (k : Cancel) : Bool :=
  s.cmds.any (fun (e : Nat × Cmd) => k.endedBy e.2 && (if k.level = .launch then !e.2.isDone else !e.2.pubs.contains k.level))

/-- A cancel is still in force after a fetch (R396): the command fetched does not end it, and a slot that it may reach is unfetched. -/
def State.inForce (s : State) (c : Cmd) (k : Cancel) : Bool :=
  match k.upTo with
  | none => !k.endedBy c
  | some n => s.queues.any (fun (e : Nat × Queue) => e.2.seqs.any (fun q => decide (q < n)))

/-- A cancel: every fetched command it covers is cancelled, and it stays in force until a command that ends it has been fetched; if
one has been, it reaches the commands appended so far. -/
def State.cancel (s : State) (k : Cancel) : State :=
  let s := if s.endFetched k then (if k.level = .launch then s else { s with cancels := s.cancels ++ [{ k with upTo := some s.appended }] })
    else { s with cancels := s.cancels ++ [k] }
  s.cancelAll (fun c => k.covers c) 2

/-- `cancel` (R328): no instruction of the issuing rod issues after it. -/
def execCancel (g : Guard) (lvl : Level) (s : State) : Res :=
  withIss s (fun i =>
    if i.part g = 0 then finish s i
    else
      let lid := s.launchOf i.rid
      match s.cmd lid with
      | none => finish s i
      | some c =>
        let k : Cancel := { level := lvl, id := idsAt c.ids lvl, asid := c.asid, queue := c.queue, idx := c.ring, upTo := none }
        let s := s.advance i.rid i.sl
        let s := s.modRod i.rid (fun x => { x with slotA := x.slotA.map (fun y => { y with started := none }),
                                                   slotB := x.slotB.map (fun y => { y with started := none }) })
        .next (s.cancel k))

/-- CANC.BUSY falls when every command cancelled so far has completed (R396). -/
def State.cancIdle (s : State) : State :=
  if s.cmds.any (fun (e : Nat × Cmd) => e.2.cancelled && !e.2.isDone) then s else { s with canc := s.canc &&& 0x7FFFFFFFFFFFFFFF }

/-- A host write of CANC (R396). -/
def State.hostCancel (s : State) (reg : DWord) (k : Cancel) : State :=
  if s.canc.getLsbD 63 then s else ({ s with canc := reg ||| (1 <<< 63) }.cancel k).cancIdle

/-- `CANC_LAUNCH` (R396). -/
def execCancLaunch (queue : BitVec 16) (idx : Word) (s : State) : Res :=
  .next (s.hostCancel (BitVec.ofNat 64 (queue.toNat * 2 ^ 42 + idx.toNat)) { level := .launch, id := 0, asid := 0, queue := queue.toNat, idx := idx.toNat, upTo := none })

def cancReg (lvl : Nat) (id asid : BitVec 16) : DWord := BitVec.ofNat 64 (lvl * 2 ^ 58 + id.toNat * 2 ^ 42 + asid.toNat)

/-- `CANC_GRAPH` (R396). -/
def execCancGraph (id asid : BitVec 16) (s : State) : Res :=
  .next (s.hostCancel (cancReg 1 id asid) { level := .graph, id := id.toNat, asid := asid.toNat, queue := 0, idx := 0, upTo := none })

/-- `CANC_PHASE` (R396). -/
def execCancPhase (id asid : BitVec 16) (s : State) : Res :=
  .next (s.hostCancel (cancReg 2 id asid) { level := .phase, id := id.toNat, asid := asid.toNat, queue := 0, idx := 0, upTo := none })

/-- `CANC_JOB` (R396). -/
def execCancJob (id asid : BitVec 16) (s : State) : Res :=
  .next (s.hostCancel (cancReg 3 id asid) { level := .job, id := id.toNat, asid := asid.toNat, queue := 0, idx := 0, upTo := none })

/-! ### `LEVEL_COMPLETE` (R390, R391) -/

/-- Accesses of a command's chains that have still to be performed: stores that are pending registration, a stolen item on its way back
(R146). -/
def State.owing (s : State) (n : Nat) (c : Cmd) : Bool :=
  c.owed.any (fun e => !s.grantedAt e.1 .package [e.2]) ||
    s.under.any (fun m => match m with | .stolenItemReturn lid _ _ => lid == n | _ => false)

/-- A launch's own completion: a cancelled launch first sheds its chains; then the command publishes in its queue's order. -/
def State.launchLevel (s : State) (n : Nat) (x : Cmd) : State :=
  let s := if x.cancelled ∧ ¬ x.isDone then
      let s := x.live.foldl (fun (s : State) cid => match s.chain cid with
        | some c => let s := s.shedChain cid c; if s.chainGone cid c then s.discardChain cid c else s
        | none => s) s
      match s.cmd n with
      | some y => if y.live = [] then s.completeCmd n y.code 0 else s.send (.levelComplete .launch n)
      | none => s
    else s
  match s.cmd n with
  | some y =>
    if y.state ≠ .complete ∨ ¬ s.inOrder y then s.cancIdle
    else if s.owing n y then s.send (.levelComplete .launch n)
    else
      match s.publish y.queue y.asid (y.counter .launch) y.code y.reason with
      | .ok s => (s.modCmd n (fun z => { z with state := .published, owed := [] })).askPublish.cancIdle
      | .error (pa, k) => (s.clearWay pa k).send (.levelComplete .launch n)
  | none => s

/-- `LEVEL_COMPLETE` (R390, R391). -/
def execLevelComplete (lvl : Level) (cmd : Nat) (s : State) : Res :=
  match s.cmd cmd with
  | none => .next s
  | some x =>
    if lvl = .launch then .next (s.launchLevel cmd x)
    else if ¬ (s.levelReady cmd lvl && s.levelTurn cmd lvl) then .next s
    else
      let ms := s.levelCmds x lvl
      let code := ms.foldl (fun (n : Nat) e => Nat.max n e.2.code) 0
      let first := leastOf (fun (e : Nat × Cmd) => e.2.seq) (ms.filter (fun e => e.2.code == 1))
      let reason := if code = 1 then (first.map (fun e => e.2.reason)).getD 0 else 0
      match s.publish x.queue x.asid (x.counter lvl) code reason with
      | .ok s => .next (s.modCmd cmd (fun y => { y with pubs := lvl :: y.pubs })).askPublish
      | .error (pa, n) => .next ((s.clearWay pa n).send (.levelComplete lvl cmd))

/-! ### Queues (R384, R385) -/

def Queue.dev (q : Queue) : Bool := q.qcfg.getLsbD 62
def Queue.en (q : Queue) : Bool := q.qcfg.getLsbD 63 && decide (4 ≤ q.log2) && decide (q.log2 ≤ 16)

/-- Slots are appended (R390). -/
def State.append (s : State) (q : Nat) (n : Nat) : State :=
  let x := s.queue q
  { s.setQueue q { x with widx := x.widx + BitVec.ofNat 32 n, seqs := x.seqs ++ (List.range n).map (s.appended + ·) } with appended := s.appended + n }

/-- `WIDX_WRITE` (R384). -/
def execWidxWrite (q : Nat) (v : DWord) (s : State) : Res :=
  let x := s.queue q
  let n := (loWord v - x.ridx).toNat
  if x.dev ∨ 2 ^ x.log2 < n then .next s
  else if x.holds ≤ n then .next (s.append q (n - x.holds))
  else .next (s.setQueue q { x with widx := loWord v, seqs := x.seqs.take n })

/-- `QPUSH` (R384); the step takes it up once nothing is under way at the slot. -/
def execQpush (q : Nat) (v : DWord) (s : State) : Res :=
  let x := s.queue q
  if ¬ x.dev ∨ 2 ^ x.log2 ≤ x.holds then .next s
  else
    match s.writePhys (.io (q / 512)) (x.slotAt x.widx) 8 v.toNat with
    | .ok s => .next (s.append q 1)
    | .error _ => .next s

/-- Commands of a queue that are fetched and not complete (R392). -/
def State.openCmds (s : State) (q : Nat) : Nat := (s.cmds.filter (fun (e : Nat × Cmd) => e.2.queue == q && !e.2.isDone)).length

/-- The queue can fetch a slot (R384, R392, R431). -/
def State.canFetch (s : State) (q : Nat) : Bool :=
  let x := s.queue q
  s.queuesOpen && x.en && x.holds != 0 && !x.dlwait && decide (s.openCmds q < 64)

/-- A packet read at fetch: its bytes, none for reason 7, or the state in which the fetch waits (R389). -/
def State.packetParts (s : State) (q asid : Nat) (va : Nat) : Nat → List Byte → Except State (Option (List Byte) × State)
  | 0, bs => .ok (some bs, s)
  | n + 1, bs =>
    let io := q / 512
    let page := (va + bs.length) / 65536
    let den := ((s.iod io).denied.filter (fun d => d.asid == asid)).map (fun d => ({ vpn := d.vpn, kind := .read } : Denied))
    let a := va + bs.length
    if (s.iod io).reqs.any (fun r => r.asid == asid && r.vpn == page && r.kind == 1) then .error s
    else
    match s.resolve (.io io) asid den (BitVec.ofNat 64 a) .read with
    | (.mem pa _, s) =>
      let ws := [0, 1, 2, 3].map (fun i => s.curWord (pa / 4 + i))
      if s.reach pa ≠ .memory then .ok (none, s)
      else if ¬ (s.readable pa 16 && s.wayTo (ioStop io) pa 16) then .error (s.clearWay pa 16)
      else if ws.any (fun w => w.bad || w.lost) then .ok (none, s)
      else s.packetParts q asid va n (bs ++ ws.flatMap (fun w => bytesOf 4 w.val.toNat))
    | (.zero, s) => s.packetParts q asid va n (bs ++ List.replicate 16 0)
    | (.viol, s) => .ok (none, s)
    | (.waits x, s) => .error (s.askPage (.io io) asid a .read x q)

/-- The kind of a command of a type with its packet's bytes. -/
def cmdKindOf (type : Nat) (bs : List Byte) : CmdKind :=
  let n := ofBytes bs
  if type = 1 then .launch (Packet.ofNat' n) else if type = 2 then .dma (DmaPkt.ofNat' n) else .neighbour (NbPkt.ofNat' n)

/-- A command just fetched. -/
def Cmd.fresh (q ring asid seq wait : Nat) (kind : CmdKind) (dev : Bool) : Cmd :=
  { queue := q, ring := ring, asid := asid, kind := kind, state := .fetched, code := 0, reason := 0, dev := dev, waitSeq := wait, seq := seq,
    nextChain := 0, retired := 0, requeue := [], moved := 0, fouls := 0, recv := [], cancelled := false, live := [], slots := [], charges := [],
    outstanding := (match kind with | .launch p => 32 * p.nrod * p.chains | _ => 0), segs := [], lbars := [], owed := [], pubs := [], denied := [] }

/-- Take a fetched command in (R389, R396): refused, cancelled, or waiting for its turn. -/
def State.takeIn (s : State) (n : Nat) (c : Cmd) (reason : Nat) : State :=
  let io := c.queue / 512
  let bad := c.levels.filter (fun l => !s.counterOk io c.asid (c.counter l) .write)
  let why := if reason ≠ 0 then reason else s.refusal io c.asid c.kind (c.levels.map (fun l => (l, c.counter l)))
  let hit := s.cancels.any (fun k => k.covers c)
  let s := { s with cancels := s.cancels.filter (s.inForce c) }
  let s := s.setCmd n (if why = 0 then c else { c with kind := bad.foldl CmdKind.dropCounter c.kind })
  if why ≠ 0 then s.refuseCmd n why
  else if hit then (s.modCmd n (fun x => { x with cancelled := true })).completeCmd n 2 0
  else s

/-- A counter that a command names cannot be checked yet: something is under way at a word that its walk needs. -/
def State.countersBusy (s : State) (c : Cmd) : Bool :=
  let late := fun (va : DWord) (k : XKind) => va != 0 && (match s.counterPlace (.io (c.queue / 512)) c.asid va.toNat k with | .busy _ _ => true | _ => false)
  c.levels.any (fun l => late (c.counter l) .write) ||
    (match c.kind with | .launch p => p.ctr.any (fun e => late e.1 .read) | _ => false)

/-- `SLOT_FETCH` (R385, R389, R392); it comes again while something is under way at a word that it reads. -/
def execSlotFetch (q : Nat) (s : State) : Res :=
  let x := s.queue q
  if ¬ s.canFetch q then .next s
  else
    match s.readPhys (.io (q / 512)) (x.slotAt x.ridx) 8 with
    | .error _ => .next s
    | .ok (w, s) =>
    let slot : DWord := BitVec.ofNat 64 w
    let type := slot.bits 3 0
    let asid := x.qcfg.bits 47 32
    let seq := x.seqs.headD 0
    let idx := x.ridx.toNat % 2 ^ x.log2
    let took := fun (s : State) =>
      let x := s.queue q
      s.setQueue q { x with ridx := x.ridx + 1, seqs := x.seqs.drop 1, shadows := x.shadows.erase idx }
    let make := fun (s : State) (kind : CmdKind) (reason : Nat) (dev : Bool) =>
      let s := took s
      let (n, s) := s.fresh
      s.takeIn n (Cmd.fresh q x.ridx.toNat asid seq s.appended kind dev) reason
    if type = 0 then
      let s := took s
      .next { s with cancels := s.cancels.filter (s.inForce (Cmd.fresh q x.ridx.toNat asid seq s.appended .none false)) }.askPublish
    else if 3 < type then .next (make s .none 6 false).askPublish
    else
      match x.shadows.find idx with
      | some bs =>
        if s.countersBusy (Cmd.fresh q x.ridx.toNat asid seq s.appended (cmdKindOf 1 bs) true) then .next s
        else .next (make s (cmdKindOf 1 bs) 0 true).askPublish
      | none =>
        let va := 64 * slot.bits 55 6
        match s.packetParts q asid va (if type = 1 then 32 else 4) [] with
        | .error s => .next s
        | .ok (some bs, s) =>
          if s.countersBusy (Cmd.fresh q x.ridx.toNat asid seq s.appended (cmdKindOf type bs) false) then .next s
          else .next (make s (cmdKindOf type bs) 0 false).askPublish
        | .ok (none, s) =>
          let io := q / 512
          let d := s.iod io
          let s := s.setIod io { d with denied := d.denied.filter (fun r => !(r.asid == asid && (r.vpn == va / 65536 || r.vpn == (va + 511) / 65536))) }
          .next (make s .none 7 false).askPublish

/-- `launch` (R327): refused statuses are tested in the order 2, 3, 1. -/
def execLaunch (g : Guard) (d a b : Operand) (s : State) : Res :=
  issue s g none [(d, 1)] [(a, 2), (b, 1)] (fun c =>
    if c.g = 0 then finish c.s c.i
    else if ¬ (c.s.engineReady c.i.rid && c.s.released c.i.rid .package && !c.s.acquiring c.i.rid && !c.s.unbound c.i.rid) then wait c.old c.i .memory
    else
      let own := c.s.queueOf c.i.rid
      let qv := c.d64 .b b c.low
      let q := if qv = -1 then own.1 else qv.toNat
      let va := (c.d64 .a a c.low).toNat
      let asid := c.s.asidOf c.i.rid
      let put := fun (s : State) (st : Nat) => Ctx.putInt { c with s := s } d (fun n _ => BitVec.ofNat n st)
      let x := c.s.queue q
      if 1024 ≤ q ∨ x.qcfg.bits 47 32 ≠ asid ∨ ¬ x.dev ∨ x.log2 < 4 ∨ 16 < x.log2 then put c.s 2
      else if va % 64 ≠ 0 then put (c.s.raise c.i.rid Cause.accv) 3
      else
        match c.s.slotFrames (.core (c.s.coreOf c.i.rid)) asid c.i.denied va .read (blocksOf 512) [] with
        | .error (w, k, _) => c.pageWait w .read k
        | .ok (none, s) => put (s.raise c.i.rid Cause.accv) 3
        | .ok (some fs, s) =>
          let words := fs.flatMap (fun f => match f with
            | some pa => (List.range 16).map (fun i => s.curWord (pa / 4 + i))
            | none => List.replicate 16 { val := 0, bad := false, lost := false })
          let k := causesOf words
          let s := s.mflag c.i.rid (if fs.contains none then 1 else 0)
          if k ≠ 0 then put (s.raise c.i.rid k) 3
          else if 2 ^ x.log2 ≤ x.holds then put s 1
          else
            match s.writePhys (.core (s.coreOf c.i.rid)) (x.slotAt x.widx) 8 (va % 2 ^ 56 + 1) with
            | .error (pa, n) => wait (c.old.clearWay pa n) c.i .memory
            | .ok s =>
            let y := s.queue q
            let s := s.setQueue q { y with shadows := y.shadows.put (y.widx.toNat % 2 ^ y.log2) (words.flatMap (fun w => bytesOf 4 w.val.toNat)) }
            put (s.append q 1) 0)

/-! ### Readiness (R392, R176, R177, R431) -/

/-- An earlier command of the queue that p holds of is incomplete, or stores of its chains are still pending (R145). -/
def State.earlier (s : State) (c : Cmd) (p : Cmd → Bool) : Bool :=
  s.cmds.any (fun (e : Nat × Cmd) => e.2.queue == c.queue && decide (e.2.seq < c.seq) && (!e.2.isDone || s.owing e.1 e.2) && p e.2)

/-- The queue waits after a die-lost launch that stands before the command (R431). -/
def State.afterLost (s : State) (c : Cmd) : Bool :=
  (s.queue c.queue).dlwait && s.cmds.any (fun (e : Nat × Cmd) => e.2.queue == c.queue && decide (e.2.seq < c.seq) && e.2.lost)

/-- Launches in the ready pool (R392). -/
def State.readyPool (s : State) : Nat :=
  (s.cmds.filter (fun (e : Nat × Cmd) => match e.2.kind, e.2.state with | .launch _, .ready => true | _, _ => false)).length

/-- A fetched launch has nothing to wait for but room in the ready pool (R392). -/
def State.launchDue (s : State) (c : Cmd) : Bool :=
  match c.kind, c.state with
  | .launch p, .fetched =>
    s.countersReached c p && !s.afterLost c && !s.earlier c (fun e => match e.kind with | .launch q => conflicts q p | _ => true)
  | _, _ => false

/-- A fetched launch may enter the ready pool (R392): launches of one queue that are due enter in its order. -/
def State.launchable (s : State) (c : Cmd) : Bool :=
  s.launchDue c && decide (s.readyPool < 4096) &&
    s.cmds.all (fun (e : Nat × Cmd) => e.2.queue != c.queue || decide (c.seq ≤ e.2.seq) || !s.launchDue e.2)

/-- `LAUNCH_READY` (R392). -/
def execLaunchReady (lid : Nat) (s : State) : Res :=
  match s.cmd lid with
  | some c => if s.launchable c then .next { s.setCmd lid { c with state := .ready } with roundDue := true } else .next s
  | none => .next s

/-- A DMA or neighbour command's turn: every earlier command of its queue is complete (R392). -/
def State.cmdTurn (s : State) (c : Cmd) : Bool :=
  (c.state == .fetched || c.state == .running) && !s.afterLost c && !s.earlier c (fun _ => true)

/-- `NEIGHBOUR_COMMAND` (R393): with a free grid slot, `nbgrid` and `nbbin` over every particle, as one owning launch. -/
def execNeighbourCommand (cmd : Nat) (s : State) : Res :=
  match s.cmd cmd with
  | none => .next s
  | some c =>
    match c.kind with
    | .neighbour p =>
      if ¬ s.cmdTurn c ∨ c.susp then .next s
      else if ¬ s.inService p.die then .next (s.completeCmd cmd 3 0)
      else
        match (List.range 4).find? (fun g => (s.grid p.die g).isNone) with
        | none => .next s
        | some gid =>
          let u : NbFor := { die := p.die, asid := c.asid, denied := c.denied, rod := none }
          let stop := fun (va : DWord) (kind : XKind) (x : XOut) => Host.Outcome.next (s.cmdWait cmd (.die p.die) va kind x)
          match s.nbBind u cmd gid p.desc.toNat with
          | .error (va, kind, x, _) => stop va kind x
          | .ok (none, s) => .next (s.refuseCmd cmd 8)
          | .ok (some x, t) =>
            match t.nbBin u x 0 x.grid.desc.npart with
            | .error (va, kind, w, _) => stop va kind w
            | .ok (x, t) =>
              match t.nbStatus u x with
              | .error (va, kind, w, _) => stop va kind w
              | .ok (x, t) =>
                match t.nbDone u x with
                | .error (va, kind, w, _) => stop va kind w
                | .ok (x, t) =>
                  .next ((t.setGrid p.die gid none).completeCmd cmd (if x.cause &&& Cause.accv = 0 then 0 else 4) 0)
    | _ => .next s

/-! ### Pre-emption (R397, R398) -/

/-- The chains saved together with a chain: those of its furlong (R397). -/
def State.saveGroup (s : State) (c : Chain) : List (Nat × Chain) :=
  s.chains.filter (fun (e : Nat × Chain) => e.2.launch == c.launch && e.2.furlong == c.furlong && e.2.here)

/-- Free save slots of a launch, lowest first. -/
def Cmd.freeSlots (x : Cmd) (p : Packet) : List Nat := ((List.range (Nat.min p.svSlots (x.slots.length + 64))).filter (fun n => !x.slots.contains n))

/-- Mark a chain's group for saving; false when it cannot be saved. -/
def State.markSave (s : State) (cid : Nat) : Bool × State :=
  match s.chain cid with
  | none => (true, s)
  | some c =>
    match c.state, s.cmd c.launch with
    | .resident, some x =>
      match x.packet with
      | none => (false, s)
      | some p =>
        let group := s.saveGroup c
        let free := x.freeSlots p
        if free.length < group.length ∨ x.cancelled then (false, s)
        else
          let picks := group.zip free
          let s := picks.foldl (fun (s : State) e => s.setChain e.1.1 { e.1.2 with state := .saving e.2 }) s
          let s := s.modCmd c.launch (fun x => { x with slots := x.slots ++ picks.map Prod.snd })
          (true, s)
    | _, _ => (true, s)

/-- A group turns out not to be saveable: its chains run on, and their cores are not vacated. -/
def State.unmarkSave (s : State) (group : List (Nat × Chain)) : State :=
  group.foldl (fun (s : State) e =>
    match e.2.state with
    | .saving n =>
      let s := (s.setChain e.1 { e.2 with state := .resident }).modCmd e.2.launch (fun x => { x with slots := x.slots.filter (· ≠ n) })
      s.setCore e.2.core { s.core e.2.core with vacated := false }
    | _ => s) s

/-- Save the chains of a group one after another; the state with all of them saved, or what stops it. -/
def State.saveChains (s : State) (p : Packet) : List (Nat × Chain) → Except PStop (Bool × State)
  | [] => .ok (true, s)
  | (cid, c) :: rest =>
    match c.state with
    | .saving n =>
      match s.saveChain cid c p n with
      | .ok (true, s) =>
        let s := match s.cmd c.launch with | some x => s.addDef x.queue ((x.est : Int) - chargeOf c.charge) | none => s
        s.saveChains p rest
      | r => r
    | _ => s.saveChains p rest

/-- A rod of a group is held: a chain not yet saved is held in place (R440). -/
def State.groupHeld (s : State) (group : List (Nat × Chain)) : Bool :=
  group.any (fun e => (e.2.rodIds e.1).any (fun r => ((s.rod r).map (·.frozen)).getD false))

/-- Finish the saves whose groups have stopped (R398); those of a cancelled launch are abandoned with it (R396), and a group that is held stays
in place (R440). -/
def State.finishSaves (s : State) : State :=
  let firsts := s.chains.filter (fun (e : Nat × Chain) => match e.2.state with | .saving _ => true | _ => false)
  let s := firsts.foldl (fun (s : State) e =>
    match s.chain e.1 with
    | none => s
    | some c =>
      match c.state, s.packet c.launch with
      | .saving _, some p =>
        let group := s.saveGroup c
        if s.groupHeld group then (s.unmarkSave group).cmdDone c.launch
        else if s.cmdSusp c.launch ∨ ((s.cmd c.launch).map (·.cancelled)).getD false then s
        else if group.all (fun x => s.chainQuiet x.1 x.2) then
          match s.saveChains p group with
          | .ok (true, t) => { t.cmdDone c.launch with roundDue := true }
          | .ok (false, _) => (s.unmarkSave group).cmdDone c.launch
          | .error (.page va kind x _) => s.cmdWait c.launch (.core c.core) va kind x
          | .error .memory => s
        else if group.any (fun x => s.chainStuck x.1 x.2) then s.unmarkSave group
        else s
      | _, _ => s) s
  if s.chains.any (fun (e : Nat × Chain) => match e.2.state with | .saving _ => true | _ => false) then s
  else { s with preq := s.preq &&& 0x7FFFFFFFFFFFFFFF }

/-- PVAC (R397): the vacated cores of PREQ.DIE that are empty. -/
def State.pvacNow (s : State) : DWord :=
  let d := s.preq.bits 34 32
  (List.range 48).foldl (fun (w : DWord) k => if (s.core ⟨d, k⟩).vacated && (s.residents ⟨d, k⟩).isEmpty then w ||| (1 <<< k) else w) 0

/-- `PREQ_VACATE` (R397): the cores with the fewest resident rods, the highest of equals, are vacated, and their chains saved. -/
def execPreqVacate (v : DWord) (s : State) : Res :=
  let n := v.bits 5 0
  let die := v.bits 34 32
  if s.preq.getLsbD 63 ∨ n = 0 ∨ 48 < n then .next s
  else
    let cores := ((List.range 48).reverse.map (fun k => (⟨die, k⟩ : CoreId))).filter (fun c => !(s.core c).isHeld && !(s.core c).vacated)
    let rods := fun (c : CoreId) => ((s.residents c).map (fun e => e.2.nrod)).sum
    let pick := (List.range n).foldl (fun (acc : List CoreId × List CoreId) _ =>
      match leastOf rods acc.2 with
      | some c => (acc.1 ++ [c], acc.2.erase c)
      | none => acc) ([], cores)
    let s := { s with preq := (v &&& 0x70000003F) ||| (1 <<< 63) }
    let s := pick.1.foldl (fun (s : State) c =>
      let (ok, s) := (s.residents c).foldl (fun (acc : Bool × State) e =>
        let (k, s) := acc.2.markSave e.1
        (acc.1 && k, s)) (true, s)
      s.setCore c { s.core c with vacated := ok }) s
    .next s.finishSaves

/-- `PREL` (R397). -/
def execPrel (v : DWord) (s : State) : Res :=
  let die := v.bits 50 48
  .next { (List.range 48).foldl (fun (s : State) k =>
    if v.getLsbD k then s.setCore ⟨die, k⟩ { s.core ⟨die, k⟩ with vacated := false } else s) s with
      roundDue := s.roundDue || (List.range 48).any (fun k => v.getLsbD k && (s.core ⟨die, k⟩).vacated) }

/-! ### The scheduler's round (R165, R394, R395, R470) -/

/-- A launch has chains to dispatch: saved ones, or ones not yet started. -/
def State.chainsLeft (s : State) (x : Cmd) (p : Packet) : Bool :=
  !x.cancelled && (decide (x.nextChain < p.chains) || x.requeue != [] || x.live.any (fun cid => ((s.chain cid).map (fun c => !c.here)).getD false))

/-- The oldest ready launch of a queue with chains left (R394). -/
def State.oldestReady (s : State) (q : Nat) : Option (Nat × Cmd × Packet) :=
  leastOf (fun (e : Nat × Cmd × Packet) => e.2.1.seq) (s.cmds.filterMap (fun (e : Nat × Cmd) =>
    match e.2.kind with
    | .launch p =>
      if e.2.queue == q && (e.2.state == .ready || e.2.state == .running) && !s.afterLost e.2 && s.chainsLeft e.2 p then some (e.1, e.2, p) else none
    | _ => none))

/-- The lowest-numbered saved chain of a launch whose whole furlong is saved. -/
def State.firstSaved (s : State) (x : Cmd) : Option (Nat × Chain) :=
  leastOf (fun (e : Nat × Chain) => e.2.num) (x.live.filterMap (fun cid => match s.chain cid with
    | some c => if !c.here && (s.saveGroup c).isEmpty then some (cid, c) else none
    | none => none))

/-- Place a group of n chains of a launch: a single chain on any core, a furlong as R165 gives. -/
def State.placeGroup (s : State) (lid : Nat) (p : Packet) (n : Nat) : Option (List (CoreId × Room) × Nat × Nat) :=
  if p.furl = 1 then (pickCore (allLoads s.dieLoads) lid p).map (fun e => ([e], e.1.die, e.1.die))
  else placeFurlong lid p n s.dieLoads

/-- Resume the chains of a furlong at their places. -/
def State.resumeAll (s : State) (p : Packet) : List ((Nat × Chain) × (CoreId × Room)) → Except PStop (Bool × State)
  | [] => .ok (true, s)
  | (e, pl) :: rest =>
    match e.2.state with
    | .saved n =>
      match s.resumeChain e.1 e.2 p n pl.1 pl.2 with
      | .ok (true, s) => s.resumeAll p rest
      | r => r
    | _ => s.resumeAll p rest

/-- Dispatch the next group of a launch (R165, R394, R395): how many chains started, and the state; or what becomes of the launch where none
can. -/
def State.dispatchGroup (s : State) (lid : Nat) (x : Cmd) (p : Packet) : Except (State → State) (Nat × State) :=
  match s.firstSaved x with
  | some (_, c) =>
    if x.susp then .error id
    else
    let group := s.chains.filter (fun (e : Nat × Chain) => e.2.launch == lid && e.2.furlong == c.furlong)
    match s.placeGroup lid p group.length with
    | none => .error id
    | some (pl, lo, hi) =>
      match s.resumeAll p (group.zip pl) with
      | .ok (true, t) =>
        let t := match t.furlong c.furlong with
          | some f => { t with furlongs := t.furlongs.put c.furlong { f with dieLo := lo, dieHi := hi } }
          | none => t
        .ok (group.length, t.cmdDone lid)
      | .ok (false, _) => .error (fun s => s.cancelCmd lid 4)
      | .error (.page va kind w _) => .error (fun s => s.cmdWait lid (.core ((pl.head?.map (fun e => e.1)).getD ⟨0, 0⟩)) va kind w)
      | .error .memory => .error id
  | none =>
    let (first, n, rest) := match x.requeue with
      | e :: rest => (e.1, e.2, some rest)
      | [] => (x.nextChain, Nat.min p.furl (p.chains - x.nextChain), none)
    if n = 0 then .error id
    else
      match s.placeGroup lid p n with
      | none => .error id
      | some (pl, lo, hi) =>
        let (fid, s) := s.fresh
        let s := { s with furlongs := s.furlongs.put fid { launch := lid, first := first, size := p.furl, dieLo := lo, dieHi := hi, bars := [] } }
        let s := pl.zipIdx.foldl (fun (s : State) e => s.startChain lid x p (first + e.2) fid e.2 e.1.1 e.1.2) s
        .ok (n, s.modCmd lid (fun y => match rest with
          | some l => { y with requeue := l }
          | none => { y with nextChain := y.nextChain + n }))

/-- Every chain left of a launch with COR = 1 is dispatched, or none (R394). -/
def State.dispatchAll (s : State) (lid : Nat) (p : Packet) : Nat → Nat → Except (State → State) (Nat × State)
  | 0, n => .ok (n, s)
  | fuel + 1, n =>
    match s.cmd lid with
    | none => .ok (n, s)
    | some x =>
      if ¬ s.chainsLeft x p then .ok (n, s)
      else
        match s.dispatchGroup lid x p with
        | .error f => .error f
        | .ok (k, s) => s.dispatchAll lid p fuel (n + k)

/-- The loop of a visit (R394); a launch that fails R22 at its first dispatch is refused, and one whose table entry cannot be read now is left
for the next round. -/
def State.visitLoop (s : State) (q : Nat) : Nat → State
  | 0 => s
  | fuel + 1 =>
    match s.oldestReady q with
    | none => s
    | some (lid, x, p) =>
      if (s.queue q).def' ≤ 0 then s
      else
        match s.astEntry (.io 0) x.asid with
        | .error (pa, n) => s.clearWay pa n
        | .ok (e, s) =>
        if ¬ e.ok ∧ x.nextChain = 0 then (s.refuseCmd lid 1).visitLoop q fuel
        else
          match (if p.cor then s.dispatchAll lid p 4096 0 else s.dispatchGroup lid x p) with
          | .error f => f s
          | .ok (n, s) => (s.addDef q (-((n * x.est : Nat) : Int))).visitLoop q fuel

/-- A visit to a queue (R394). -/
def State.visit (s : State) (q : Nat) : State :=
  let x := s.queue q
  match s.oldestReady q with
  | none => s.setQueue q { x with def' := 0 }
  | some _ =>
    let quantum : Int := Nat.max 1 (x.qcfg.bits 31 0)
    (s.setQueue q { x with def' := satDef (if x.def' + quantum < quantum then x.def' + quantum else quantum) }).visitLoop q 4096

/-- A round (R470): a visit to every queue in ascending order. -/
def State.round (s : State) : State :=
  let s := { s with roundDue := false, lastRound := s.cycle }
  (s.queues.keys).foldl (fun (s : State) q => s.visit q) s

/-- `SCHEDULER_ROUND` (R398, R470): saves that have become due are finished; a round runs when an event of R470 has happened, of which a chain's
save is one. -/
def execSchedulerRound (s : State) : Res :=
  let s := s.finishSaves
  .next (if s.roundDue then s.round else s)

/-- `SCHEDULER_ROUND_TIMER` (R470): 4,096 cycles after the start of the last round. -/
def execSchedulerRoundTimer (s : State) : Res := if s.lastRound + 4096 ≤ s.cycle then .next s.round else .next s

/-- A save has become due, or can no longer be made; or the last of a request has ended (R397). -/
def State.saveDue (s : State) : Bool :=
  let saving := s.chains.filter (fun (e : Nat × Chain) => match e.2.state with | .saving _ => true | _ => false)
  (s.preq.getLsbD 63 && saving.isEmpty) || saving.any (fun (e : Nat × Chain) =>
    let group := s.saveGroup e.2
    s.groupHeld group || group.any (fun x => s.chainStuck x.1 x.2) ||
      (!s.cmdSusp e.2.launch && !((s.cmd e.2.launch).map (·.cancelled)).getD false && group.all (fun x => s.chainQuiet x.1 x.2)))

/-- `DLACK` (R432). -/
def execDlack (iod : Nat) (v : DWord) (s : State) : Res :=
  let q := v.bits 9 0
  if q / 512 ≠ iod ∨ ¬ (s.queue q).dlwait then .next s
  else
    let s := s.setQueue q { s.queue q with dlwait := false }
    .next { s with cmds := s.cmds.map (fun (e : Nat × Cmd) => if e.2.queue = q then (e.1, { e.2 with lost := false }) else e) }

end Sys2Proof.Machine
end

