-- ==== Sys2Proof/Machine/Dma.lean ====
section
/-!
DEFINITION. The DMA commands of the I/O dies (R426, R427): copy, fill, RDMA WRITE, RDMA READ and SEND, and their completion.
-/
namespace Sys2Proof.Machine

/-- For whom an engine works. -/
structure DmaFor where
  io   : Nat
  asid : Nat
  den  : List Denied
  deriving DecidableEq, Repr

def Cmd.dmaFor (c : Cmd) : DmaFor := { io := c.queue / 512, asid := c.asid, den := c.denied }

/-- Bytes with whether they come from a poisoned or lost word. -/
abbrev Data := List (Byte × Bool)

/-- The page an element waits for, and how. -/
abbrev DmaTry (α : Type) := Except (DWord × XKind × XOut × State) (α × State)

/-- Read n bytes of an element (R27, R77, R100): the data and the fouls met. -/
def State.dmaGet (s : State) (u : DmaFor) (va : DWord) (n : Nat) : DmaTry (Data × Word) :=
  let ones := List.replicate n ((0xFF : Byte), false)
  match s.resolve (.io u.io) u.asid u.den va .read with
  | (.waits x, s) => .error (va, .read, x, s)
  | (.zero, s) => .ok ((List.replicate n (0, false), 0), s)
  | (.viol, s) => .ok ((ones, Cause.accv), s)
  | (.mem pa _, s) =>
    if s.reach pa ≠ .memory then .ok ((ones, Cause.accv), s)
    else if ¬ s.canGet (ioStop u.io) pa n then .error (va, .read, .busy pa n, s)
    else
      let (ws, s) := s.homeReads (wordsOf pa n) (some 1) (ioStop u.io)
      let d : Data := readBytes pa n ws
      .ok ((d, if d.any Prod.snd then Cause.umem else 0), s)

/-- Write the bytes of an element (R27, R75, R100): poison goes along. -/
def State.dmaPut (s : State) (u : DmaFor) (va : DWord) (d : Data) : DmaTry Word :=
  match s.resolve (.io u.io) u.asid u.den va .write with
  | (.waits x, s) => .error (va, .write, x, s)
  | (.mem pa _, s) =>
    if s.reach pa ≠ .memory then .ok (Cause.accv, s)
    else if ¬ s.canPut (ioStop u.io) pa d.length then .error (va, .write, .busy pa d.length, s)
    else
      let t := s.writeHome (ioStop u.io) pa (d.map Prod.fst)
      let bad := (d.zipIdx.filter (fun e => e.1.2)).map (fun e => (pa + e.2) / 4)
      .ok (0, (bad.eraseDups.foldl (fun (s : State) wd => s.setPoison wd true) t).noteCounters s none pa d.length)
  | (_, s) => .ok (Cause.accv, s)

/-- Bytes of an access of an engine up to the next aligned 16-byte part (R118). -/
def partSize (left a : Nat) : Nat := Nat.min left (16 - a % 16)

/-- What a fill stores from offset k on. -/
def DmaPkt.pattern (p : DmaPkt) (k n : Nat) : Data := (List.range n).map (fun i => (Word.byte p.arg ((k + i) % 4), false))

/-- A command's course: how far it has come, the fouls met, bytes read and not yet stored or sent; and the page it stands at, if it waits. -/
structure DmaRun where
  moved : Nat
  fouls : Word
  out   : Data
  at'   : Option (DWord × XKind × XOut)

/-- Copy or fill (R426): each aligned 16-byte part of the source is read in one step and each of the destination written in one, as soon as its
bytes have been read (R118). -/
def State.dmaLoop (s : State) (u : DmaFor) (p : DmaPkt) (fill : Bool) : Nat → DmaRun → DmaRun × State
  | 0, r => (r, s)
  | fuel + 1, r =>
    if p.len ≤ r.moved then (r, s)
    else
      let dst := p.dst + BitVec.ofNat 64 r.moved
      let n := partSize (p.len - r.moved) dst.toNat
      let d := if fill then p.pattern r.moved n else r.out
      if d.length < n then
        let src := p.src + BitVec.ofNat 64 (r.moved + r.out.length)
        match s.dmaGet u src (partSize (p.len - r.moved - r.out.length) src.toNat) with
        | .error (va, k, x, s) => ({ r with at' := some (va, k, x) }, s)
        | .ok ((e, f), t) => t.dmaLoop u p fill fuel { r with fouls := r.fouls ||| f, out := r.out ++ e }
      else
        match s.dmaPut u dst (d.take n) with
        | .error (va, k, x, s) => ({ r with at' := some (va, k, x) }, s)
        | .ok (g, t) => t.dmaLoop u p fill fuel { r with moved := r.moved + n, fouls := r.fouls ||| g, out := r.out.drop n }

/-- Gather the bytes of a message for a port, up to the first poisoned word or violation (R77). -/
def State.gatherLoop (s : State) (u : DmaFor) (p : DmaPkt) : Nat → DmaRun → DmaRun × State
  | 0, r => (r, s)
  | fuel + 1, r =>
    if p.len ≤ r.moved ∨ r.fouls ≠ 0 then (r, s)
    else
      let src := p.src + BitVec.ofNat 64 r.moved
      let n := partSize (p.len - r.moved) src.toNat
      match s.dmaGet u src n with
      | .error (va, k, x, s) => ({ r with at' := some (va, k, x) }, s)
      | .ok ((d, f), s) =>
        let ok := if f &&& Cause.accv ≠ 0 then [] else d.takeWhile (fun e => !e.2)
        s.gatherLoop u p fuel { r with moved := r.moved + n, fouls := r.fouls ||| f, out := r.out ++ ok }

/-- Store the bytes an RDMA READ has brought (R426), poisoned where the link said so (R77): SRC names the local buffer, since DST is the remote
address. -/
def State.landLoop (s : State) (u : DmaFor) (p : DmaPkt) : Nat → DmaRun → DmaRun × State
  | 0, r => (r, s)
  | fuel + 1, r =>
    if r.out = [] then (r, s)
    else
      let dst := p.src + BitVec.ofNat 64 r.moved
      let n := partSize r.out.length dst.toNat
      match s.dmaPut u dst (r.out.take n) with
      | .error (va, k, x, s) => ({ r with at' := some (va, k, x) }, s)
      | .ok (g, s) => s.landLoop u p fuel { r with moved := r.moved + n, fouls := r.fouls ||| g, out := r.out.drop n }

/-- Keep a command's progress; it waits for the page it stands at (R32, R427). -/
def State.dmaKeep (s : State) (n : Nat) (u : DmaFor) (r : DmaRun) : State :=
  let s := s.modCmd n (fun c => { c with moved := r.moved, fouls := r.fouls, recv := r.out })
  match r.at' with
  | some (va, k, x) => s.cmdWait n (.io u.io) va k x
  | none => s

/-- The course of a command as it stands. -/
def Cmd.dmaRun (c : Cmd) : DmaRun := { moved := c.moved, fouls := c.fouls, out := c.recv, at' := none }

/-- The engine that serves a command: its own, or one of the 16 of its I/O die that serves no other (R426). -/
def State.engineFor (s : State) (c : Cmd) : Option Nat :=
  c.engine.or ((List.range 16).find? (fun e =>
    s.cmds.all (fun (x : Nat × Cmd) => x.2.engine != some e || x.2.queue / 512 != c.queue / 512 || x.2.state == .complete || x.2.state == .published)))

/-- The queue pair that a command names is live (R425). -/
def State.pairLive (s : State) (c : Cmd) (p : DmaPkt) : Bool := decide (p.qp < 16384) && s.qps.contains (16384 * (c.queue / 512) + p.qp)

/-- Run a command of one of the operations when its turn has come and an engine serves it (R426). -/
def dmaForm (s : State) (n op : Nat) (k : State → Cmd → DmaPkt → DmaFor → Res) : Res :=
  match s.cmd n with
  | none => .next s
  | some c =>
    match c.kind with
    | .dma p =>
      if p.op ≠ op ∨ c.susp ∨ c.state ≠ .fetched ∨ ¬ s.cmdTurn c then .next s
      else
        match s.engineFor c with
        | none => .next s
        | some e => k (s.setCmd n { c with engine := some e }) c p c.dmaFor
    | _ => .next s

/-- A command that has done its part awaits `DMA_COMPLETE`. -/
def State.dmaDone (s : State) (n : Nat) (send : Bool) : State :=
  let s := s.modCmd n (fun c => { c with state := .running })
  if send then s.send (.dmaComplete n 0) else s

/-- A queue-pair error ends a command (R427). -/
def State.dmaFail (s : State) (n : Nat) : State := (s.modCmd n (fun c => { c with fouls := c.fouls ||| Cause.accv })).dmaDone n true

/-- The course of a copy or a fill. -/
def dmaMoveForm (s : State) (cmd op : Nat) (fill : Bool) : Res :=
  dmaForm s cmd op (fun s c p u =>
    let (r, s) := s.dmaLoop u p fill (2 * p.len) c.dmaRun
    let s := s.dmaKeep cmd u r
    .next (if r.at'.isSome then s else s.dmaDone cmd true))

/-- `DMA_COPY` (R426, R427). -/
def execDmaCopy (cmd : Nat) (s : State) : Res := dmaMoveForm s cmd 0 false

/-- `DMA_FILL` (R426): the pattern repeats every four bytes from DST on. -/
def execDmaFill (cmd : Nat) (s : State) : Res := dmaMoveForm s cmd 1 true

/-- The operations that send over a live queue pair: the message goes out when its bytes are gathered; without a foul the peer's answer completes
the command. -/
def dmaSendForm (s : State) (cmd op : Nat) (msg : DmaPkt → List Byte → OutMsg) : Res :=
  dmaForm s cmd op (fun s c p u =>
    if ¬ s.pairLive c p then .next (s.dmaFail cmd)
    else
      let (r, s) := s.gatherLoop u p p.len c.dmaRun
      let s := s.dmaKeep cmd u r
      if r.at'.isSome then .next s
      else if r.fouls &&& Cause.accv ≠ 0 then .next (s.dmaDone cmd true)
      else .next ({ s with outbox := s.outbox ++ [msg p (r.out.map Prod.fst)] }.dmaDone cmd (r.fouls != 0)))

/-- `DMA_RDMA_WRITE` (R426). -/
def execDmaRdmaWrite (cmd : Nat) (s : State) : Res := dmaSendForm s cmd 2 (fun p bs => .rdmaWrite p.qp p.arg p.dst bs)

/-- `DMA_SEND` (R426). -/
def execDmaSend (cmd : Nat) (s : State) : Res := dmaSendForm s cmd 4 (fun p bs => .send p.qp bs)

/-- `DMA_RDMA_READ` (R426): first the request goes to the peer, with the remote key and address; then the peer's bytes come: too few or too many
of them are a queue-pair error, and bytes with a poison indication are stored poisoned (R77). -/
def execDmaRdmaRead (cmd : Nat) (bytes : List Byte) (s : State) (bad : Bool := false) : Res :=
  dmaForm s cmd 3 (fun s c p u =>
    if ¬ s.pairLive c p then .next (s.dmaFail cmd)
    else if ¬ c.asked then
      if bytes = [] then .next ({ s with outbox := s.outbox ++ [OutMsg.rdmaRead p.qp p.arg p.dst p.len] }.modCmd cmd (fun c => { c with asked := true }))
      else .next s
    else if bytes.length ≠ p.len then .next (s.dmaFail cmd)
    else
      let (r, s) := s.landLoop u p bytes.length
        { moved := 0, fouls := if bad then Cause.umem else 0, out := bytes.map (fun b => (b, bad)), at' := none }
      .next ((s.dmaKeep cmd u r).dmaDone cmd true))

/-- The code of a command that ends (R427): a violation or a queue-pair error before poison. -/
def dmaCode (fouls : Word) (code : Nat) : Nat :=
  if fouls &&& Cause.accv ≠ 0 then 4 else if fouls &&& Cause.umem ≠ 0 then 5 else if code = 0 ∨ code = 5 then code else 4

/-- `DMA_COMPLETE` (R427): a READ first stores what is left of its bytes; CODE 4 also posts event 0x16 (R433). -/
def execDmaComplete (cmd code : Nat) (s : State) : Res :=
  match s.cmd cmd with
  | none => .next s
  | some c =>
    match c.kind with
    | .dma p =>
      if c.state ≠ .running then .next s
      else if c.susp then .next (s.send (.dmaComplete cmd code))
      else
        let u := c.dmaFor
        let (r, s) := if p.op = 3 ∧ c.fouls &&& Cause.accv = 0 then s.landLoop u p c.recv.length c.dmaRun else (c.dmaRun, s)
        if r.at'.isSome then .next ((s.dmaKeep cmd u r).send (.dmaComplete cmd code))
        else
          let k := dmaCode r.fouls code
          let s := if k = 4 then s.event c.queue (eventRecord c.asid 0 0x16 (p.qp * 2 ^ 40 + c.ring)) else s
          .next ((s.modCmd cmd (fun c => { c with recv := [], engine := none, pages := [], denied := [] })).completeCmd cmd k 0)
    | _ => .next s

end Sys2Proof.Machine
end

