-- ==== Sys2Proof/Machine/Attest.lean ====
section
/-!
DEFINITION. Bring-up and the ring's security (R411, R415 to R420, R422): die states, the identity of a die, its attestation, link keys and
their rollover, flits, and what the package root does on its own.
-/
namespace Sys2Proof

open Sys2Proof.Machine

/-- The bytes that a certificate's signature covers. -/
def Cert.body (c : Cert) : List Byte :=
  bytesOf 384 c.issuer ++ bytesOf 384 c.key ++ (match c.name with
    | some n => bytesOf 8 n.serial.toNat ++ bytesOf 1 (if n.io then 1 else 0) ++ bytesOf 1 n.stop
    | none => [])

/-- HDR fields (R411). -/
def Flit.dest (f : Flit) : Nat := f.hdr.bits 63 60
def Flit.src (f : Flit) : Nat := f.hdr.bits 59 56
def Flit.cls (f : Flit) : BitVec 2 := BitVec.ofNat 2 (f.hdr.bits 55 54)
def Flit.dl (f : Flit) : Bool := f.hdr.getLsbD 53
def Flit.kp (f : Flit) : Bool := f.hdr.getLsbD 52

def Flit.hdrBytes (f : Flit) : List Byte := bytesOf 8 f.hdr.toNat

/-- The CRC holds over bytes 0 to 251 (R411). -/
def Flit.crcOk (f : Flit) : Bool := f.crc == Config.crc32 (f.hdrBytes ++ f.pay ++ bytesOf 12 f.tag.toNat)

end Sys2Proof

namespace Sys2Proof.Machine

/-! ### DIESTAT (R417, R422) -/

def DieSt.code : DieSt → Nat
  | .off => 0
  | .quarantined => 1
  | .attesting => 2
  | .keyed => 3
  | .inService => 4
  | .failed => 5

/-- DIESTAT (R422). -/
def State.diestat (s : State) : DWord :=
  BitVec.ofNat 64 ((List.range 10).foldl (fun (n : Nat) k =>
    n + (s.dieState k).code * 2 ^ (3 * k) + (if s.linkKeyed k && !s.linkDown.contains k then 2 ^ (30 + k) else 0)) 0)

/-- Every compute die is in service or has failed: the queues open. -/
def State.openQueues (s : State) : State :=
  if (List.range 8).all (fun d => s.dieState (stopOf d) == .inService || s.dieState (stopOf d) == .failed) then { s with queuesOpen := true } else s

/-- After a step of the package root: what waits at its source for its way goes (R415), and vector 2 reports a change of DIESTAT (R429). -/
def State.rootDone (s before : State) : State :=
  let s := s.openQueues.release
  if s.diestat = before.diestat then s else s.vectorAll 2

/-- Both ring links of a stop are keyed (R417). -/
def State.stopKeyed (s : State) (k : Nat) : Bool := s.linkKeyed k && s.linkKeyed ((k + 9) % 10)

/-- The link from stop k upward loses its keys (R415, R421). -/
def State.unkeyLink (s : State) (k : Nat) : State :=
  let bare := fun (x : LinkDir) => { LinkDir.reset with waiting := x.waiting, inject := x.inject }
  (s.setLink k true (bare (s.link k true))).setLink k false (bare (s.link k false))

/-- A stop's links lose their keys, and what was on its way over them goes the other way around (R415, R421). -/
def State.unkey (s : State) (k : Nat) : State := ((s.unkeyLink k).unkeyLink ((k + 9) % 10)).reroute

/-- `POWER_ON` (R417): power is good, or a reset has ended: every die that is off goes to quarantine. -/
def execPowerOn (s : State) : Res :=
  .next (((List.range 10).foldl (fun (s : State) k => if s.dieState k = .off then s.setDieState k .quarantined else s)
    { s with powered := true }).rootDone s)

/-! ### Identity (R416) -/

/-- What the die at a stop is. -/
def nameOk (stop : Nat) (n : DieName) : Bool := n.stop == stop && n.io == (dieOfStop stop).isNone

def chainBytes (l : List Cert) : List Byte := l.flatMap (fun c => c.body ++ bytesOf 384 c.sig)

/-- A chain of three certificates: the Vexmen root, signed with its own key, the product authority, signed by the root, and the certificate of the
die at the stop, signed by the authority (R416). -/
def chainOk (stop : Nat) (l : List Cert) : Bool :=
  match l with
  | [r, a, d] =>
    r.key == Config.vexmenKey && r.issuer == r.key && a.issuer == r.key && d.issuer == a.key &&
      [r, a, d].all (fun c => Config.verify c.issuer c.body c.sig) && (d.name.map (nameOk stop)).getD false
  | _ => false

/-! ### The SPDM exchange (R418) -/

/-- What the root asks, by step, with its parameters. -/
inductive SpdmAsk where
  | getVersion
  | getCapabilities
  | negotiate (algs : List SpdmAlg)
  | getDigests
  | getCertificate (slot : Nat)
  | challenge (nonce : BitVec 256)
  | getMeasurements (nonce : BitVec 256)
  | keyExchange (draw : BitVec 256)
  | finish
  deriving DecidableEq, Repr

/-- What a die answers. -/
inductive SpdmAnswer where
  | error
  | versions (l : List (Nat × Nat))
  | capabilities (l : List SpdmCap)
  | algorithms (l : List SpdmAlg)
  | digests (d : BitVec 256)
  | certificate (l : List Cert)
  | signature (sig : Nat)
  | measurements (l : List (BitVec 256)) (sig : Nat)
  | secret (v : BitVec 256)
  | finished
  deriving DecidableEq, Repr

def capsNeeded : List SpdmCap := [.cert, .chal, .measSig, .keyEx, .encrypt, .mac, .keyUpd]

def algsNeeded : List SpdmAlg := [.rsassa3072, .sha256, .ffdhe3072, .aes256gcm]

/-- The measurements of a die, index 1 to 4 (R418). -/
def measurements (stop : Nat) : List (BitVec 256) := [1, 2, 3, 4].map (Config.measurement stop)

def digestBytes (l : List (BitVec 256)) : List Byte := l.flatMap (fun d => bytesOf 32 d.toNat)

/-- The root's message of the next step, with a draw of its random source. -/
def Spdm.ask (x : Spdm) (draw : BitVec 256) : SpdmAsk :=
  match x.step with
  | 0 => .getVersion
  | 1 => .getCapabilities
  | 2 => .negotiate algsNeeded
  | 3 => .getDigests
  | 4 => .getCertificate 0
  | 5 => .challenge draw
  | 6 => .getMeasurements draw
  | 7 => .keyExchange draw
  | _ => .finish

/-- The answer of the die at a stop, a responder (R416, R418), or an error. -/
def spdmAnswer (stop : Nat) (ok : Bool) (q : SpdmAsk) : SpdmAnswer :=
  if ¬ ok then .error
  else
    match q with
    | .getVersion => .versions (Config.spdmVersions stop)
    | .getCapabilities => .capabilities (Config.spdmCaps stop)
    | .negotiate want => .algorithms (want.filter (Config.spdmAlgs stop).contains)
    | .getDigests => .digests (Config.sha256 (chainBytes (Config.certChain stop)))
    | .getCertificate _ => .certificate (Config.certChain stop)
    | .challenge n => .signature (Config.sign (Config.privateKey stop) (bytesOf 32 n.toNat))
    | .getMeasurements n =>
      let l := measurements stop
      .measurements l (Config.sign (Config.privateKey stop) (bytesOf 32 n.toNat ++ digestBytes l))
    | .keyExchange v => .secret (Config.dheSecret v (Config.publicKey (Config.privateKey stop)))
    | .finish => .finished

/-- The root takes an answer: what it keeps of the exchange, or none where the answer fails (R418). -/
def Spdm.take (x : Spdm) (stop : Nat) (q : SpdmAsk) (a : SpdmAnswer) : Option Spdm :=
  let y := { x with step := x.step + 1 }
  match q, a with
  | .getVersion, .versions l => if l.contains (1, 3) then some y else none
  | .getCapabilities, .capabilities l => if capsNeeded.all l.contains then some y else none
  | .negotiate want, .algorithms l => if want.all l.contains then some y else none
  | .getDigests, .digests d => some { y with digest := d }
  | .getCertificate _, .certificate l =>
    if chainOk stop l && Config.sha256 (chainBytes l) == x.digest then some { y with peer := (l.getLast?.map (·.key)).getD 0 } else none
  | .challenge n, .signature g => if Config.verify x.peer (bytesOf 32 n.toNat) g then some { y with nonce := n } else none
  | .getMeasurements n, .measurements l g =>
    if Config.verify x.peer (bytesOf 32 n.toNat ++ digestBytes l) g && l == Config.manifest (dieOfStop stop).isNone then some y else none
  | .keyExchange _, .secret v => some { y with session := some v }
  | .finish, .finished => some y
  | _, _ => none

def State.spdmOf (s : State) (k : Nat) : Spdm := s.spdm.get k Spdm.reset

def State.setSpdm (s : State) (k : Nat) (x : Spdm) : State := { s with spdm := s.spdm.set k x Spdm.reset }

/-! ### Attestation (R417, R418, R421) -/

/-- The stop of the package root (R418, R421): IO0, or IO1 once IO0's root has failed. -/
def State.rootStop (s : State) : Nat := if s.dieState 4 = .failed then 9 else 4

/-- The root can act: its own self-test has passed. -/
def State.rootUp (s : State) : Bool := s.dieState s.rootStop == .keyed || s.dieState s.rootStop == .inService

/-- The order in which the root opens attestations: IO1, then the compute dies in stop order (R418). -/
def attestOrder : List Nat := [9, 0, 1, 2, 3, 5, 6, 7, 8]

/-- A step of a stop's attestation can be made: the root's own self-test; the opening of a quarantined die before which none in the order is
quarantined; the next exchange with a die that is attesting. -/
def State.attestDue (s : State) (k : Nat) : Bool :=
  match s.dieState k with
  | .quarantined =>
    k == s.rootStop || (s.rootUp && attestOrder.contains k && (attestOrder.takeWhile (· != k)).all (fun j => s.dieState j != .quarantined))
  | .attesting => k == s.rootStop || s.rootUp
  | _ => false

/-- The exchange with a die has ended. -/
def State.attested' (s : State) (k : Nat) (ok : Bool) : State :=
  if ok then s.setDieState k .keyed else (s.setSpdm k Spdm.reset).setDieState k .failed

/-- `ATTESTATION` (R417, R418): one step. The root opens the attestation of a quarantined die, or makes the next exchange with one that is
attesting, which fails on an error or on an answer that does not hold, and is keyed after the last. The root's own die makes its self-test. `ok`:
the self-test passes, or the die answers without an error. -/
def execAttestation (stop : Nat) (ok : Bool) (s : State) : Res :=
  if 10 ≤ stop ∨ ¬ s.attestDue stop then .next s
  else if s.dieState stop = .quarantined then .next (((s.setSpdm stop Spdm.reset).setDieState stop .attesting).rootDone s)
  else
    let (n, t) := s.fresh
    if stop = s.rootStop then .next ((t.attested' stop ok).rootDone s)
    else
      let x := t.spdmOf stop
      let q := x.ask (Config.random n)
      match x.take stop q (spdmAnswer stop ok q) with
      | none => .next ((t.attested' stop false).rootDone s)
      | some y => .next ((if q = .finish then (t.setSpdm stop y).attested' stop true else t.setSpdm stop y).rootDone s)

/-- What chance brings to a step of a stop's attestation (R418, R421; log 13). -/
def State.attestOk (s : State) (k : Nat) : Bool := if k = s.rootStop then Config.selfTest s.nextId else !Config.answersError s.nextId

/-! ### Link keys (R419, R420) -/

/-- A stop whose die can hold link keys (R417). -/
def State.attested (s : State) (k : Nat) : Bool := s.dieState k == .keyed || s.dieState k == .inService

/-- An I/O die both of whose links are keyed is in service (R417). -/
def State.ioService (s : State) (k : Nat) : State :=
  if (dieOfStop k).isNone ∧ s.dieState k = .keyed ∧ s.stopKeyed k then s.setDieState k .inService else s

/-- A fresh key with its salt, drawn by the root (R419). -/
def State.drawKey (s : State) : LinkKey × State :=
  let (n, s) := s.fresh
  let (m, s) := s.fresh
  ({ key := Config.random n, salt := (Config.random m).setWidth 32 }, s)

/-- A fresh key of a link direction can be brought a stage on (R419). -/
def State.installDue (s : State) (link : Nat) (up : Bool) : Bool :=
  s.rootUp && s.attested link && s.attested ((link + 1) % 10) && !(s.link link up).keyed

/-- `LINK_KEY_INSTALL` (R419), one stage: the root delivers a fresh key and salt to both ends; the receiver installs them and confirms; the
sender begins to use them. -/
def execLinkKeyInstall (link : Nat) (up : Bool) (s : State) : Res :=
  if 10 ≤ link ∨ ¬ s.installDue link up then .next s
  else
    let x := s.link link up
    match x.stage with
    | .delivered => .next (s.setLink link up { x with stage := .confirmed })
    | .confirmed =>
      .next ((((s.setLink link up { x with keyed := true, stage := .none, since := s.cycle }).ioService link).ioService ((link + 1) % 10)).rootDone s)
    | _ =>
      let (k, s) := s.drawKey
      .next (s.setLink link up { LinkDir.reset with ph0 := ⟨some k, 0⟩, stage := .delivered, waiting := x.waiting, inject := x.inject })

/-- Cycles of one hour at 2.1 GHz (R1, R420). -/
def keyHour : Nat := 7560000000000

/-- A link direction is due for its next key (R420). -/
def State.rollDue (s : State) (link : Nat) (up : Bool) : Bool :=
  let x := s.link link up
  x.keyed && (match x.stage with
    | .none => decide (2 ^ 32 ≤ (x.phase x.kp).count) || decide (x.since + keyHour ≤ s.cycle)
    | .delivered | .confirmed => true
    | .switched => false)

/-- KEY_UPDATE on a stop's session (R420). -/
def State.updateKeys (s : State) (k : Nat) : State := s.setSpdm k { s.spdmOf k with updates := (s.spdmOf k).updates + 1 }

/-- `KEY_ROLLOVER` (R420), one stage, never while an earlier rollover of the direction is open: the sessions are updated and the next key
delivered; the receiver installs it beside the current one and confirms; the sender switches, and counts the flits under it from 0. -/
def execKeyRollover (link : Nat) (up : Bool) (s : State) : Res :=
  if 10 ≤ link ∨ ¬ s.rollDue link up then .next s
  else
    let x := s.link link up
    match x.stage with
    | .delivered => .next (s.setLink link up { x with stage := .confirmed })
    | .confirmed => .next (s.setLink link up { x with kp := !x.kp, stage := .switched, since := s.cycle, newSeen := false })
    | _ =>
      let (k, s) := s.drawKey
      .next (((s.setLink link up { x.setPhase (!x.kp) ⟨some k, 0⟩ with stage := .delivered }).updateKeys link).updateKeys ((link + 1) % 10))

/-! ### Flits (R411, R415, R419, R420) -/

/-- The GCM nonce of a flit: the salt and the count of flits sent under the key (R419). -/
def LinkKey.nonce (k : LinkKey) (count : Nat) : BitVec 96 := k.salt ++ BitVec.ofNat 64 count

/-- The tag holds over header and payload under a key, for the count of the flit (R411, R419). -/
def flitTagOk (f : Flit) (k : LinkKey) (count : Nat) : Bool := f.tag == Config.gcmTag k.key (k.nonce count) (f.hdrBytes ++ f.pay)

/-- The header of a message's flit (R411). -/
def RingMsg.hdr (m : RingMsg) (kp : Bool) (n : Nat) : DWord :=
  BitVec.ofNat 4 m.dst ++ BitVec.ofNat 4 m.src ++ m.cls ++ BitVec.ofBool m.dl ++ BitVec.ofBool kp ++ Config.flitInfo n

/-- The flit of a message as the sender makes it (R411, R419). -/
def RingMsg.flit (m : RingMsg) (k : LinkKey) (kp : Bool) (count n : Nat) : Flit :=
  let hdr := m.hdr kp n
  let pay := Config.gcmSeal k.key (k.nonce count) n
  let tag := Config.gcmTag k.key (k.nonce count) (bytesOf 8 hdr.toNat ++ pay)
  { hdr := hdr, pay := pay, tag := tag, crc := Config.crc32 (bytesOf 8 hdr.toNat ++ pay ++ bytesOf 12 tag.toNat), msg := some n }

/-- The flit resent is one of a phase: it keeps its phase and its count (R419, R420). -/
def LinkDir.resends (x : LinkDir) (kp : Bool) : Option Nat :=
  match x.retry with
  | some (p, c) => if p = kp then some c else none
  | none => none

/-- A flit holds under the key of its phase (R419, R420). -/
def LinkDir.accepts (x : LinkDir) (f : Flit) : Bool :=
  f.crcOk && (match (x.phase f.kp).key with
    | some k => flitTagOk f k ((x.resends f.kp).getD (x.phase f.kp).count)
    | none => false)

/-- A flit of a phase has been sent for the first time. -/
def LinkDir.sent (x : LinkDir) (kp : Bool) : LinkDir :=
  if (x.resends kp).isSome then x else x.setPhase kp { x.phase kp with count := (x.phase kp).count + 1 }

/-- A link is taken down (R415): it loses its keys, its traffic goes the other way around, and vector 3 reports it. -/
def State.takeDown (s : State) (k : Nat) : State :=
  (({ s.unkeyLink k with linkDown := insertNat k s.linkDown }.reroute).vectorAll 3).rootDone s

/-- The flit of a message crosses a link direction (R412, R413): the one at the head of its queue there, over a link that carries traffic, with a
credit for the queue at its end. -/
def State.cross (s : State) (link : Nat) (up : Bool) (n : Nat) : State :=
  let x := s.link link up
  match s.ring.find n with
  | some m =>
    if (x.queue (channel m.cls m.dl)).head? = some n ∧ s.linkUp link ∧ s.credit link up n then
      (s.setLink link up ((x.dequeue n).used m.cls.toNat)).arrive link up n
    else s
  | none => s

/-- A message goes by the header of its flit (R411). -/
def State.withHeader (s : State) (f : Flit) : State :=
  match f.msg.bind (fun n => (s.ring.find n).map (fun m => (n, m))) with
  | some (n, m) => { s with ring := s.ring.put n { m with dst := f.dest, src := f.src, cls := f.cls, dl := f.dl } }
  | none => s

/-- `RING_FLIT_RECEIVE` (R411 to R415, R419, R420): a flit whose CRC or tag fails is retried, and what a retry clears is counted as a correctable
error (R73, R74); after the fourth retry that fails the link is taken down. A good flit of the new phase behind a retry is held. With a flit of
the new phase and none of the old one unacknowledged, the receiver discards the old key and reports. A good flit's message goes on to its next
hop, or to its destination. -/
def execRingFlitReceive (link : Nat) (up : Bool) (f : Flit) (s : State) : Res :=
  let x := s.link link up
  if 10 ≤ link ∨ ¬ x.keyed ∨ s.linkDown.contains link then .next s
  else if ¬ x.accepts f then
    if x.retries = 4 then .next (s.takeDown link)
    else
      let kp := match x.retry with
        | some r => r.1
        | none => if (x.phase f.kp).key.isSome then f.kp else x.kp
      .next (s.setLink link up { x.sent kp with retries := x.retries + 1, retry := x.retry.or (some (kp, (x.phase kp).count)) })
  else if x.retry.isSome ∧ (x.resends f.kp).isNone then
    .next ((s.setLink link up { x.sent f.kp with newSeen := true, held := x.held ++ f.msg.toList }).withHeader f)
  else
    let y := x.sent f.kp
    let report := decide (x.stage = .switched) && (x.newSeen || f.kp == x.kp)
    let y := if report then { y.setPhase (!y.kp) ⟨none, 0⟩ with stage := .none } else y
    let s := (s.setLink link up { y with retries := 0, retry := none, newSeen := false, held := [] }).withHeader f
    let s := if x.retries = 0 then s else s.countFixed (linkEnd link up)
    .next ((f.msg.toList ++ x.held).foldl (fun (s : State) n => s.cross link up n) s)

/-- The flit that a link direction brings next, good at its first attempt or at a retry (R415). -/
def State.goodFlit (s : State) (link : Nat) (up : Bool) : Option Instr :=
  match s.nextFlit link up with
  | none => none
  | some n =>
    let x := s.link link up
    let kp := match x.retry with | some r => r.1 | none => x.kp
    (s.ring.find n).bind (fun m => (x.phase kp).key.map (fun k =>
      .ringFlitReceive link up (m.flit k kp ((x.resends kp).getD (x.phase kp).count) n)))

/-- A link that was taken down can carry traffic again (R415). -/
def State.restoreDue (s : State) (link : Nat) : Bool := s.linkDown.contains link && s.linkKeyed link

/-- `LINK_RESTORE` (R415): a link that was taken down and is keyed again carries traffic again. -/
def execLinkRestore (link : Nat) (s : State) : Res :=
  if s.restoreDue link then .next (({ s with linkDown := s.linkDown.filter (· ≠ link) }.vectorAll 3).rootDone s)
  else .next s

/-- A keyed compute die all of whose links are keyed enters service once nothing is under way at what the standby holds for it (R109, R417). -/
def State.returnDue (s : State) (die : Nat) : Bool :=
  decide (die < 8) && s.dieState (stopOf die) == .keyed && s.stopKeyed (stopOf die) && s.mayHandBack die

/-- `STANDBY_HAND_BACK` (R109, R417, R421): a die enters service, homing reverts to it, and the queues that had chains on it hear of it. -/
def execStandbyHandBack (die : Nat) (s : State) : Res :=
  if ¬ s.returnDue die then .next s
  else
    let t := s.handBack die
    let x := t.die die
    let t := t.setDie die { x with lostQueues := [] }
    let t := x.lostQueues.foldl (fun (s : State) q => s.event q.1 (eventRecord q.2 die 0x15 die)) t
    .next { t.rootDone s with roundDue := true }

/-- Every link direction. -/
def linkDirs : List (Nat × Bool) := (List.range 10).flatMap (fun k => [(k, true), (k, false)])

/-- What the root, the links and the DMA engines do on their own, each a step whose meaning is that of its row. -/
inductive OwnWork where
  | attest (stop : Nat)
  | install (link : Nat) (up : Bool)
  | roll (link : Nat) (up : Bool)
  | restore (link : Nat)
  | handBack (die : Nat)
  /-- the read request of an RDMA READ (R426) -/
  | readAsk (cmd : Nat)
  /-- the wake of a `seqwt` leaves the home of its counter (R326, R413) -/
  | seqWake (r : RodId) (sl : SlotId) (stop : Nat)
  deriving DecidableEq, Repr

/-- The meaning of each. -/
def OwnWork.run (w : OwnWork) (s : State) : Res :=
  match w with
  | .attest k => execAttestation k (s.attestOk k) s
  | .install l up => execLinkKeyInstall l up s
  | .roll l up => execKeyRollover l up s
  | .restore l => execLinkRestore l s
  | .handBack d => execStandbyHandBack d s
  | .readAsk n => execDmaRdmaRead n [] s
  | .seqWake r sl k => .next (s.carry k (stopOf (s.coreOf r).die) 0 (.seqwtWake r sl))

/-- What the root and the links have to do (R415, R417 to R421). -/
def State.rootWork (s : State) : List OwnWork :=
  if ¬ s.powered then []
  else
    ((List.range 10).filter s.attestDue).map OwnWork.attest ++
    (linkDirs.filter (fun l => s.installDue l.1 l.2)).map (fun l => .install l.1 l.2) ++
    (linkDirs.filter (fun l => s.rollDue l.1 l.2)).map (fun l => .roll l.1 l.2) ++
    ((List.range 10).filter s.restoreDue).map OwnWork.restore ++ ((List.range 8).filter s.returnDue).map OwnWork.handBack

/-- The read requests that RDMA READs have to send (R426). -/
def State.readAsks (s : State) : List OwnWork :=
  s.cmds.filterMap (fun (e : Nat × Cmd) => match e.2.kind with
    | .dma p => if p.op = 3 ∧ e.2.asked = false ∧ e.2.susp = false ∧ e.2.state = .fetched ∧ s.cmdTurn e.2 ∧ (s.engineFor e.2).isSome then
        some (.readAsk e.1) else none
    | _ => none)

/-- The end of a reset is due: power is good and a die is off (R417). -/
def State.resetEnds (s : State) : Bool := s.powered && (List.range 10).any (fun k => s.dieState k == .off)

end Sys2Proof.Machine
end

