-- ==== Sys2Proof/Machine/Package.lean ====
section
/-!
DEFINITION. The package (R421 to R433): die reset and return, module reset, the host's accesses through BAR2, its SPDM requests, counter
watches, peers' requests, and the patrol scrubber (R78).
-/
namespace Sys2Proof.Machine

/-! ### Losing a die (R421, R431) -/

/-- A save slot lies, in part, in near memory that has become inaccessible (R110, R431). -/
def State.slotLost (s : State) (io asid : Nat) (p : Packet) (n : Nat) : Bool :=
  (List.range ((p.svStr + 65535) / 65536 + 1)).any (fun k =>
    let va := Nat.min (p.slotAt n / 65536 * 65536 + 65536 * k) (p.slotAt n + p.svStr - 1)
    match (s.walk (.io io) asid va .read).1 with
    | .frame pa _ => s.reach pa == .lost
    | _ => false)

/-- A chain goes with die d: it runs there, or its save slot has gone. -/
def State.chainLost (s : State) (d : Nat) (x : Cmd) (p : Packet) (c : Chain) : Bool :=
  match c.state with
  | .saved n => s.slotLost (x.queue / 512) x.asid p n
  | _ => c.core.die == d

/-- A restartable launch's furlong is discarded, to run again from its start. -/
def State.restartFurlong (s : State) (lid fid : Nat) (p : Packet) : State :=
  let group := s.chains.filter (fun (e : Nat × Chain) => e.2.launch == lid && e.2.furlong == fid)
  let first := (s.furlong fid).map (·.first)
  match first with
  | none => s
  | some a =>
    let n := Nat.min p.furl (p.chains - a)
    let s := group.foldl (fun (s : State) e => s.discardChain e.1 e.2) s
    s.modCmd lid (fun x => { x with retired := x.retired - (n - group.length),
                                    requeue := (x.requeue ++ [(a, n)]).mergeSort (fun e f => decide (e.1 ≤ f.1)) })

/-- What becomes of the launches when die d leaves service (R431). -/
def State.launchesLost (s : State) (d : Nat) : State :=
  s.cmds.foldl (fun (s : State) e =>
    match s.cmd e.1 with
    | none => s
    | some x =>
      match x.packet with
      | none => s
      | some p =>
        let mine := s.chains.filter (fun (c : Nat × Chain) => c.2.launch == e.1 && s.chainLost d x p c.2)
        if x.isDone ∨ mine.isEmpty then s
        else if p.restartable ∧ ¬ x.cancelled then
          { ((mine.map (fun c => c.2.furlong)).eraseDups.foldl (fun (s : State) f => s.restartFurlong e.1 f p) s) with roundDue := true }
        else
          let s := if x.cancelled then s
            else
              let s := s.event x.queue (eventRecord x.asid d 0x14 (d * 2 ^ 32 + x.ring))
              ((s.setQueue x.queue { s.queue x.queue with dlwait := true }).modCmd e.1 (fun c => { c with lost := true })).cancelCmd e.1 3
          let s := mine.foldl (fun (s : State) c => match s.chain c.1 with | some y => s.discardChain c.1 y | none => s) s
          s.send (.levelComplete .launch e.1)) s

/-- The neighbour commands for a die that leaves service complete with CODE 3 (R431), and what waited for an answer to its walks goes on. -/
def State.nbLost (s : State) (d : Nat) : State :=
  (s.cmds.foldl (fun (s : State) e => match e.2.kind with
    | .neighbour p => if p.die = d then s.completeCmd e.1 3 0 else s
    | _ => s) s).replay (fun c => c.die == d) (fun _ => false)

/-- The parts of a compute die at its reset (R8, R110): the slices' records stay for the loss notice that follows. -/
def Die.lose (x : Die) (now counted : Nat) (had : List (Nat × Nat)) : Die :=
  { Die.reset with
    home := x.home, homeQ := x.homeQ, l2 := x.l2, l2stamp := x.l2stamp, l2stamps := x.l2stamps, resident := x.resident, hostHeld := x.hostHeld,
    mayHold := x.mayHold, resetAt := now, cleared := counted, nearLost := true, lostQueues := (x.lostQueues ++ had).eraseDups }

/-- The root sends the loss notice of die d, as a control flit, to every other die in service that it reaches (R106, R413, R421). -/
def State.sendLoss (s : State) (d : Nat) : State :=
  let root := s.rootStop
  let others := (List.range 10).filter (fun k => k != root && s.dieState k == .inService && s.reaches root k)
  (others.foldl (fun (s : State) k => s.carry root k 0 (.lossNotice d)) s).send (.lossNotice d)

/-- The steal requests of die d's cores go, and those that its mailbox held are answered with no item (R106, R172). -/
def State.stealsLost (s : State) (d : Nat) : State :=
  (s.die d).mailbox.foldl (fun (s : State) q => s.stealEnds q.launch q.thief) (s.withdrawSteals (fun _ t => t.die == d))

/-- A reset of compute die d (R421): it leaves service at once, its session ends, the loss notice goes out, and its links carry nothing; the queues
that had chains on it, saved ones among them, are noted. A die that has failed is left by RETRY alone (R417). -/
def State.resetDie (s : State) (d : Nat) : State :=
  match s.dieState (stopOf d) with
  | .off | .failed => s
  | st =>
    let had := (s.chains.filterMap (fun (e : Nat × Chain) => (s.cmd e.2.launch).bind (fun x => x.packet.bind (fun p =>
      if e.2.core.die = d ∨ s.chainLost d x p e.2 then some (x.queue, x.asid) else none)))).eraseDups
    let s := ((s.stealsLost d).setDieState (stopOf d) .off).setSpdm (stopOf d) Spdm.reset
    let s := (s.setDie d ((s.die d).lose s.cycle s.counted had)).unkey (stopOf d)
    let s := { s with cores := s.cores.keep (fun k _ => (coreOfKey k).die != d) }
    if st = .inService then
      let s := (s.launchesLost d).nbLost d
      s.sendLoss d
    else s

/-- `DIECTL_RESET` (R421, R422): the bits of I/O stops are ignored. -/
def execDiectlReset (v : BitVec 10) (s : State) : Res :=
  .next (((List.range 10).foldl (fun (s : State) k => match dieOfStop k with
    | some d => if v.getLsbD k then s.resetDie d else s
    | none => s) s).rootDone s)

/-- `DIECTL_RETRY` (R417, R422). -/
def execDiectlRetry (v : BitVec 10) (s : State) : Res :=
  .next (((List.range 10).foldl (fun (s : State) k =>
    if v.getLsbD k ∧ s.dieState k = .failed then s.setDieState k .quarantined else s) s).rootDone s)

/-- `MODULE_RESET` (R421): everything but the contents of memory is as at power-on; what has left the module, what is still to come from
outside, the power and the host's ranges stay (log 22). -/
def execModuleReset (s : State) : Res :=
  .next { State.reset with
    mem := s.mem, poison := s.poison, poisonLost := s.poisonLost, inputs := s.inputs, outbox := s.outbox, claimed := s.claimed,
    powered := s.powered }

/-! ### Near memory (R110) -/

/-- Near memory of a die is emptied: every byte reads 0, with no copy of the old contents left. -/
def State.clearNear (s : State) (d : Nat) : State :=
  let inD := fun (pa : Nat) => region pa == .near d
  { s with
    mem := s.mem.filter (fun e => !inD e.1),
    poison := s.poison.filter (fun wd => !inD (4 * wd)), poisonLost := s.poisonLost.filter (fun wd => !inD (4 * wd)),
    cores := s.cores.map (fun (e : Nat × Core) => (e.1, { e.2 with l1 := e.2.l1.keep (fun wd _ => !inD (4 * wd)),
                                                                    icache := e.2.icache.keep (fun l _ => !inD (128 * l)) })),
    dies := s.dies.map (fun (e : Nat × Die) => (e.1, { e.2 with l2 := e.2.l2.keep (fun wd _ => !inD (4 * wd)),
                                                                 home := e.2.home.keep (fun wd _ => !inD (4 * wd)) })) }

/-- NMCTL.EN is written (R110). -/
def State.writeNmctl (s : State) (d : Nat) (en : Bool) : State :=
  let x := s.die d
  let s := if en ∧ x.nmctl.getLsbD 0 = false ∧ x.nearLost then s.clearNear d else s
  let x := s.die d
  s.setDie d { x with nmctl := if en then 1 else 0, nearLost := if en then false else x.nearLost }

/-- `NMCTL_ENABLE` (R110). -/
def execNmctlEnable (die : Nat) (s : State) : Res := if die < 8 then .next (s.writeNmctl die true) else .next s

/-! ### The host (R422, R423, R428) -/

/-- `HOST_SPDM_REQUEST` (R418, R422): IO0's signed answer over the nonce, its four measurements and the STATE fields. -/
def execHostSpdmRequest (nonce : List Byte) (s : State) : Res :=
  let m := nonce ++ digestBytes (measurements 4) ++ bytesOf 8 (s.diestat.bits 29 0)
  .next { s with outbox := s.outbox ++ [.spdm (m ++ bytesOf 384 (Config.sign (Config.privateKey 4) m))] }

/-- The far memory that an offset in the BAR2 window of a link names (R17, R423; log 68). -/
def bar2At (a : Bar2At) : Nat := (if a.io = 0 then 0x0010000000000 else 0x001C000000000) + a.off

/-- n bytes at an offset lie in the BAR2 window of a link that carries data (R5, R423). -/
def State.inBar2 (s : State) (a : Bar2At) (n : Nat) : Bool :=
  decide (a.io < 2) && s.ioUp a.io && decide (0 < n) && decide (a.off + n ≤ 2 ^ ((s.iod a.io).bar2 + 30))

/-- Bytes as they leave over a link: 0xFFFF_FFFF for a poisoned or lost word, with the link's poison indication (R423). -/
def linkData (d : List (Byte × Bool)) : OutMsg := .data (d.any Prod.snd) (d.map Prod.fst)

/-- `BAR2_READ` (R423): the step takes it up once nothing is under way there. -/
def execBar2Read (a : Bar2At) (n : Nat) (s : State) : Res :=
  if ¬ s.inBar2 a n ∨ ¬ s.canGet (ioStop a.io) (bar2At a) n then .next s
  else
    let (ws, t) := s.homeReads (wordsOf (bar2At a) n) (some 1) (ioStop a.io)
    .next { t with outbox := t.outbox ++ [linkData (readBytes (bar2At a) n ws)] }

/-- `BAR2_WRITE` (R77, R423): the owner is recalled, and the bytes are written at home, poisoned where the link says so; the step takes it up
once nothing is under way there. -/
def execBar2Write (a : Bar2At) (bytes : List Byte) (s : State) (bad : Bool := false) : Res :=
  if ¬ s.inBar2 a bytes.length then .next s
  else if ¬ s.canPut (ioStop a.io) (bar2At a) bytes.length then .next (s.clearWay (bar2At a) bytes.length)
  else .next ((s.putLinkBytes a.io (bar2At a) bytes bad).noteCounters s none (bar2At a) bytes.length)

/-- `HW_ARM` (R428): the watch is armed and checked at once. -/
def execHwArm (iod i : Nat) (s : State) : Res :=
  if 2 ≤ iod ∨ 64 ≤ i then .next s
  else
    let d := s.iod iod
    .next ((s.setIod iod { d with watches := d.watches.set i { d.watches.get i Watch.reset with en := true } Watch.reset }).checkWatch iod i)

/-! ### Peers (R425) -/

/-- The bytes that a peer's request reads or writes. -/
def peerRange : PeerReq → Nat × Nat
  | .write pa bytes _ | .writeImm pa bytes _ _ => (pa, bytes.length)
  | .read pa n => (pa, n)
  | .connect | .disconnect | .send _ => (0, 0)
  | .fetchAdd pa _ | .cmpSwap pa _ _ => (pa, 8)

/-- The peer's request can be performed as one step: nothing is under way where it reads or writes, and data can go there (R5, R100, R112). -/
def State.peerReady (s : State) (q : Nat) (req : PeerReq) : Bool :=
  match req with
  | .read pa n => s.canGet (ioStop (q / 16384)) pa n
  | _ => s.canPut (ioStop (q / 16384)) (peerRange req).1 (peerRange req).2

/-- An answer goes to the peer. -/
def State.answerPeer (s : State) (m : OutMsg) : State := { s with outbox := s.outbox ++ [m] }

/-- A peer's atomic on an aligned 8-byte word (R76, R425). -/
def State.peerAtomic (s : State) (q pa : Nat) (op : AmoOp) (v v2 : Nat) : State :=
  let (old, _, t) := runAcc { lane := 0, pa := pa, size := 8, act := .amo op v v2 } s
  (t.noteCounters s none pa 8).answerPeer (.answer q (bytesOf 8 old))

/-- A peer's write, and what the link says of its data (R77). -/
def State.peerWrite (s : State) (q pa : Nat) (bytes : List Byte) (bad : Bool) : State :=
  ((s.putLinkBytes (q / 16384) pa bytes bad).noteCounters s none pa bytes.length).answerPeer (.answer q [])

/-- A queue pair has gone down: the DMA commands that await its answer have a queue-pair error (R427). -/
def State.dropPair (s : State) (q : Nat) : State :=
  s.cmds.foldl (fun (s : State) (e : Nat × Cmd) => match e.2.kind with
    | .dma p => if 2 ≤ p.op ∧ 16384 * (e.2.queue / 512) + p.qp = q ∧ e.2.state = .running then s.send (.dmaComplete e.1 4) else s
    | _ => s) { s with qps := s.qps.filter (· ≠ q) }

/-- `PEER_RDMA_REQUEST` (R425) on a queue pair, of which each I/O die has 16,384: the pair comes up or goes down, or a peer's request on device
memory arrives on a live one; what names no memory is turned away, and nothing comes over an I/O die that is not in service (R5) or a pair that is
not live. A SEND's payload and the immediate of a write leave the model: the spec names no place for them (log 23). -/
def execPeerRdmaRequest (q : Nat) (req : PeerReq) (s : State) : Res :=
  let ok := (List.range (peerRange req).2).all (fun i => s.reach ((peerRange req).1 + i) == .memory)
  let refuse := Host.Outcome.next (s.answerPeer (.refusal q))
  if 32768 ≤ q ∨ ¬ s.ioUp (q / 16384) then .next s
  else if req = .connect then .next { s with qps := insertNat q s.qps }
  else if req = .disconnect then .next (s.dropPair q)
  else if ¬ s.qps.contains q then .next s
  else if ok ∧ ¬ s.peerReady q req then .next (s.clearWay (peerRange req).1 (peerRange req).2)
  else
    match req with
    | .write pa bytes bad | .writeImm pa bytes _ bad => if ok then .next (s.peerWrite q pa bytes bad) else refuse
    | .read pa n =>
      if ok then
        let (ws, t) := s.homeReads (wordsOf pa n) (some 1) (ioStop (q / 16384))
        .next (t.answerPeer (.answer q (((readBytes pa n ws).takeWhile (fun e => !e.2)).map Prod.fst)))
      else refuse
    | .send _ => .next (s.answerPeer (.answer q []))
    | .fetchAdd pa v => if pa % 8 = 0 ∧ ok then .next (s.peerAtomic q pa .add v.toNat 0) else refuse
    | .cmpSwap pa old new => if pa % 8 = 0 ∧ ok then .next (s.peerAtomic q pa .cas old.toNat new.toNat) else refuse
    | .connect | .disconnect => .next s

/-! ### The patrol scrubber (R78, R79) -/

/-- `PATROL_SCRUB` (R78): a correctable error is counted, an uncorrectable one poisons its 8-byte granule and is recorded by the die that
owns the memory. -/
def execPatrolScrub (pa : Nat) (found : ScrubFind) (s : State) : Res :=
  let a := pa / 8 * 8
  let owned : Bool := match region pa with | .near d => (s.die d).nmctl.getLsbD 0 | .far _ => true | _ => false
  if owned = false then .next s
  else
    match found with
    | .clean => .next s
    | .corrected =>
      match region pa with
      | .near d => .next (s.countFixed (stopOf d))
      | .far io => .next (s.countFixed (if io = 0 then 4 else 9))
      | _ => .next s
    | .uncorrectable => .next (((s.setPoison (a / 4) true).setPoison (a / 4 + 1) true).recordMem a)

end Sys2Proof.Machine
end

