-- ==== Sys2Proof/Machine/Traps.lean ====
section
/-!
DEFINITION. The start of a clause (R202 to R206), halts and handler entry (R402, R403), break bits (R438), `sleep` and ageing
(R163, R259), and the forms of group 7 that belong to traps (R404 to R407).
-/
namespace Sys2Proof.Machine

/-! ### Fetching a clause (R202 to R206) -/

/-- Why a clause cannot be had. -/
inductive FetchStop where
  /-- rejected with causes; `early` when the fetch itself or the header is at fault, not the body (R403) -/
  | rejected (bits : Word) (early : Bool)
  /-- a page is missing -/
  | missing (va : DWord)
  /-- something is under way at a word that the fetch needs -/
  | busy
  deriving DecidableEq, Repr

abbrev FetchTry (α : Type) := Except (FetchStop × State) (α × State)

/-- Fetch n words of a clause from an address on (R206). A page denied to the rod is a violation (R30). -/
def State.fetchWords (s : State) (c : CoreId) (asid : Nat) (den : List Denied) (va : DWord) : Nat → List (DWord × Bool) →
    FetchTry (List (DWord × Bool))
  | 0, acc => .ok (acc, s)
  | n + 1, acc =>
    let a := va + BitVec.ofNat 64 (8 * acc.length)
    if den.any (fun d => d.vpn == a.toNat / 65536 && d.kind == .fetch) then
      .error (.rejected (Cause.illegal ||| Cause.accv) true, s)
    else
      match s.fetchWord c asid a with
      | (.word w b, s) => s.fetchWords c asid den va n (acc ++ [(w, b)])
      | (.violation, s) => .error (.rejected (Cause.illegal ||| Cause.accv) true, s)
      | (.poisoned bits, s) => .error (.rejected (Cause.illegal ||| bits) true, s)
      | (.missing _, s) => .error (.missing a, s)
      | (.busy _ _, s) => .error (.busy, s)

/-- Fetch the clause at an address and judge it whole (R204, R205). -/
def State.fetchClause (s : State) (c : CoreId) (asid : Nat) (den : List Denied) (va : DWord) : FetchTry (Header × List (DWord × Bool)) :=
  match s.fetchWords c asid den va 1 [] with
  | .error e => .error e
  | .ok (ws, s) =>
    match decodeHeader ((ws.headD (0, false)).1) with
    | none => .error (.rejected Cause.illegal true, s)
    | some h =>
      match s.fetchWords c asid den (va + 8) (h.count.toNat + 1) [] with
      | .error e => .error e
      | .ok (body, s) =>
        if bodyOk h.cls (body.map Prod.fst) then .ok ((h, body), s) else .error (.rejected Cause.illegal false, s)

/-- The clause as a slot holds it once started. -/
def clauseOf (h : Header) (body : List (DWord × Bool)) : Clause :=
  { count := h.count.toNat + 1, a := h.a, b := h.b, body := body.map Prod.fst, brk := body.map Prod.snd }

/-- The pages of a clause no longer stand denied to a rod. -/
def Rod.fetched (x : Rod) : Rod := { x with denied := x.denied.filter (fun d => d.kind != .fetch) }

/-- A slot that stands at a clause without having started it is given the fetched clause (R203, R208, R406): at instruction 0 it waits
on the header's flags; at a later instruction it goes on there without testing them; beyond the last, at the clause that follows. -/
def State.beginClause (s : State) (r : RodId) (sl : SlotId) (x : Rod) (y : Slot) (h : Header) (body : List (DWord × Bool)) : State :=
  if h.count.toNat < y.path.idx then (s.setRod r (x.goto sl (nextClause y.path.pc (h.count.toNat + 1)) s.cycle)).checkHalt r
  else if y.path.idx = 0 ∧ x.flagsClear h.wait = false then s.waitOn r sl (.flags h.wait)
  else s.setRod r (x.fetched.setSlot sl (some { y with started := some (clauseOf h body), wait := none }))

/-- `CLAUSE_START` (R205, R206). -/
def execClauseStart (r : RodId) (sl : SlotId) (s : State) : Res :=
  match s.rod r with
  | none => .next s
  | some x =>
    match x.slot sl with
    | none => .next s
    | some y =>
      if y.started.isSome ∨ y.stopped ∨ x.frozen then .next s
      else
        let core := s.coreOf r
        let asid := s.asidOf r
        match s.fetchClause core asid (x.denied.filter (fun d => d.sl == sl)) y.path.pc with
        | .ok ((h, body), s) => .next (s.beginClause r sl x y h body)
        | .error (.rejected bits _, s) => .next ((s.setRod r x.fetched).takeTrap r sl bits y.path.pc 0)
        | .error (.missing va, s) =>
          .next ((s.askPage (.core core) asid va.toNat .fetch .missing (s.queueOf r).1).waitOn r sl .translation)
        | .error (.busy, s) => .next s

/-! ### Halts and handler entry (R402, R403, R405) -/

/-- `HALT_RECEIVE` (R402). -/
def execHaltReceive (r : RodId) (s : State) : Res := .next (s.receiveHalt r)

/-- The chain of a rod is being saved, or is saved. -/
def State.savingFor (s : State) (r : RodId) : Bool := ((s.chain r.chain).map (fun c => c.state != .resident)).getD false

/-- `HANDLER_ENTRY` (R403): a rod whose slots have stopped enters its handler, a rod in its handler enters it again (R405), and one whose
handler cannot be had freezes its chain with its trap point as stop point; a rod of a cancelled launch starts no handler (R328), nor does one
whose chain is being saved or is saved (R398). -/
def execHandlerEntry (r : RodId) (s : State) : Res :=
  match s.rod r, s.packet (s.launchOf r) with
  | some x, some p =>
    if x.run ≠ .halted ∨ x.frozen ∨ x.live = 0 ∨ s.cancelledFor r ∨ s.savingFor r then .next s
    else
      let point := some ((x.skid >>> 11) <<< 3, (if x.skid.getLsbD 10 then SlotId.b else .a), x.skid.bits 9 6)
      let enter := fun (s : State) =>
        let x := x.fetched
        .next (s.setRod r (if x.inHandler then { x.handlerAgain p.handler s.cycle with run := .running } else x.enterHandler p.handler s.cycle))
      if p.handler = 0 then .next (s.freeze r 0x12 point)
      else
        match s.fetchClause (s.coreOf r) (s.asidOf r) x.denied p.handler with
        | .ok (_, s) => enter s
        | .error (.rejected _ false, s) => enter s
        | .error (.rejected _ true, s) => .next ((s.setRod r x.fetched).freeze r 0x11 point)
        | .error (.missing va, s) => .next (s.askPage (.core (s.coreOf r)) (s.asidOf r) va.toNat .fetch .missing (s.queueOf r).1)
        | .error (.busy, s) => .next s
  | _, _ => .next s

/-! ### Break bits (R438) -/

/-- The next instruction of a slot carries a break bit that holds for it. -/
def Slot.breaks (y : Slot) : Bool := y.brk && !y.path.broke

/-- `BREAK_BIT_HIT` (R438): by BMODE the rod raises breakpoint, or its core is held with reason 1, at that instruction. -/
def execBreakBitHit (r : RodId) (sl : SlotId) (s : State) : Res :=
  match s.rod r with
  | none => .next s
  | some x =>
    match x.slot sl with
    | none => .next s
    | some y =>
      if ¬ y.breaks then .next s
      else
        let c := s.coreOf r
        let s := s.setRod r (x.setSlot sl (some { y with path := { y.path with broke := true } }))
        if (s.die c.die).dbgctl.getLsbD 0 then .next (s.holdCore c 1 (some r) 0 (some (y.path.pc, sl, y.path.idx)))
        else .next (s.takeTrap r sl Cause.brk y.path.pc y.path.idx)

/-! ### `sleep` and ageing (R163, R259) -/

/-- `SLEEP_EXPIRE` (R259). -/
def execSleepExpire (r : RodId) (sl : SlotId) (s : State) : Res :=
  match (s.rod r).bind (·.slot sl) with
  | some y =>
    match y.wait with
    | some (.sleep til) => if til ≤ s.cycle then .next (s.modRod r (fun x => x.setSlot sl (some { y with wait := none }))) else .next s
    | _ => .next s
  | none => .next s

/-- `AGEING_SWAP` (R163) of a rod. -/
def execAgeingSwap (r : RodId) (s : State) : Res := .next (s.modRod r (fun x => x.ageSwap s.cycle))

/-! ### Traps by instruction (R405) -/

/-- `trap` (R405): in a handler it performs nothing but its cause (R403). -/
def execTrap (g : Guard) (n : BitVec 8) (s : State) : Res :=
  withIss s (fun i =>
    if i.part g = 0 then finish s i
    else if i.rod.inHandler then trap s i Cause.strap
    else .next ((s.modRod i.rid (fun x => { x with cause := (x.cause &&& 0x00FFFFFF) ||| (n.setWidth 32 <<< 24) })).trapAfter i Cause.strap))

/-- `tret` (R405). -/
def execTret (g : Guard) (s : State) : Res :=
  withIss s (fun i =>
    if i.part g = 0 then finish s i
    else if ¬ i.rod.inHandler then trap s i Cause.illegal
    else
      let x := i.rod.issued i.sl
      if x.cause &&& 0x27FFF ≠ 0 then .next ((s.setRod i.rid { x with run := .halted }).send (.handlerEntry i.rid))
      else .next (s.setRod i.rid (x.returnFromHandler s.cycle)))

/-- `tclr` (R405). -/
def execTclr (g : Guard) (m : BitVec 24) (s : State) : Res :=
  withIss s (fun i =>
    if i.part g = 0 then finish s i
    else finish (s.modRod i.rid (fun x => { x with cause := x.cause &&& ~~~(m.setWidth 32 &&& ~~~Cause.inh) })) i)

/-! ### System reads and writes (R406) -/

/-- The items of `sysrd`. -/
def State.sysItem (s : State) (r : RodId) (item : BitVec 2) : DWord :=
  let own := s.queueOf r
  match item with
  | 0 => BitVec.ofNat 64 (own.1 * 2 ^ 32 + own.2)
  | 1 => ((s.packet (s.launchOf r)).map (·.ids)).getD 0
  | 2 => BitVec.ofNat 64 (((s.chain r.chain).map (·.resumes)).getD 0)
  | 3 => BitVec.ofNat 64 (s.asidOf r)

/-- `sysrd` (R406). -/
def execSysrd (g : Guard) (d : Operand) (item : BitVec 2) (s : State) : Res :=
  issue s g none [(d, 1)] [] (fun c => c.putInt d (fun n _ => (c.s.sysItem c.i.rid item).setWidth n))

/-- A write of a special register (R8, R221, R406). -/
def Rod.writeSreg (x : Rod) (r : SReg) (v : DWord) : Rod :=
  let w := v.setWidth 32
  match r with
  | .iflags => { x with iflags := x.iflags &&& ~~~(w &&& 0xF) }
  | .mflags => { x with mflags := x.mflags &&& ~~~(w &&& 0x7) }
  | .cause => { x with cause := x.cause &&& ~~~(w &&& 0x27F7F) }
  | .skid => if x.inHandler then { x with skid := (v &&& ~~~0x3F) ||| (x.skid &&& 0x3F) } else x
  | .agelimit => { x with agelimit := if w < 64 then 64 else w }
  | .compat => { x with compat := w &&& 0x3 }
  | .holdlimit => { x with holdlimit := w }
  | .lane | .active | .place | .chain | .role | .cycle | .flags => x

/-- `syswr` (R406): the value is that of the lowest participating lane. -/
def execSyswr (g : Guard) (r : SReg) (a : Operand) (s : State) : Res :=
  issue s g none [] [(a, 1)] (fun c =>
    if c.g = 0 then finish c.s c.i
    else finish (c.s.modRod c.i.rid (fun x => x.writeSreg r (c.int .a a false 64 c.low))) c.i)

/-! ### `csave` and `crest` (R407) -/

/-- The register image (R407). -/
def Rod.regImage (x : Rod) : List Byte := padTo 0x40 (bytesOf 1 (x.window / 8)) ++ x.regBytes ++ x.wordBytes x.window

/-- Take a register image back: registers, and the words below both windows. -/
def Rod.takeRegImage (x : Rod) (bs : List Byte) : Rod :=
  (x.setRegBytes bs 0x40).setWordBytes bs 0x3C0 (Nat.min x.window (8 * natAt bs 0 1))

/-- Where the 64-byte blocks of an image lie, or the page that is waited for. -/
def State.imageBlocks (s : State) (i : Iss) (va : DWord) (kind : XKind) : List Nat → List Where → Except (DWord × XOut × State) (List Where × State)
  | [], acc => .ok (acc, s)
  | o :: rest, acc =>
    match s.resolve (.core (s.coreOf i.rid)) (s.asidOf i.rid) i.denied (va + BitVec.ofNat 64 o) kind with
    | (.waits x, s) => .error (va + BitVec.ofNat 64 o, x, s)
    | (w, s) => s.imageBlocks i va kind rest (acc ++ [w])

/-- The forms of an image start alike: once per rod, waiting as an access does. -/
def imageForm (s : State) (g : Guard) (a : Operand) (ready : State → Iss → Bool) (k : Ctx → DWord → Res) : Res :=
  issue s g none [] [(a, 2)] (fun c =>
    if c.g = 0 then finish c.s c.i
    else if c.i.flagFull then wait c.old c.i .control
    else if ¬ ready c.s c.i then wait c.old c.i .memory
    else
      let va := c.d64 .a a c.low
      if va.toNat % 64 ≠ 0 ∨ vaKind va ≠ .translated then finish (c.s.raise c.i.rid Cause.accv) c.i
      else k c va)

/-- Write the blocks that can be reached: the causes raised and the state. -/
def State.writeBlocks (s : State) (r : RodId) : List (Where × List Byte) → Word × State
  | [] => (0, s)
  | (.mem pa ent, bs) :: rest =>
    let (k, t) := s.engineWrite (s.coreOf r) pa bs ent false
    let (k', s) := (t.noteCounters s (some r) pa bs.length (Pte.cnt ent)).writeBlocks r rest
    (k ||| k', s)
  | _ :: rest =>
    let (k, s) := s.writeBlocks r rest
    (Cause.accv ||| k, s)

/-- `csave` (R76, R407): its blocks are written once nothing is under way at them; a register word with an error is written as it reads, under its
cause. -/
def execCsave (g : Guard) (a : Operand) (s : State) : Res :=
  imageForm s g a (fun s i => s.mayStore i .rod .plain) (fun c va =>
    let img := c.i.rod.regImage
    match c.s.imageBlocks c.i va .write (blocksOf img.length) [] with
    | .error (w, x, t) => Ctx.pageWait { c with s := t } w .write x
    | .ok (ws, s) =>
      let l := blockAccesses ws
      if ¬ s.engineMay (s.coreOf c.i.rid) l then wait (s.clearWays l) c.i .memory
      else
        let (k, s) := s.writeBlocks c.i.rid (ws.zipIdx.map (fun e => (e.1, (img.drop (64 * e.2)).take 64)))
        finish (s.raise c.i.rid (k ||| (if c.i.rod.regBad = [] then 0 else Cause.umem))) c.i)

/-- Read blocks: the bytes and causes; none where one meets a violation. -/
def State.readBlocks (s : State) (c : CoreId) : List Where → List Byte → Word → Option (List Byte × Word) × State
  | [], bs, k => (some (bs, k), s)
  | .mem pa ent :: rest, bs, k =>
    match s.engineRead c pa 64 ent with
    | (e, s) => if e.cause &&& Cause.accv ≠ 0 then (none, s) else s.readBlocks c rest (bs ++ e.bytes) (k ||| e.cause)
  | .zero :: rest, bs, k => s.readBlocks c rest (bs ++ List.replicate 64 0) k
  | _ :: _, _, _ => (none, s)

/-- `crest` (R407): its blocks are read once nothing is under way at them. -/
def execCrest (g : Guard) (a : Operand) (s : State) : Res :=
  imageForm s g a (fun s i => s.mayLoad i .rod .plain) (fun c va =>
    let core := c.s.coreOf c.i.rid
    let fail := fun (s : State) => finish (s.raise c.i.rid Cause.accv) c.i
    match c.s.imageBlocks c.i va .read [0] [] with
    | .error (w, x, t) => Ctx.pageWait { c with s := t } w .read x
    | .ok (w0, s) =>
      if ¬ s.engineCan core (blockAccesses w0) then wait s c.i .memory
      else
      match s.readBlocks core w0 [] 0 with
      | (none, s) => fail s
      | (some (head, _), s) =>
        match s.imageBlocks c.i va .read (blocksOf (0x3C0 + 128 * Nat.min c.i.rod.window (8 * natAt head 0 1))) [] with
        | .error (w, x, t) => Ctx.pageWait { c with s := t } w .read x
        | .ok (ws, s) =>
          if ¬ s.engineCan core (blockAccesses ws) then wait s c.i .memory
          else
          match s.readBlocks core ws [] 0 with
          | (none, s) => fail s
          | (some (bs, k), s) =>
            let spr := if ws.contains .zero then 1 else 0
            let s := (s.raise c.i.rid k).mflag c.i.rid spr
            finish (s.modRod c.i.rid (fun x => x.takeRegImage bs)) c.i)

end Sys2Proof.Machine
end

