-- ==== Sys2Proof/Machine/Debug.lean ====
section
/-!
DEFINITION. The debugger and the profiler (R435 to R449): `hold`, `ebrk`, `prmark`, `smpl`, holds and their release, the rod window, break
bits, top-down counters and samples; and the writes of registers that have no behaviour of their own (R8).
-/
namespace Sys2Proof.Machine

/-! ### Holding (R440 to R443) -/

/-- Issue, then hold the core with a reason at the instruction after (R441). -/
def holdAfter (s : State) (i : Iss) (reason n : Nat) : Res :=
  let s := s.advance i.rid i.sl
  .next (s.holdCore (s.coreOf i.rid) reason (some i.rid) n (some (i.after.1, i.sl, i.after.2)))

/-- `hold` (R441). -/
def execHold (g : Guard) (s : State) : Res := withIss s (fun i => if i.part g = 0 then finish s i else holdAfter s i 4 0)

/-- `ebrk` (R441): by EMODE. -/
def execEbrk (g : Guard) (n : BitVec 8) (s : State) : Res :=
  withIss s (fun i =>
    if i.part g = 0 then finish s i
    else if (s.die (s.coreOf i.rid).die).dbgctl.getLsbD 1 then holdAfter s i 2 n.toNat
    else if i.rod.inHandler then trap s i Cause.brk
    else .next (s.trapAfter i Cause.brk))

/-- `DBGHALT` (R439, R440). -/
def execDbghalt (die : Nat) (v : DWord) (s : State) : Res :=
  let c := v.bits 5 0
  if 8 ≤ die ∨ 48 ≤ c then .next s else .next (s.holdCore ⟨die, c⟩ 3 none 0 none)

/-- `DBGREL` with ACT 00 (R443). -/
def execDbgrelResume (die : Nat) (core : BitVec 6) (s : State) : Res :=
  let c : CoreId := ⟨die, core.toNat⟩
  if (s.core c).isHeld then .next (s.releaseHeld c) else .next s

/-- `DBGREL` with ACT 01 (R443): every launch with a chain on the core is cancelled, and the core is held no longer. -/
def execDbgrelKill (die : Nat) (core : BitVec 6) (s : State) : Res :=
  let c : CoreId := ⟨die, core.toNat⟩
  if (s.core c).isHeld then
    let ls := ((s.residents c).map (fun e => e.2.launch)).eraseDups
    let s := ls.foldl (fun (s : State) l => s.cancelCmd l 4) s
    .next (if (s.core c).isHeld then s.releaseHeld c else s)
  else .next s

/-- A core whose hold has reached its limit, unattended (R442). -/
def State.expired (s : State) : Option CoreId :=
  (s.cores.find? (fun (e : Nat × Core) => e.2.isHeld && (match e.2.holdEnd with | some t => decide (t ≤ s.cycle) | none => false) &&
    !(s.die (coreOfKey e.1).die).attach.getLsbD (coreOfKey e.1).core)).map (fun e => coreOfKey e.1)

/-- `HOLD_LIMIT_EXPIRE` (R442): a stop record with reason 5, the holding rod's launch cancelled with CODE 4, the others released. -/
def execHoldLimitExpire (s : State) : Res :=
  match s.expired with
  | none => .next s
  | some c =>
    let s := match (s.core c).holdRod with
      | some r => (s.stopRecord r 5 0 none).cancelCmd (s.launchOf r) 4
      | none => s
    .next (if (s.core c).isHeld then s.releaseHeld c else s)

/-! ### The rod window (R439) -/

/-- The rod in a rod slot of a quadrant (R435). -/
def State.rodOfSlot (s : State) (c : CoreId) (q n : Nat) : Option RodId :=
  ((s.quadRods c q).find? (fun e => e.2.rslot == n)).map Prod.fst

/-- The rod that DBGWIN selects. -/
def State.windowRod (s : State) (die : Nat) : Option RodId :=
  let w := (s.die die).dbgwin
  if 48 ≤ w.bits 13 8 then none else s.rodOfSlot ⟨die, w.bits 13 8⟩ (w.bits 7 6) (w.bits 3 0)

def setByte32 (w : Word) (k : Nat) (v : Byte) : Word := merge32 (0xFF <<< (8 * k)) w (v.setWidth 32 <<< (8 * k))

def setByte64 (w : DWord) (k : Nat) (v : Byte) : DWord := merge64 (0xFF <<< (8 * k)) w (v.setWidth 64 <<< (8 * k))

/-- Put a slot at an instruction of its clause. -/
def slotAtIdx (o : Option Slot) (n : Nat) : Option Slot :=
  o.map (fun y => if y.path.idx = n then y else { y with path := y.path.moveTo y.path.pc n, started := none, wait := none })

/-- The scalar fields of a rod image with one byte written (R410, R439): the fields keep the access codes of their own registers (R8). A 1
clears a bit of the causes and of the flags of the two kinds, and what is read-only stays. -/
def Rod.pokeScalars (x y : Rod) (off : Nat) (v : Byte) : Rod :=
  let ones := setByte32 0 (off % 4) v
  { x with iflags := if off / 4 = 0 then x.iflags &&& ~~~(ones &&& 0xF) else x.iflags,
           cause := if off / 4 = 1 then x.cause &&& ~~~(ones &&& 0x27F7F) else x.cause,
           agelimit := y.agelimit,
           mflags := if off / 4 = 3 then x.mflags &&& ~~~(ones &&& 7) else x.mflags,
           skid := if x.inHandler then merge64 (~~~0x3F) x.skid y.skid else x.skid, holdlimit := y.holdlimit, compat := y.compat &&& 3, held := y.held, gang := y.gang }

/-- The rod as its window shows it (R439): its image, with what has been written to the parts not in use. -/
def Rod.windowImage (x : Rod) (now : Nat) : List Byte := x.stage.foldl (fun (l : List Byte) e => l.set e.1 e.2) (x.image now)

/-- What one byte of an image is part of changes (R410); y is the rod of the image as it stands after the write. -/
def Rod.pokeField (x y : Rod) (win : DWord) (off : Nat) (v : Byte) : Rod :=
  if off < 0x28 then x.pokeScalars y off v
  else if off < 0x30 then
    let n := Nat.min 256 (8 * win.bits 63 56)
    let grown := (List.range n).foldl (fun (r : Rod) i => if i < x.window then r else (List.range 32).foldl (fun (r : Rod) l => r.setLw i l (y.lw i l)) r) x
    { grown with window := n, slotA := slotAtIdx x.slotA (win.bits 55 52), slotB := slotAtIdx x.slotB (win.bits 51 48),
                 shadowA := x.shadowA.map (fun p => { p with idx := win.bits 47 44 }), shadowB := x.shadowB.map (fun p => { p with idx := win.bits 43 40 }),
                 gx := (x.gx ++ y.gx.drop x.gx.length).take (Nat.min 64 (win.bits 39 32)) }
  else if off < 0x3C then { x with flags := y.flags }
  else if off < 0x40 then x
  else if off < 0x60 then { x with slotA := y.slotA }
  else if off < 0x80 then { x with slotB := y.slotB }
  else if off < 0xA0 then (if x.inHandler then { x with shadowA := y.shadowA } else x)
  else if off < 0xC0 then (if x.inHandler then { x with shadowB := y.shadowB } else x)
  else if off < 0x2C0 then
    let n := (off - 0xC0) / 8
    { x.setUn n (setByte64 (x.u.get n 0) (off % 8) v) with regBad := x.regBad.filter (· ≠ 8192 + 2 * n + off % 8 / 4) }
  else if off < 0x340 then { x with q := y.q }
  else if off < 0x440 then { x with k := y.k }
  else if off < 0x500 then x
  else if off < 0x2500 then
    let l := (off - 0x500) / 256
    let c := (off - 0x500) % 256 / 4
    { x with gx := x.gx.modify c (fun g => { g with vals := g.vals.modify l (fun w => setByte32 w (off % 4) v) }) }
  else if off < 0x2D00 then { x with stream := y.stream }
  else
    let n := (off - 0x2D00) / 128
    let l := (off - 0x2D00) % 128 / 4
    if n < x.window then x.setLw n l (setByte32 (x.lw n l) (off % 4) v) else x

/-- A byte of a rod's image lies in a part that may be out of use: a slot, a shadow slot, the gather queue, the pair stream, the words. -/
def mayStage (x : Rod) (off : Nat) : Bool :=
  (decide (0x40 ≤ off) && decide (off < 0x80)) || (x.inHandler && decide (0x80 ≤ off) && decide (off < 0xC0)) || decide (0x500 ≤ off)

/-- Write one byte of a rod's image (R410): a byte that the parts in use do not take waits for its part. -/
def Rod.poke (x : Rod) (off : Nat) (v : Byte) (now : Nat) : Rod :=
  let img := (x.windowImage now).set off v
  let y := x.pokeField (x.ofImage img [] 0 now) (BitVec.ofNat 64 (natAt img 0x28 8)) off v
  let left := (((x.stage.map Prod.fst).filter (· ≠ off)) ++ [off]).filter (fun k => mayStage x k && (y.image now).getD k 0 != img.getD k 0)
  { y with stage := left.foldl (fun (t : Tbl Byte) k => t.put k (img.getD k 0)) [] }

/-- Write bytes of a rod's image; an ageing limit below 64 stores 64 (R162). -/
def Rod.pokes (x : Rod) (off : Nat) (bs : List Byte) (now : Nat) : Rod :=
  let y := bs.zipIdx.foldl (fun (x : Rod) e => if off + e.2 < 44288 then x.poke (off + e.2) e.1 now else x) x
  if off < 12 ∧ 8 < off + bs.length ∧ y.agelimit < 64 then { y with agelimit := 64 } else y

/-- `ROD_WINDOW_WRITE` (R439): ignored while the core is not held, and where no rod is selected. -/
def execRodWindowWrite (die : Nat) (off : Nat) (bytes : List Byte) (s : State) : Res :=
  match s.windowRod die with
  | none => .next s
  | some r => if (s.core (s.coreOf r)).isHeld = false then .next s else .next (s.modRod r (fun x => x.pokes off bytes s.cycle))

/-- A read of the rod window (R439). -/
def State.rodWindow (s : State) (die off : Nat) : Byte :=
  match (s.windowRod die).bind s.rod with
  | some x => (x.windowImage s.cycle).getD off 0
  | none => 0

/-! ### Break bits and counters (R436, R445) -/

/-- The break bits of a started clause as the bitmap now gives them (R437). -/
def State.clauseBreaks (s : State) (asid : Nat) (y : Slot) : Slot :=
  { y with started := y.started.map (fun c =>
      { c with brk := (List.range c.count).map (fun k => s.breakBit asid (y.path.pc.toNat + 8 * (k + 1))) }) }

/-- `BRKSYNC` (R436, R437): every instruction cache is discarded, the clauses that slots have started take the bits of the bitmap, and BUSY has
fallen again. -/
def execBrksync (s : State) : Res :=
  .next { s with cores := s.cores.map (fun (e : Nat × Core) => (e.1, { e.2 with icache := [], icTags := [], icLru := [] })),
                 rods := s.rods.map (fun (e : Nat × Rod) =>
                   let f := s.clauseBreaks (s.asidOf (rodOfKey e.1))
                   (e.1, { e.2 with slotA := e.2.slotA.map f, slotB := e.2.slotB.map f })) }

/-- `PERFCTL_CLEAR` (R445). -/
def execPerfctlClear (die : Nat) (s : State) : Res :=
  if die < 8 then .next (s.setDie die { s.die die with leaves := [], cleared := s.counted }) else .next s

/-- `PERFCTL_SNAPSHOT` (R445). -/
def execPerfctlSnapshot (die : Nat) (s : State) : Res :=
  if die < 8 then
    let x := s.die die
    .next (s.setDie die { x with shadow := x.leaves, shadowSpan := s.counted - x.cleared })
  else .next s

/-- A counter's value (R445): every cycle since the clear that no other leaf took is idle. -/
def leafCount (t : Tbl Nat) (span core quad leaf : Nat) : Nat :=
  let at' := fun (f : Nat) => t.get (leafKey core quad f) 0
  if leaf = 19 then span - (((List.range 22).filter (· ≠ 19)).map at').sum else at' leaf

/-- Reads of the counter block and of its shadow (R445). -/
def State.counterRead (s : State) (d core quad leaf : Nat) : Nat := leafCount (s.die d).leaves (s.counted - (s.die d).cleared) core quad leaf
def State.shadowRead (s : State) (d core quad leaf : Nat) : Nat := leafCount (s.die d).shadow (s.die d).shadowSpan core quad leaf

/-! ### Samples (R446 to R448) -/

/-- sr.cycle as two words. -/
def State.cycleWords (s : State) (d : Nat) : List Word := [loWord (s.dieCycle d), hiWord (s.dieCycle d)]

/-- Software records are on (R446). -/
def Die.swOn (d : Die) : Bool := d.smpctl.getLsbD 62

/-- `prmark` (R448): the quadrant's leaf is that of a control instruction. -/
def execPrmark (g : Guard) (imm : Word) (s : State) : Res :=
  withIss s (fun i =>
    let d := (s.coreOf i.rid).die
    if i.part g = 0 ∨ (s.die d).swOn = false then finish s i
    else finish (s.emit d 3 0 (s.rodWord i.rid 5 :: s.cycleWords d ++ [imm])) i)

/-- `smpl` (R448): words of the lowest participating lane. -/
def execSmpl (g : Guard) (a : BitVec 8) (n : BitVec 4) (s : State) : Res :=
  issue s g none [] [(.w a, n.toNat)] (fun c =>
    let d := (c.s.coreOf c.i.rid).die
    if c.g = 0 ∨ (c.s.die d).swOn = false then finish c.s c.i
    else finish (c.s.emit d 2 n.toNat (c.s.rodWord c.i.rid 5 :: c.s.cycleWords d ++ c.i.rod.lws a.toNat n.toNat c.low)) c.i)

/-- A die samples in this cycle (R446). -/
def State.sampleDue (s : State) (d : Nat) : Bool :=
  let x := s.die d
  let n := x.smpctl.bits 4 0
  x.smpctl.getLsbD 63 && decide (10 ≤ n) && decide (n ≤ 24) && (s.dieCycle d).toNat % 2 ^ n == 0

/-- The sample of a quadrant that has a resident rod (R447). -/
def State.sampleQuad (s : State) (c : CoreId) (q : Nat) : State :=
  match s.quadNext c q with
  | some (r, sl, y) =>
    s.emit c.die 1 0 (s.rodWord r (s.idleLeaf c q) :: pcPair y.path.pc sl y.path.idx ++ y.path.mask :: s.cycleWords c.die)
  | none => s

/-- `PC_SAMPLE` (R447): ascending core, then quadrant. -/
def execPcSample (s : State) : Res :=
  .next ((List.range 8).foldl (fun (s : State) d =>
    if s.sampleDue d then (List.range 192).foldl (fun (s : State) k => s.sampleQuad ⟨d, k / 4⟩ (k % 4)) s else s) s)

/-! ### Registers (R8) -/

/-- Write a W1C field and RW fields of a register. -/
def regWrite (old v rw w1c : DWord) : DWord := merge64 rw old v &&& ~~~(v &&& w1c)

/-- HOLDMAP (R439). -/
def State.holdmap (s : State) (d : Nat) : DWord :=
  (List.range 48).foldl (fun (w : DWord) k => if (s.core ⟨d, k⟩).isHeld then w ||| (1 <<< k) else w) 0

/-- DBGWHO and DBGRING (R439). -/
def State.dbgwho (s : State) (d : Nat) : DWord :=
  match s.windowRod d with
  | some r => BitVec.ofNat 64 (2 ^ 63 + (s.queueOf r).1 * 2 ^ 42 + r.rod * 2 ^ 37 + ((s.chain r.chain).map (·.num)).getD 0)
  | none => 0

def State.dbgring (s : State) (d : Nat) : DWord :=
  match s.windowRod d with
  | some r => BitVec.ofNat 64 (s.queueOf r).2
  | none => 0

/-- What a read of a register gives; one that is only written reads 0 (R8). The index is a die, a queue,
64·(I/O die) + watch, 1,024·(I/O die) + vector, an I/O die, or for MERRS and MERRA a ring stop. -/
def State.readReg (s : State) (r : HostReg) (i : Nat) : DWord :=
  let q := s.queue i
  let d := s.die i
  let w := (s.iod (i / 64)).watches.get (i % 64) Watch.reset
  let merr := match dieOfStop i with | some d => ((s.die d).merrs, (s.die d).merra) | none => let x := s.iod (i / 9); (x.merrs, x.merra)
  match r with
  | .astb => s.astb
  | .xlia => s.xlia
  | .xlic => s.xlic
  | .preq => s.preq
  | .widx => q.widx.setWidth 64
  | .diestat => s.diestat
  | .canc => s.canc
  | .pvac => s.pvacNow
  | .brkcfg => s.brkcfg
  | .brkva => s.brkva
  | .brkpa => s.brkpa
  | .brklen => s.brklen
  | .qbase => q.qbase
  | .qcfg => q.qcfg
  | .ridx => q.ridx.setWidth 64
  | .evq => q.evq
  | .evidx => dword q.evrd q.evwr
  | .qstat => (BitVec.ofBool q.evovf ++ BitVec.ofBool q.dlwait ++ (0 : BitVec 30) ++ BitVec.ofInt 32 q.def' : DWord)
  | .ppdb => d.ppdb
  | .nmctl => d.nmctl
  | .merrs => merr.1
  | .merra => merr.2
  | .l2occ => s.l2occ i
  | .hwcfg => (BitVec.ofBool w.en ++ BitVec.ofBool w.fired ++ (0 : BitVec 46) ++ w.asid : DWord)
  | .hwaddr => w.va
  | .hwthr => w.thr
  | .msix => if (s.iod (i / 1024)).unmasked.contains (i % 1024) then 0 else 1
  | .bar2 => BitVec.ofNat 64 (s.iod i).bar2
  | .dbgctl => d.dbgctl
  | .holdmap => s.holdmap i
  | .attach => d.attach
  | .dbgwin => d.dbgwin
  | .dbgwho => s.dbgwho i
  | .dbgring => s.dbgring i
  | .smpbase => d.smpbase
  | .smpctl => d.smpctl
  | .smpwr => d.smpwr.setWidth 64
  | .smprd => d.smprd.setWidth 64
  | .pgrsp | .poolpush | .qpush | .prel | .dlack | .brksync | .dbghalt | .dbgrel | .diectl | .perfctl => 0

/-- The memory-error status register of a ring stop is written (R79). -/
def State.writeMerrs (s : State) (stop : Nat) (v : DWord) : State :=
  let f := fun (old : DWord) => regWrite old v 0xFFFFFFFF 0xC000000000000000
  match dieOfStop stop with
  | some d => s.setDie d { s.die d with merrs := f (s.die d).merrs }
  | none => let i := stop / 9; s.setIod i { s.iod i with merrs := f (s.iod i).merrs }

/-- A watch is written; an armed one is checked at once (R428). -/
def State.writeWatch (s : State) (i : Nat) (f : Watch → Watch) : State :=
  let d := s.iod (i / 64)
  (s.setIod (i / 64) { d with watches := d.watches.set (i % 64) (f (d.watches.get (i % 64) Watch.reset)) Watch.reset }).checkWatch (i / 64) (i % 64)

/-- Numbers that name no register of the kind. -/
def regNamed (r : HostReg) (i : Nat) : Bool :=
  match r with
  | .astb | .xlia | .xlic | .diestat | .canc | .pvac | .preq | .brkcfg | .brkva | .brkpa | .brklen | .pgrsp | .prel | .brksync | .diectl => true
  | .qbase | .qcfg | .widx | .ridx | .evq | .evidx | .qstat | .qpush => decide (i < 1024)
  | .dlack | .bar2 => decide (i < 2)
  | .msix => decide (i < 2048)
  | .hwcfg | .hwaddr | .hwthr => decide (i < 128)
  | .merrs | .merra => decide (i < 10)
  | _ => decide (i < 8)

/-- A write of a register's value by its access codes (R8). A write that starts an operation of its own (an invalidation, a pre-emption
request, an append, and every write of a register that is only written) is a step of its own, and leaves the value here. -/
def State.writeReg (s : State) (r : HostReg) (i : Nat) (v : DWord) : State :=
  let q := s.queue i
  let d := s.die i
  match r with
  | .astb => { s with astb := v &&& 0x000FFFFFFFF00001 }
  | .xlia => if s.xlicBusy then s else { s with xlia := v &&& 0x00FFFFFFFFFFFFFF }
  | .brkcfg => { s with brkcfg := regWrite s.brkcfg v 0x800000000000FFFF 0 }
  | .brkva => { s with brkva := v &&& 0x00FFFFFFFFFFFFF8 }
  | .brkpa => { s with brkpa := v &&& 0x000FFFFFFFFFFFF8 }
  | .brklen => { s with brklen := v &&& 0xFFFFFFFF }
  | .qbase => s.setQueue i { q with qbase := v &&& 0x000FFFFFFFFFF01F }
  | .qcfg => s.setQueue i { q with qcfg := v &&& 0xC000FFFFFFFFFFFF }
  | .evq => s.setQueue i { q with evq := v &&& 0x000FFFFFFFFFF01F }
  | .evidx => s.setQueue i { q with evrd := loWord v }
  | .qstat => s.setQueue i { q with evovf := q.evovf && !v.getLsbD 63 }
  | .ppdb => s.setDie i { d with ppdb := v &&& 0x000FFFFFFFFFFFC1 }
  | .nmctl => s.writeNmctl i (v.getLsbD 0)
  | .merrs => s.writeMerrs i v
  | .hwcfg => s.writeWatch i (fun w => { w with en := v.getLsbD 63, fired := w.fired && !v.getLsbD 62, asid := v.setWidth 16 })
  | .hwaddr => s.writeWatch i (fun w => { w with va := v &&& 0x00FFFFFFFFFFFFFF })
  | .hwthr => s.writeWatch i (fun w => { w with thr := v })
  | .msix => s.maskVector (i / 1024) (i % 1024) (v.getLsbD 0)
  | .bar2 => let x := s.iod i; s.setIod i { x with bar2 := Nat.min (v.bits 5 0) 6 }
  | .dbgctl => s.setDie i { d with dbgctl := v &&& 3 }
  | .attach => s.setDie i { d with attach := v &&& 0x0000FFFFFFFFFFFF }
  | .dbgwin => s.setDie i { d with dbgwin := v }
  | .smpbase => s.setDie i { d with smpbase := v &&& 0x000FFFFFFFFFFFC0, smpD := 0, smpG := false }
  | .smpctl =>
    let w := v &&& 0xC000000000001F1F
    let same := decide (w.bits 12 8 = d.smpctl.bits 12 8)
    s.setDie i { d with smpctl := w, smpD := if same then d.smpD else 0, smpG := same && d.smpG }
  | .smprd => s.setDie i { d with smprd := loWord v }
  | .xlic | .preq | .widx | .pgrsp | .poolpush | .qpush | .prel | .dlack | .brksync | .dbghalt | .dbgrel | .diectl | .perfctl
  | .diestat | .canc | .pvac | .ridx | .merra | .l2occ | .holdmap | .dbgwho | .dbgring | .smpwr => s

/-- A write enables a queue, or changes its QUANTUM (R470). -/
def Queue.newly (x y : Queue) : Bool := (y.en && !x.en) || x.qcfg.bits 31 0 != y.qcfg.bits 31 0

/-- `REGISTER_WRITE` (R8). A write that enables a queue or changes its QUANTUM starts a round (R470). -/
def execRegisterWrite (r : HostReg) (i : Nat) (v : DWord) (s : State) : Res :=
  if regNamed r i then
    let t := s.writeReg r i v
    .next { t with roundDue := t.roundDue || ((r == .qcfg || r == .qbase) && (s.queue i).newly (t.queue i)) }
  else .next s

end Sys2Proof.Machine
end

