-- ==== Sys2Proof/Machine/IvAlu.lean ====
section
/-!
DEFINITION. Groups 2 and 3: interval arithmetic, measures, relations, conversions and the fixed functions (R270 to R287).
-/
namespace Sys2Proof.Machine

/-- A form of one interval source (R270). -/
def formIv1 (s : State) (g : Guard) (v : View) (d a : Operand) (m : Option SrcMod) (f : Fmt → Pair → IvOut) : Res :=
  issue s g m [(d, v.words)] [(a, v.words)] (fun c => c.putIv v d (fun l => f v.fmt (c.ivl .a v a l)))

/-- A form of two interval sources. -/
def formIv2 (s : State) (g : Guard) (v : View) (d a b : Operand) (m : Option SrcMod) (f : Fmt → Pair → Pair → IvOut) : Res :=
  issue s g m [(d, v.words)] [(a, v.words), (b, v.words)] (fun c =>
    c.putIv v d (fun l => f v.fmt (c.ivl .a v a l) (c.ivl .b v b l)))

/-- `iadd` (R272). -/
def execIadd (g : Guard) (v : View) (d a b : Operand) (m : Option SrcMod) (s : State) : Res :=
  formIv2 s g v d a b m ivAdd

/-- `isub` (R272). -/
def execIsub (g : Guard) (v : View) (d a b : Operand) (m : Option SrcMod) (s : State) : Res :=
  formIv2 s g v d a b m ivSub

/-- `imul` (R272). -/
def execImul (g : Guard) (v : View) (d a b : Operand) (m : Option SrcMod) (s : State) : Res :=
  formIv2 s g v d a b m ivMul

/-- `idiv` (R276). -/
def execIdiv (g : Guard) (v : View) (d a b : Operand) (m : Option SrcMod) (s : State) : Res :=
  formIv2 s g v d a b m ivDiv

/-- `imin` (R272). -/
def execImin (g : Guard) (v : View) (d a b : Operand) (m : Option SrcMod) (s : State) : Res :=
  formIv2 s g v d a b m ivMin

/-- `imax` (R272). -/
def execImax (g : Guard) (v : View) (d a b : Operand) (m : Option SrcMod) (s : State) : Res :=
  formIv2 s g v d a b m ivMax

/-- `ihull` (R273). -/
def execIhull (g : Guard) (v : View) (d a b : Operand) (m : Option SrcMod) (s : State) : Res :=
  formIv2 s g v d a b m ivHull

/-- `imeet` (R273). -/
def execImeet (g : Guard) (v : View) (d a b : Operand) (m : Option SrcMod) (s : State) : Res :=
  formIv2 s g v d a b m ivMeet

/-- `imk` (R279). -/
def execImk (g : Guard) (v : View) (d a b : Operand) (m : Option SrcMod) (s : State) : Res :=
  formIv2 s g v d a b m ivMk

/-- `ircp` (R272, R276). -/
def execIrcp (g : Guard) (v : View) (d a : Operand) (m : Option SrcMod) (s : State) : Res :=
  formIv1 s g v d a m ivRcp

/-- `isqr` (R272). -/
def execIsqr (g : Guard) (v : View) (d a : Operand) (m : Option SrcMod) (s : State) : Res :=
  formIv1 s g v d a m ivSqr

/-- `isqrt` (R272). -/
def execIsqrt (g : Guard) (v : View) (d a : Operand) (m : Option SrcMod) (s : State) : Res :=
  formIv1 s g v d a m ivSqrt

/-- `iabs` (R272). -/
def execIabs (g : Guard) (v : View) (d a : Operand) (m : Option SrcMod) (s : State) : Res :=
  formIv1 s g v d a m ivAbs

/-- `ineg` (R272). -/
def execIneg (g : Guard) (v : View) (d a : Operand) (m : Option SrcMod) (s : State) : Res :=
  formIv1 s g v d a m ivNeg

/-- `imid` (R278). -/
def execImid (g : Guard) (v : View) (d a : Operand) (m : Option SrcMod) (s : State) : Res :=
  formIv1 s g v d a m ivMid

/-- `irad` (R278). -/
def execIrad (g : Guard) (v : View) (d a : Operand) (m : Option SrcMod) (s : State) : Res :=
  formIv1 s g v d a m ivRad

/-- `iwid` (R278). -/
def execIwid (g : Guard) (v : View) (d a : Operand) (m : Option SrcMod) (s : State) : Res :=
  formIv1 s g v d a m ivWid

/-- `imag` (R278). -/
def execImag (g : Guard) (v : View) (d a : Operand) (m : Option SrcMod) (s : State) : Res :=
  formIv1 s g v d a m ivMag

/-- `imig` (R278). -/
def execImig (g : Guard) (v : View) (d a : Operand) (m : Option SrcMod) (s : State) : Res :=
  formIv1 s g v d a m ivMig

/-- `iinf` (R278). -/
def execIinf (g : Guard) (v : View) (d a : Operand) (m : Option SrcMod) (s : State) : Res :=
  formIv1 s g v d a m ivInf

/-- `isup` (R278). -/
def execIsup (g : Guard) (v : View) (d a : Operand) (m : Option SrcMod) (s : State) : Res :=
  formIv1 s g v d a m ivSup

/-- `iflr` (R272). -/
def execIflr (g : Guard) (v : View) (d a : Operand) (m : Option SrcMod) (s : State) : Res :=
  formIv1 s g v d a m ivFlr

/-- `iceil` (R272). -/
def execIceil (g : Guard) (v : View) (d a : Operand) (m : Option SrcMod) (s : State) : Res :=
  formIv1 s g v d a m ivCeil

/-- `iexp2` (R287). -/
def execIexp2 (g : Guard) (v : View) (d a : Operand) (m : Option SrcMod) (s : State) : Res :=
  formIv1 s g v d a m ivExp2

/-- `ilog2` (R287). -/
def execIlog2 (g : Guard) (v : View) (d a : Operand) (m : Option SrcMod) (s : State) : Res :=
  formIv1 s g v d a m ivLog2

/-- `irsqrt` (R287). -/
def execIrsqrt (g : Guard) (v : View) (d a : Operand) (m : Option SrcMod) (s : State) : Res :=
  formIv1 s g v d a m ivRsqrt

/-- `ifma` (R274): one rounding. -/
def execIfma (g : Guard) (v : View) (d a b c : Operand) (m : Option SrcMod) (s : State) : Res :=
  issue s g m [(d, v.words)] [(a, v.words), (b, v.words), (c, v.words)] (fun x =>
    x.putIv v d (fun l => ivFma v.fmt (x.ivl .a v a l) (x.ivl .b v b l) (x.ivl .c v c l)))

/-- `idiv2` (R277): two registers and a predicate. -/
def execIdiv2 (g : Guard) (v : View) (d a b : Operand) (q : BitVec 4) (m : Option SrcMod) (s : State) : Res :=
  issue s g m [(d, 2 * v.words)] [(a, v.words), (b, v.words)] (fun c =>
    let r := fun (l : Nat) => ivDiv2 v.fmt (c.ivl .a v a l) (c.ivl .b v b l)
    let c := { c with s := c.s.modRod c.i.rid (fun x => x.setPreds c.g q.toNat (fun l => qOfBool (r l).2.2)) }
    c.putWords d (fun l => (r l).1.pair.words v ++ (r l).2.1.pair.words v) (fun l => (r l).1.flags ||| (r l).2.1.flags))

/-- `ipt` (R280). -/
def execIpt (g : Guard) (v : View) (d a : Operand) (m : Option SrcMod) (s : State) : Res :=
  let n := if v = .y then 2 else 1
  issue s g m [(d, v.words)] [(a, n)] (fun c =>
    c.putIv v d (fun l => ivPt v.fmt (ofWords (c.i.rod.lws (wordNum a) n (modLane c.m .a l)) % 2 ^ v.fmt.width)))

/-- `ibis` (R281): two registers and a predicate. -/
def execIbis (g : Guard) (v : View) (d a : Operand) (q : BitVec 4) (m : Option SrcMod) (s : State) : Res :=
  issue s g m [(d, 2 * v.words)] [(a, v.words)] (fun c =>
    let r := fun (l : Nat) => ivBis v.fmt (c.ivl .a v a l)
    let c := { c with s := c.s.modRod c.i.rid (fun x => x.setPreds c.g q.toNat (fun l => qOfBool (r l).2.2.2)) }
    c.putWords d (fun l => (r l).1.words v ++ (r l).2.1.words v) (fun l => (r l).2.2.1))

/-- `iscl` (R275). -/
def execIscl (g : Guard) (v : View) (d a b : Operand) (m : Option SrcMod) (s : State) : Res :=
  issue s g m [(d, v.words)] [(a, v.words), (b, 1)] (fun c =>
    c.putIv v d (fun l => ivScl v.fmt (c.ivl .a v a l) (c.w32 .b b l).toInt))

/-- `icmp` (R187, R188, R282). -/
def execIcmp (g : Guard) (v : View) (rel : IRel) (q : BitVec 4) (a b : Operand) (m : Option SrcMod) (s : State) : Res :=
  issue s g m [] [(a, v.words), (b, v.words)] (fun c =>
    let r := fun (l : Nat) =>
      ivRel rel ((c.ivl .a v a l).iv v.fmt) ((c.ivl .b v b l).iv v.fmt) (v.fmt.value (c.ivl .b v b l).lo)
    let e := (lanes c.g).any (fun l => (r l).2)
    let c := { c with s := c.s.modRod c.i.rid (fun x => x.setIflags (if e then flagEmpty else 0)) }
    c.putPred q (fun l => (r l).1))

/-- `icls` (R283). -/
def execIcls (g : Guard) (v : View) (cls : ICls) (q : BitVec 4) (a : Operand) (m : Option SrcMod) (s : State) : Res :=
  issue s g m [] [(a, v.words)] (fun c => c.putPred q (fun l => qOfBool (ivCls cls ((c.ivl .a v a l).iv v.fmt))))

/-- The point format a type code names (R215). -/
def pointFmt : Ty → Fmt
  | .e4m3 => e4m3
  | .e5m2 => e5m2
  | .hf => fp16
  | .bf => bf16
  | _ => fp32

/-- Words of an `icvt` operand of a type. -/
def tyWords (t : Ty) : Nat := if t.isView then t.view.words else if t.is64 then 2 else 1

/-- An integer source of `icvt` as a number: 64-bit types from a pair or a uniform register. -/
def Ctx.intOf (c : Ctx) (t : Ty) (a : Operand) (l : Nat) : Int :=
  if t.is64 then asType t (c.d64 .a a l).toNat else asType t (c.int .a a (intType t).2 64 l).toNat

/-- `icvt` (R284). -/
def execIcvt (g : Guard) (dt st : Ty) (hi : Bool) (d a : Operand) (m : Option SrcMod) (s : State) : Res :=
  issue s g m [(d, tyWords dt)] [(a, tyWords st)] (fun c =>
    if dt.isView then
      c.putIv dt.view d (fun l =>
        if st.isView then dt.view.fmt.out ((c.ivl .a st.view a l).iv st.view.fmt) false
        else if st.isInteger then dt.view.fmt.out (IV.point (c.intOf st a l)) false
        else ivOfPoint dt.view.fmt (pointFmt st) ((c.w32 .a a l).toNat % 2 ^ (pointFmt st).width))
    else
      let r := fun (l : Nat) => ivToInt ((c.ivl .a st.view a l).iv st.view.fmt) hi (intRange dt).1 (intRange dt).2
      c.putWords d (fun l =>
        if dt.is64 then [wordAt (truncInt 64 (r l).1) 0, wordAt (truncInt 64 (r l).1) 1] else [BitVec.ofInt 32 (r l).1])
        (fun l => (r l).2))

/-- `imr` (R191, R285): the compressed form, which sets no flag (DEDUCED, log 39), or one element of a mid-rad operand. -/
def execImr (g : Guard) (v : View) (plane : Option (PFmt × Operand)) (d a : Operand) (m : Option SrcMod) (s : State) : Res :=
  match plane with
  | none =>
    issue s g m [(d, if v = .y then 2 else 1)] [(a, v.words)] (fun c =>
      c.putWords d (fun l =>
        let k := mrcCompress v.fmt ((c.ivl .a v a l).iv v.fmt)
        if v = .y then [wordAt k 0, wordAt k 1] else [wordAt k 0]) (fun _ => 0))
  | some (pf, b) =>
    issue s g m [(d, 2)] [(a, v.words), (b, 1)] (fun c =>
      let r := fun (l : Nat) =>
        planeElem v.fmt pf.fmt ((c.ivl .a v a l).iv v.fmt) ((c.w32 .b b l).extractLsb' 0 8).toInt
      c.putWords d (fun l => [BitVec.ofNat 32 (r l).1, BitVec.ofNat 32 (r l).2.1]) (fun l => (r l).2.2))

/-- `ixr` (R190, R286). -/
def execIxr (g : Guard) (v : View) (d a : Operand) (m : Option SrcMod) (s : State) : Res :=
  let n := if v = .y then 2 else 1
  issue s g m [(d, v.words)] [(a, n)] (fun c =>
    c.putIv v d (fun l => v.fmt.outPair (mrcExpand v.fmt (ofWords (c.i.rod.lws (wordNum a) n (modLane c.m .a l)))) false))

end Sys2Proof.Machine
end

