-- ==== Sys2Proof/Machine/Functions.lean ====
section
/-!
DEFINITION. Group 3: the programmable tables (R288 to R298) and the row statistics (R299 to R304).
-/
namespace Sys2Proof.Machine

/-! ### The table store (R288 to R293) -/

/-- A segment slot nothing has loaded. -/
def Seg.zero : Seg := { start := 0, coef := [], err := 0, rlo := 0, rhi := 0, deg := 0, mono := 0 }

/-- A segment from its 64 bytes (R291). -/
def Seg.ofNat' (x : Nat) : Seg :=
  { start := BitVec.ofNat 32 (bitsOf x 31 0), coef := (List.range 6).map (fun i => BitVec.ofNat 32 (bitsOf x (63 + 32 * i) (32 + 32 * i))),
    err := BitVec.ofNat 32 (bitsOf x 255 224), rlo := BitVec.ofNat 32 (bitsOf x 287 256), rhi := BitVec.ofNat 32 (bitsOf x 319 288),
    deg := bitsOf x 324 322, mono := bitsOf x 321 320 }

/-- A header from its 64 bytes (R290). -/
def TabEntry.ofNat' (owner slot x : Nat) : TabEntry :=
  { owner := owner, slot := slot, nseg := bitsOf x 135 128, domlo := BitVec.ofNat 32 (bitsOf x 31 0),
    domhi := BitVec.ofNat 32 (bitsOf x 63 32), glo := BitVec.ofNat 32 (bitsOf x 95 64), ghi := BitVec.ofNat 32 (bitsOf x 127 96) }

def val32 (w : Word) : Option XR := fp32.value w.toNat

/-- Both words are numbers and the first is not above the second. -/
def numsLe (a b : Word) : Bool :=
  match val32 a, val32 b with
  | some x, some y => x.le y
  | _, _ => false

/-- The checks of R293 on what was read. -/
def tableOk (h : TabEntry) (segs : List Seg) : Bool :=
  let num := fun (w : Word) => (val32 w).isSome
  let starts := segs.map (fun s => s.start)
  let rising := (starts.zip (starts.drop 1)).all (fun e => numsLe e.1 e.2 && val32 e.1 != val32 e.2)
  decide (h.slot + h.nseg ≤ 255) && numsLe h.domlo h.domhi && val32 h.domlo != some .pinf && val32 h.domhi != some .ninf &&
    num h.glo && num h.ghi && numsLe h.glo h.ghi && val32 (starts.getD 0 0) == val32 h.domlo && starts.all num && rising &&
    starts.all (fun w => numsLe w h.domhi) &&
    segs.all (fun s => decide (s.deg ≤ 5) && (s.coef.take (s.deg + 1)).all (fun w => match val32 w with | some (.fin _) => true | _ => false) &&
      numsLe 0 s.err && numsLe s.rlo s.rhi)

/-- The segments of a table in a bank. -/
def Bank.segsOf (b : Bank) (e : TabEntry) : List Seg := (List.range (e.nseg + 1)).map (fun k => b.segs.get (e.slot + k) Seg.zero)

/-- A 64-byte record of a table at its source, memory or the scratchpad aperture (R16, R292): none for a VIOLATION; its causes (R76, R107). A
scratchpad line must be full (R57); an uncommitted page reads 0 (R32). DEDUCED (log 39): a VIOLATION raises no cause beside table fault. -/
def State.tableRead (s : State) (opn : Nat) (o : Op) (va : DWord) : Try (Option (Nat × Word)) :=
  let core := s.coreOf o.rod
  match vaKind va with
  | .scratch off =>
    match s.chain o.rod.chain with
    | some c =>
      if ¬ off + 64 ≤ c.scrSize then .ok (none, s)
      else if (linesOf off 64).all c.full then .ok (some (c.nat off 64, if c.anyBad off 64 then Cause.umem else 0), s)
      else .error s
    | none => .ok (none, s)
  | _ =>
    match s.resolve (.core core) (s.asidOf o.rod) o.denied va .read with
    | (.mem pa ent, s) =>
      if s.reach pa ≠ .memory then .ok (none, s)
      else if ¬ s.engineCan core [(pa, 64, ent)] then .error s
      else
        let (e, s) := s.engineRead core pa 64 ent
        .ok (some (ofBytes e.bytes, e.cause), s)
    | (.zero, s) => .ok (some (0, 0), s.mflag o.rod 1)
    | (.viol, s) => .ok (none, s)
    | (.waits x, s) => .error (s.suspendOp opn va .read x)

/-- The records that a table takes, as far as the records read tell: the header, and its segments where they fit (R290, R293). -/
def tableLen (slot : Nat) (recs : List Nat) : Nat :=
  match recs with
  | [] => 1
  | h :: _ => if 255 < slot + (TabEntry.ofNat' 0 slot h).nseg then 1 else (TabEntry.ofNat' 0 slot h).nseg + 2

/-- The records of a table, read one after another from where the load stands (R58): what it has read in the end, or none where a read meets a
VIOLATION or a poisoned word, with its causes. A record that cannot be read yet leaves the load standing there. -/
def State.tableReads (s : State) (opn : Nat) (o : Op) (va : DWord) (tid slot : Nat) (recs : List Nat) (k : Word) :
    Nat → Try (Option (List Nat) × Word)
  | 0 => .ok ((some recs, k), s)
  | n + 1 =>
    if tableLen slot recs ≤ recs.length then .ok ((some recs, k), s)
    else
      match s.tableRead opn o (va + BitVec.ofNat 64 (64 * recs.length)) with
      | .error s => .error ((s.raise o.rod k).setOpKind opn (.table va tid slot recs))
      | .ok (none, s) => .ok ((none, k), s)
      | .ok (some (x, c), s) =>
        if c &&& Cause.umem ≠ 0 then .ok ((none, k ||| c), s) else s.tableReads opn o va tid slot (recs ++ [x]) (k ||| c) n

/-- `tblld` (R292): an operation of the special-function unit, taken up as an engine operation is (R133). -/
def execTblld (g : Guard) (a : Operand) (tid : BitVec 4) (slot : BitVec 8) (s : State) : Res :=
  issue s g none [] [(a, 2)] (fun c =>
    if c.g = 0 then finish c.s c.i
    else if c.i.flagFull then wait c.old c.i .control
    else if ¬ c.s.engineReady c.i.rid then wait c.s c.i .memory
    else finish (c.s.addOp c.i (.table (c.d64 .a a c.low) tid.toNat slot.toNat [])).2 c.i)

/-- An earlier table load of the core has not completed (R292). -/
def State.tableBefore (s : State) (c : CoreId) (opn : Nat) : Bool :=
  s.ops.any (fun e => decide (e.1 < opn) && s.coreOf e.2.rod == c && (match e.2.kind with | .table .. => true | _ => false))

/-- Completion of a `tblld` (R292, R293): the records are read and checked, and the inactive bank takes the table in one step, or
loses the entry with table fault. -/
def execTblldComplete (op : Nat) (s : State) : Res :=
  match s.op op with
  | none => .next s
  | some o =>
    match o.kind with
    | .table va tid slot recs =>
      let core := s.coreOf o.rod
      if o.susp ∨ s.tableBefore core op then .next s
      else
        let fault := fun (s : State) (k : Word) =>
          let c := s.core core
          let s := s.setCore core { c with bank1 := { c.bank1 with entries := c.bank1.entries.erase tid } }
          Host.Outcome.next ((s.raise o.rod (Cause.tblf ||| k)).endOp op)
        if va.toNat % 64 ≠ 0 then fault s 0
        else
          match s.tableReads op o va tid slot recs 0 257 with
          | .error s => .next s
          | .ok ((none, k), s) => fault s k
          | .ok ((some recs, k), s) =>
            let h := TabEntry.ofNat' (s.launchOf o.rod) slot (recs.getD 0 0)
            let segs := (recs.drop 1).map Seg.ofNat'
            if ¬ tableOk h segs then fault s k
            else
              let c := s.core core
              let b := { c.bank1 with
                segs := segs.zipIdx.foldl (fun (t : Tbl Seg) e => t.put (slot + e.2) e.1) c.bank1.segs,
                entries := c.bank1.entries.put tid h }
              .next (((s.setCore core { c with bank1 := b }).raise o.rod k).endOp op)
    | _ => .next s

/-- `tblsw` (R294): exchanges the banks once every earlier `tblld` of the core has completed. -/
def execTblsw (g : Guard) (s : State) : Res :=
  withIss s (fun i =>
    if i.part g = 0 then finish s i
    else
      let core := s.coreOf i.rid
      if s.tableBefore core s.nextId then wait s i .memory
      else
        let c := s.core core
        finish (s.setCore core { c with bank0 := c.bank1, bank1 := c.bank0, bankNo := !c.bankNo }) i)

/-- `tblq` (R295). -/
def execTblq (g : Guard) (d : Operand) (tid : BitVec 4) (s : State) : Res :=
  issue s g none [(d, 1)] [] (fun c =>
    let core := s.coreOf c.i.rid
    let k := s.core core
    let mine := fun (b : Bank) => (b.entries.find tid.toNat).filter (fun e => e.owner == s.launchOf c.i.rid)
    let a := mine k.bank0
    let w : Word := BitVec.ofBool a.isSome ++ BitVec.ofBool (mine k.bank1).isSome ++ BitVec.ofBool k.bankNo ++
      BitVec.ofBool (s.tableBefore core s.nextId) ++ (0 : BitVec 12) ++ BitVec.ofNat 8 ((a.map (·.slot)).getD 0) ++
      BitVec.ofNat 8 ((a.map (·.nseg)).getD 0)
    c.putWords d (fun _ => [w]) (fun _ => 0))

/-! ### Evaluation (R296, R298) -/

def range32 (lo hi : Word) : IV := IV.ofBounds (val32 lo) (val32 hi)

/-- The index of the segment that holds x (R291). -/
def segIndex (segs : List Seg) (x : XR) : Nat :=
  ((List.range segs.length).filter (fun k => match val32 (segs.getD k Seg.zero).start with | some y => y.le x | none => false)).getLastD 0

/-- E(x) of R296, as an interval of binary32. In a segment with an infinite START the difference is an infinite number on both
sides, which reads as Empty (R181, log 39). -/
def evalSeg (sg : Seg) (x : XR) : IV :=
  match x with
  | .fin q =>
    let t := fp32.enclose (match val32 sg.start with
      | some (.fin z) => IV.point (q - z)
      | _ => .empty)
    let cs := (sg.coef.take (sg.deg + 1)).reverse.map (fun w => (⟨w.toNat, w.toNat⟩ : Pair))
    let y := match cs with
      | [] => fp32.enclose (IV.point 0)
      | c :: rest => rest.foldl (fun y c => (ivFma fp32 y t c).pair) c
    match y.iv fp32, val32 sg.err with
    | .mk a b, some e =>
      (⟨fp32.down (a.addLo e.neg), fp32.up (b.addHi e)⟩ : Pair).iv fp32
    | _, _ => .empty
  | _ => range32 sg.rlo sg.rhi

/-- Table lookup on an interval already in binary32 (R296): the enclosing set and whether the argument was clipped. -/
def lookup (e : TabEntry) (segs : List Seg) (x : IV) : IV × Bool :=
  match x with
  | .empty => (.empty, false)
  | _ =>
    let x' := x.meet (range32 e.domlo e.domhi)
    let clip := x' != x
    match x' with
    | .empty => (.empty, clip)
    | .mk a b =>
      let ka := segIndex segs a
      let kb := segIndex segs b
      let sg := fun k => segs.getD k Seg.zero
      let lo := evalSeg (sg ka) a
      let hi := evalSeg (sg kb) b
      let ends := fun (p q : IV) => match p, q with
        | .mk u _, .mk _ v => IV.ofBounds (some u) (some v)
        | _, _ => IV.empty
      if 8 < kb - ka + 1 then (range32 e.glo e.ghi, clip)
      else if ka = kb ∧ (sg ka).mono = 1 then (ends lo hi, clip)
      else if ka = kb ∧ (sg ka).mono = 2 then (ends hi lo, clip)
      else
        ((List.range (kb - ka + 1)).foldl (fun (r : IV) j => r.hull (range32 (sg (ka + j)).rlo (sg (ka + j)).rhi)) (lo.hull hi), clip)

/-- The active entry that a rod's launch owns. -/
def State.tableOf (s : State) (r : RodId) (tid : Nat) : Option (TabEntry × List Seg) :=
  let b := (s.core (s.coreOf r)).bank0
  ((b.entries.find tid).filter (fun e => e.owner == s.launchOf r)).map (fun e => (e, b.segsOf e))

/-- `ifn` (R296). -/
def execIfn (g : Guard) (v : View) (tid : BitVec 4) (d a : Operand) (m : Option SrcMod) (s : State) : Res :=
  issue s g m [(d, v.words)] [(a, v.words)] (fun c =>
    match s.tableOf c.i.rid tid.toNat with
    | none =>
      let c := { c with s := if c.g = 0 then c.s else c.s.raise c.i.rid Cause.tblf }
      c.putIv v d (fun _ => v.fmt.out IV.entire false)
    | some (e, segs) =>
      c.putIv v d (fun l =>
        let x := (fp32.enclose ((c.ivl .a v a l).iv v.fmt)).iv fp32
        let r := lookup e segs x
        v.fmt.out r.1 r.2))

/-- x·y + z rounded to nearest in binary32 (R298); none is a NaN. -/
def fmaNear (x y z : Option XR) : Option XR :=
  match x, y, z with
  | some (.fin a), some (.fin b), some (.fin c) => fp32.value (fp32.near (a * b + c))
  | some a, some b, some (.fin _) => let k := a.sign * b.sign; if k = 0 then none else some (if k < 0 then .ninf else .pinf)
  | _, _, _ => none

/-- A number read or written with subnormals as +0 (R297). -/
def flush (ftz : Bool) (x : Option XR) : Option XR :=
  match x with
  | some (.fin q) => if ftz ∧ -(two (-126)) < q ∧ q < two (-126) then some (.fin 0) else x
  | _ => x

/-- The point result of `ifnc` (R297, R298); none is a NaN. DEDUCED (log 39): FTZ takes m = imid(a), before the domain test. -/
def pointFn (e : TabEntry) (segs : List Seg) (ftz : Bool) (x : IV) : Option XR :=
  match midCode fp32 x with
  | none => none
  | some k =>
    let m := flush ftz (fp32.value k)
    match m with
    | some (.fin q) =>
      let xr := XR.fin q
      if (IV.meet (IV.point q) (range32 e.domlo e.domhi)) = .empty then none
      else
        let sg := segs.getD (segIndex segs xr) Seg.zero
        let t : Option XR := match val32 sg.start with
          | some (.fin z) => fp32.value (fp32.near (q - z))
          | some z => some z.neg
          | none => none
        let y := match (sg.coef.take (sg.deg + 1)).reverse.map val32 with
          | [] => none
          | c :: rest => rest.foldl (fun y c => fmaNear y t c) c
        flush ftz y
    | _ => none

/-- The binary32 code of a number that is exact in the format. -/
def code32 : Option XR → Nat
  | none => fp32.nanCode
  | some x => fp32.down x

/-- `ifnc` (R298). -/
def execIfnc (g : Guard) (tid : BitVec 4) (d a : Operand) (m : Option SrcMod) (s : State) : Res :=
  issue s g m [(d, 2)] [(a, 2)] (fun c =>
    if c.g = 0 then finish c.s c.i
    else if ¬ c.i.rod.compat.getLsbD 0 then trap c.old c.i Cause.illegal
    else
      let t := s.tableOf c.i.rid tid.toNat
      let c := { c with s := if t.isNone then c.s.raise c.i.rid Cause.tblf else c.s }
      c.putIv .f d (fun l =>
        let k := code32 (t.bind (fun e => pointFn e.1 e.2 (c.i.rod.compat.getLsbD 1) ((c.ivl .a .f a l).iv fp32)))
        let p : Pair := ⟨k, k⟩
        ⟨p, p.flags fp32 ||| flagCompat⟩))

/-! ### Row statistics (R299 to R304) -/

/-- The entries of lane l's segment; a lane that does not participate is masked. -/
def Ctx.segment (c : Ctx) (v : View) (z : Nat) (a : Operand) (l : Nat) : List IV :=
  let n := 2 ^ z
  (List.range n).map (fun j =>
    let k := l - l % n + j
    if c.g.has k then (c.ivl .a v a k).iv v.fmt else .empty)

/-- A row in scratchpad (R300): none where it is an access violation. -/
def Ctx.rowAt (c : Ctx) (v : View) (a b : Operand) (l : Nat) : Option (Nat × Nat) :=
  let off := (c.w32 .a a l).toNat
  let n := (c.w32 .b b l).toNat
  let z := 4 * v.words
  let size := ((c.s.chain c.i.rid.chain).map (·.scrSize)).getD 0
  if off % z = 0 ∧ off + n * z ≤ size ∧ n ≤ 4096 then some (off, n) else none

/-- The words a row statistic writes in a lane, with its flags. -/
abbrev RowFn := Fmt → List IV → List IvOut

/-- A row statistic in either mode (R299, R300); `k` is how many registers it writes. -/
def rowStat (s : State) (g : Guard) (v : View) (z : BitVec 3) (d a : Operand) (b : Option Operand) (m : Option SrcMod) (k : Nat)
    (f : RowFn) : Res :=
  match b with
  | none =>
    issue s g m [(d, k * v.words)] [(a, v.words)] (fun c =>
      let r := fun (l : Nat) => f v.fmt (c.segment v z.toNat a l)
      c.putWords d (fun l => (r l).flatMap (fun o => o.pair.words v)) (fun l => (r l).foldl (fun x o => x ||| o.flags) 0))
  | some b =>
    issue s g m [(d, k * v.words)] [(a, 1), (b, 1)] (fun c =>
      match c.s.chain c.i.rid.chain with
      | none => finish c.s c.i
      | some ch =>
        let rows := (lanes c.g).filterMap (c.rowAt v a b)
        let z := 4 * v.words
        let need := rows.flatMap (fun e => if e.2 = 0 then [] else linesOf e.1 (e.2 * z))
        if ¬ need.all ch.full then
          wait c.old c.i (.fullEmpty (need.eraseDups.map (fun n => { chain := c.i.rid.chain, line := n, full := true })) [])
        else
          let r := fun (l : Nat) => match c.rowAt v a b l with
            | none => List.replicate k (v.fmt.out .empty false)
            | some (off, n) => f v.fmt ((List.range n).map (fun i =>
                (Pair.ofWords v ((List.range v.words).map (fun j => BitVec.ofNat 32 (ch.nat (off + i * z + 4 * j) 4)))).iv v.fmt))
          let bad := if (lanes c.g).any (fun l => (c.rowAt v a b l).isNone) then Cause.accv else 0
          let hurt := if rows.any (fun e => ch.anyBad e.1 (e.2 * z)) then Cause.umem else 0
          let c := { c with s := c.s.raise c.i.rid (bad ||| hurt) }
          c.putWords d (fun l => (r l).flatMap (fun o => o.pair.words v)) (fun l => (r l).foldl (fun x o => x ||| o.flags) 0))

/-- `segmax` (R301). -/
def execSegmax (g : Guard) (v : View) (z : BitVec 3) (d a : Operand) (b : Option Operand) (m : Option SrcMod) (s : State) : Res :=
  rowStat s g v z d a b m 1 (fun f xs => [rowMax f xs])

/-- `segmin` (R301). -/
def execSegmin (g : Guard) (v : View) (z : BitVec 3) (d a : Operand) (b : Option Operand) (m : Option SrcMod) (s : State) : Res :=
  rowStat s g v z d a b m 1 (fun f xs => [rowMin f xs])

/-- `segsum` (R301). -/
def execSegsum (g : Guard) (v : View) (z : BitVec 3) (d a : Operand) (b : Option Operand) (m : Option SrcMod) (s : State) : Res :=
  rowStat s g v z d a b m 1 (fun f xs => [rowSum f xs])

/-- `segnorm` (R302): mean and variance. -/
def execSegnorm (g : Guard) (v : View) (z : BitVec 3) (d a : Operand) (b : Option Operand) (m : Option SrcMod) (s : State) : Res :=
  rowStat s g v z d a b m 2 (fun f xs => [(rowNorm f xs).1, (rowNorm f xs).2])

/-- `smxexp` (R303). -/
def execSmxexp (g : Guard) (v : View) (z : BitVec 3) (d a : Operand) (m : Option SrcMod) (s : State) : Res :=
  issue s g m [(d, v.words)] [(a, v.words)] (fun c =>
    c.putIv v d (fun l => expEntry v.fmt ((c.ivl .a v a l).iv v.fmt) (expShift (c.segment v z.toNat a l))))

/-- `smxnorm` (R304). -/
def execSmxnorm (g : Guard) (v : View) (z : BitVec 3) (d a : Operand) (q : BitVec 4) (m : Option SrcMod) (s : State) : Res :=
  issue s g m [(d, v.words)] [(a, v.words)] (fun c =>
    let seg := fun (l : Nat) => normEntries (c.segment v z.toNat a l)
    let c := { c with s := c.s.modRod c.i.rid (fun x => x.setPreds c.g q.toNat (fun l => qOfBool (!(unmasked (seg l).1).isEmpty))) }
    c.putIv v d (fun l =>
      let o := normEntry v.fmt (seg l).1 (l % 2 ^ z.toNat)
      { o with flags := o.flags ||| (if (((c.ivl .a v a l).iv v.fmt).clipPos false).2 then flagDomclip else 0) }))

end Sys2Proof.Machine
end

