-- ==== Sys2Proof/Machine/Matrix.lean ====
section
/-!
DEFINITION. Group 6, the matrix engine's instructions and steps (R336 to R357), and the rendezvous of a gang (R338 to R340).
-/
namespace Sys2Proof.Machine

/-- `mxgang` (R338). -/
def execMxgang (g : Guard) (a : Operand) (s : State) : Res :=
  issue s g none [] [(a, 1)] (fun c =>
    if c.g = 0 then finish c.s c.i
    else
      let m := c.w32 .a a c.low
      let n := ((c.s.chain c.i.rid.chain).map (·.nrod)).getD 1
      if ¬ m.getLsbD c.i.rid.rod ∨ 6 < count m ∨ m.toNat ≥ 2 ^ n then trap c.old c.i Cause.gang
      else finish (c.s.modRod c.i.rid (fun x => { x with gang := m })) c.i)

/-- The word of an instruction without its guard fields (R339). -/
def gangWord (i : Iss) : DWord := (i.slot.word.getD 0) &&& ~~~(mask64 54 48)

/-- The member rods of a gang mask. -/
def gangRods (m : Word) : List Nat := lanes m

/-- The slot of a rod that waits at a rendezvous with a word. -/
def Rod.gangSlot (x : Rod) (w : DWord) : Option (SlotId × Slot) :=
  [SlotId.a, SlotId.b].findSome? (fun sl => match x.slot sl with
    | some y => if y.wait = some .rendezvous ∧ (y.word.getD 0) &&& ~~~(mask64 54 48) = w then some (sl, y) else none
    | none => none)

/-- A member of the gang has exited all its lanes (R340). -/
def State.memberGone (s : State) (cid : Nat) (m : Word) : Bool :=
  (gangRods m).any (fun k => match s.rod ⟨cid, k⟩ with | some x => x.live == 0 | none => true)

/-- Issue a tile operation to the engine for its members: each member's clause flag counts it, and members that waited go on. -/
def State.gangIssue (s : State) (i : Iss) (members : List (RodId × SlotId)) (ins : Instr) (word a b k : DWord) (long : Bool) : State :=
  match ins with
  | .mxsp .. => members.foldl (fun s e => s.advance e.1 e.2) (s.modChain i.rid.chain (fun c => c.mxFront ins a.toNat))
  | _ =>
  let (m, s) := s.mxIssue i.rid (members.map (fun e => e.1.rod)) ins word a b k false
  let flags := if long then members.filterMap (fun e =>
      ((s.rod e.1).bind (·.slot e.2)).bind (fun y => (y.started.bind (fun cl => cl.flag y.path.idx)).map (fun f => (e.1.rod, f))))
    else []
  let (n, s) := s.addOpNoFlag i.rid (.mx m)
  let s := match s.op n with
    | some o => s.setOp n { o with flags := flags }
    | none => s
  let s := flags.foldl (fun s f => s.modRod ⟨i.rid.chain, f.1⟩ (fun x => x.setFlag f.2.toNat (x.flagCount f.2.toNat + 1))) s
  members.foldl (fun s e => s.advance e.1 e.2) s

/-- The completion flag that a member's clause names holds all that it can (R208). -/
def State.flagFullAt (s : State) (r : RodId) (sl : SlotId) : Bool :=
  match s.rod r with
  | some x => match (x.slot sl).bind (fun y => y.started.bind (fun cl => cl.flag y.path.idx)) with
    | some f => x.flagCount f.toNat == 63
    | none => false
  | none => false

/-- The latch in which the issuing member has arrived and waits; its word, values and gang are those of its arrival (R339). -/
def Chain.joined (c : Chain) (i : Iss) : Option Latch :=
  if i.slot.wait ≠ some .rendezvous then none
  else (c.latches.find? (fun (e : Nat × Latch) => e.2.word == gangWord i && e.2.arrived.contains i.rid.rod)).map Prod.snd

/-- The members that wait in a latch, each with its slot; one that has been stopped waits there no more (R340, R402). -/
def State.waiters (s : State) (cid : Nat) (w : DWord) (members : List Nat) : List (RodId × SlotId) :=
  members.filterMap (fun q => match s.rod ⟨cid, q⟩ with
    | some x => if s.windingUp ⟨cid, q⟩ x then none else (x.gangSlot w).map (fun e => ((⟨cid, q⟩ : RodId), e.1))
    | none => none)

/-- A tile operation at the rendezvous of a gang (R339, R340); a rod that is being stopped and would have to wait leaves nothing in a latch, and in
a chain being saved no latch is left. -/
def rendezvous (c : Ctx) (ch : Chain) (ins : Instr) (gang : Word) (a b k : DWord) (long : Bool) : Res :=
  let me := c.i.rid.rod
  let w := gangWord c.i
  let stops := c.s.windingUp c.i.rid c.i.rod
  if ch.state ≠ .resident then wait c.old c.i .rendezvous
  else
  match ch.latches.find? (fun (e : Nat × Latch) => e.2.gang == gang) with
  | none =>
    match [0, 1, 2, 3].find? (fun n => (ch.latches.find? (fun (e : Nat × Latch) => e.1 == n)).isNone) with
    | none => wait c.old c.i .rendezvous
    | some n =>
      if c.s.memberGone c.i.rid.chain gang then trap c.old c.i Cause.gang
      else if stops then wait c.old c.i .rendezvous
      else
        let l : Latch := { gang := gang, word := w, aval := a, bval := b, cval := k, arrived := [me], done := false }
        wait (c.s.setChain c.i.rid.chain { ch with latches := ch.latches.put n l }) c.i .rendezvous
  | some (n, l) =>
    if l.word ≠ w ∨ l.aval ≠ a ∨ l.bval ≠ b ∨ l.cval ≠ k then trap c.old c.i Cause.gang
    else if c.s.memberGone c.i.rid.chain gang then
      let s := c.s.setChain c.i.rid.chain { ch with latches := ch.latches.erase n }
      let s := (l.arrived.filter (· ≠ me)).foldl (fun s q =>
        match (s.rod ⟨c.i.rid.chain, q⟩).bind (fun x => x.gangSlot w) with
        | some (sl, y) => s.takeTrap ⟨c.i.rid.chain, q⟩ sl Cause.gang y.path.pc y.path.idx
        | none => s) s
      trap s c.i Cause.gang
    else
      let arrived := insertNat me l.arrived
      let s := if stops then c.s else c.s.setChain c.i.rid.chain { ch with latches := ch.latches.put n { l with arrived := arrived } }
      let others := s.waiters c.i.rid.chain w (arrived.filter (· ≠ me))
      if others.length + 1 < (gangRods gang).length then wait s c.i .rendezvous
      else if s.mxOn (s.coreOf c.i.rid) ≥ Config.mxOps then wait s c.i .rendezvous
      else if long && (c.i.flagFull || others.any (fun e => s.flagFullAt e.1 e.2)) then wait s c.i .rendezvous
      else
        let s := s.modChain c.i.rid.chain (fun ch => { ch with latches := ch.latches.erase n })
        .next (s.gangIssue c.i ((c.i.rid, c.i.sl) :: others) ins (c.i.slot.word.getD 0) a b k long)

/-- The course of a tile operation (R336 to R340, R354): it acts once per rod, checks its operand, and issues alone or with its
gang. -/
def tileForm (s : State) (g : Guard) (ins : Instr) (srcs : List (Operand × Nat)) (long : Bool) (vals : Ctx → DWord × DWord × DWord) : Res :=
  issue s g none [] srcs (fun c =>
      match c.s.chain c.i.rid.chain with
      | none => finish c.s c.i
      | some ch =>
      match ch.joined c.i with
      | some l => rendezvous c ch ins l.gang l.aval l.bval l.cval long
      | none =>
        if c.g = 0 then finish c.s c.i
        else
        let (a, b, k) := vals c
        if ch.mxIllegal ins a.toNat then trap c.old c.i Cause.illegal
        else if long && c.i.flagFull then wait c.old c.i .control
        else if ¬ c.s.engineReady c.i.rid then wait c.old c.i .memory
        else if 1 < count c.i.rod.gang then rendezvous c ch ins c.i.rod.gang a b k long
        else if c.s.mxOn (c.s.coreOf c.i.rid) ≥ Config.mxOps then wait c.old c.i .matrix
        else .next (c.s.gangIssue c.i [(c.i.rid, c.i.sl)] ins (c.i.slot.word.getD 0) a b k long))

/-- A 32-bit operand of a tile operation, zero-extended. -/
def Ctx.z32 (c : Ctx) (src : ModSrc) (o : Operand) : DWord := (c.w32 src o c.low).setWidth 64

/-- `mxclr` (R336). -/
def execMxclr (g : Guard) (t : BitVec 3) (a : Operand) (s : State) : Res :=
  tileForm s g (.mxclr g t a) [(a, 1)] false (fun c => (c.z32 .a a, 0, 0))

/-- `mxwin` (R337). -/
def execMxwin (g : Guard) (t : BitVec 3) (a : Operand) (s : State) : Res :=
  tileForm s g (.mxwin g t a) [(a, 1)] false (fun c => (c.z32 .a a, 0, 0))

/-- `mxsp` (R348): the split fields change at issue, once for the gang. -/
def execMxsp (g : Guard) (t : BitVec 3) (a : Operand) (s : State) : Res :=
  tileForm s g (.mxsp g t a) [(a, 1)] false (fun c => (c.z32 .a a, 0, 0))

/-- `mxmm` (R341). -/
def execMxmm (g : Guard) (x : MxFields) (a b c : Operand) (s : State) : Res :=
  tileForm s g (.mxmm g x a b c) [(a, 1), (b, 1), (c, 1)] true (fun k => (k.z32 .a a, k.z32 .b b, k.z32 .c c))

/-- `mxim` (R341). -/
def execMxim (g : Guard) (x : MxFields) (a b c : Operand) (s : State) : Res :=
  tileForm s g (.mxim g x a b c) [(a, 1), (b, 1), (c, 1)] true (fun k => (k.z32 .a a, k.z32 .b b, k.z32 .c c))

/-- `mxcv` (R341, R346). -/
def execMxcv (g : Guard) (x : MxFields) (a b c : Operand) (s : State) : Res :=
  tileForm s g (.mxcv g x a b c) [(a, 1), (b, 1), (c, 1)] true (fun k => (k.z32 .a a, k.z32 .b b, k.z32 .c c))

/-- `mxst` (R351). -/
def execMxst (g : Guard) (v : View) (space : MxSpace) (t : BitVec 3) (a : Operand) (s : State) : Res :=
  tileForm s g (.mxst g v space t a) [(a, 1)] true (fun c => (c.z32 .a a, 0, 0))

/-- `mxsv` (R352). -/
def execMxsv (g : Guard) (t : BitVec 3) (a : Operand) (s : State) : Res :=
  tileForm s g (.mxsv g t a) [(a, 2)] true (fun c => (c.d64 .a a c.low, 0, 0))

/-- `mxrs` (R352, R353). -/
def execMxrs (g : Guard) (t : BitVec 3) (a : Operand) (s : State) : Res :=
  tileForm s g (.mxrs g t a) [(a, 2)] true (fun c => (c.d64 .a a c.low, 0, 0))

/-- `mxrd` (R350): per lane, in scoreboard order, whatever the gang. -/
def execMxrd (g : Guard) (v : View) (t : BitVec 3) (d row col : Operand) (s : State) : Res :=
  issue s g none [(d, v.words)] [(row, 1), (col, 1)] (fun c =>
    if c.g = 0 then finish c.s c.i
    else if c.i.flagFull then wait c.old c.i .control
    else if ¬ c.s.engineReady c.i.rid then wait c.old c.i .memory
    else if c.s.mxOn (c.s.coreOf c.i.rid) ≥ Config.mxOps then wait c.old c.i .matrix
    else
      let tab := fun (src : ModSrc) (o : Operand) => (lanes c.g).foldl (fun (x : Tbl Nat) l => x.set l (c.w32 src o l).toNat 0) ([] : Tbl Nat)
      let m : MxOp := { tile := t.toNat, kind := .rd v d c.g (tab .b row) (tab .c col), gang := [c.i.rid.rod], word := c.i.slot.word.getD 0,
                        aval := 0, bval := 0, cval := 0, snap := [], shape := ((c.s.chain c.i.rid.chain).map (fun ch => ch.tile t.toNat)).getD Tile.reset,
                        prog := 0, raw := false, caused := false }
      finish (c.s.addOp c.i (.mx m)).2 c.i)

/-- `MX_K_STEP` (R343, R356): one step of a product whose turn has come; an operand that is not at hand leaves the step undone. -/
def execMxKStep (op : Nat) (s : State) : Res :=
  match s.op op with
  | none => .next s
  | some o =>
    match o.kind with
    | .mx m =>
      if o.susp ∨ s.mxBlocked op o m ∨ ¬ m.stepsLeft then .next s
      else
        match m.kind with
        | .prod x conv k0 klen ra rb rra rrb => .next (s.mxProductStep op o m x conv k0 klen ra rb rra rrb)
        | _ => .next s
    | _ => .next s

/-- `MX_OP_COMPLETE` (R336, R337, R343, R350 to R353): an operation whose turn has come and that has no step left takes effect and
completes. -/
def execMxOpComplete (op : Nat) (s : State) : Res :=
  match s.op op with
  | none => .next s
  | some o =>
    match o.kind with
    | .mx m => if o.susp ∨ s.mxBlocked op o m ∨ m.stepsLeft then .next s else .next (s.mxFinish op o m)
    | _ => .next s

end Sys2Proof.Machine
end

