-- ==== Sys2Proof/Machine/Dispatch.lean ====
section
/-!
DEFINITION. One arm for each constructor of Instr: the one call of its meaning.
-/
namespace Sys2Proof.Machine

/-- The meaning of a step. -/
def exec (i : Instr) (s : State) : Host.Outcome State Fault Refusal :=
  match i with
  | .add g d a b m => Sys2Proof.Machine.execAdd g d a b m s
  | .sub g d a b m => Sys2Proof.Machine.execSub g d a b m s
  | .mul g d a b m => Sys2Proof.Machine.execMul g d a b m s
  | .mulh g d a b m => Sys2Proof.Machine.execMulh g d a b m s
  | .mulhn g d a b m => Sys2Proof.Machine.execMulhn g d a b m s
  | .mad g d a b c m => Sys2Proof.Machine.execMad g d a b c m s
  | .madh g d a b c m => Sys2Proof.Machine.execMadh g d a b c m s
  | .div g d a b m => Sys2Proof.Machine.execDiv g d a b m s
  | .divn g d a b m => Sys2Proof.Machine.execDivn g d a b m s
  | .rem g d a b m => Sys2Proof.Machine.execRem g d a b m s
  | .remn g d a b m => Sys2Proof.Machine.execRemn g d a b m s
  | .neg g d a m => Sys2Proof.Machine.execNeg g d a m s
  | .abs g d a m => Sys2Proof.Machine.execAbs g d a m s
  | .min g d a b m => Sys2Proof.Machine.execMin g d a b m s
  | .minn g d a b m => Sys2Proof.Machine.execMinn g d a b m s
  | .max g d a b m => Sys2Proof.Machine.execMax g d a b m s
  | .maxn g d a b m => Sys2Proof.Machine.execMaxn g d a b m s
  | .and g d a b m => Sys2Proof.Machine.execAnd g d a b m s
  | .or g d a b m => Sys2Proof.Machine.execOr g d a b m s
  | .xor g d a b m => Sys2Proof.Machine.execXor g d a b m s
  | .andn g d a b m => Sys2Proof.Machine.execAndn g d a b m s
  | .not g d a m => Sys2Proof.Machine.execNot g d a m s
  | .shl g d a b m => Sys2Proof.Machine.execShl g d a b m s
  | .shr g d a b m => Sys2Proof.Machine.execShr g d a b m s
  | .sar g d a b m => Sys2Proof.Machine.execSar g d a b m s
  | .rol g d a b m => Sys2Proof.Machine.execRol g d a b m s
  | .bfx g d a b m => Sys2Proof.Machine.execBfx g d a b m s
  | .bfxn g d a b m => Sys2Proof.Machine.execBfxn g d a b m s
  | .bfi g d a b c m => Sys2Proof.Machine.execBfi g d a b c m s
  | .popc g d a m => Sys2Proof.Machine.execPopc g d a m s
  | .clz g d a m => Sys2Proof.Machine.execClz g d a m s
  | .ctz g d a m => Sys2Proof.Machine.execCtz g d a m s
  | .brev g d a m => Sys2Proof.Machine.execBrev g d a m s
  | .sel g d a b q m => Sys2Proof.Machine.execSel g d a b q m s
  | .mov g d a m => Sys2Proof.Machine.execMov g d a m s
  | .ldi g mode d imm => Sys2Proof.Machine.execLdi g mode d imm s
  | .cvt g dt st sat d a m => Sys2Proof.Machine.execCvt g dt st sat d a m s
  | .lea g d a b c m => Sys2Proof.Machine.execLea g d a b c m s
  | .perm g d a b m => Sys2Proof.Machine.execPerm g d a b m s
  | .kset g k imm => Sys2Proof.Machine.execKset g k imm s
  | .kadd g k a b m => Sys2Proof.Machine.execKadd g k a b m s
  | .rdx g d base k n => Sys2Proof.Machine.execRdx g d base k n s
  | .wrx g base k b n => Sys2Proof.Machine.execWrx g base k b n s
  | .cmp g ty rel q a b m => Sys2Proof.Machine.execCmp g ty rel q a b m s
  | .qand g qd qa qb => Sys2Proof.Machine.execQand g qd qa qb s
  | .qor g qd qa qb => Sys2Proof.Machine.execQor g qd qa qb s
  | .qxor g qd qa qb => Sys2Proof.Machine.execQxor g qd qa qb s
  | .qnot g qd qa => Sys2Proof.Machine.execQnot g qd qa s
  | .qsure g qd qa => Sys2Proof.Machine.execQsure g qd qa s
  | .qmaybe g qd qa => Sys2Proof.Machine.execQmaybe g qd qa s
  | .qmov g qd qa => Sys2Proof.Machine.execQmov g qd qa s
  | .qvote g mode qd qa => Sys2Proof.Machine.execQvote g mode qd qa s
  | .qmask g mode d qa => Sys2Proof.Machine.execQmask g mode d qa s
  | .qfrom g mode qd a m => Sys2Proof.Machine.execQfrom g mode qd a m s
  | .br g off => Sys2Proof.Machine.execBr g off s
  | .br3 q offT offF offU => Sys2Proof.Machine.execBr3 q offT offF offU s
  | .join off => Sys2Proof.Machine.execJoin off s
  | .call g off => Sys2Proof.Machine.execCall g off s
  | .ret g => Sys2Proof.Machine.execRet g s
  | .jmpi g a => Sys2Proof.Machine.execJmpi g a s
  | .exit g => Sys2Proof.Machine.execExit g s
  | .yield g => Sys2Proof.Machine.execYield g s
  | .sleep g a => Sys2Proof.Machine.execSleep g a s
  | .nop g => Sys2Proof.Machine.execNop g s
  | .rgive g a => Sys2Proof.Machine.execRgive g a s
  | .rtake g a => Sys2Proof.Machine.execRtake g a s
  | .split g v x q b n => Sys2Proof.Machine.execSplit g v x q b n s
  | .fork g q b n => Sys2Proof.Machine.execFork g q b n s
  | .take g d q => Sys2Proof.Machine.execTake g d q s
  | .poolcfg g a => Sys2Proof.Machine.execPoolcfg g a s
  | .poolst g d => Sys2Proof.Machine.execPoolst g d s
  | .iadd g v d a b m => Sys2Proof.Machine.execIadd g v d a b m s
  | .isub g v d a b m => Sys2Proof.Machine.execIsub g v d a b m s
  | .imul g v d a b m => Sys2Proof.Machine.execImul g v d a b m s
  | .ifma g v d a b c m => Sys2Proof.Machine.execIfma g v d a b c m s
  | .idiv g v d a b m => Sys2Proof.Machine.execIdiv g v d a b m s
  | .idiv2 g v d a b q m => Sys2Proof.Machine.execIdiv2 g v d a b q m s
  | .ircp g v d a m => Sys2Proof.Machine.execIrcp g v d a m s
  | .isqr g v d a m => Sys2Proof.Machine.execIsqr g v d a m s
  | .isqrt g v d a m => Sys2Proof.Machine.execIsqrt g v d a m s
  | .iabs g v d a m => Sys2Proof.Machine.execIabs g v d a m s
  | .ineg g v d a m => Sys2Proof.Machine.execIneg g v d a m s
  | .imin g v d a b m => Sys2Proof.Machine.execImin g v d a b m s
  | .imax g v d a b m => Sys2Proof.Machine.execImax g v d a b m s
  | .ihull g v d a b m => Sys2Proof.Machine.execIhull g v d a b m s
  | .imeet g v d a b m => Sys2Proof.Machine.execImeet g v d a b m s
  | .imid g v d a m => Sys2Proof.Machine.execImid g v d a m s
  | .irad g v d a m => Sys2Proof.Machine.execIrad g v d a m s
  | .iwid g v d a m => Sys2Proof.Machine.execIwid g v d a m s
  | .imag g v d a m => Sys2Proof.Machine.execImag g v d a m s
  | .imig g v d a m => Sys2Proof.Machine.execImig g v d a m s
  | .iinf g v d a m => Sys2Proof.Machine.execIinf g v d a m s
  | .isup g v d a m => Sys2Proof.Machine.execIsup g v d a m s
  | .imk g v d a b m => Sys2Proof.Machine.execImk g v d a b m s
  | .ipt g v d a m => Sys2Proof.Machine.execIpt g v d a m s
  | .ibis g v d a q m => Sys2Proof.Machine.execIbis g v d a q m s
  | .iscl g v d a b m => Sys2Proof.Machine.execIscl g v d a b m s
  | .iflr g v d a m => Sys2Proof.Machine.execIflr g v d a m s
  | .iceil g v d a m => Sys2Proof.Machine.execIceil g v d a m s
  | .icmp g v rel q a b m => Sys2Proof.Machine.execIcmp g v rel q a b m s
  | .icls g v cls q a m => Sys2Proof.Machine.execIcls g v cls q a m s
  | .icvt g dt st hi d a m => Sys2Proof.Machine.execIcvt g dt st hi d a m s
  | .imr g v plane d a m => Sys2Proof.Machine.execImr g v plane d a m s
  | .ixr g v d a m => Sys2Proof.Machine.execIxr g v d a m s
  | .iexp2 g v d a m => Sys2Proof.Machine.execIexp2 g v d a m s
  | .ilog2 g v d a m => Sys2Proof.Machine.execIlog2 g v d a m s
  | .irsqrt g v d a m => Sys2Proof.Machine.execIrsqrt g v d a m s
  | .ifn g v tid d a m => Sys2Proof.Machine.execIfn g v tid d a m s
  | .ifnc g tid d a m => Sys2Proof.Machine.execIfnc g tid d a m s
  | .tblld g a tid slot => Sys2Proof.Machine.execTblld g a tid slot s
  | .tblldComplete op => Sys2Proof.Machine.execTblldComplete op s
  | .tblsw g => Sys2Proof.Machine.execTblsw g s
  | .tblq g d tid => Sys2Proof.Machine.execTblq g d tid s
  | .segmax g v z d a b m => Sys2Proof.Machine.execSegmax g v z d a b m s
  | .segmin g v z d a b m => Sys2Proof.Machine.execSegmin g v z d a b m s
  | .segsum g v z d a b m => Sys2Proof.Machine.execSegsum g v z d a b m s
  | .segnorm g v z d a b m => Sys2Proof.Machine.execSegnorm g v z d a b m s
  | .smxexp g v z d a m => Sys2Proof.Machine.execSmxexp g v z d a m s
  | .smxnorm g v z d a q m => Sys2Proof.Machine.execSmxnorm g v z d a q m s
  | .ld g sz d ad sc o h => Sys2Proof.Machine.execLd g sz d ad sc o h s
  | .loadComplete op => Sys2Proof.Machine.execLoadComplete op s
  | .st g sz a ad sc o h => Sys2Proof.Machine.execSt g sz a ad sc o h s
  | .ldmr g v d ad sc o h => Sys2Proof.Machine.execLdmr g v d ad sc o h s
  | .stmr g v a ad sc o h => Sys2Proof.Machine.execStmr g v a ad sc o h s
  | .ldXs g v d ad sc o => Sys2Proof.Machine.execLdXs g v d ad sc o s
  | .redXs g a ad sc o => Sys2Proof.Machine.execRedXs g a ad sc o s
  | .lds g sz d ad sc o h => Sys2Proof.Machine.execLds g sz d ad sc o h s
  | .sts g sz a ad sc o h => Sys2Proof.Machine.execSts g sz a ad sc o h s
  | .ldtk g sz d ad sc o h => Sys2Proof.Machine.execLdtk g sz d ad sc o h s
  | .stfl g sz a ad sc o h => Sys2Proof.Machine.execStfl g sz a ad sc o h s
  | .fullEmptyRelease r sl => Sys2Proof.Machine.execFullEmptyRelease r sl s
  | .fest g full ad h => Sys2Proof.Machine.execFest g full ad h s
  | .feq g d ad h => Sys2Proof.Machine.execFeq g d ad h s
  | .gth g sz ad h => Sys2Proof.Machine.execGth g sz ad h s
  | .gatherRowArrive op => Sys2Proof.Machine.execGatherRowArrive op s
  | .prf g ad h => Sys2Proof.Machine.execPrf g ad h s
  | .inv g n ad h => Sys2Proof.Machine.execInv g n ad h s
  | .wbk g n ad h => Sys2Proof.Machine.execWbk g n ad h s
  | .own g ad h => Sys2Proof.Machine.execOwn g ad h s
  | .pgcm g d ad h => Sys2Proof.Machine.execPgcm g d ad h s
  | .pgdc g d ad h => Sys2Proof.Machine.execPgdc g d ad h s
  | .pgq g d ad h => Sys2Proof.Machine.execPgq g d ad h s
  | .dalloc g d n h => Sys2Proof.Machine.execDalloc g d n h s
  | .dfree g n ad h => Sys2Proof.Machine.execDfree g n ad h s
  | .atom g op sz d ad sc o h => Sys2Proof.Machine.execAtom g op sz d ad sc o h s
  | .red g op sz a ad sc o h => Sys2Proof.Machine.execRed g op sz a ad sc o h s
  | .fenceAcq g sc => Sys2Proof.Machine.execFenceAcq g sc s
  | .fenceRel g sc => Sys2Proof.Machine.execFenceRel g sc s
  | .fenceAcqRel g sc => Sys2Proof.Machine.execFenceAcqRel g sc s
  | .fenceSc g sc => Sys2Proof.Machine.execFenceSc g sc s
  | .fenceEngine g sc => Sys2Proof.Machine.execFenceEngine g sc s
  | .xfence g => Sys2Proof.Machine.execXfence g s
  | .acqr g sc a => Sys2Proof.Machine.execAcqr g sc a s
  | .waitany g d ad h => Sys2Proof.Machine.execWaitany g d ad h s
  | .waitanyWake r sl wd => Sys2Proof.Machine.execWaitanyWake r sl wd s
  | .waitanyTimeout r sl => Sys2Proof.Machine.execWaitanyTimeout r sl s
  | .barv g n lvl => Sys2Proof.Machine.execBarv g n lvl s
  | .barw g n lvl => Sys2Proof.Machine.execBarw g n lvl s
  | .bars g n lvl => Sys2Proof.Machine.execBars g n lvl s
  | .barb g n bytes lvl => Sys2Proof.Machine.execBarb g n bytes lvl s
  | .barrierPhaseComplete b => Sys2Proof.Machine.execBarrierPhaseComplete b s
  | .furlongRemotePhase b => Sys2Proof.Machine.execFurlongRemotePhase b s
  | .seqinc g a ad sc o h => Sys2Proof.Machine.execSeqinc g a ad sc o h s
  | .seqwt g d ad sc o h => Sys2Proof.Machine.execSeqwt g d ad sc o h s
  | .seqwtWake r sl => Sys2Proof.Machine.execSeqwtWake r sl s
  | .launch g c a b => Sys2Proof.Machine.execLaunch g c a b s
  | .cancel g lvl => Sys2Proof.Machine.execCancel g lvl s
  | .cpy g a b c bar h => Sys2Proof.Machine.execCpy g a b c bar h s
  | .cpyo g a b c bar h seq => Sys2Proof.Machine.execCpyo g a b c bar h seq s
  | .copyLineLand op line => Sys2Proof.Machine.execCopyLineLand op line s
  | .copyComplete op => Sys2Proof.Machine.execCopyComplete op s
  | .mxgang g a => Sys2Proof.Machine.execMxgang g a s
  | .mxwin g t a => Sys2Proof.Machine.execMxwin g t a s
  | .mxclr g t a => Sys2Proof.Machine.execMxclr g t a s
  | .mxmm g x a b c => Sys2Proof.Machine.execMxmm g x a b c s
  | .mxim g x a b c => Sys2Proof.Machine.execMxim g x a b c s
  | .mxcv g x a b c => Sys2Proof.Machine.execMxcv g x a b c s
  | .mxKStep op => Sys2Proof.Machine.execMxKStep op s
  | .mxOpComplete op => Sys2Proof.Machine.execMxOpComplete op s
  | .mxrd g v t d row col => Sys2Proof.Machine.execMxrd g v t d row col s
  | .mxst g v space t a => Sys2Proof.Machine.execMxst g v space t a s
  | .mxsv g t a => Sys2Proof.Machine.execMxsv g t a s
  | .mxrs g t a => Sys2Proof.Machine.execMxrs g t a s
  | .mxsp g t a => Sys2Proof.Machine.execMxsp g t a s
  | .nbgrid g gid a => Sys2Proof.Machine.execNbgrid g gid a s
  | .nbbin g gid a b => Sys2Proof.Machine.execNbbin g gid a b s
  | .nbpair g gid a b => Sys2Proof.Machine.execNbpair g gid a b s
  | .nbPairRecord r => Sys2Proof.Machine.execNbPairRecord r s
  | .nbStreamEnd r => Sys2Proof.Machine.execNbStreamEnd r s
  | .nbstat g gid d => Sys2Proof.Machine.execNbstat g gid d s
  | .nbmove g gid d b c => Sys2Proof.Machine.execNbmove g gid d b c s
  | .nbclr g gid => Sys2Proof.Machine.execNbclr g gid s
  | .nbOpComplete op => Sys2Proof.Machine.execNbOpComplete op s
  | .trap g n => Sys2Proof.Machine.execTrap g n s
  | .tret g => Sys2Proof.Machine.execTret g s
  | .tclr g m => Sys2Proof.Machine.execTclr g m s
  | .hold g => Sys2Proof.Machine.execHold g s
  | .ebrk g n => Sys2Proof.Machine.execEbrk g n s
  | .sysrd g d item => Sys2Proof.Machine.execSysrd g d item s
  | .syswr g r a => Sys2Proof.Machine.execSyswr g r a s
  | .prmark g imm => Sys2Proof.Machine.execPrmark g imm s
  | .smpl g a n => Sys2Proof.Machine.execSmpl g a n s
  | .csave g a => Sys2Proof.Machine.execCsave g a s
  | .crest g a => Sys2Proof.Machine.execCrest g a s
  | .clauseStart r sl => Sys2Proof.Machine.execClauseStart r sl s
  | .breakBitHit r sl => Sys2Proof.Machine.execBreakBitHit r sl s
  | .sleepExpire r sl => Sys2Proof.Machine.execSleepExpire r sl s
  | .ageingSwap r => Sys2Proof.Machine.execAgeingSwap r s
  | .rtakeGrant r sl => Sys2Proof.Machine.execRtakeGrant r sl s
  | .translationReplay r sl => Sys2Proof.Machine.execTranslationReplay r sl s
  | .walkComplete die asid vpn k => Sys2Proof.Machine.execWalkComplete die asid vpn k s
  | .commit die asid vpn q => Sys2Proof.Machine.execCommit die asid vpn s q
  | .pgrspRetry iod die tag => Sys2Proof.Machine.execPgrspRetry iod die tag s
  | .pgrspDeny iod die tag => Sys2Proof.Machine.execPgrspDeny iod die tag s
  | .xlicInvalidatePages count => Sys2Proof.Machine.execXlicInvalidatePages count s
  | .xlicInvalidateAsid count => Sys2Proof.Machine.execXlicInvalidateAsid s count
  | .xlicInvalidateAll count => Sys2Proof.Machine.execXlicInvalidateAll s count
  | .invalidationComplete => Sys2Proof.Machine.execInvalidationComplete s
  | .poolpush die v => Sys2Proof.Machine.execPoolpush die v s
  | .l1DieGrant c wd => Sys2Proof.Machine.execL1DieGrant c wd s
  | .l1PackageGrant c wd val => Sys2Proof.Machine.execL1PackageGrant c wd val s
  | .l1Forward c wd dest => Sys2Proof.Machine.execL1Forward c wd dest s
  | .l1Revoke c wd dest => Sys2Proof.Machine.execL1Revoke c wd dest s
  | .l1Eviction c line => Sys2Proof.Machine.execL1Eviction c line s
  | .homeRead rd wd => Sys2Proof.Machine.execHomeRead rd wd s
  | .homeRegister p wd => Sys2Proof.Machine.execHomeRegister p wd s
  | .homeRegisterFetch p wd => Sys2Proof.Machine.execHomeRegisterFetch p wd s
  | .homeWriteBack p wd val => Sys2Proof.Machine.execHomeWriteBack p wd val s
  | .homeOwnerAnswer p wd val => Sys2Proof.Machine.execHomeOwnerAnswer p wd val s
  | .homePerformedAccess req => Sys2Proof.Machine.execHomePerformedAccess req s
  | .nonhomeRead c wd => Sys2Proof.Machine.execNonhomeRead c wd s
  | .nonhomeRegistration c wd fetch => Sys2Proof.Machine.execNonhomeRegistration c wd fetch s
  | .nonhomePackageGrant die wd val => Sys2Proof.Machine.execNonhomePackageGrant die wd val s
  | .nonhomeForward die wd dest => Sys2Proof.Machine.execNonhomeForward die wd dest s
  | .nonhomeRevoke die wd => Sys2Proof.Machine.execNonhomeRevoke die wd s
  | .nonhomeWriteBack c wd val => Sys2Proof.Machine.execNonhomeWriteBack c wd val s
  | .promotion c r sl sc => Sys2Proof.Machine.execPromotion c r sl sc s
  | .lossNotice die => Sys2Proof.Machine.execLossNotice die s
  | .standbyHandBack die => Sys2Proof.Machine.execStandbyHandBack die s
  | .hostSnoop line k => Sys2Proof.Machine.execHostSnoop line k s
  | .backInvalidateResponse line => Sys2Proof.Machine.execBackInvalidateResponse line s
  | .hostCxlMemAccess req => Sys2Proof.Machine.execHostCxlMemAccess req s
  | .bar2Read a n => Sys2Proof.Machine.execBar2Read a n s
  | .bar2Write a bytes bad => Sys2Proof.Machine.execBar2Write a bytes s bad
  | .patrolScrub pa found => Sys2Proof.Machine.execPatrolScrub pa found s
  | .widxWrite q v => Sys2Proof.Machine.execWidxWrite q v s
  | .qpush q v => Sys2Proof.Machine.execQpush q v s
  | .slotFetch q => Sys2Proof.Machine.execSlotFetch q s
  | .launchReady lid => Sys2Proof.Machine.execLaunchReady lid s
  | .schedulerRound => Sys2Proof.Machine.execSchedulerRound s
  | .schedulerRoundTimer => Sys2Proof.Machine.execSchedulerRoundTimer s
  | .levelComplete lvl cmd => Sys2Proof.Machine.execLevelComplete lvl cmd s
  | .neighbourCommand cmd => Sys2Proof.Machine.execNeighbourCommand cmd s
  | .dmaCopy cmd => Sys2Proof.Machine.execDmaCopy cmd s
  | .dmaFill cmd => Sys2Proof.Machine.execDmaFill cmd s
  | .dmaRdmaWrite cmd => Sys2Proof.Machine.execDmaRdmaWrite cmd s
  | .dmaRdmaRead cmd bytes bad => Sys2Proof.Machine.execDmaRdmaRead cmd bytes s bad
  | .dmaSend cmd => Sys2Proof.Machine.execDmaSend cmd s
  | .dmaComplete cmd code => Sys2Proof.Machine.execDmaComplete cmd code s
  | .stealRequest lid victim thief => Sys2Proof.Machine.execStealRequest lid victim thief s
  | .stolenItemReturn lid pusher item => Sys2Proof.Machine.execStolenItemReturn lid pusher item s
  | .haltReceive r => Sys2Proof.Machine.execHaltReceive r s
  | .handlerEntry r => Sys2Proof.Machine.execHandlerEntry r s
  | .cancLaunch queue idx => Sys2Proof.Machine.execCancLaunch queue idx s
  | .cancGraph id asid => Sys2Proof.Machine.execCancGraph id asid s
  | .cancPhase id asid => Sys2Proof.Machine.execCancPhase id asid s
  | .cancJob id asid => Sys2Proof.Machine.execCancJob id asid s
  | .preqVacate v => Sys2Proof.Machine.execPreqVacate v s
  | .prel v => Sys2Proof.Machine.execPrel v s
  | .dlack iod v => Sys2Proof.Machine.execDlack iod v s
  | .nmctlEnable die => Sys2Proof.Machine.execNmctlEnable die s
  | .hwArm iod x1 => Sys2Proof.Machine.execHwArm iod x1 s
  | .diectlReset v => Sys2Proof.Machine.execDiectlReset v s
  | .diectlRetry v => Sys2Proof.Machine.execDiectlRetry v s
  | .powerOn => Sys2Proof.Machine.execPowerOn s
  | .moduleReset => Sys2Proof.Machine.execModuleReset s
  | .attestation stop ok => Sys2Proof.Machine.execAttestation stop ok s
  | .linkKeyInstall link up => Sys2Proof.Machine.execLinkKeyInstall link up s
  | .keyRollover link up => Sys2Proof.Machine.execKeyRollover link up s
  | .ringFlitReceive link up f => Sys2Proof.Machine.execRingFlitReceive link up f s
  | .linkRestore link => Sys2Proof.Machine.execLinkRestore link s
  | .hostSpdmRequest nonce => Sys2Proof.Machine.execHostSpdmRequest nonce s
  | .dbghalt die v => Sys2Proof.Machine.execDbghalt die v s
  | .dbgrelResume die core => Sys2Proof.Machine.execDbgrelResume die core s
  | .dbgrelKill die core => Sys2Proof.Machine.execDbgrelKill die core s
  | .holdLimitExpire => Sys2Proof.Machine.execHoldLimitExpire s
  | .rodWindowWrite die off bytes => Sys2Proof.Machine.execRodWindowWrite die off bytes s
  | .brksync => Sys2Proof.Machine.execBrksync s
  | .perfctlClear die => Sys2Proof.Machine.execPerfctlClear die s
  | .perfctlSnapshot die => Sys2Proof.Machine.execPerfctlSnapshot die s
  | .pcSample => Sys2Proof.Machine.execPcSample s
  | .registerWrite r x1 v => Sys2Proof.Machine.execRegisterWrite r x1 v s
  | .stampScrubber l2 c line => Sys2Proof.Machine.execStampScrubber l2 c line s
  | .peerRdmaRequest q req => Sys2Proof.Machine.execPeerRdmaRequest q req s

end Sys2Proof.Machine
end

