-- ==== Sys2Proof/Machine/Select.lean ====
section
/-!
DEFINITION. What the package does next: a message under way, an event from outside, an action of the hardware, or the next instruction
of a (rod, slot) pair in round-robin order (R155); what a cycle brings and counts (R73, R394, R442, R444, R445); and the placing of one
instruction for the host's question.
-/
namespace Sys2Proof.Machine

/-! ### What the hardware can do -/

/-- What an operation of an engine can do next. -/
def State.opNext (s : State) (n : Nat) (o : Op) : Option Instr :=
  match s.chain o.rod.chain with
  | none => none
  | some ch =>
    if o.susp || !ch.here then none
    else
      match o.kind with
      | .copy c => match c.lines with
        | [] => some (.copyComplete n)
        | l :: _ => if ch.full l = c.out then some (.copyLineLand n l) else none
      | .mx m => if s.mxBlocked n o m then none else if m.stepsLeft then some (.mxKStep n) else some (.mxOpComplete n)
      | .gather _ => some (.gatherRowArrive n)
      | .nb die gid k => match k with
        | .pair _ =>
          if s.streamDry o.rod then some (.nbStreamEnd o.rod)
          else if ((s.rod o.rod).map (fun x => x.stream.queue.length)).getD 0 < Config.pairRecords then some (.nbPairRecord o.rod)
          else none
        | _ => if s.nbBlocked n die gid then none else some (.nbOpComplete n)
      | .table .. => some (.tblldComplete n)
      | .free (some req) ws ops => if s.mayPush o.rod ws ops then some (.homePerformedAccess req) else none
      | _ => none

/-- What a command whose turn has come does (R392, R393, R426); a suspended one does nothing (R32). -/
def State.cmdNext (s : State) (n : Nat) (c : Cmd) : Option Instr :=
  if c.susp then none else
  match c.kind with
  | .launch _ => if s.launchable c then some (.launchReady n) else none
  | .neighbour _ => if s.cmdTurn c then some (.neighbourCommand n) else none
  | .dma p =>
    if c.state ≠ .fetched ∨ ¬ s.cmdTurn c ∨ (s.engineFor c).isNone then none
    else
      match p.op with
      | 0 => some (.dmaCopy n)
      | 1 => some (.dmaFill n)
      | 2 => some (.dmaRdmaWrite n)
      | 4 => some (.dmaSend n)
      | _ => none
  | .none => none

/-- The host has still to answer for a page of the rod's handler (R29, R403). -/
def State.handlerAwaits (s : State) (r : RodId) : Bool :=
  match s.packet (s.launchOf r) with
  | some p =>
    let a := p.handler.toNat
    (s.die (s.coreOf r).die).reqs.any (fun q => q.asid == s.asidOf r && q.kind == 3 &&
      (q.vpn == a / 65536 || q.vpn == (a + 256) / 65536))
  | none => false

/-- A rod whose handler entry is due (R403). -/
def State.entryNext (s : State) (k : Nat) (x : Rod) : Option Instr :=
  let r := rodOfKey k
  if x.run = .halted ∧ x.frozen = false ∧ s.cancelledFor r = false ∧ ((s.chain r.chain).map (fun c => c.state == .resident)).getD false = true ∧
      s.handlerAwaits r = false then some (.handlerEntry r) else none

/-- What is taken up: an instruction or an event, the ageing swap of a rod (R163), or what the root and the engines do on their own; the meaning
is that of its row. -/
inductive Turn where
  | instr (i : Instr)
  | ageing (r : RodId)
  | own (w : OwnWork)
  deriving DecidableEq, Repr

/-- The steps that the hardware can make now. -/
def State.hardwareSteps (s : State) : List Instr :=
  (if s.resetEnds then [.powerOn] else []) ++ (if s.expired.isSome then [.holdLimitExpire] else []) ++
  (if s.roundDue || s.saveDue then [.schedulerRound] else []) ++ (if s.lastRound + 4096 ≤ s.cycle then [.schedulerRoundTimer] else []) ++
  s.queues.keys.filterMap (fun q => if s.canFetch q then some (.slotFetch q) else none) ++
  s.cmds.filterMap (fun (e : Nat × Cmd) => s.cmdNext e.1 e.2) ++
  s.ops.filterMap (fun (e : Nat × Op) => s.opNext e.1 e.2) ++
  s.rods.filterMap (fun (e : Nat × Rod) => s.entryNext e.1 e.2)

/-- The wakes that the counter units have to send: to a rod that could go on, one at a time (R326, R413). -/
def State.seqWakes (s : State) : List OwnWork :=
  s.rods.flatMap (fun (e : Nat × Rod) => [SlotId.a, SlotId.b].filterMap (fun sl =>
    let r := rodOfKey e.1
    match (e.2.slot sl).bind (·.wait) with
    | some (.seqwt pa thr) =>
      if s.canIssue r e.2 ∧ s.seqReached pa thr ∧ s.under.contains (.seqwtWake r sl) = false then some (.seqWake r sl (stopOf (s.homeDie pa))) else none
    | _ => none))

/-- Everything the hardware can do now. -/
def State.hardware (s : State) : List Turn := s.hardwareSteps.map Turn.instr ++ (s.rootWork ++ s.readAsks ++ s.seqWakes).map Turn.own

/-! ### What a (rod, slot) pair does next (R155) -/

/-- The instruction a slot stands at. -/
def Slot.instr (y : Slot) : Option Instr :=
  match y.word with
  | none => none
  | some w => match decode w with
    | .ok i => some i
    | .error _ => none

/-- What a waiting slot does when its wait may be over. -/
def State.waitNext (s : State) (r : RodId) (sl : SlotId) (y : Slot) (w : Wait) : Option Instr :=
  match w with
  | .flags _ => if y.started.isSome then y.instr else some (.clauseStart r sl)
  | .fullEmpty ls got => if (if got.isEmpty then ls.all s.lineMet else s.partMet ls) then some (.fullEmptyRelease r sl) else none
  | .rtake => some (.rtakeGrant r sl)
  | .sleep til => if til ≤ s.cycle then some (.sleepExpire r sl) else none
  | .waitany [] _ => y.instr
  | .waitany _ til => match til with
    | some t => if t ≤ s.cycle then some (.waitanyTimeout r sl) else none
    | none => none
  | .barrier b phase => if (s.bar b).holds phase then none else y.instr
  | .translation | .take | .promotion | .promoted _ _ | .turn | .seqwt _ _ => none
  | .memory | .ops | .matrix | .copy | .neighbour | .control | .rgive | .rendezvous => if y.started.isSome then y.instr else some (.clauseStart r sl)

/-- What a pair does next, if it can do anything. -/
def State.pairNext (s : State) (r : RodId) (sl : SlotId) : Option Turn :=
  match s.rod r with
  | none => none
  | some x =>
    match x.slot sl with
    | none => none
    | some y =>
      if x.frozen || y.stopped || x.run == .halted || !((s.chain r.chain).map Chain.here).getD false then none
      else if s.windingUp r x then
        (if y.started.isSome ∧ y.wait.isNone then (if y.breaks then some (.instr (.breakBitHit r sl)) else y.instr.map .instr) else none)
      else if x.suspended then none
      else if (x.overdue s.cycle).isSome ∧ x.swapSlot = some sl then some (.ageing r)
      else
        match y.wait with
        | some w => (s.waitNext r sl y w).map .instr
        | none =>
          if y.started.isNone then some (.instr (.clauseStart r sl))
          else if y.breaks then some (.instr (.breakBitHit r sl))
          else y.instr.map .instr

/-- A slot that forgoes its turn (R258) has had it. -/
def State.forgo (s : State) (p : RodId × SlotId) : State :=
  s.modRod p.1 (fun x => match x.slot p.2 with
    | some y => if y.wait = some .turn ∧ x.frozen = false then x.setSlot p.2 (some { y with wait := none }) else x
    | none => x)

/-- The first of a list of pairs that can do something. -/
def State.firstPair (s : State) : List (RodId × SlotId) → Option (Turn × (RodId × SlotId)) × State
  | [] => (none, s)
  | p :: rest =>
    match s.pairNext p.1 p.2 with
    | some i => (some (i, p), s)
    | none => (s.forgo p).firstPair rest

/-! ### What the links and the host bring -/

/-- The twenty link directions, from one on. -/
def linkOrder (first : Nat) : List (Nat × Bool) := (List.range 20).map (fun i => ((first + i) % 20 / 2, (first + i) % 2 == 0))

/-- Words that an event from outside reads or writes at home as one step, and must find with nothing under way (R91, R100, R112): a range of
bytes, and whether it is written. -/
def State.inputRange (s : State) (i : Instr) : Option (Nat × Nat × Bool) :=
  match i with
  | .hostSnoop line _ => some (128 * line, 128, false)
  | .poolpush die v => match s.poolTake die v with
    | .error (pa, n) => some (pa, n, true)
    | .ok _ => none
  | .qpush q _ => let x := s.queue q; if x.dev ∧ x.holds < 2 ^ x.log2 then some (x.slotAt x.widx, 8, true) else none
  | _ => none

/-- The step can take an event from outside up. -/
def State.inputReady (s : State) (i : Instr) : Bool :=
  match i with
  | .hostCxlMemAccess req => req.accs.all (fun a => s.canGet (ioStop ((s.ioOf a.pa).getD 0)) a.pa a.size)
  | .bar2Read a n => !s.inBar2 a n || s.canGet (ioStop a.io) (bar2At a) n
  | .bar2Write a bytes _ => !s.inBar2 a bytes.length || s.canPut (ioStop a.io) (bar2At a) bytes.length
  | .peerRdmaRequest q req => !s.qps.contains q || s.peerReady q req
  | i => match s.inputRange i with
    | some (pa, n, true) => s.writable pa n
    | some (pa, n, false) => s.readable pa n
    | none => true

/-- The host's answer to a snoop, which nothing holds up (R112). -/
def hostAnswer : Instr → Bool
  | .backInvalidateResponse _ => true
  | _ => false

/-- The event from outside that the step can take up: the oldest, or while that waits the host's answer to a snoop. -/
def State.inputDue (s : State) : Option Nat :=
  match s.inputs with
  | [] => none
  | i :: _ => if s.inputReady i then some 0 else s.inputs.findIdx? hostAnswer

/-- While the oldest event from outside waits to write, the host is asked for the lines that it may hold (R112). -/
def State.inputAsks (s : State) : State :=
  match s.inputs with
  | [] => s
  | .bar2Write a bytes _ :: _ => if s.inBar2 a bytes.length then s.clearWay (bar2At a) bytes.length else s
  | .peerRdmaRequest q req :: _ => if s.qps.contains q then s.clearWay (peerRange req).1 (peerRange req).2 else s
  | i :: _ => match s.inputRange i with
    | some (pa, n, true) => s.clearWay pa n
    | _ => s

/-! ### The choice -/

/-- A step taken up: what is done, the state in which it is done, and the pair whose turn it is. -/
structure Pick where
  turn  : Turn
  state : State
  pair  : Option (RodId × SlotId)
  deriving DecidableEq, Repr

/-- A flit that can cross a link (R413). -/
def State.pickFlit (s : State) : Option Pick :=
  ((linkOrder (s.cycle / 8 % 20)).findSome? (fun l => s.goodFlit l.1 l.2)).map (fun i => ⟨.instr i, { s with cur := none }, none⟩)

/-- A message for a word whose home, or owner, is being lost waits for the loss notice (R106, R109). -/
def State.onHold (s : State) (m : Instr) : Bool :=
  match m with
  | .homeRead _ wd => s.losing wd
  | .homePerformedAccess r => r.words.any s.losing
  | m => (m.settles.map s.losing).getD false

/-- A message on a die. -/
def State.pickLocal (s : State) : Option Pick :=
  (s.inflight.findIdx? (fun m => !s.onHold m)).bind (fun k =>
    (s.inflight[k]?).map (fun i => ⟨.instr i, { s with inflight := s.inflight.eraseIdx k, cur := none }, none⟩))

/-- A message on a die and a flit on the ring have the first call in turn. -/
def State.pickMessage (s : State) : Option Pick :=
  if s.cycle / 4 % 2 = 0 then s.pickLocal <|> s.pickFlit else s.pickFlit <|> s.pickLocal

def State.pickInput (s : State) : Option Pick :=
  s.inputDue.bind (fun k => (s.inputs[k]?).map (fun i => ⟨.instr i, { s with inputs := s.inputs.eraseIdx k, cur := none }, none⟩))

def State.pickHardware (s : State) : Option Pick :=
  match s.hardware with
  | [] => none
  | i :: rest => some ⟨(i :: rest).getD (s.cycle / 4 % (rest.length + 1)) i, { s with cur := none }, none⟩

def State.pickPair (s : State) : Option Pick :=
  match s.firstPair s.order with
  | (some (i, p), s) => some ⟨i, { s with cur := some p, rr := pairKey p + 1 }, some p⟩
  | (none, _) => none

/-- PC samples are taken before anything else in their cycle (R447). -/
def State.pickUrgent (s : State) : Option Pick :=
  if (List.range 8).any s.sampleDue then some ⟨.instr .pcSample, { s with cur := none }, none⟩ else none

/-- The next step: each of the four kinds has the first call in one cycle of four. -/
def State.select (s : State) : Option Pick :=
  s.pickUrgent <|>
  match s.cycle % 4 with
  | 0 => s.pickPair <|> s.pickMessage <|> s.pickInput <|> s.pickHardware
  | 1 => s.pickMessage <|> s.pickInput <|> s.pickHardware <|> s.pickPair
  | 2 => s.pickInput <|> s.pickHardware <|> s.pickPair <|> s.pickMessage
  | _ => s.pickHardware <|> s.pickPair <|> s.pickMessage <|> s.pickInput

/-- With nothing to do, the turns forgone are still used up. -/
def State.idle (s : State) : State := (s.firstPair s.order).2

/-! ### What a cycle brings: soft errors (R73 to R79) -/

/-- Words of a range in memory are poisoned. -/
def State.poisonWords (s : State) (ws : List Nat) : State := ws.foldl (fun s wd => s.setPoison wd true) s

/-- Words in the slice of a die are poisoned: what it holds for their home, or its copies (R75). -/
def State.poisonSlice (s : State) (d : Nat) (ws : List Nat) : State :=
  ws.foldl (fun s wd =>
    if s.homes d (lineOf wd) then (match s.homeOf wd with | none => s.setPoison wd true | some _ => s)
    else
      let x := (s.die d).l2Word wd
      if x.st = .v then s.setDie d ((s.die d).setL2 wd { x with bad := true }) else s) s

/-- Where a soft error is found: the ring stop of the die that records it, and its domain, core and address (R79). -/
def State.foundAt (s : State) (p : UpsetAt) : Nat × Nat × Nat × Nat :=
  match p with
  | .reg r _ addr => (stopOf (s.coreOf r).die, 0, (s.coreOf r).core, addr)
  | .scratch c off => let k := s.coreOf ⟨c, 0⟩; (stopOf k.die, 1, k.core, ((s.chain c).map (·.scrBase)).getD 0 + off)
  | .l1 c wd => (stopOf c.die, 2, c.core, 4 * wd)
  | .l2 d wd => (stopOf d, 3, 0, wd / 4 * 16)
  | .tag d line => (stopOf d, 3, 0, 128 * line)
  | .ring stop pa => (stop, 4, 0, pa / 64 * 64)
  | .mem pa => match region pa with
    | .near d => (stopOf d, 5, 0, pa / 8 * 8)
    | .far io => (if io = 0 then 4 else 9, 6, 0, pa / 8 * 8)
    | .host io => (if io = 0 then 4 else 9, 7, 0, pa / 8 * 8)
    | _ => (4, 7, 0, pa / 8 * 8)
  | .link io pa => (if io = 0 then 4 else 9, 7, 0, pa / 64 * 64)

/-- An uncorrectable error poisons every word of its granule (R75), that of an L2 tag the line (log 55); one on the way poisons what it strikes there
(`State.flawed`). -/
def State.spoil (s : State) (p : UpsetAt) : State :=
  match p with
  | .reg r key _ => s.modRod r (fun x => { x with regBad := insertNat key x.regBad })
  | .scratch c off => match s.chain c with
    | some y => s.setChain c { y with scrBad := insertNat (off / 8 * 2) (insertNat (off / 8 * 2 + 1) y.scrBad) }
    | none => s
  | .l1 c wd => let k := s.core c; if (k.l1Word wd).st = .i then s else s.setCore c (k.setL1 wd { k.l1Word wd with bad := true })
  | .l2 d wd => s.poisonSlice d ((List.range 4).map (wd / 4 * 4 + ·))
  | .tag d line => s.poisonSlice d (lineWords line)
  | .ring _ _ | .link _ _ => s
  | .mem pa => s.poisonWords (wordsOf (pa / 8 * 8) 8)

/-- A check finds a soft error (R74, R75, R79): it is corrected and counted, or poisons its granule and is recorded. -/
def State.strike (s : State) (u : Upset) : State :=
  let e := s.foundAt u.place
  if u.fixed then s.countFixed e.1 else (s.spoil u.place).recordAt e.1 e.2.1 e.2.2.1 e.2.2.2

/-- The soft errors whose cycle has come; one of the ring or of a host link waits there for a transfer to strike (R74). -/
def State.upsetsDue (s : State) : State :=
  (s.upsets.filter (fun u => decide (u.cycle ≤ s.cycle) && !u.onWay)).foldl State.strike
    { s with upsets := s.upsets.filter (fun u => decide (s.cycle < u.cycle) || u.onWay) }

/-! ### What a cycle counts -/

/-- Cycles of residence in units of 1/840 (R394). -/
def State.chargeAll (s : State) : State :=
  { s with chains := s.chains.map (fun (e : Nat × Chain) =>
      if e.2.here then (e.1, { e.2 with charge := e.2.charge + 840 / (s.residents e.2.core).length }) else e) }

/-- The hold timers of attended cores stand still (R442). -/
def State.holdTimers (s : State) : State :=
  { s with cores := s.cores.map (fun (e : Nat × Core) =>
      let c := coreOfKey e.1
      if (s.die c.die).attach.getLsbD c.core then (e.1, { e.2 with holdEnd := e.2.holdEnd.map (· + 1) }) else e) }

/-- A cycle passes. -/
def State.tick (s : State) : State := (({ s with cycle := s.cycle + 1 }.upsetsDue.inputAsks.checkLate).chargeAll).holdTimers

/-- The cores of which some quadrant counts another leaf than 19. -/
def State.busyCores (s : State) : List CoreId :=
  ((s.cores.filter (fun (e : Nat × Core) => e.2.isHeld || e.2.vacated)).map (fun e => coreOfKey e.1) ++
    (s.chains.filter (fun (e : Nat × Chain) => e.2.here)).map (fun e => e.2.core)).eraseDups

/-- The leaf of an instruction that has issued (R444). -/
def issueLeaf (i : Instr) (part : Mask) : Nat := if part = 0 then 6 else i.cls.code.toNat

/-- The guard of an instruction. -/
def guardOf (w : DWord) : Guard :=
  match decGuard w with
  | .ok g => g
  | .error _ => { q := 0, c := .always }

/-- The quadrant and leaf of an instruction that has issued in a step: its slot no longer stands waiting at it. -/
def issuedIn (p : Pick) (after : State) : Option (CoreId × Nat × Nat) :=
  match p.pair with
  | none => none
  | some (r, sl) =>
    match (p.state.rod r).bind (fun x => (x.slot sl).map (fun y => (x, y))) with
    | none => none
    | some (x, y) =>
      if y.instr.map Turn.instr ≠ some p.turn then none
      else
        let waits := match (after.rod r).bind (·.slot sl) with
          | some z => z.wait.isSome && z.path == y.path
          | none => false
        if waits then none
        else
          let i : Iss := { rid := r, sl := sl, rod := x, slot := y }
          y.instr.map (fun e => (p.state.coreOf r, quadOf r, issueLeaf e (i.part (guardOf (y.word.getD 0)))))

/-- Every quadrant counts the cycle in one leaf (R444, R445). -/
def State.count (s : State) (issued : Option (CoreId × Nat × Nat)) : State :=
  let s := { s with counted := s.counted + 1 }
  s.busyCores.foldl (fun (s : State) c => (List.range 4).foldl (fun (s : State) q =>
    let idle := s.idleLeaf c q
    let leaf := match issued with
      | some (k, n, f) => if k = c ∧ n = q ∧ idle < 20 then f else idle
      | none => idle
    if leaf = 19 then s
    else
      let x := s.die c.die
      let k := leafKey c.core q leaf
      s.setDie c.die { x with leaves := x.leaves.set k (x.leaves.get k 0 + 1) 0 }) s) s

/-! ### Placing one instruction -/

/-- The packet of a launch of one rod with the whole window and a pool, entered at address 0. -/
def Packet.probe : Packet := { Packet.ofNat' 0 with chains := 1, nrod := 1, furl := 1, window := 256, depth := 16, scr := 1 }

/-- s with one word as the started clause of a rod of its own, the last in round-robin order and the next to be served. -/
def State.place1 (s : State) (w : DWord) : State :=
  let lid := s.nextId
  let fid := s.nextId + 1
  let cid := s.nextId + 2
  let p := Packet.probe
  let c : Chain :=
    { launch := lid, num := 0, core := ⟨0, 0⟩, furlong := fid, fchn := 0, nrod := 1, pool := [], rtakeQ := [], scrBase := 0, scrSize := Config.scrUnit,
      units := [], scr := [], scrBad := [], fe := [], bars := [], accBase := 0, accUnits := 0, acc := [], tiles := [], latches := [], resumes := 0,
      state := .resident, charge := 0, recvBy := none }
  let clause : Clause := { count := 1, a := none, b := none, body := [w], brk := [false] }
  let x := Rod.start p 0 0 s.cycle
  let x := { x with slotA := x.slotA.map (fun y => { y with started := some clause }) }
  let cmd := { Cmd.fresh 0 0 0 0 0 (.launch p) false with state := .running, live := [cid], nextChain := 1 }
  { s with
    cycle := s.cycle / 4 * 4 + 3, nextId := s.nextId + 3, inflight := [], rr := pairKey (⟨cid, 0⟩, .a), rods := s.rods.put (rodKey ⟨cid, 0⟩) x,
    chains := s.chains.put cid c, cmds := s.cmds.put lid cmd,
    furlongs := s.furlongs.put fid { launch := lid, first := 0, size := 1, dieLo := 0, dieHi := 0, bars := [] },
    dies := s.dies.map (fun (e : Nat × Die) => (e.1, { e.2 with smpctl := e.2.smpctl &&& 0x7FFFFFFFFFFFFFFF })) }

end Sys2Proof.Machine
end

