-- ==== Sys2Proof/Machine/Step.lean ====
section
/-!
DEFINITION. One step of the package, and the placing of one instruction where the next step takes it up.
-/
namespace Sys2Proof.Machine

/-- The meaning of a turn (R163, R415 to R421, R426). -/
def Turn.run (t : Turn) (s : State) : Host.Outcome State Fault Refusal :=
  match t with
  | .instr i => exec i s
  | .ageing r => execAgeingSwap r s
  | .own w => w.run s

/-- One step: a cycle passes, what the package does next is done, and every quadrant counts the cycle; with nothing to do only the cycle
passes. -/
def step (s : State) : Host.Outcome State Fault Refusal :=
  match s.tick.select with
  | some p =>
    match p.turn.run p.state with
    | .next t => .next (t.count (issuedIn p t))
    | .fault f => .fault f
    | .refused r => .refused r
  | none => .next (s.tick.idle.count none)

/-- s with one instruction as the next that a step takes up (log 20). -/
def State.withFetchWord (s : State) (_nbits w : Nat) : State := s.place1 (BitVec.ofNat 64 w)

end Sys2Proof.Machine
end

