-- ==== Sys2Proof/Safety.lean ====
section
/-!
DEFINITION. What counts as a safe run, and the words in which statements say what a step leaves alone.
-/
namespace Sys2Proof.Safety

open Sys2Proof.Machine

/-- A step from s answers a next state. -/
def Goes (s : State) : Prop := ∃ t, step s = .next t

/-- Every one of n steps from s answers a next state. -/
def SafeFor : Nat → State → Prop
  | 0, _ => True
  | n + 1, s => ∃ t, step s = .next t ∧ SafeFor n t

/-! ### Frames -/

/-- y is x but for where its paths stand and how far it runs: the slots, the divergence stack, the slot that issued last, the SKID
count, the run state and the denials its access has taken. -/
def RodMoved (x y : Rod) : Prop :=
  { y with slotA := x.slotA, slotB := x.slotB, stack := x.stack, lastSlot := x.lastSlot, skid := x.skid, run := x.run,
           denied := x.denied } = x

/-- Nothing but rod r differs between s and t, and at most the due handler entry of r is added to the messages under way. -/
def OnlyRod (r : RodId) (s t : State) : Prop :=
  { t with rods := s.rods, inflight := s.inflight } = s ∧
  (t.inflight = s.inflight ∨ t.inflight = s.inflight ++ [.handlerEntry r]) ∧
  ∀ k, k ≠ rodKey r → t.rods.find k = s.rods.find k

/-- The step from s is a next state t in which the issuing rod is y, nothing else has changed, and y is z but for where its paths
stand: the instruction has completed with z as what it makes of the rod. -/
def Completes (out : Host.Outcome State Fault Refusal) (s : State) (r : RodId) (z : Rod) : Prop :=
  ∃ t y, out = .next t ∧ OnlyRod r s t ∧ t.rod r = some y ∧ RodMoved z y

/-- The issuing rod waits: its slot takes the wait and nothing else of the rod but its halting changes. -/
def Waits (out : Host.Outcome State Fault Refusal) (s : State) (i : Iss) (w : Wait) : Prop :=
  ∃ t y, out = .next t ∧ OnlyRod i.rid s t ∧ t.rod i.rid = some y ∧ y.slot i.sl = some { i.slot with wait := some w } ∧
    y.slot i.sl.other = i.rod.slot i.sl.other ∧
    { y with slotA := i.rod.slotA, slotB := i.rod.slotB, lastSlot := i.rod.lastSlot, skid := i.rod.skid, run := i.rod.run } = i.rod

/-! ### Operands and results of statements -/

/-- No operand of a list is a port. -/
def noPorts (os : List (Operand × Nat)) : Bool := os.all (fun o => match o.1 with | .port _ => false | _ => true)

/-- A lane word or a uniform register. -/
def isReg (d : Operand) : Bool := d.isW || d.isS

/-- i is the issuing pair, every lane-word operand with its words lies in its window (R154), no source is a port and no register of the
rod has an error (R76). -/
abbrev Ready (s : State) (i : Iss) (ds srcs : List (Operand × Nat)) : Prop :=
  s.issuer = some i ∧ (ds ++ srcs).all (fun o => inWindow i.rod o.1 o.2) = true ∧ noPorts (ds ++ srcs) = true ∧ i.rod.regBad = []

/-- The sources of an instruction as its participating lanes read them, with no port among them. -/
def srcs (s : State) (i : Iss) (g : Guard) (m : Option SrcMod) : Ctx :=
  { s := s, i := i, g := i.part g, m := m, port := fun _ _ => 0, old := s }

/-- A rod with an integer result written (R216, R231): per lane of p to a lane word, once to a uniform register with the sources of
the lowest lane of p, and nothing when p is empty. -/
def writeInt (x : Rod) (p : Mask) (d : Operand) (f : (n : Nat) → Nat → BitVec n) : Rod :=
  match d with
  | .w k => x.setLws p k.toNat (fun l => f 32 l)
  | .s k => if p = 0 then x else x.setUn k.toNat (f 64 (lowest p))
  | _ => x

end Sys2Proof.Safety
end

