-- ==== Sys2Proof/Certificates/Slice0/Obligations.lean ====
section
/-!
DEFINITION. What is claimed of the model: statements for the provers, one definition each, with the words they share.
-/
namespace Sys2Proof.Claims

open Sys2Proof.Machine Sys2Proof.Safety

/-! ### Group 0 -/

/-- A two-source integer instruction: its constructor, whether its Ext column says s, and its result at width n. -/
structure Int2 where
  con : Guard → Operand → Operand → Operand → Option SrcMod → Instr
  sgn : Bool
  f   : (n : Nat) → BitVec n → BitVec n → BitVec n

/-- The two-source rows of R234, with the results that R234 to R237 give. -/
def int2Rows : List Int2 :=
  [⟨.add, true, fun n a b => BitVec.ofInt n (a.toInt + b.toInt)⟩,
   ⟨.sub, true, fun n a b => BitVec.ofInt n (a.toInt - b.toInt)⟩,
   ⟨.mul, true, fun n a b => BitVec.ofInt n (a.toInt * b.toInt)⟩,
   ⟨.mulh, true, fun n a b => BitVec.ofInt n (a.toInt * b.toInt / 2 ^ n)⟩,
   ⟨.mulhn, false, fun n a b => BitVec.ofNat n (a.toNat * b.toNat / 2 ^ n)⟩,
   ⟨.min, true, fun _ a b => if a.toInt < b.toInt then a else b⟩,
   ⟨.max, true, fun _ a b => if a.toInt < b.toInt then b else a⟩,
   ⟨.minn, false, fun _ a b => if a.toNat < b.toNat then a else b⟩,
   ⟨.maxn, false, fun _ a b => if a.toNat < b.toNat then b else a⟩,
   ⟨.and, false, fun _ a b => a &&& b⟩,
   ⟨.or, false, fun _ a b => a ||| b⟩,
   ⟨.xor, false, fun _ a b => a ^^^ b⟩,
   ⟨.andn, false, fun _ a b => a &&& ~~~b⟩] ++
  [⟨.div, true, aluDiv⟩,
   ⟨.divn, false, aluDivn⟩,
   ⟨.rem, true, aluRem⟩,
   ⟨.remn, false, aluRemn⟩,
   ⟨.shl, false, fun _ a b => a <<< (b.toNat % 256)⟩,
   ⟨.shr, false, fun _ a b => a >>> (b.toNat % 256)⟩,
   ⟨.sar, true, fun _ a b => a.sshiftRight (b.toNat % 256)⟩,
   ⟨.rol, false, fun _ a b => a.rotateLeft (b.toNat % 256)⟩,
   ⟨.bfx, true, aluBfx⟩,
   ⟨.bfxn, false, aluBfxn⟩]

/-- A one-source integer instruction. -/
structure Int1 where
  con : Guard → Operand → Operand → Option SrcMod → Instr
  sgn : Bool
  f   : (n : Nat) → BitVec n → BitVec n

/-- The one-source rows of R234. -/
def int1Rows : List Int1 :=
  [⟨.neg, true, fun n a => BitVec.ofInt n (-a.toInt)⟩,
   ⟨.abs, true, fun n a => BitVec.ofInt n (if a.toInt < 0 then -a.toInt else a.toInt)⟩,
   ⟨.not, false, fun _ a => ~~~a⟩,
   ⟨.popc, false, aluPopc⟩,
   ⟨.clz, false, aluClz⟩,
   ⟨.ctz, false, aluCtz⟩,
   ⟨.brev, false, fun _ a => a.reverse⟩,
   ⟨.mov, false, fun _ a => a⟩]

/-- A three-source integer instruction. -/
structure Int3 where
  con : Guard → Operand → Operand → Operand → Operand → Option SrcMod → Instr
  sgn : Bool
  f   : (n : Nat) → BitVec n → BitVec n → BitVec n → BitVec n

/-- The three-source rows of R234. -/
def int3Rows : List Int3 :=
  [⟨.mad, true, fun n a b c => BitVec.ofInt n (a.toInt * b.toInt + c.toInt)⟩,
   ⟨.madh, true, fun n a b c => BitVec.ofInt n ((a.toInt * b.toInt + c.toInt) / 2 ^ n)⟩,
   ⟨.bfi, false, aluBfi⟩]

/-- The widths of group 0 (R216). -/
abbrev isWidth (n : Nat) : Prop := n = 32 ∨ n = 64

/-- The value of `cvt` (R240) on a source of which st's low bits count. -/
def cvtValue (dt st : Ty) (sat : Bool) (v : DWord) : Int :=
  let x := asType st v.toNat
  if sat then (if x < (intRange dt).1 then (intRange dt).1 else if (intRange dt).2 < x then (intRange dt).2 else x)
  else asType dt (truncInt 64 x)

/-- The words that `rdx` reads and `wrx` writes for lane l (R245): base plus the lane's index register. -/
def relAt (x : Rod) (base : BitVec 8) (k : BitVec 2) (l : Nat) : Int := (base.toNat : Int) + (x.kreg k.toNat l).toInt

/-- The index of a lane is out of bounds or misaligned (R245). -/
def relOut (x : Rod) (base : BitVec 8) (k : BitVec 2) (n l : Nat) : Bool :=
  decide (relAt x base k l < 0) || decide ((x.window : Int) < relAt x base k l + n) || decide (relAt x base k l % n ≠ 0)

/-! ### Group 1, predicates -/

/-- A predicate instruction with two sources. -/
structure Pred2 where
  con : Guard → BitVec 4 → BitVec 4 → BitVec 4 → Instr
  f  : BitVec 2 → BitVec 2 → BitVec 2

def pred2Rows : List Pred2 := [⟨.qand, qAnd⟩, ⟨.qor, qOr⟩, ⟨.qxor, qXor⟩]

structure Pred1 where
  con : Guard → BitVec 4 → BitVec 4 → Instr
  f  : BitVec 2 → BitVec 2

def pred1Rows : List Pred1 := [⟨.qnot, qNot⟩, ⟨.qsure, qSure⟩, ⟨.qmaybe, qMaybe⟩, ⟨.qmov, qNorm⟩]

/-- The truth of an integer relation (R246). -/
def relHolds (r : CmpRel) (a b : Int) : Prop :=
  match r with
  | .eq => a = b
  | .ne => a ≠ b
  | .lt => a < b
  | .le => a ≤ b
  | .gt => b < a
  | .ge => b ≤ a

/-! ### Control -/

/-- The pair's path is the rod's only one: nothing on the stack, the other slot empty, no frame, no `sleep` or `yield` pending. -/
structure Lone (i : Iss) : Prop where
  stack : i.rod.stack = []
  frame : i.slot.path.frame = none
  other : i.rod.slot i.sl.other = none
  nap   : i.slot.napFor = none
  yield : i.slot.yields = false
  mask  : i.slot.path.mask ≠ 0

/-- A slot holds a path that stands at the start of the clause at pc, with no clause started and nothing waited for. -/
def At (y : Rod) (sl : SlotId) (pc : DWord) (m : Mask) (f : Option Nat) : Prop :=
  ∃ x, y.slot sl = some x ∧ x.started = none ∧ x.wait = none ∧ x.path.pc = pc ∧ x.path.idx = 0 ∧ x.path.mask = m ∧ x.path.frame = f

/-- Lane l runs next at the start of the clause at pc. -/
def LaneAt (y : Rod) (l : Nat) (pc : DWord) : Prop :=
  ∃ p : Path, p.mask.has l = true ∧ p.pc = pc ∧ p.idx = 0 ∧
    ((∃ sl x, y.slot sl = some x ∧ x.path = p) ∨ ∃ n, y.entry n = .path p)

/-- A step that leaves rod r as some y with the property. -/
def LeavesRod (out : Host.Outcome State Fault Refusal) (r : RodId) (P : Rod → Prop) : Prop :=
  ∃ t y, out = .next t ∧ t.rod r = some y ∧ P y

/-- The instruction has issued, and u is what it made of the state. -/
def Issues (out : Host.Outcome State Fault Refusal) (i : Iss) (P : State → Prop) : Prop :=
  ∃ u, out = .next (u.advance i.rid i.sl) ∧ P u

/-! ### Register claim and the work pool -/

/-- The value of an operand that acts once per rod. -/
def onceOf (s : State) (i : Iss) (g : Guard) (a : Operand) : Nat := ((srcs s i g none).d64 .a a (lowest (i.part g))).toNat

/-- The number of rods of a chain on the quadrant of a rod (R150). -/
def matesOf (ch : Chain) (r : RodId) : Nat := ((List.range ch.nrod).filter (fun k => k % 4 = quadOf r)).length

/-- A rod of a launch that has a pool, with its segment on the core, no steal request waiting in the die (R168, R172). -/
structure PoolReady (s : State) (i : Iss) (p : Packet) (cmd : Cmd) (seg : Segment) : Prop where
  hasCmd    : s.cmd (s.launchOf i.rid) = some cmd
  hasPacket : cmd.kind = .launch p
  hasPool   : p.poolK ≠ 0
  hasSeg    : cmd.segs.find (coreKey (s.coreOf i.rid)) = some seg
  noThief   : (s.die (s.coreOf i.rid).die).mailbox = []

/-! ### Groups 2 and 3 -/

/-- A rod with an interval result written in each lane of p (R180, R201, R271). -/
def writeIv (x : Rod) (p : Mask) (d : Operand) (v : View) (f : Nat → IvOut) : Rod :=
  ((lanes p).foldl (fun x l => x.setWords (wordNum d) l ((f l).pair.words v)) x).setIflags ((lanes p).foldl (fun a l => a ||| (f l).flags) 0)

/-- A rod with words written in each lane of p, and flags set. -/
def writeWords (x : Rod) (p : Mask) (d : Operand) (f : Nat → List Word) (fl : Nat → Word) : Rod :=
  ((lanes p).foldl (fun x l => x.setWords (wordNum d) l (f l)) x).setIflags ((lanes p).foldl (fun a l => a ||| fl l) 0)

/-- An instruction of two interval sources: the enclosure of a set made of them, and when members are dropped. -/
structure Iv2 where
  con  : Guard → View → Operand → Operand → Operand → Option SrcMod → Instr
  set  : IV → IV → IV
  clip : IV → Bool

/-- The two-source rows of R272, R273 and R276. -/
def iv2Rows : List Iv2 :=
  [⟨.iadd, IV.add, fun _ => false⟩, ⟨.isub, fun a b => a.add b.neg, fun _ => false⟩, ⟨.imul, IV.mul, fun _ => false⟩,
   ⟨.idiv, IV.div, IV.hasZero⟩, ⟨.imin, IV.map2 XR.min, fun _ => false⟩, ⟨.imax, IV.map2 XR.max, fun _ => false⟩,
   ⟨.ihull, IV.hull, fun _ => false⟩, ⟨.imeet, IV.meet, fun _ => false⟩]

/-- An instruction of one interval source. -/
structure Iv1 where
  con : Guard → View → Operand → Operand → Option SrcMod → Instr
  f   : Fmt → IV → IvOut

/-- The value a measure of R278 writes in both positions. -/
def measureOut (f : Fmt) (x : IV) (g : XR → XR → Nat) : IvOut :=
  match x with
  | .empty => ⟨⟨f.nanCode, f.nanCode⟩, 1⟩
  | .mk a b => ⟨⟨g a b, g a b⟩, 0⟩

/-- `imid` of an interval that is not Empty (R278). -/
def midOf (f : Fmt) (a b : XR) : Nat :=
  match a, b with
  | .ninf, .pinf => 0
  | .ninf, _ => f.signBit + f.maxCode
  | .fin x, .fin y => f.near ((x + y) / 2)
  | _, _ => f.maxCode

/-- The one-source rows of R272, R276, R278 and R287. -/
def iv1Rows : List Iv1 :=
  [⟨.ircp, fun f x => f.out ((IV.point 1).div x) x.hasZero⟩, ⟨.isqr, fun f x => f.out x.sqr false⟩, ⟨.iabs, fun f x => f.out x.abs false⟩,
   ⟨.ineg, fun f x => f.out x.neg false⟩,
   ⟨.iflr, fun f x => f.out (x.mapFin (fun q => (q.floor : Rat))) false⟩, ⟨.iceil, fun f x => f.out (x.mapFin (fun q => (q.ceil : Rat))) false⟩] ++
  [⟨.iinf, fun f x => measureOut f x (fun a _ => f.down a)⟩, ⟨.isup, fun f x => measureOut f x (fun _ b => f.up b)⟩,
   ⟨.imid, fun f x => measureOut f x (midOf f)⟩,
   ⟨.irad, fun f x => measureOut f x (fun a b => match a, b with
      | .fin x, .fin y => f.up (.fin (max (f.num (midOf f a b) - x) (y - f.num (midOf f a b))))
      | _, _ => f.posInf)⟩,
   ⟨.iwid, fun f x => measureOut f x (fun a b => match a, b with | .fin x, .fin y => f.up (.fin (y - x)) | _, _ => f.posInf)⟩,
   ⟨.imag, fun f x => measureOut f x (fun a b => f.up (a.abs.max b.abs))⟩,
   ⟨.imig, fun f x => measureOut f x (fun a b => f.down (if (IV.mk a b).hasZero then .fin 0 else a.abs.min b.abs))⟩] ++
  [⟨.isqrt, fun f x => match x.clipPos false with
      | (.empty, c) => f.outPair f.emptyPair c
      | (.mk a b, c) => f.outPair ⟨boundOf a none f.posInf f.rootDown, boundOf b none f.posInf f.rootUp⟩ c⟩,
   ⟨.irsqrt, fun f x => match x.clipPos true with
      | (.empty, c) => f.outPair f.emptyPair c
      | (.mk a b, c) => f.outPair ⟨boundOf b none 0 (fun q => f.rootDown (1 / q)), boundOf a (some f.posInf) 0 (fun q => f.rootUp (1 / q))⟩ c⟩,
   ⟨.ilog2, fun f x => match x.clipPos true with
      | (.empty, c) => f.outPair f.emptyPair c
      | (.mk a b, c) => f.outPair ⟨boundOf a (some f.negInf) f.posInf (fun q => f.log2q q false),
          boundOf b (some f.negInf) f.posInf (fun q => f.log2q q true)⟩ c⟩,
   ⟨.iexp2, fun f x => match x with
      | .empty => f.outPair f.emptyPair false
      | .mk a b => f.outPair ⟨match a with | .ninf => 0 | .pinf => f.posInf | .fin q => f.exp2 q false,
          match b with | .ninf => 0 | .pinf => f.posInf | .fin q => f.exp2 q true⟩ false⟩]

/-- An interval source of lane l that is an interval (R181, R270). -/
def ivOf (s : State) (i : Iss) (g : Guard) (m : Option SrcMod) (src : ModSrc) (v : View) (o : Operand) (l : Nat) : IV :=
  ((srcs s i g m).ivl src v o l).iv v.fmt

/-- The formats of the views (R180). -/
abbrev isViewFmt (f : Fmt) : Prop := f = fp16 ∨ f = fp32 ∨ f = fp64

/-- q is a member of an interval (R181). -/
def IV.mem (q : Rat) : IV → Prop
  | .empty => False
  | .mk a b => a.le (.fin q) = true ∧ XR.le (.fin q) b = true

/-- The interval a result reads as. -/
def outIv (f : Fmt) (o : IvOut) : IV := o.pair.iv f

/-- The row statistics with a lane and a row mode, with the registers each writes (R299). -/
structure RowStat where
  con  : Guard → View → BitVec 3 → Operand → Operand → Option Operand → Option SrcMod → Instr
  regs : Nat
  f    : Fmt → List IV → List IvOut

def rowStats : List RowStat :=
  [⟨.segmax, 1, fun f xs => [rowMax f xs]⟩, ⟨.segmin, 1, fun f xs => [rowMin f xs]⟩, ⟨.segsum, 1, fun f xs => [rowSum f xs]⟩,
   ⟨.segnorm, 2, fun f xs => [(rowNorm f xs).1, (rowNorm f xs).2]⟩]

/-- The entries of lane l's segment of 2^z lanes: a lane that does not participate is masked (R299). -/
def segmentOf (s : State) (i : Iss) (g : Guard) (m : Option SrcMod) (v : View) (z : Nat) (a : Operand) (l : Nat) : List IV :=
  (List.range (2 ^ z)).map (fun j =>
    if (i.part g).has (l - l % 2 ^ z + j) then ivOf s i g m .a v a (l - l % 2 ^ z + j) else .empty)

/-- The entries of a row of n intervals at an offset of a scratchpad (R300). -/
def rowEntries (ch : Chain) (v : View) (off n : Nat) : List IV :=
  (List.range n).map (fun j => (Pair.ofWords v ((List.range v.words).map (fun k =>
    BitVec.ofNat 32 (ch.nat (off + j * (4 * v.words) + 4 * k) 4)))).iv v.fmt)

/-- A lane's row: offset and entries; none where it is misaligned, runs beyond the allocation or has more than 4,096 entries (R300). -/
def rowOf (s : State) (i : Iss) (g : Guard) (v : View) (a b : Operand) (m : Option SrcMod) (ch : Chain) (l : Nat) : Option (Nat × Nat) :=
  let off := ((srcs s i g m).int .a a false 32 l).toNat
  let n := ((srcs s i g m).int .b b false 32 l).toNat
  if off % (4 * v.words) = 0 ∧ off + n * (4 * v.words) ≤ ch.scrSize ∧ n ≤ 4096 then some (off, n) else none

/-- What a row statistic gives on a row: Empty with its flag where there is none (R300). -/
def rowOut (r : RowStat) (v : View) (ch : Chain) (o : Option (Nat × Nat)) : List IvOut :=
  match o with
  | some (off, n) => r.f v.fmt (rowEntries ch v off n)
  | none => List.replicate r.regs ⟨v.fmt.enclose .empty, 1⟩

/-- The entries of lane l's segment, clipped to [0, H] (R304). -/
def sharesOf (s : State) (i : Iss) (g : Guard) (m : Option SrcMod) (v : View) (z : Nat) (a : Operand) (l : Nat) : List IV :=
  (segmentOf s i g m v z a l).map (fun x => (x.clipPos false).1)

/-- The argument of a table function as an interval of binary32 (R296). -/
def tableArg (s : State) (i : Iss) (g : Guard) (m : Option SrcMod) (v : View) (a : Operand) (l : Nat) : IV :=
  (fp32.enclose (ivOf s i g m .a v a l)).iv fp32

/-- An entry of a bank that the rod's launch owns (R295). -/
def ownEntry (s : State) (i : Iss) (b : Bank) (tid : BitVec 4) : Option TabEntry :=
  match b.entries.find tid.toNat with
  | some e => if e.owner = s.launchOf i.rid then some e else none
  | none => none

/-- Taking on an operation leaves all but the operations, the identities and one completion-flag count as it was. -/
def OpTaken (s u : State) (i : Iss) (kind : OpKind) : Prop :=
  u.op s.nextId = some { rod := i.rid, flags := (match i.flag with | some f => [(i.rid.rod, f)] | none => []), kind := kind, susp := false, denied := [] } ∧
  { u with rods := s.rods, ops := s.ops, nextId := s.nextId } = s ∧
  ∃ y, u.rod i.rid = some y ∧ { y with flags := i.rod.flags } = i.rod ∧
    ∀ f, i.flag = some f → y.flagCount f.toNat = i.rod.flagCount f.toNat + 1

/-! ### Memory -/

/-- The addresses of lanes (R217, R305). -/
def addrsOf (s : State) (i : Iss) (g : Guard) (ad : MAddr) (z : Nat) (ls : List Nat) : List (Nat × DWord) :=
  ls.map (fun l => (l, (srcs s i g none).addr ad z l))

/-- Every lane's address has led somewhere: to the places sp, with s' as the state after the translations. -/
def Places (s : State) (i : Iss) (kind : XKind) (z : Nat) (as : List (Nat × DWord)) (s' : State) (sp : List (Nat × Spot)) : Prop :=
  (s.setRod i.rid i.rod).spotAll i kind z as = .ready s' sp

/-- For whom a gather reads: its rod with the pages it has been denied (R30, R312). -/
def gatherIss (o : Op) (x : Rod) : Iss :=
  let p : Path := { pc := 0, idx := 0, mask := 0, frame := none, wait := 0 }
  { rid := o.rod, sl := .a, rod := { x with denied := o.denied }, slot := Slot.fresh p 0 }

/-- Every place is in memory that goes through the L1 (R69, R111). -/
def allCached (s : State) (sp : List (Nat × Spot)) : Bool := sp.all (fun e => s.cached e.2)

/-- Every lane's access of z bytes is at hand in the core's L1 (R83, R117, R118). -/
def AllHit (s : State) (i : Iss) (z : Nat) (sp : List (Nat × Spot)) : Prop :=
  ∀ e ∈ sp, ∀ pa ent, e.2 = .mem pa ent → (s.l1Hits (s.coreOf i.rid) pa z (unionMask z sp)).isSome = true

/-- Byte b of memory as a core has stored it: its word is owned or asks for it, the byte is known, and its value is v (R82, R84). -/
def StoredByte (s : State) (c : CoreId) (b : Nat) (v : Byte) : Prop :=
  let x := (s.core c).l1Word (b / 4)
  x.st.owned = true ∧ x.known.getLsbD (b % 4) = true ∧ Word.byte x.val (b % 4) = v

/-- The number that n bytes at an address hold in an L1: bytes of a poisoned word read as ones (R7, R76). -/
def l1Num (k : Core) (pa n : Nat) : Nat :=
  ofBytes ((List.range n).map (fun j => let x := k.l1Word ((pa + j) / 4); if x.bad then (0xFF : Byte) else Word.byte x.val ((pa + j) % 4)))

/-- No lane after the one at a place of a list stores to a byte (R117). -/
def lastAt (off : Nat → Nat) (z b : Nat) (later : List Nat) : Prop := ∀ m ∈ later, b < off m ∨ off m + z ≤ b

/-- The accesses of a home-performed request, in the order of the lanes (R137). -/
def accsAt (sp : List (Nat × Spot)) (size : Nat) (act : Nat → HomeAct) (hint : Nat → DWord → Hint) : List HomeAcc :=
  sp.filterMap (fun e => match e.2 with
    | .mem pa ent => some { lane := e.1, pa := pa, size := size, act := act e.1, hint := hint pa ent, cnt := Pte.cnt ent }
    | _ => none)

/-- Between s and u a memory instruction changes operations, identities, messages, flags, causes and pending stores; no memory byte and no
register of its rod. -/
def KeepsRegisters (s u : State) (r : RodId) : Prop :=
  u.mem = s.mem ∧ ∀ x, s.rod r = some x → ∃ y, u.rod r = some y ∧
    { y with flags := x.flags, cause := x.cause, mflags := x.mflags, iflags := x.iflags, stores := x.stores, parts := x.parts } = x

/-- The words an access of a size takes from a number (R308). -/
def sizedWords (sz : Size) (v : Nat) : List Word := (List.range sz.words).map (wordAt (v % 2 ^ (8 * sz.bytes)))

/-- The rod's load n, whose every word is at hand. -/
def LoadReady (u : State) (r : RodId) (n : Nat) (l : LoadOp) : Prop :=
  (∃ o, u.op n = some o ∧ o.rod = r ∧ o.kind = .load l) ∧ l.need = [] ∧ Instr.loadComplete n ∈ u.inflight

/-- The offsets of lanes in their chain's allocation lie in it, aligned (R119, R310). -/
def InScratch (s : State) (i : Iss) (g : Guard) (ad : MAddr) (z : Nat) (ls : List Nat) (ch : Chain) (off : Nat → Nat) : Prop :=
  s.chain i.rid.chain = some ch ∧ ∀ l ∈ ls, off l = ((srcs s i g none).addr ad z l).toNat ∧ off l % Nat.min z 4 = 0 ∧ off l + z ≤ ch.scrSize

/-- The lanes a memory instruction acts for (R306). -/
def actorsOf (i : Iss) (g : Guard) (d : Operand) : List Nat :=
  match d with
  | .s _ => if i.part g = 0 then [] else [lowest (i.part g)]
  | _ => lanes (i.part g)

/-- A rod may load and store at once: nothing of its own is still to be performed, bound or acquired. -/
def Settled (s : State) (r : RodId) : Prop := ∀ e ∈ s.ops, e.2.rod ≠ r

/-- Nothing is under way at a word, and the core and the slice that its home records hold it (R82, R89, R95). -/
structure Steady (s : State) (wd : Nat) : Prop where
  quiet : s.quiet wd = true
  slice : ∀ d, s.homeOf wd = some (.owned (.die d)) → ((s.die d).l2Word wd).st.owned = true
  core  : ∀ c, s.ownerCore wd = some c → ((s.core c).l1Word wd).st.owned = true

/-- The length a range instruction takes (R315). -/
def rangeLen (s : State) (i : Iss) (g : Guard) (n : Operand) : Nat :=
  match n with
  | .s k => (i.rod.un k.toNat).toNat
  | _ => ((srcs s i g none).int .a n false 32 (lowest (i.part g))).toNat

/-- The word ranges that a range instruction covers, with s' as the state after the translations. -/
def RangeIs (s : State) (i : Iss) (g : Guard) (n : Operand) (ad : MAddr) (l : List (Nat × Nat)) (s' : State) : Prop :=
  (s.setRod i.rid i.rod).rangeWords i ((srcs s i g none).addr ad 1 (lowest (i.part g))).toNat (rangeLen s i g n) = (some l, s')

/-! ### Order and synchronisation -/

/-- Nothing holds a fence of the rod back: no acquire pending, no load unbound, its stores granted at the scope (R85, R132). -/
structure FenceReady (s : State) (i : Iss) (sc : Scope) : Prop where
  acq : s.acquiring i.rid = false
  bound : s.unbound i.rid = false
  rel : s.released i.rid sc = true

/-- No line of a core reads as V: its unowned copies will be fetched again (R86). -/
def NoStaleCopies (c : Core) : Prop := ∀ wd, c.l1State wd ≠ .v

/-- Every V word of a core stands in a line of the L1 (R60). -/
def LinesKnown (c : Core) : Prop := ∀ wd, (c.l1Word wd).st = .v → lineOf wd ∈ c.lru

/-- A barrier's member rod at its barrier, its operand named, nothing of its own before it. -/
def AtBarrier (s : State) (i : Iss) (g : Guard) (n : Operand) (lvl : BarLevel) (b : BarId) : Prop :=
  i.part g ≠ 0 ∧ s.barOf i.rid lvl ((srcs s i g none).d64 .a n 0).toNat = some b

/-- A barrier whose state has become y: the phase advances at once if it is due (R324). -/
def afterBar (s : State) (b : BarId) (y : Bar) : Bar := if (s.setBar b y).barDue b then y.next else y

/-- A step leaves a barrier as y makes it, and a phase that has completed has the release of its waiters under way. -/
def BarIs (s u : State) (b : BarId) (y : Bar) : Prop :=
  u.mem = s.mem ∧ u.bar b = afterBar s b y ∧ (afterBar s b y ≠ y → Instr.barrierPhaseComplete b ∈ u.inflight)

/-- The place a barrier's state is kept in exists. -/
def BarKept (s : State) (b : BarId) : Prop :=
  match b with
  | .chain c _ => (s.chain c).isSome = true
  | .furlong f _ => (s.furlong f).isSome = true
  | .launch l _ => (s.cmd l).isSome = true

/-! ### Exceptions, holds and records -/

/-- y is x but for its slots, how far it runs and what taking an exception records: no register, stack entry or count has changed. -/
def RodTrapped (x y : Rod) : Prop :=
  { y with slotA := x.slotA, slotB := x.slotB, cause := x.cause, skid := x.skid, run := x.run, lastSlot := x.lastSlot, denied := x.denied } = x

/-- The value of a special register after `syswr` (R221, R399, R401, R406): a list of what each writable register holds. -/
def sysWritten (x : Rod) (v : DWord) : List (SReg × Rod) :=
  [(.iflags, { x with iflags := x.iflags &&& ~~~(v.setWidth 32 &&& 0xF) }),
   (.mflags, { x with mflags := x.mflags &&& ~~~(v.setWidth 32 &&& 0x7) }),
   (.cause, { x with cause := x.cause &&& ~~~(v.setWidth 32 &&& 0x27F7F) }),
   (.skid, if x.inHandler then { x with skid := (v &&& ~~~0x3F) ||| (x.skid &&& 0x3F) } else x),
   (.agelimit, { x with agelimit := if v.setWidth 32 < (64 : Word) then 64 else v.setWidth 32 }),
   (.compat, { x with compat := v.setWidth 32 &&& 0x3 }),
   (.holdlimit, { x with holdlimit := v.setWidth 32 })]

/-- What the items of `sysrd` read (R406). -/
def itemIs (s : State) (r : RodId) (cmd : Cmd) (p : Packet) (ch : Chain) (item : BitVec 2) (v : DWord) : Prop :=
  s.chain r.chain = some ch ∧ s.cmd ch.launch = some cmd ∧ cmd.kind = .launch p ∧
  v = (if item = 0 then BitVec.ofNat 64 (cmd.queue * 2 ^ 32 + cmd.ring) else if item = 1 then p.ids
    else if item = 2 then BitVec.ofNat 64 ch.resumes else BitVec.ofNat 64 cmd.asid)

/-- The word of a die's sample buffer that is the k-th from its write pointer (R446). -/
def sampleWord (x : Die) (k : Nat) : Nat := 16 * x.smpbase.bits 51 6 + (x.smpwr.toNat + k) % 2 ^ x.smpctl.bits 12 8

/-- The sample buffer of die d has a size and room for n words, no record has been lost, all that was recorded is in memory, and nothing is under
way at its words (R446, R449). -/
structure SampleRoom (s : State) (d n : Nat) : Prop where
  size    : 8 ≤ (s.die d).smpctl.bits 12 8 ∧ (s.die d).smpctl.bits 12 8 ≤ 28
  lost    : (s.die d).smpD = 0
  written : (s.die d).smpAt = (s.die d).smpwr ∧ s.requests (fun r => r.sample == some d) = 0
  room    : ((s.die d).smpwr - (s.die d).smprd).toNat + n + 1 ≤ 2 ^ (s.die d).smpctl.bits 12 8
  ways    : ∀ k < 2 ^ (s.die d).smpctl.bits 12 8, s.reach (4 * sampleWord (s.die d) k) = .memory ∧
    s.canPut (stopOf d) (4 * sampleWord (s.die d) k) 4 = true
  whole   : s.upsets = []

/-- Software records are on as well (R448). -/
structure SampleReady (s : State) (d n : Nat) : Prop where
  on   : (s.die d).smpctl.getLsbD 62 = true
  room : SampleRoom s d n

/-- A record of type ty with its AUX, as its words stand in the buffer of die d off words after the write pointer (R446, R447). -/
def RecordAt (s u : State) (d off ty aux : Nat) (body : List Word) : Prop :=
  ∀ k w, (BitVec.ofNat 32 (165 * 2 ^ 24 + (body.length + 1) * 2 ^ 16 + ty * 2 ^ 12 + aux) :: body)[k]? = some w →
    u.curWord (sampleWord (s.die d) (off + k)) = { val := w, bad := false, lost := false }

/-- The rod word of a record (R434): where the rod is, and a leaf of its quadrant. -/
def rodWordOf (s : State) (r : RodId) (x : Rod) (leaf : Nat) : Word :=
  BitVec.ofNat 32 ((s.coreOf r).die % 8 * 2 ^ 29 + (s.coreOf r).core % 64 * 2 ^ 23 + r.rod % 4 * 2 ^ 21 + r.rod % 32 * 2 ^ 16 +
    x.rslot % 16 * 2 ^ 8 + leaf)

/-- sr.cycle of a die as two words, the low one first. -/
def cycleOf (s : State) (d : Nat) : List Word := [loWord (s.dieCycle d), hiWord (s.dieCycle d)]

/-- The instruction after the issuing one of a clause, which is no branch (R401). -/
def nextPoint (i : Iss) (c : Clause) : DWord × Nat :=
  if i.slot.path.idx + 1 < c.count then (i.slot.path.pc, i.slot.path.idx + 1) else (nextClause i.slot.path.pc c.count, 0)

/-- The rods that a hold of a core stops, in the order of their records (R440, R447). -/
def heldRods (s : State) (c : CoreId) : List RodId := (s.heldChains c).flatMap (fun e => e.2.rodIds e.1)

/-- The words of the issuing rod's stop record (R434, R447): it names the instruction after, in the middle of a clause. -/
def stopWords (s : State) (i : Iss) (n : Nat) : List Word :=
  rodWordOf s i.rid i.rod 21 :: pcPair i.slot.path.pc i.sl (i.slot.path.idx + 1) ++ i.slot.path.mask :: cycleOf s (s.coreOf i.rid).die ++
    [BitVec.ofNat 32 (n * 2 ^ 24 + i.rod.cause.bits 14 0)]

/-- The core of a rod is held and the rod is frozen (R440). -/
def HeldWith (t : State) (c : CoreId) (r : RodId) : Prop := (t.core c).isHeld = true ∧ (t.core c).holdRod = some r

/-- A slot goes on inside the clause it has started. -/
def MidClause (i : Iss) : Prop := ∃ c, i.slot.started = some c ∧ i.slot.path.idx + 1 < c.count

/-- Where the blocks of an image lie (R407), with s' as the state after the translations. -/
def ImageAt (s : State) (i : Iss) (va : DWord) (kind : XKind) (len : Nat) (ws : List Where) (s' : State) : Prop :=
  (s.setRod i.rid i.rod).imageBlocks i va kind (blocksOf len) [] = .ok (ws, s')


/-! ### Commands, the scheduler and clauses -/

/-- The state once a slot of a queue has been taken at a fetch (R385). -/
def afterFetch (s : State) (q : Nat) : State :=
  let x := s.queue q
  { s.setQueue q { x with ridx := x.ridx + 1, seqs := x.seqs.drop 1, shadows := x.shadows.erase (x.ridx.toNat % 2 ^ x.log2) } with nextId := s.nextId + 1 }

/-- What a cancel leaves (R396): every fetched command it covers is cancelled, one with no chain complete with CODE 2, and it stays in force until
a command that ends it has been fetched. -/
def Cancels (s t : State) (k : Cancel) : Prop :=
  (∀ n c, s.cmd n = some c → k.covers c = true → ∃ y, t.cmd n = some y ∧ (c.isDone = true ∨ y.cancelled = true) ∧
    (c.isDone = false → c.cancelled = false → c.live = [] → y.state = .complete ∧ y.code = Nat.max c.code 2)) ∧
  (s.endFetched k = false → k ∈ t.cancels) ∧ t.mem = s.mem

/-- The cancels that the host can write (R396), with their CANC values. -/
def hostCancels (q ix id asid : Nat) : List (Cancel × Nat) :=
  [({ level := .launch, id := 0, asid := 0, queue := q, idx := ix, upTo := none }, q * 2 ^ 42 + ix),
   ({ level := .graph, id := id, asid := asid, queue := 0, idx := 0, upTo := none }, 2 ^ 58 + id * 2 ^ 42 + asid),
   ({ level := .phase, id := id, asid := asid, queue := 0, idx := 0, upTo := none }, 2 * 2 ^ 58 + id * 2 ^ 42 + asid),
   ({ level := .job, id := id, asid := asid, queue := 0, idx := 0, upTo := none }, 3 * 2 ^ 58 + id * 2 ^ 42 + asid)]

/-- The words of a packet read from frames. -/
def packetWords (s : State) (fs : List Nat) : List WordRead := fs.flatMap (fun pa => (List.range 16).map (fun j => s.curWord (pa / 4 + j)))

/-- A command of a level's identity and END is ready to publish, with the members' codes. -/
def worstCode (l : List (Nat × Cmd)) (code : Nat) : Prop :=
  (∀ e ∈ l, e.2.code ≤ code) ∧ (code = 0 ∨ ∃ e ∈ l, e.2.code = code)

/-- A slot of a rod that may start a clause. -/
structure MayStart (s : State) (r : RodId) (sl : SlotId) (x : Rod) (y : Slot) : Prop where
  rod     : s.rod r = some x
  slot    : x.slot sl = some y
  idle    : y.started = none
  goes    : y.stopped = false
  free    : x.frozen = false


/-! ### The matrix engine and copies -/

/-- A tile instruction with its sources, whether it is long-latency, and its three operand values. -/
structure TileIns where
  ins  : Instr
  srcs : List (Operand × Nat)
  long : Bool
  a : DWord
  b : DWord
  k : DWord

/-- A 32-bit operand of the lowest participating lane, zero-extended (R336 to R341). -/
def word32 (s : State) (i : Iss) (g : Guard) (src : ModSrc) (o : Operand) : DWord := ((srcs s i g none).int src o false 32 (lowest (i.part g))).setWidth 64

/-- The tile instructions that the engine holds as operations (R336, R337, R341, R346, R351, R352). -/
def tileRows (s : State) (i : Iss) (g : Guard) (x : MxFields) (v : View) (spc : MxSpace) (t : BitVec 3) (a b c : Operand) : List TileIns :=
  [⟨.mxclr g t a, [(a, 1)], false, word32 s i g .a a, 0, 0⟩,
   ⟨.mxwin g t a, [(a, 1)], false, word32 s i g .a a, 0, 0⟩,
   ⟨.mxst g v spc t a, [(a, 1)], true, word32 s i g .a a, 0, 0⟩,
   ⟨.mxsv g t a, [(a, 2)], true, (srcs s i g none).d64 .a a (lowest (i.part g)), 0, 0⟩,
   ⟨.mxrs g t a, [(a, 2)], true, (srcs s i g none).d64 .a a (lowest (i.part g)), 0, 0⟩] ++
  [⟨.mxmm g x a b c, [(a, 1), (b, 1), (c, 1)], true, word32 s i g .a a, word32 s i g .b b, word32 s i g .c c⟩,
   ⟨.mxim g x a b c, [(a, 1), (b, 1), (c, 1)], true, word32 s i g .a a, word32 s i g .b b, word32 s i g .c c⟩,
   ⟨.mxcv g x a b c, [(a, 1), (b, 1), (c, 1)], true, word32 s i g .a a, word32 s i g .b b, word32 s i g .c c⟩]

/-- A rod that is its own gang and stands in no latch, with a chain and room at the matrix engine (R338, R339, R354). -/
structure TileReady (s : State) (i : Iss) (g : Guard) (ch : Chain) : Prop where
  part  : i.part g ≠ 0
  chain : s.chain i.rid.chain = some ch
  ready : s.engineReady i.rid = true
  alone : count i.rod.gang ≤ 1
  fresh : ch.joined i = none
  room  : s.mxOn (s.coreOf i.rid) < Config.mxOps

/-- The completion flags an operation counts in (R208). -/
def flagsOf (i : Iss) (long : Bool) : List (Nat × BitVec 4) := if long then (match i.flag with | some f => [(i.rid.rod, f)] | none => []) else []

/-- A matrix operation of a chain whose turn has come (R354). -/
structure MxTurn (s : State) (n : Nat) (o : Op) (m : MxOp) (ch : Chain) : Prop where
  op    : s.op n = some o
  kind  : o.kind = .mx m
  chain : s.chain o.rod.chain = some ch
  goes  : o.susp = false
  first : s.mxBlocked n o m = false

/-- An operation is over. -/
def OpOver (t : State) (n : Nat) : Prop := t.op n = none

/-- A copy whose next line is the one named, in the state it waits for (R57, R332). -/
structure LandReady (s : State) (n line : Nat) (o : Op) (c : CopyOp) (ch : Chain) : Prop where
  op    : s.op n = some o
  kind  : o.kind = .copy c
  chain : s.chain o.rod.chain = some ch
  goes  : o.susp = false
  next  : c.lines.head? = some line
  full  : ch.full line = c.out

/-- No launch, watch or rod looks at the counter (R143). -/
def Unwatched (s : State) (pa : Nat) : Prop := s.counterQueues pa = [] ∧ s.watchesOn pa = [] ∧ s.seqWaits pa = false


/-! ### The neighbour engine -/

/-- A neighbour instruction may act (R208, R379). -/
structure NbReady (s : State) (i : Iss) (g : Guard) : Prop where
  part  : i.part g ≠ 0
  flags : i.flagFull = false
  ready : s.engineReady i.rid .package = true
  rel   : s.released i.rid .die = true

/-- For whom a rod's `nbgrid` works. -/
def nbUser (s : State) (i : Iss) : NbFor := { die := (s.coreOf i.rid).die, asid := s.asidOf i.rid, denied := i.denied, rod := some i.rid }

/-- The 32-bit value of an operand that acts once per rod. -/
def once32 (s : State) (i : Iss) (g : Guard) (src : ModSrc) (o : Operand) : Nat := ((srcs s i g none).int src o false 32 (lowest (i.part g))).toNat

/-- An operation of a neighbour engine whose turn has come (R380). -/
structure NbTurn (s : State) (n : Nat) (o : Op) (die gid : Nat) (k : NbKind) : Prop where
  op    : s.op n = some o
  kind  : o.kind = .nb die gid k
  goes  : o.susp = false
  first : s.nbBlocked n die gid = false

/-- A neighbour operation has ended with its slot, its memory and its destination as given. -/
def NbOver (out : Host.Outcome State Fault Refusal) (n : Nat) (s' : State) (o : Op) (die gid : Nat) (g : Grid) (put : Rod → Rod) : Prop :=
  ∃ t, out = .next t ∧ OpOver t n ∧ t.mem = s'.mem ∧ t.grid die gid = some g ∧
    ∀ x, s'.rod o.rod = some x → ∃ y, t.rod o.rod = some y ∧
      { y with cause := (put x).cause, mflags := (put x).mflags, flags := (put x).flags } = put x


/-! ### Coherence -/

/-- A request comes to a home slice that has, or makes, room for its word's line: u is the state then (R98). -/
def Came (s u : State) (wd : Nat) (m : HomeMsg) : Prop :=
  s.reach (4 * wd) = .memory ∧ s.placed wd m = (true, u)

/-- The grant of a word as it goes to a party (R91). -/
def grantMsg (p : Party) (wd : Nat) (v : Option Word) : Instr :=
  match p with
  | .core c => .l1PackageGrant c wd v
  | .l2 d => .nonhomePackageGrant d wd v

/-- The request is served at once: nothing blocks it and no request waits before it (R91). -/
def Served (u : State) (wd : Nat) (m : HomeMsg) : Prop := u.blocked wd m = false ∧ u.homeQ wd = []

/-- No `wbk` waits for the word. -/
def NoWbk (s : State) (wd : Nat) : Prop := ∀ e ∈ s.ops, ∀ ws gone, e.2.kind = .wbk ws gone → wd ∉ ws ∧ wd ∉ gone

/-- The word of an L1. -/
def l1Of (s : State) (c : CoreId) (wd : Nat) : L1Word := (s.core c).l1Word wd

/-- The word of a slice away from home. -/
def l2Of (s : State) (d wd : Nat) : L2Word := (s.die d).l2Word wd


/-! ### DMA, the package, the debugger -/

/-- A DMA command of an operation at its turn, with an engine of its I/O die (R426): k is the command once the engine serves it. -/
structure DmaTurn (s : State) (n op : Nat) (c k : Cmd) (p : DmaPkt) : Prop where
  cmd    : s.cmd n = some c
  kind   : c.kind = .dma p
  op     : p.op = op
  new    : c.state = .fetched
  goes   : c.susp = false
  turn   : s.cmdTurn c = true
  engine : (s.engineFor c).isSome = true
  serves : k = { c with engine := s.engineFor c }

/-- A DMA command ends with a queue-pair error (R427). -/
def DmaFails (out : Host.Outcome State Fault Refusal) (s : State) (n : Nat) (k : Cmd) : Prop :=
  ∃ t, out = .next t ∧ t.mem = s.mem ∧ t.outbox = s.outbox ∧ t.cmd n = some { k with fouls := k.fouls ||| Cause.accv, state := .running } ∧
    Instr.dmaComplete n 0 ∈ t.inflight

/-- A DMA command has done its part: its progress is kept, and its completion is under way when `sent`. -/
def DmaRan (t s' : State) (n : Nat) (c : Cmd) (r : DmaRun) (sent : Bool) : Prop :=
  t.mem = s'.mem ∧ t.cmd n = some { c with moved := r.moved, fouls := r.fouls, recv := r.out, state := .running } ∧
  (sent = true → Instr.dmaComplete n 0 ∈ t.inflight)

/-- Every byte of a range reaches memory. -/
def inMemory (s : State) (pa n : Nat) : Bool := (List.range n).all (fun k => s.reach (pa + k) == .memory)

/-- The writes of registers that hold the bits of their RW fields and nothing else (R8, R20, R35, R384, R436, R439, R446). -/
def plainWrites (s : State) (i : Nat) (v : DWord) : List (HostReg × State) :=
  [(.astb, { s with astb := v &&& 0x000FFFFFFFF00001 }),
   (.brkva, { s with brkva := v &&& 0x00FFFFFFFFFFFFF8 }),
   (.brkpa, { s with brkpa := v &&& 0x000FFFFFFFFFFFF8 }),
   (.brklen, { s with brklen := v &&& 0xFFFFFFFF }),
   (.evq, s.setQueue i { s.queue i with evq := v &&& 0x000FFFFFFFFFF01F }),
   (.evidx, s.setQueue i { s.queue i with evrd := loWord v }),
   (.ppdb, s.setDie i { s.die i with ppdb := v &&& 0x000FFFFFFFFFFFC1 }),
   (.dbgctl, s.setDie i { s.die i with dbgctl := v &&& 3 }),
   (.attach, s.setDie i { s.die i with attach := v &&& 0x0000FFFFFFFFFFFF }),
   (.dbgwin, s.setDie i { s.die i with dbgwin := v }),
   (.smprd, s.setDie i { s.die i with smprd := loWord v })] ++
  ([.diestat, .canc, .pvac, .ridx, .merra, .l2occ, .holdmap, .dbgwho, .dbgring, .smpwr].map (fun r => (r, s)))


end Sys2Proof.Claims

open Sys2Proof Sys2Proof.Machine Sys2Proof.Safety Sys2Proof.Claims

/-- R234, R231: the two-source integer instructions complete for every guard, modifier and source that is no port, with the result of
their row in a lane word or a uniform register, and leave everything else alone. -/
def Sys2Proof.Claims.TwoSourceIntegerResults : Prop :=
  ∀ r ∈ int2Rows, ∀ (s : State) (i : Iss) (g : Guard) (d a b : Operand) (m : Option SrcMod),
    Ready s i [(d, 1)] [(a, 1), (b, 1)] → isReg d = true →
    Completes (exec (r.con g d a b m) s) s i.rid
      (writeInt i.rod (i.part g) d (fun n l => r.f n ((srcs s i g m).int .a a r.sgn n l) ((srcs s i g m).int .b b r.sgn n l)))

/-- R234: the one-source and three-source integer instructions. -/
def Sys2Proof.Claims.OneAndThreeSourceIntegerResults : Prop :=
  (∀ r ∈ int1Rows, ∀ (s : State) (i : Iss) (g : Guard) (d a : Operand) (m : Option SrcMod),
    Ready s i [(d, 1)] [(a, 1)] → isReg d = true →
    Completes (exec (r.con g d a m) s) s i.rid (writeInt i.rod (i.part g) d (fun n l => r.f n ((srcs s i g m).int .a a r.sgn n l)))) ∧
  (∀ r ∈ int3Rows, ∀ (s : State) (i : Iss) (g : Guard) (d a b c : Operand) (m : Option SrcMod),
    Ready s i [(d, 1)] [(a, 1), (b, 1), (c, 1)] → isReg d = true →
    Completes (exec (r.con g d a b c m) s) s i.rid
      (writeInt i.rod (i.part g) d (fun n l =>
        r.f n ((srcs s i g m).int .a a r.sgn n l) ((srcs s i g m).int .b b r.sgn n l) ((srcs s i g m).int .c c r.sgn n l))))

/-- R234: the integer instructions of one, two and three sources. -/
def Obligations.IntegerResults : Prop :=
  Claims.TwoSourceIntegerResults ∧ Claims.OneAndThreeSourceIntegerResults

/-- R234 (`sel`), R239 to R242: selection, immediates, conversion, addresses and permutation. -/
def Obligations.SelectConvertAddressPermuteResults : Prop :=
  (∀ (s : State) (i : Iss) (g : Guard) (d a b : Operand) (q : BitVec 4) (m : Option SrcMod),
    Ready s i [(d, 1)] [(a, 1), (b, 1)] → isReg d = true →
    Completes (exec (.sel g d a b q m) s) s i.rid (writeInt i.rod (i.part g) d (fun n l =>
      if i.rod.pred q.toNat l = 1 then (srcs s i g m).int .a a false n l else (srcs s i g m).int .b b false n l))) ∧
  (∀ (s : State) (i : Iss) (g : Guard) (d : Operand) (imm : Word), Ready s i [(d, 1)] [] → isReg d = true →
    Completes (exec (.ldi g .sext d imm) s) s i.rid (writeInt i.rod (i.part g) d (fun n _ => BitVec.ofInt n imm.toInt)) ∧
    Completes (exec (.ldi g .zext d imm) s) s i.rid (writeInt i.rod (i.part g) d (fun n _ => BitVec.ofNat n imm.toNat))) ∧
  (∀ (s : State) (i : Iss) (g : Guard) (k : BitVec 6) (imm : Word), Ready s i [] [] →
    Completes (exec (.ldi g .hi (.s k) imm) s) s i.rid
      (if i.part g = 0 then i.rod else i.rod.setUn k.toNat (imm ++ (i.rod.un k.toNat).extractLsb' 0 32))) ∧
  (∀ (s : State) (i : Iss) (g : Guard) (dt st : Ty) (sat : Bool) (d a : Operand) (m : Option SrcMod),
    Ready s i [(d, 1)] [(a, 1)] → isReg d = true → dt.isInteger = true → st.isInteger = true →
    Completes (exec (.cvt g dt st sat d a m) s) s i.rid (writeInt i.rod (i.part g) d (fun n l =>
      BitVec.ofInt n (cvtValue dt st sat ((srcs s i g m).int .a a (intType st).2 64 l))))) ∧
  (∀ (s : State) (i : Iss) (g : Guard) (k : BitVec 6) (a b c : Operand) (m : Option SrcMod),
    Ready s i [] [(a, 2), (b, 1), (c, 1)] →
    Completes (exec (.lea g (.s k) a b c m) s) s i.rid (writeInt i.rod (i.part g) (.s k) (fun n l =>
      BitVec.ofNat n (((srcs s i g m).d64 .a a l).toNat +
        ((srcs s i g m).int .b b true 64 l).toNat * 2 ^ (((srcs s i g m).int .c c false 32 l).toNat % 16))))) ∧
  (∀ (s : State) (i : Iss) (g : Guard) (k : BitVec 8) (a b c : Operand) (m : Option SrcMod) (v : Nat → DWord),
    Ready s i [(.w k, 2)] [(a, 2), (b, 1), (c, 1)] →
    (∀ l, v l = BitVec.ofNat 64 (((srcs s i g m).d64 .a a l).toNat +
        ((srcs s i g m).int .b b true 64 l).toNat * 2 ^ (((srcs s i g m).int .c c false 32 l).toNat % 16))) →
    Completes (exec (.lea g (.w k) a b c m) s) s i.rid
      ((lanes (i.part g)).foldl (fun x l => x.setWords k.toNat l [loWord (v l), hiWord (v l)]) i.rod)) ∧
  (∀ (s : State) (i : Iss) (g : Guard) (d a b : Operand) (m : Option SrcMod),
    Ready s i [(d, 1)] [(a, 1), (b, 1)] → d.isW = true →
    Completes (exec (.perm g d a b m) s) s i.rid (writeInt i.rod (i.part g) d (fun n l =>
      ((srcs s i g m).int .a a false 32 (((srcs s i g m).int .b b false 32 l).toNat % 32)).setWidth n)))

/-- R243 to R245: index registers and relative register access. -/
def Obligations.IndexRegisterResults : Prop :=
  (∀ (s : State) (i : Iss) (g : Guard) (k : BitVec 2) (imm : BitVec 10), Ready s i [] [] →
    Completes (exec (.kset g k imm) s) s i.rid ((lanes (i.part g)).foldl (fun x l => x.setK k.toNat l imm) i.rod)) ∧
  (∀ (s : State) (i : Iss) (g : Guard) (k : BitVec 2) (a b : Operand) (m : Option SrcMod), Ready s i [] [(a, 1), (b, 1)] →
    Completes (exec (.kadd g k a b m) s) s i.rid ((lanes (i.part g)).foldl (fun x l =>
      x.setK k.toNat l (BitVec.ofInt 10 (((srcs s i g m).int .a a true 32 l).toInt + ((srcs s i g m).int .b b true 32 l).toInt))) i.rod)) ∧
  (∀ (s : State) (i : Iss) (g : Guard) (d base : BitVec 8) (k : BitVec 2) (n : NWords),
    Ready s i [(.w d, n.toNat)] [(.w base, 1)] →
    ((lanes (i.part g)).all (fun l => !relOut i.rod base k n.toNat l) = true →
      Completes (exec (.rdx g d base k n) s) s i.rid ((lanes (i.part g)).foldl (fun x l =>
        x.setWords d.toNat l (i.rod.lws (relAt i.rod base k l).toNat n.toNat l)) i.rod)) ∧
    ((lanes (i.part g)).any (fun l => relOut i.rod base k n.toNat l) = true →
      exec (.rdx g d base k n) s = trap s i Cause.regidx)) ∧
  (∀ (s : State) (i : Iss) (g : Guard) (base : BitVec 8) (k : BitVec 2) (b : BitVec 8) (n : NWords),
    Ready s i [(.w base, 1)] [(.w b, n.toNat)] →
    ((lanes (i.part g)).all (fun l => !relOut i.rod base k n.toNat l) = true →
      Completes (exec (.wrx g base k b n) s) s i.rid ((lanes (i.part g)).foldl (fun x l =>
        x.setWords (relAt i.rod base k l).toNat l (i.rod.lws b.toNat n.toNat l)) i.rod)) ∧
    ((lanes (i.part g)).any (fun l => relOut i.rod base k n.toNat l) = true →
      exec (.wrx g base k b n) s = trap s i Cause.regidx))

/-- R235: division never traps. -/
def Sys2Proof.Claims.DivisionRules : Prop :=
  ∀ (n : Nat), isWidth n → ∀ (a b : BitVec n),
    (b = 0 → aluDivn n a b = BitVec.allOnes n ∧ aluRemn n a b = a ∧ (aluDiv n a b).toInt = -1 ∧ aluRem n a b = a) ∧
    (b ≠ 0 → (aluDivn n a b).toNat = a.toNat / b.toNat ∧ (aluRemn n a b).toNat = a.toNat - b.toNat * (a.toNat / b.toNat)) ∧
    (a.toInt = -2 ^ (n - 1) → b.toInt = -1 → (aluDiv n a b).toInt = -2 ^ (n - 1) ∧ aluRem n a b = 0) ∧
    (b ≠ 0 → ¬ (a.toInt = -2 ^ (n - 1) ∧ b.toInt = -1) →
      (aluDiv n a b).toInt = a.toInt.tdiv b.toInt ∧ (aluRem n a b).toInt = a.toInt - b.toInt * a.toInt.tdiv b.toInt)

/-- R236: shifts take their count from b[7:0]; the results of the two-source rows for the shifts. -/
def Sys2Proof.Claims.ShiftRules : Prop :=
  ∀ (n : Nat), isWidth n → ∀ (a b : BitVec n), ∀ c, c = b.toNat % 256 →
    (a <<< c).toNat = a.toNat * 2 ^ c % 2 ^ n ∧ (n ≤ c → a <<< c = 0) ∧
    (a >>> c).toNat = a.toNat / 2 ^ c ∧ (n ≤ c → a >>> c = 0) ∧
    (a.sshiftRight c).toInt = a.toInt / 2 ^ c ∧ (n ≤ c → ∀ j < n, (a.sshiftRight c).getLsbD j = a.msb) ∧
    ∀ j < n, (a.rotateLeft c).getLsbD j = a.getLsbD ((j + (n - c % n)) % n)

/-- R237: bit fields. -/
def Sys2Proof.Claims.BitFieldRules : Prop :=
  ∀ (n : Nat), isWidth n → ∀ (a b c : BitVec n), ∀ p m, p = c.toNat % 256 → m = Nat.min (c.toNat / 256 % 256) (n - p) →
    (m = 0 → aluBfx n a c = 0 ∧ aluBfxn n a c = 0 ∧ aluBfi n a b c = a) ∧
    (0 < m → ∀ j < n,
      (aluBfxn n a c).getLsbD j = (decide (j < m) && a.getLsbD (p + j)) ∧
      (aluBfx n a c).getLsbD j = (if j < m then a.getLsbD (p + j) else a.getLsbD (p + m - 1)) ∧
      (aluBfi n a b c).getLsbD j = (if p ≤ j ∧ j < p + m then b.getLsbD (j - p) else a.getLsbD j))

/-- R234: what counting and reversing bits give. -/
def Sys2Proof.Claims.BitCountRules : Prop :=
  ∀ (n : Nat), isWidth n → ∀ (a : BitVec n),
    (aluPopc n a).toNat = ((List.range n).filter (fun j => a.getLsbD j)).length ∧
    (a = 0 → (aluClz n a).toNat = n ∧ (aluCtz n a).toNat = n) ∧
    (a ≠ 0 → (aluClz n a).toNat < n ∧ a.getLsbD (n - 1 - (aluClz n a).toNat) = true ∧
      (∀ j < n, n - 1 - (aluClz n a).toNat < j → a.getLsbD j = false) ∧
      (aluCtz n a).toNat < n ∧ a.getLsbD (aluCtz n a).toNat = true ∧ (∀ j < (aluCtz n a).toNat, a.getLsbD j = false)) ∧
    ∀ j < n, a.reverse.getLsbD j = a.getLsbD (n - 1 - j)

/-- R246, R247: comparison and the Kleene forms write their predicate in the participating lanes and nothing else. -/
def Sys2Proof.Claims.PredicateResults : Prop :=
  (∀ (s : State) (i : Iss) (g : Guard) (ty : Ty) (r : CmpRel) (q : BitVec 4) (a b : Operand) (m : Option SrcMod),
    Ready s i [] [(a, 1), (b, 1)] → ty.isInteger = true →
    ∃ p : Nat → BitVec 2, Completes (exec (.cmp g ty r q a b m) s) s i.rid (i.rod.setPreds (i.part g) q.toNat p) ∧
      ∀ l, p l = 1 ∧ relHolds r (asType ty ((srcs s i g m).int .a a (intType ty).2 64 l).toNat)
            (asType ty ((srcs s i g m).int .b b (intType ty).2 64 l).toNat) ∨
        p l = 0 ∧ ¬ relHolds r (asType ty ((srcs s i g m).int .a a (intType ty).2 64 l).toNat)
            (asType ty ((srcs s i g m).int .b b (intType ty).2 64 l).toNat)) ∧
  (∀ r ∈ pred2Rows, ∀ (s : State) (i : Iss) (g : Guard) (qd qa qb : BitVec 4), Ready s i [] [] →
    Completes (exec (r.con g qd qa qb) s) s i.rid
      (i.rod.setPreds (i.part g) qd.toNat (fun l => r.f (i.rod.pred qa.toNat l) (i.rod.pred qb.toNat l)))) ∧
  (∀ r ∈ pred1Rows, ∀ (s : State) (i : Iss) (g : Guard) (qd qa : BitVec 4), Ready s i [] [] →
    Completes (exec (r.con g qd qa) s) s i.rid (i.rod.setPreds (i.part g) qd.toNat (fun l => r.f (i.rod.pred qa.toNat l))))

/-- R186: the Kleene tables, with 11 taken as U. -/
def Sys2Proof.Claims.KleeneTables : Prop :=
  (∀ a b : BitVec 2,
    qAnd a b = (if a = 0 ∨ b = 0 then 0 else if a = 1 ∧ b = 1 then 1 else 2) ∧
    qOr a b = (if a = 1 ∨ b = 1 then 1 else if a = 0 ∧ b = 0 then 0 else 2) ∧
    qXor a b = (if a = 0 ∧ b = 1 ∨ a = 1 ∧ b = 0 then 1 else if a = 0 ∧ b = 0 ∨ a = 1 ∧ b = 1 then 0 else 2)) ∧
  (∀ a : BitVec 2,
    qNot a = (if a = 0 then 1 else if a = 1 then 0 else 2) ∧ qSure a = (if a = 1 then 1 else 0) ∧ qMaybe a = (if a = 0 then 0 else 1))

/-- R186, R234 to R237: what division, shifts, bit fields, bit counts and the Kleene forms compute. -/
def Obligations.IntegerRules : Prop :=
  Claims.DivisionRules ∧ Claims.ShiftRules ∧ Claims.BitFieldRules ∧ Claims.BitCountRules ∧ Claims.KleeneTables

/-- R248 to R250: votes, masks and predicates from words. -/
def Sys2Proof.Claims.VoteMaskFromResults : Prop :=
  (∀ (s : State) (i : Iss) (g : Guard) (mode : VoteMode) (qd qa : BitVec 4), Ready s i [] [] →
    ∃ v : BitVec 2, Completes (exec (.qvote g mode qd qa) s) s i.rid (i.rod.setPreds (i.part g) qd.toNat (fun _ => v)) ∧
      ∀ vs, vs = (lanes (i.part g)).map (i.rod.pred qa.toNat) →
        match mode with
        | .all => v = (if ∀ x ∈ vs, x = 1 then 1 else if ∃ x ∈ vs, x = 0 then 0 else 2)
        | .any => v = (if ∃ x ∈ vs, x = 1 then 1 else if ∀ x ∈ vs, x = 0 then 0 else 2)
        | .same => v = (if ∀ x ∈ vs, ∀ y ∈ vs, qNorm x = qNorm y then 1 else 0)) ∧
  (∀ (s : State) (i : Iss) (g : Guard) (d : Operand) (qa : BitVec 4), Ready s i [(d, 1)] [] → isReg d = true →
    ∀ e ∈ [(MaskMode.t, (1 : BitVec 2)), (.f, 0), (.u, 2)],
      Completes (exec (.qmask g e.1 d qa) s) s i.rid (writeInt i.rod (i.part g) d (fun n _ =>
        (maskOf (fun l => (i.part g).has l && qNorm (i.rod.pred qa.toNat l) == e.2)).setWidth n))) ∧
  (∀ (s : State) (i : Iss) (g : Guard) (k : BitVec 8), Ready s i [(.w k, 1)] [] →
    Completes (exec (.qmask g .word (.w k) 0) s) s i.rid (i.rod.setLws (i.part g) k.toNat i.rod.predWord)) ∧
  (∀ (s : State) (i : Iss) (g : Guard) (qd : BitVec 4) (a : Operand) (m : Option SrcMod), Ready s i [] [(a, 1)] →
    Completes (exec (.qfrom g .nz qd a m) s) s i.rid (i.rod.setPreds (i.part g) qd.toNat (fun l =>
      if (srcs s i g m).int .a a false 64 l ≠ 0 then 1 else 0)) ∧
    Completes (exec (.qfrom g .code qd a m) s) s i.rid (i.rod.setPreds (i.part g) qd.toNat (fun l =>
      qNorm (((srcs s i g m).int .a a false 32 l).setWidth 2))) ∧
    Completes (exec (.qfrom g .bit qd a m) s) s i.rid (i.rod.setPreds (i.part g) qd.toNat (fun l =>
      if ((srcs s i g m).int .a a false 32 l).getLsbD l then 1 else 0)) ∧
    Completes (exec (.qfrom g .word 0 a m) s) s i.rid ((lanes (i.part g)).foldl (fun x l =>
      x.setPredWord l ((srcs s i g m).int .a a false 32 l)) i.rod))

/-- R246 to R250: predicate instructions. -/
def Obligations.PredicateAndVoteResults : Prop :=
  Claims.PredicateResults ∧ Claims.VoteMaskFromResults

/-- R252 to R256, R258 to R260: with room on the stack for the paths and frames it makes, a control instruction changes nothing but where
the paths of its rod stand. -/
def Sys2Proof.Claims.ControlChangesPathsOnly : Prop :=
  ∀ (s : State) (i : Iss) (g : Guard), s.issuer = some i →
    Completes (exec (.nop g) s) s i.rid i.rod ∧ Completes (exec (.yield g) s) s i.rid i.rod ∧
    (1 ≤ i.rod.freeEntries → ∀ off,
      Completes (exec (.br g off) s) s i.rid i.rod ∧ Completes (exec (.join off) s) s i.rid i.rod) ∧
    (2 ≤ i.rod.freeEntries → ∀ q t f u off,
      Completes (exec (.br3 q t f u) s) s i.rid i.rod ∧ Completes (exec (.call g off) s) s i.rid i.rod) ∧
    (1 ≤ i.rod.freeEntries → ∀ f pc e a p, i.slot.path.frame = some f → i.rod.entry f = .frame pc e a p →
      Completes (exec (.ret g) s) s i.rid i.rod) ∧
    (∀ a, Ready s i [] [(a, 1)] → Completes (exec (.sleep g a) s) s i.rid i.rod) ∧
    (∀ a, Ready s i [] [(a, 2)] → (lanes (i.part g)).length ≤ i.rod.freeEntries →
      (∀ l ∈ lanes (i.part g), ((srcs s i g none).d64 .a a l).bits 2 0 = 0 ∧ ((srcs s i g none).d64 .a a l).bits 63 56 = 0) →
      Completes (exec (.jmpi g a) s) s i.rid i.rod)

/-- R252, R253, R256: where each lane of the path goes, in 8-byte words from the branching clause, or to its fall-through. -/
def Sys2Proof.Claims.BranchTargets : Prop :=
  ∀ (s : State) (i : Iss) (g : Guard), s.issuer = some i → Lone i → 32 ≤ i.rod.depth →
    (∀ off, LeavesRod (exec (.br g off) s) i.rid (fun y => ∀ l, i.slot.path.mask.has l = true →
      LaneAt y l (if (i.part g).has l then i.slot.path.pc + off.signExtend 64 * 8 else i.fall))) ∧
    (∀ q t f u, LeavesRod (exec (.br3 q t f u) s) i.rid (fun y => ∀ l, i.slot.path.mask.has l = true →
      LaneAt y l (i.slot.path.pc + (if i.rod.pred q.toNat l = 1 then t else if i.rod.pred q.toNat l = 0 then f else u).signExtend 64 * 8))) ∧
    (∀ a, Ready s i [] [(a, 2)] →
      (∀ l ∈ lanes (i.part g), ((srcs s i g none).d64 .a a l).bits 2 0 = 0 ∧ ((srcs s i g none).d64 .a a l).bits 63 56 = 0) →
      LeavesRod (exec (.jmpi g a) s) i.rid (fun y => ∀ l, i.slot.path.mask.has l = true →
        LaneAt y l (if (i.part g).has l then (srcs s i g none).d64 .a a l else i.fall))) ∧
    (∀ a, Ready s i [] [(a, 2)] →
      (∃ l ∈ lanes (i.part g), ((srcs s i g none).d64 .a a l).bits 2 0 ≠ 0 ∨ ((srcs s i g none).d64 .a a l).bits 63 56 ≠ 0) →
      exec (.jmpi g a) s = trap s i Cause.illegal)

/-- R254, R255: `join` and `call` make a frame for the lanes that are to meet, and `ret` brings them to it. -/
def Obligations.FrameInstructions : Prop :=
  ∀ (s : State) (i : Iss) (g : Guard), s.issuer = some i →
    (∀ off f c, i.rod.freeEntry = some f → i.slot.started = some c → i.slot.path.idx + 1 < c.count →
      LeavesRod (exec (.join off) s) i.rid (fun y =>
        y.entry f = .frame (i.slot.path.pc + off.signExtend 64 * 8) i.slot.path.mask 0 i.slot.path.frame ∧
        ∃ x, y.slot i.sl = some x ∧ x.path = { i.slot.path with idx := i.slot.path.idx + 1, frame := some f, broke := false })) ∧
    (Lone i → 1 ≤ i.rod.depth → i.part g ≠ 0 → ∀ off, i.slot.path.pc + off.signExtend 64 * 8 ≠ i.fall →
      LeavesRod (exec (.call g off) s) i.rid (fun y =>
        y.entry 0 = .frame i.fall (i.part g) 0 none ∧ At y i.sl (i.slot.path.pc + off.signExtend 64 * 8) (i.part g) (some 0) ∧
        (i.slot.path.mask &&& ~~~ i.part g ≠ 0 → At y i.sl.other i.fall (i.slot.path.mask &&& ~~~ i.part g) none))) ∧
    (∀ f pc e a, i.rod.stack = [(f, .frame pc e a none)] → i.slot.path.frame = some f → i.rod.slot i.sl.other = none →
      i.slot.napFor = none → i.slot.yields = false → i.slot.path.mask ≠ 0 →
      (i.part g = i.slot.path.mask → a ||| i.slot.path.mask = e →
        LeavesRod (exec (.ret g) s) i.rid (fun y => y.entry f = .free ∧ At y i.sl pc e none)) ∧
      (i.part g ≠ 0 → i.part g ≠ i.slot.path.mask → pc ≠ i.fall →
        LeavesRod (exec (.ret g) s) i.rid (fun y => y.entry f = .frame pc e (a ||| i.part g) none ∧
          At y i.sl i.fall (i.slot.path.mask &&& ~~~ i.part g) (some f)))) ∧
    (i.slot.path.frame = none → i.part g ≠ 0 → exec (.ret g) s = trap s i Cause.illegal)

/-- R157, R158: an instruction that finds no room on the divergence stack performs nothing and traps with DIVOVF. -/
def Sys2Proof.Claims.DivergenceOverflowTraps : Prop :=
  ∀ (s : State) (i : Iss) (g : Guard) (off : BitVec 48), s.issuer = some i → i.rod.freeEntry = none →
    exec (.join off) s = trap s i Cause.divovf ∧
    (i.part g ≠ 0 → exec (.call g off) s = trap s i Cause.divovf) ∧
    ((i.rod.slot i.sl.other).isSome = true → i.part g ≠ 0 → i.slot.path.mask &&& ~~~ i.part g ≠ 0 →
      exec (.br g off) s = trap s i Cause.divovf)

/-- R157, R158, R252 to R256, R258 to R260: control changes paths only, goes where it says, and traps without room. -/
def Obligations.ControlInstructions : Prop :=
  Claims.ControlChangesPathsOnly ∧ Claims.BranchTargets ∧ Claims.DivergenceOverflowTraps

/-- R202, R258, R259: an instruction goes on to the next of its clause, and from the last one to the clause that follows; a `sleep` or
`yield` there is waited for. -/
def Sys2Proof.Claims.ClauseAdvance : Prop :=
  ∀ (s : State) (i : Iss) (g : Guard) (c : Clause), s.issuer = some i → i.slot.started = some c →
    (i.slot.path.idx + 1 < c.count → LeavesRod (exec (.nop g) s) i.rid (fun y =>
      y.slot i.sl = some { i.slot with path := { i.slot.path with idx := i.slot.path.idx + 1, broke := false }, wait := none })) ∧
    (i.slot.path.idx + 1 = c.count → Lone i →
      LeavesRod (exec (.nop g) s) i.rid (fun y => At y i.sl (i.slot.path.pc + BitVec.ofNat 64 (8 * (c.count + 1))) i.slot.path.mask none) ∧
      (i.part g ≠ 0 → LeavesRod (exec (.yield g) s) i.rid (fun y => ∃ x, y.slot i.sl = some x ∧ x.wait = some .turn ∧ x.path.pc = i.fall)) ∧
      (i.part g ≠ 0 → ∀ a n, Ready s i [] [(a, 1)] → n = ((srcs s i g none).int .a a false 32 (lowest (i.part g))).toNat → 0 < n →
        LeavesRod (exec (.sleep g a) s) i.rid (fun y => ∃ x, y.slot i.sl = some x ∧ x.wait = some (.sleep (s.cycle + n)) ∧ x.path.pc = i.fall)))

/-- R160, R257: `exit` waits for the rod's operations and for the registration of its stores, traps on late causes, and then takes its lanes out of every path and frame of the
rod; the items they held finish. -/
def Sys2Proof.Claims.ExitRemovesLanes : Prop :=
  ∀ (s : State) (i : Iss) (g : Guard), s.issuer = some i →
    (i.part g = 0 → Completes (exec (.exit g) s) s i.rid i.rod) ∧
    (i.part g ≠ 0 → s.opsDone i.rid = false → Waits (exec (.exit g) s) s i .ops) ∧
    (i.part g ≠ 0 → s.opsDone i.rid = true → i.rod.lateCauses ≠ 0 → i.rod.inHandler = false → exec (.exit g) s = trap s i 0) ∧
    (i.part g ≠ 0 → s.opsDone i.rid = true → i.rod.lateCauses = 0 → i.slot.path.mask &&& ~~~ i.part g ≠ 0 →
      Issues (exec (.exit g) s) i (fun u => u.rod i.rid =
        some (({ i.rod with held := i.rod.held &&& ~~~ i.part g }.dropLanes (i.part g)).mergeOld s.cycle))) ∧
    (i.part g = i.slot.path.mask → i.part g ≠ 0 → s.opsDone i.rid = true → i.rod.lateCauses = 0 → i.rod.stack = [] →
      ∀ x, i.rod.slot i.sl.other = some x → x.path.mask &&& i.part g = 0 → x.path.mask ≠ 0 →
      LeavesRod (exec (.exit g) s) i.rid (fun y => y.slot i.sl = none ∧ y.held = i.rod.held &&& ~~~ i.part g ∧
        ∃ z, y.slot i.sl.other = some z ∧ z.path = x.path))

/-- R160, R202, R257 to R259: the end of an instruction, of a clause and of a lane. -/
def Obligations.ClauseAdvanceAndExit : Prop :=
  Claims.ClauseAdvance ∧ Claims.ExitRemovesLanes

/-- R154, R261, R262: `rgive` gives lane words back to the chain's pool of the quadrant and keeps the words that remain; `rtake` takes them
when the pool holds enough; a count that is no multiple of 8, or out of bounds, traps. -/
def Obligations.RegisterClaim : Prop :=
  (∀ (s : State) (i : Iss) (g : Guard) (a : Operand) (n : Nat) (ch : Chain), Ready s i [] [(a, 1)] → i.part g ≠ 0 → n = onceOf s i g a →
    n ≠ 0 → s.chain i.rid.chain = some ch →
    (n % 8 = 0 → n + 8 ≤ i.rod.window → s.rodOps i.rid = [] →
      Issues (exec (.rgive g a) s) i (fun u =>
        (∃ y, u.rod i.rid = some y ∧ y.window = i.rod.window - n ∧ ∀ k l, l < 32 → k < i.rod.window - n → y.lw k l = i.rod.lw k l) ∧
        ∃ c, u.chain i.rid.chain = some c ∧ c.pool.get (quadOf i.rid) 0 = ch.pool.get (quadOf i.rid) 0 + n)) ∧
    (n % 8 ≠ 0 ∨ i.rod.window < n + 8 → exec (.rgive g a) s = trap s i Cause.regidx) ∧
    ∀ p, s.packet ch.launch = some p →
      (n % 8 = 0 → i.rod.window + n ≤ 256 → i.rod.window + n + 8 * (matesOf ch i.rid - 1) ≤ p.window * matesOf ch i.rid →
        n ≤ ch.pool.get (quadOf i.rid) 0 → ch.rtakeQ = [] →
        Issues (exec (.rtake g a) s) i (fun u =>
          u.rod i.rid = some { i.rod with window := i.rod.window + n } ∧
          ∃ c, u.chain i.rid.chain = some c ∧ c.pool.get (quadOf i.rid) 0 = ch.pool.get (quadOf i.rid) 0 - n)) ∧
      (n % 8 ≠ 0 ∨ 256 < i.rod.window + n ∨ p.window * matesOf ch i.rid < i.rod.window + n + 8 * (matesOf ch i.rid - 1) →
        exec (.rtake g a) s = trap s i Cause.regidx) ∧
      (n % 8 = 0 → i.rod.window + n ≤ 256 → i.rod.window + n + 8 * (matesOf ch i.rid - 1) ≤ p.window * matesOf ch i.rid →
        ch.pool.get (quadOf i.rid) 0 < n → ch.rtakeQ = [] →
        LeavesRod (exec (.rtake g a) s) i.rid (fun y => y.window = i.rod.window ∧
          y.slot i.sl = some { i.slot with wait := some .rtake }))) ∧
  (∀ (s : State) (r : RodId) (sl : SlotId) (x : Rod) (y : Slot) (w : DWord) (g : Guard) (a : Operand),
    s.rod r = some x → x.slot sl = some y → y.wait = some .rtake → y.word = some w → decode w = .ok (.rtake g a) →
    ∃ t, exec (.rtakeGrant r sl) s = .next t ∧ exec (.rtake g a) { s with cur := some (r, sl) } = .next t)

/-- R168 to R170, R264, R265, R267: with room in the segment, no thief waiting and the rod's earlier accesses released at core scope, `fork` and `split` push one item for each participating lane that
holds one, the newest first; the launch's outstanding count rises with them and the predicate of each such lane is T. -/
def Sys2Proof.Claims.PoolPush : Prop :=
  ∀ (s : State) (i : Iss) (p : Packet) (cmd : Cmd) (seg : Segment) (g : Guard) (q : BitVec 4) (b : BitVec 8) (n : BitVec 4),
    PoolReady s i p cmd seg → s.released i.rid .core = true → i.part g &&& ~~~ i.rod.held = 0 →
    seg.entries.length + (lanes (i.part g)).length ≤ p.poolE →
    (Ready s i [] [(.w b, n.toNat + 1)] →
      Issues (exec (.fork g q b n) s) i (fun u =>
        u.seg (s.launchOf i.rid) (s.coreOf i.rid) = some { seg with
          entries := ((lanes (i.part g)).map (fun l => poolEntry (i.rod.lws b.toNat (n.toNat + 1) l))).reverse ++ seg.entries } ∧
        ((u.cmd (s.launchOf i.rid)).map (·.outstanding)) = some (cmd.outstanding + (lanes (i.part g)).length) ∧
        u.rod i.rid = some (i.rod.setPreds (i.part g) q.toNat (fun _ => 1)))) ∧
    (∀ (v : View) (x : BitVec 8), Ready s i [(.w x, v.words)] [(.w x, v.words), (.w b, n.toNat)] →
      (∀ l ∈ lanes (i.part g), (splitIv v.fmt ((Pair.ofWords v (i.rod.lws x.toNat v.words l)).iv v.fmt)).isSome = true) →
      Issues (exec (.split g v x q b n) s) i (fun u =>
        (∃ sg, u.seg (s.launchOf i.rid) (s.coreOf i.rid) = some sg ∧ sg.entries.length = seg.entries.length + (lanes (i.part g)).length) ∧
        ((u.cmd (s.launchOf i.rid)).map (·.outstanding)) = some (cmd.outstanding + (lanes (i.part g)).length) ∧
        ∃ y, u.rod i.rid = some y ∧ ∀ l ∈ lanes (i.part g), q ≠ 0 → y.pred q.toNat l = 1))

/-- R170, R174, R266: `take` finishes the items its lanes held and gives each lane the newest entry of the segment; with nothing anywhere
the predicate says whether work is still outstanding. -/
def Sys2Proof.Claims.PoolTake : Prop :=
  ∀ (s : State) (i : Iss) (p : Packet) (cmd : Cmd) (seg : Segment) (g : Guard) (q : BitVec 4) (d : BitVec 8),
    PoolReady s i p cmd seg → i.part g ≠ 0 → Ready s i [(.w d, 16)] [] → seg.recv = none →
    ((lanes (i.part g)).length ≤ seg.entries.length → (∀ e ∈ seg.entries, e.length = 16) →
      Issues (exec (.take g d q) s) i (fun u =>
        (∃ sg, u.seg (s.launchOf i.rid) (s.coreOf i.rid) = some sg ∧ sg.entries = seg.entries.drop (lanes (i.part g)).length) ∧
        ∃ y, u.rod i.rid = some y ∧ y.held = i.rod.held ||| i.part g ∧
          ∀ (j l : Nat) (e : List Word), (lanes (i.part g))[j]? = some l → seg.entries[j]? = some e →
            (q ≠ 0 → y.pred q.toNat l = 1) ∧ ∀ k < 16, y.lw (d.toNat + k) l = e.getD k 0)) ∧
    (seg.entries = [] → p.spCap = 0 → seg.steal = false → ∀ l ∈ lanes (i.part g), q ≠ 0 →
      Issues (exec (.take g d q) s) i (fun u => ∃ y c, u.rod i.rid = some y ∧ u.cmd (s.launchOf i.rid) = some c ∧
        c.outstanding = cmd.outstanding - count (i.part g &&& i.rod.held) ∧
        y.pred q.toNat l = (if c.outstanding = 0 then 0 else 2)))

/-- R268, R269, R263: `poolcfg` sets the segment's spill and steal bits and `poolst` reads the segment; every form is illegal in a launch
without a pool. -/
def Sys2Proof.Claims.PoolConfigStatus : Prop :=
  (∀ (s : State) (i : Iss) (p : Packet) (cmd : Cmd) (seg : Segment) (g : Guard), PoolReady s i p cmd seg → i.part g ≠ 0 →
    (∀ a, Ready s i [] [(a, 1)] →
      Issues (exec (.poolcfg g a) s) i (fun u => u.seg (s.launchOf i.rid) (s.coreOf i.rid) =
        some { seg with spill := (onceOf s i g a).testBit 0, steal := (onceOf s i g a).testBit 1 })) ∧
    (∀ d, Ready s i [(.w d, 1)] [] → seg.entries.length < 2048 →
      Completes (exec (.poolst g d) s) s i.rid (i.rod.setLws (i.part g) d.toNat (fun l =>
        BitVec.ofBool seg.recv.isSome ++ BitVec.ofBool (s.core (s.coreOf i.rid)).stealFor.isSome ++ BitVec.ofBool (i.rod.held.has l) ++
          BitVec.ofNat 11 seg.entries.length |>.setWidth 32)))) ∧
  (∀ (s : State) (i : Iss) (p : Packet) (g : Guard), s.packet (s.launchOf i.rid) = some p → p.poolK = 0 →
    (∀ v x q b n, Ready s i [(.w x, v.words)] [(.w x, v.words), (.w b, n.toNat)] → exec (.split g v x q b n) s = trap s i Cause.illegal) ∧
    (∀ q b n, Ready s i [] [(.w b, n.toNat + 1)] → exec (.fork g q b n) s = trap s i Cause.illegal) ∧
    (∀ d q, Ready s i [(.w d, 16)] [] → exec (.take g d q) s = trap s i Cause.illegal) ∧
    (∀ a, Ready s i [] [(a, 1)] → exec (.poolcfg g a) s = trap s i Cause.illegal) ∧
    (∀ d, Ready s i [(.w d, 1)] [] → exec (.poolst g d) s = trap s i Cause.illegal))

/-- R168 to R170, R174, R263 to R266, R268, R269: the work pool. -/
def Obligations.PoolInstructions : Prop :=
  Claims.PoolPush ∧ Claims.PoolTake ∧ Claims.PoolConfigStatus

/-- R272 to R274, R276: the enclosing arithmetic writes the tightest enclosure, in the view, of the set its row names, per participating lane,
sets the flags of what it wrote, and leaves everything else alone. -/
def Sys2Proof.Claims.EnclosingArithmeticResults : Prop :=
  (∀ r ∈ iv2Rows, ∀ (s : State) (i : Iss) (g : Guard) (v : View) (d a b : Operand) (m : Option SrcMod),
    Ready s i [(d, v.words)] [(a, v.words), (b, v.words)] →
    Completes (exec (r.con g v d a b m) s) s i.rid (writeIv i.rod (i.part g) d v (fun l =>
      v.fmt.out (r.set (ivOf s i g m .a v a l) (ivOf s i g m .b v b l)) (r.clip (ivOf s i g m .b v b l))))) ∧
  (∀ (s : State) (i : Iss) (g : Guard) (v : View) (d a b c : Operand) (m : Option SrcMod),
    Ready s i [(d, v.words)] [(a, v.words), (b, v.words), (c, v.words)] →
    Completes (exec (.ifma g v d a b c m) s) s i.rid (writeIv i.rod (i.part g) d v (fun l =>
      v.fmt.out (((ivOf s i g m .a v a l).mul (ivOf s i g m .b v b l)).add (ivOf s i g m .c v c l)) false)))

/-- R272, R276, R278, R287: the one-source interval instructions. -/
def Sys2Proof.Claims.OneSourceIntervalResults : Prop :=
  ∀ r ∈ iv1Rows, ∀ (s : State) (i : Iss) (g : Guard) (v : View) (d a : Operand) (m : Option SrcMod),
    Ready s i [(d, v.words)] [(a, v.words)] →
    Completes (exec (r.con g v d a m) s) s i.rid (writeIv i.rod (i.part g) d v (fun l => r.f v.fmt (ivOf s i g m .a v a l)))

/-- R275, R277, R279 to R281: scaling, division in two pieces, making intervals and bisection. -/
def Sys2Proof.Claims.ScaleDivideMakeBisect : Prop :=
  ∀ (s : State) (i : Iss) (g : Guard) (v : View) (d a b : Operand) (q : BitVec 4) (m : Option SrcMod),
    (Ready s i [(d, v.words)] [(a, v.words), (b, 1)] →
      Completes (exec (.iscl g v d a b m) s) s i.rid (writeIv i.rod (i.part g) d v (fun l =>
        v.fmt.out ((ivOf s i g m .a v a l).mapFin (fun x => x * two (clampInt (-16384) 16384 ((srcs s i g m).int .b b false 32 l).toInt))) false))) ∧
    (Ready s i [(d, v.words)] [(a, v.words), (b, v.words)] →
      Completes (exec (.imk g v d a b m) s) s i.rid (writeIv i.rod (i.part g) d v (fun l =>
        v.fmt.out (IV.ofBounds (v.fmt.value ((srcs s i g m).ivl .a v a l).lo) (v.fmt.value ((srcs s i g m).ivl .b v b l).hi)) false))) ∧
    (∀ k, a = .w k → Ready s i [(d, v.words)] [(a, if v = .y then 2 else 1)] →
      Completes (exec (.ipt g v d a m) s) s i.rid (writeIv i.rod (i.part g) d v (fun l =>
        match v.fmt.value (ofWords (i.rod.lws k.toNat (if v = .y then 2 else 1) (modLane m .a l)) % 2 ^ v.fmt.width) with
        | some (.fin x) => v.fmt.out (IV.point x) false
        | _ => v.fmt.out .empty false))) ∧
    (Ready s i [(d, 2 * v.words)] [(a, v.words), (b, v.words)] → ∃ e : Nat → IV × Option IV,
      (∀ l, e l = (ivOf s i g m .a v a l).divPieces (ivOf s i g m .b v b l)) ∧
      Completes (exec (.idiv2 g v d a b q m) s) s i.rid
        ((writeWords i.rod (i.part g) d
          (fun l => (v.fmt.enclose (e l).1).words v ++ (v.fmt.enclose ((e l).2.getD .empty)).words v)
          (fun l => (v.fmt.out (e l).1 (ivOf s i g m .b v b l).hasZero).flags |||
            (v.fmt.out ((e l).2.getD .empty) (ivOf s i g m .b v b l).hasZero).flags)).setPreds (i.part g) q.toNat
          (fun l => if (e l).2.isSome then 1 else 0))) ∧
    (Ready s i [(d, 2 * v.words)] [(a, v.words)] →
      Completes (exec (.ibis g v d a q m) s) s i.rid
        ((writeWords i.rod (i.part g) d
          (fun l => match splitIv v.fmt (ivOf s i g m .a v a l) with
            | some (x, y) => (v.fmt.enclose x).words v ++ (v.fmt.enclose y).words v
            | none => (v.fmt.enclose (ivOf s i g m .a v a l)).words v ++ v.fmt.emptyPair.words v)
          (fun l => match splitIv v.fmt (ivOf s i g m .a v a l) with
            | some (x, y) => (v.fmt.out x false).flags ||| (v.fmt.out y false).flags
            | none => (v.fmt.out (ivOf s i g m .a v a l) false).flags)).setPreds (i.part g) q.toNat
          (fun l => if (splitIv v.fmt (ivOf s i g m .a v a l)).isSome then 1 else 0)))

/-- R272 to R281, R287: interval arithmetic. -/
def Obligations.IntervalArithmeticResults : Prop :=
  Claims.EnclosingArithmeticResults ∧ Claims.OneSourceIntervalResults ∧ Claims.ScaleDivideMakeBisect

/-- R187, R188, R282, R283: relations and classes write their predicate; only an order relation that meets Empty sets EMPTY. -/
def Sys2Proof.Claims.IntervalRelations : Prop :=
  (∀ (s : State) (i : Iss) (g : Guard) (v : View) (rel : IRel) (q : BitVec 4) (a b : Operand) (m : Option SrcMod),
    Ready s i [] [(a, v.words), (b, v.words)] →
    ∃ r : Nat → BitVec 2 × Bool, (∀ l, r l = ivRel rel (ivOf s i g m .a v a l) (ivOf s i g m .b v b l)
        (v.fmt.value ((srcs s i g m).ivl .b v b l).lo)) ∧
      Completes (exec (.icmp g v rel q a b m) s) s i.rid
        ((i.rod.setPreds (i.part g) q.toNat (fun l => (r l).1)).setIflags (if (lanes (i.part g)).any (fun l => (r l).2) then 1 else 0))) ∧
  (∀ (s : State) (i : Iss) (g : Guard) (v : View) (cls : ICls) (q : BitVec 4) (a : Operand) (m : Option SrcMod),
    Ready s i [] [(a, v.words)] →
    Completes (exec (.icls g v cls q a m) s) s i.rid (i.rod.setPreds (i.part g) q.toNat (fun l =>
      if ivCls cls (ivOf s i g m .a v a l) then 1 else 0))) ∧
  (∀ (a b c d : XR) (pt : Option XR),
    ivRel .lt (.mk a b) (.mk c d) pt = (if b.lt c then 1 else if d.le a then 0 else 2, false) ∧
    ivRel .le (.mk a b) (.mk c d) pt = (if b.le c then 1 else if d.lt a then 0 else 2, false) ∧
    ivRel .gt (.mk a b) (.mk c d) pt = ivRel .lt (.mk c d) (.mk a b) pt ∧
    ivRel .ge (.mk a b) (.mk c d) pt = ivRel .le (.mk c d) (.mk a b) pt ∧
    ivRel .eq (.mk a b) (.mk c d) pt = (if a = b ∧ b = c ∧ c = d then 1 else if b.lt c ∨ d.lt a then 0 else 2, false) ∧
    ivRel .ne (.mk a b) (.mk c d) pt = (if b.lt c ∨ d.lt a then 1 else if a = b ∧ b = c ∧ c = d then 0 else 2, false)) ∧
  (∀ (x : IV) (pt : Option XR), ∀ r ∈ [IRel.lt, .le, .gt, .ge, .eq, .ne], ivRel r .empty x pt = (2, true) ∧ ivRel r x .empty pt = (2, true))

/-- R284 to R286: conversions between types, and the compressed forms. -/
def Sys2Proof.Claims.IntervalConversions : Prop :=
  ∀ (s : State) (i : Iss) (g : Guard) (dt st : Ty) (hi : Bool) (v : View) (d a : Operand) (m : Option SrcMod),
    (dt.isView = true → st.isView = true → Ready s i [(d, dt.view.words)] [(a, st.view.words)] →
      Completes (exec (.icvt g dt st hi d a m) s) s i.rid (writeIv i.rod (i.part g) d dt.view (fun l =>
        dt.view.fmt.out (ivOf s i g m .a st.view a l) false))) ∧
    (dt.isView = true → st.isView = false → st.isInteger = true → st.is64 = false → Ready s i [(d, dt.view.words)] [(a, 1)] →
      Completes (exec (.icvt g dt st hi d a m) s) s i.rid (writeIv i.rod (i.part g) d dt.view (fun l =>
        dt.view.fmt.out (IV.point (asType st ((srcs s i g m).int .a a (intType st).2 64 l).toNat)) false))) ∧
    (dt.isView = true → st.isView = false → st.isInteger = true → st.is64 = true → Ready s i [(d, dt.view.words)] [(a, 2)] →
      Completes (exec (.icvt g dt st hi d a m) s) s i.rid (writeIv i.rod (i.part g) d dt.view (fun l =>
        dt.view.fmt.out (IV.point (asType st ((srcs s i g m).d64 .a a l).toNat)) false))) ∧
    (dt.isView = true → st.isView = false → st.isInteger = false → st.is64 = false → Ready s i [(d, dt.view.words)] [(a, 1)] →
      Completes (exec (.icvt g dt st hi d a m) s) s i.rid (writeIv i.rod (i.part g) d dt.view (fun l =>
        ivOfPoint dt.view.fmt (pointFmt st) (((srcs s i g m).int .a a false 32 l).toNat % 2 ^ (pointFmt st).width)))) ∧
    (dt.isView = false → dt.is64 = true → st.isView = true → Ready s i [(d, 2)] [(a, st.view.words)] → ∃ n : Nat → Int,
      (∀ l, n l = (ivToInt (ivOf s i g m .a st.view a l) hi (intRange dt).1 (intRange dt).2).1) ∧
      Completes (exec (.icvt g dt st hi d a m) s) s i.rid (writeWords i.rod (i.part g) d
        (fun l => [BitVec.ofInt 32 (n l), BitVec.ofInt 32 (n l / 2 ^ 32)])
        (fun l => if ivOf s i g m .a st.view a l = .empty then 1 else 0))) ∧
    (dt.isView = false → dt.is64 = false → st.isView = true → Ready s i [(d, 1)] [(a, st.view.words)] →
      Completes (exec (.icvt g dt st hi d a m) s) s i.rid (writeWords i.rod (i.part g) d
        (fun l => [BitVec.ofInt 32 (ivToInt (ivOf s i g m .a st.view a l) hi (intRange dt).1 (intRange dt).2).1])
        (fun l => if ivOf s i g m .a st.view a l = .empty then 1 else 0))) ∧
    (Ready s i [(d, 2)] [(a, View.y.words)] →
      Completes (exec (.imr g .y none d a m) s) s i.rid (writeWords i.rod (i.part g) d
        (fun l => [wordAt (mrcCompress fp64 (ivOf s i g m .a .y a l)) 0, wordAt (mrcCompress fp64 (ivOf s i g m .a .y a l)) 1]) (fun _ => 0))) ∧
    (v ≠ .y → Ready s i [(d, 1)] [(a, v.words)] →
      Completes (exec (.imr g v none d a m) s) s i.rid (writeWords i.rod (i.part g) d
        (fun l => [wordAt (mrcCompress v.fmt (ivOf s i g m .a v a l)) 0]) (fun _ => 0))) ∧
    (∀ pf b, Ready s i [(d, 2)] [(a, v.words), (b, 1)] → ∃ r : Nat → Nat × Nat × Word,
      (∀ l, r l = planeElem v.fmt pf.fmt (ivOf s i g m .a v a l) (((srcs s i g m).int .b b false 32 l).extractLsb' 0 8).toInt) ∧
      Completes (exec (.imr g v (some (pf, b)) d a m) s) s i.rid (writeWords i.rod (i.part g) d
        (fun l => [BitVec.ofNat 32 (r l).1, BitVec.ofNat 32 (r l).2.1]) (fun l => (r l).2.2))) ∧
    (∀ k, a = .w k → Ready s i [(d, v.words)] [(a, if v = .y then 2 else 1)] →
      Completes (exec (.ixr g v d a m) s) s i.rid (writeIv i.rod (i.part g) d v (fun l =>
        v.fmt.outPair (mrcExpand v.fmt (ofWords (i.rod.lws k.toNat (if v = .y then 2 else 1) (modLane m .a l)))) false)))

/-- R187, R188, R282 to R286: relations, classes and conversions. -/
def Obligations.IntervalRelationsAndConversions : Prop :=
  Claims.IntervalRelations ∧ Claims.IntervalConversions

/-- R183: rounding down gives the greatest value of the format that is not above a number, rounding up the least that is not below. -/
def Sys2Proof.Claims.DirectedRoundingIsTight : Prop :=
  ∀ (f : Fmt), isViewFmt f → ∀ (q : XR),
    (∃ x, f.value (f.down q) = some x ∧ x.le q = true ∧ ∀ c y, f.value c = some y → y.le q = true → y.le x = true) ∧
    (∃ x, f.value (f.up q) = some x ∧ q.le x = true ∧ ∀ c y, f.value c = some y → q.le y = true → x.le y = true)

/-- R184, R272: every result of the arithmetic on members of the operands is a member of the interval written. -/
def Sys2Proof.Claims.EnclosureHoldsEveryResult : Prop :=
  ∀ (f : Fmt), isViewFmt f → ∀ (a b c : Pair) (x y z : Rat), IV.mem x (a.iv f) → IV.mem y (b.iv f) → IV.mem z (c.iv f) →
    IV.mem (x + y) (outIv f (ivAdd f a b)) ∧ IV.mem (x - y) (outIv f (ivSub f a b)) ∧ IV.mem (x * y) (outIv f (ivMul f a b)) ∧
    IV.mem (x * y + z) (outIv f (ivFma f a b c)) ∧ IV.mem (-x) (outIv f (ivNeg f a)) ∧
    IV.mem (if x < 0 then -x else x) (outIv f (ivAbs f a)) ∧ IV.mem (x * x) (outIv f (ivSqr f a)) ∧
    IV.mem (min x y) (outIv f (ivMin f a b)) ∧ IV.mem (max x y) (outIv f (ivMax f a b)) ∧
    IV.mem x (outIv f (ivHull f a b)) ∧ IV.mem y (outIv f (ivHull f a b)) ∧
    (y ≠ 0 → IV.mem (x / y) (outIv f (ivDiv f a b)) ∧ IV.mem (1 / y) (outIv f (ivRcp f b)))

/-- R182: what the enclosing arithmetic writes is canonical: the pair of codes of an interval is the tightest pair of what it reads as. -/
def Sys2Proof.Claims.EnclosuresAreCanonical : Prop :=
  ∀ (f : Fmt), isViewFmt f → ∀ (lo hi : Option XR) (x : IV), x = IV.ofBounds lo hi → f.enclose ((f.enclose x).iv f) = f.enclose x ∧
    ((f.enclose x).iv f = .empty → f.enclose x = ⟨f.posInf, f.negInf⟩) ∧
    ∀ p, f.enclose x = p → p.lo ≠ f.signBit ∧ p.hi ≠ f.signBit

/-- R182 to R184: directed rounding is tight, the interval written holds every result, and it is canonical. -/
def Obligations.EnclosureSoundness : Prop :=
  Claims.DirectedRoundingIsTight ∧ Claims.EnclosureHoldsEveryResult ∧ Claims.EnclosuresAreCanonical

/-- R299 to R304: the row statistics, in lane mode over the segment of each lane, and in row mode over the rows of the scratchpad; a lane whose
row is misaligned, runs beyond the allocation or has more than 4,096 entries gets Empty, with the late cause ACCV. `smxnorm` divides each entry of
its segment, clipped to [0, H], by the sum of it and the others, rounded outward, and its predicate says whether any entry is unmasked. -/
def Obligations.RowStatistics : Prop :=
  (∀ r ∈ rowStats, ∀ (s : State) (i : Iss) (g : Guard) (v : View) (z : BitVec 3) (d a : Operand) (m : Option SrcMod),
    Ready s i [(d, r.regs * v.words)] [(a, v.words)] →
    Completes (exec (r.con g v z d a none m) s) s i.rid (writeWords i.rod (i.part g) d
      (fun l => (r.f v.fmt (segmentOf s i g m v z.toNat a l)).flatMap (fun o => o.pair.words v))
      (fun l => (r.f v.fmt (segmentOf s i g m v z.toNat a l)).foldl (fun x o => x ||| o.flags) 0))) ∧
  (∀ r ∈ rowStats, ∀ (s : State) (i : Iss) (g : Guard) (v : View) (z : BitVec 3) (d a b : Operand) (m : Option SrcMod) (ch : Chain),
    Ready s i [(d, r.regs * v.words)] [(a, 1), (b, 1)] → s.chain i.rid.chain = some ch → ch.scrBad = [] →
    (∀ l ∈ lanes (i.part g), ∀ off n, rowOf s i g v a b m ch l = some (off, n) → ∀ j < n * (4 * v.words), ch.full ((off + j) / 128) = true) →
    Completes (exec (r.con g v z d a (some b) m) s) s i.rid
      (writeWords (i.rod.raise (if (lanes (i.part g)).all (fun l => (rowOf s i g v a b m ch l).isSome) then 0 else Cause.accv)) (i.part g) d
        (fun l => (rowOut r v ch (rowOf s i g v a b m ch l)).flatMap (fun o => o.pair.words v))
        (fun l => (rowOut r v ch (rowOf s i g v a b m ch l)).foldl (fun x o => x ||| o.flags) 0))) ∧
  (∀ (s : State) (i : Iss) (g : Guard) (v : View) (z : BitVec 3) (d a : Operand) (q : BitVec 4) (m : Option SrcMod),
    Ready s i [(d, v.words)] [(a, v.words)] →
    Completes (exec (.smxexp g v z d a m) s) s i.rid (writeIv i.rod (i.part g) d v (fun l =>
      expEntry v.fmt (ivOf s i g m .a v a l) (expShift (segmentOf s i g m v z.toNat a l)))) ∧
    Completes (exec (.smxnorm g v z d a q m) s) s i.rid (writeIv
      (i.rod.setPreds (i.part g) q.toNat (fun l => if (unmasked (sharesOf s i g m v z.toNat a l)).isEmpty then 0 else 1)) (i.part g) d v (fun l =>
        { normEntry v.fmt (sharesOf s i g m v z.toNat a l) (l % 2 ^ z.toNat) with
          flags := (normEntry v.fmt (sharesOf s i g m v z.toNat a l) (l % 2 ^ z.toNat)).flags |||
            (if ((ivOf s i g m .a v a l).clipPos false).2 then flagDomclip else 0) }))) ∧
  (∀ (f : Fmt) (xs : List IV) (k : Nat) (p q : Rat) (ys : List (Rat × Rat)), xs[k]? = some (.mk (.fin p) (.fin q)) →
    unmasked (xs.eraseIdx k) = ys.map (fun e => (.fin e.1, .fin e.2)) →
    (ys = [] → normEntry f xs k = f.out (.mk (.fin 1) (.fin 1)) false) ∧
    (ys ≠ [] → p + (ys.map Prod.snd).sum ≠ 0 → q + (ys.map Prod.fst).sum ≠ 0 →
      normEntry f xs k = f.outPair ⟨f.down (.fin (p / (p + (ys.map Prod.snd).sum))), f.up (.fin (q / (q + (ys.map Prod.fst).sum)))⟩ false)) ∧
  (∀ (f : Fmt) (xs ys : List IV), isViewFmt f → xs.Perm ys → rowMax f xs = rowMax f ys ∧ rowMin f xs = rowMin f ys ∧ rowSum f xs = rowSum f ys)

/-- R292 to R295: `tblld` is taken on as an operation, `tblsw` exchanges the banks of the core, and `tblq` reads them. -/
def Sys2Proof.Claims.TableStoreInstructions : Prop :=
  ∀ (s : State) (i : Iss) (g : Guard) (tid : BitVec 4) (slot : BitVec 8) (d a : Operand), s.issuer = some i →
    (Ready s i [] [(a, 2)] → i.part g ≠ 0 → i.flagFull = false → s.engineReady i.rid = true →
      Issues (exec (.tblld g a tid slot) s) i (fun u =>
        OpTaken s u i (.table ((srcs s i g none).d64 .a a (lowest (i.part g))) tid.toNat slot.toNat []))) ∧
    (i.part g ≠ 0 → s.tableBefore (s.coreOf i.rid) s.nextId = false →
      Issues (exec (.tblsw g) s) i (fun u => { u with cores := s.cores } = s ∧
        u.core (s.coreOf i.rid) = { s.core (s.coreOf i.rid) with
          bank0 := (s.core (s.coreOf i.rid)).bank1, bank1 := (s.core (s.coreOf i.rid)).bank0, bankNo := !(s.core (s.coreOf i.rid)).bankNo } ∧
        ∀ k, k ≠ coreKey (s.coreOf i.rid) → u.cores.get k Core.reset = s.cores.get k Core.reset)) ∧
    (i.part g ≠ 0 → s.tableBefore (s.coreOf i.rid) s.nextId = true → Waits (exec (.tblsw g) s) s i .memory) ∧
    (∀ k, d = .w k → Ready s i [(d, 1)] [] → ∀ c, c = s.core (s.coreOf i.rid) → ∃ w : Word,
      Completes (exec (.tblq g d tid) s) s i.rid (i.rod.setLws (i.part g) k.toNat (fun _ => w)) ∧
      w.getLsbD 31 = (ownEntry s i c.bank0 tid).isSome ∧ w.getLsbD 30 = (ownEntry s i c.bank1 tid).isSome ∧ w.getLsbD 29 = c.bankNo ∧
      w.getLsbD 28 = s.tableBefore (s.coreOf i.rid) s.nextId ∧ w.extractLsb' 16 12 = 0 ∧
      w.extractLsb' 8 8 = BitVec.ofNat 8 (((ownEntry s i c.bank0 tid).map (·.slot)).getD 0) ∧
      w.extractLsb' 0 8 = BitVec.ofNat 8 (((ownEntry s i c.bank0 tid).map (·.nseg)).getD 0))

/-- R292, R293: a table load that completes writes its segments and its entry into the inactive bank in one step; a misaligned address or a
table that fails the checks makes the entry invalid and raises TBLF. -/
def Sys2Proof.Claims.TableLoadCompletes : Prop :=
  ∀ (s : State) (op : Nat) (o : Op) (va : DWord) (tid slot : Nat) (recs : List Nat) (x : Rod), s.op op = some o →
    o.kind = .table va tid slot recs → o.susp = false → s.tableBefore (s.coreOf o.rod) op = false → s.rod o.rod = some x →
    (va.toNat % 64 ≠ 0 → ∃ t y, exec (.tblldComplete op) s = .next t ∧ t.op op = none ∧
      (t.core (s.coreOf o.rod)).bank1.entries.find tid = none ∧ (t.core (s.coreOf o.rod)).bank0 = (s.core (s.coreOf o.rod)).bank0 ∧
      t.rod o.rod = some y ∧ y.cause = x.cause ||| Cause.tblf) ∧
    (va.toNat % 64 = 0 → ∀ k s1, s.tableReads op o va tid slot recs 0 257 = .ok ((none, k), s1) →
      ∃ t, exec (.tblldComplete op) s = .next t ∧ t.op op = none ∧ (t.core (s.coreOf o.rod)).bank1.entries.find tid = none ∧
        ∀ y, s1.rod o.rod = some y → ∃ z, t.rod o.rod = some z ∧ z.cause = y.cause ||| (Cause.tblf ||| k)) ∧
    (va.toNat % 64 = 0 → ∀ rs k s1 h, s.tableReads op o va tid slot recs 0 257 = .ok ((some rs, k), s1) →
      h = TabEntry.ofNat' (s1.launchOf o.rod) slot (rs.getD 0 0) →
      (tableOk h ((rs.drop 1).map Seg.ofNat') = false →
        ∃ t, exec (.tblldComplete op) s = .next t ∧ t.op op = none ∧ (t.core (s.coreOf o.rod)).bank1.entries.find tid = none ∧
          ∀ y, s1.rod o.rod = some y → ∃ z, t.rod o.rod = some z ∧ z.cause = y.cause ||| (Cause.tblf ||| k)) ∧
      (tableOk h ((rs.drop 1).map Seg.ofNat') = true → rs.length = h.nseg + 2 →
        ∃ t, exec (.tblldComplete op) s = .next t ∧ t.op op = none ∧ (t.core (s.coreOf o.rod)).bank1.entries.find tid = some h ∧
          (t.core (s.coreOf o.rod)).bank1.segsOf h = (rs.drop 1).map Seg.ofNat'))

/-- R296 to R298: `ifn` looks the interval up in the active bank, and writes Entire with TBLF where its launch has no table; `ifnc` is illegal
while sr.compat.EN is 0, and otherwise writes a point with COMPAT. -/
def Sys2Proof.Claims.TableLookup : Prop :=
  ∀ (s : State) (i : Iss) (g : Guard) (v : View) (tid : BitVec 4) (d a : Operand) (m : Option SrcMod),
    (Ready s i [(d, v.words)] [(a, v.words)] →
      (∀ e segs, s.tableOf i.rid tid.toNat = some (e, segs) →
        Completes (exec (.ifn g v tid d a m) s) s i.rid (writeIv i.rod (i.part g) d v (fun l =>
          v.fmt.out (lookup e segs (tableArg s i g m v a l)).1 (lookup e segs (tableArg s i g m v a l)).2))) ∧
      (s.tableOf i.rid tid.toNat = none → i.part g ≠ 0 →
        Completes (exec (.ifn g v tid d a m) s) s i.rid
          (writeIv (i.rod.raise Cause.tblf) (i.part g) d v (fun _ => v.fmt.out (.mk .ninf .pinf) false)))) ∧
    (Ready s i [(d, 2)] [(a, 2)] → i.part g ≠ 0 →
      (i.rod.compat.getLsbD 0 = false → exec (.ifnc g tid d a m) s = trap s i Cause.illegal) ∧
      (i.rod.compat.getLsbD 0 = true →
        (∀ e segs, s.tableOf i.rid tid.toNat = some (e, segs) → ∃ z, Completes (exec (.ifnc g tid d a m) s) s i.rid
            (writeIv i.rod (i.part g) d .f z) ∧
          ∀ l, (z l).pair.lo = (z l).pair.hi ∧ (z l).flags.getLsbD 3 = true ∧
            (z l).pair.lo = code32 (pointFn e segs (i.rod.compat.getLsbD 1) (ivOf s i g m .a .f a l))) ∧
        (s.tableOf i.rid tid.toNat = none → ∃ z, Completes (exec (.ifnc g tid d a m) s) s i.rid
            (writeIv (i.rod.raise Cause.tblf) (i.part g) d .f z) ∧ ∀ l, (z l).pair = ⟨0x7FC00000, 0x7FC00000⟩))) ∧
    (∀ (e : TabEntry) (segs : List Seg), lookup e segs .empty = (.empty, false))

/-- R292 to R298: the function tables. -/
def Obligations.FunctionTables : Prop :=
  Claims.TableStoreInstructions ∧ Claims.TableLoadCompletes ∧ Claims.TableLookup

/-- R207 to R209, R212, R308, R309: a load is taken on as an operation of its rod, in the flag its instruction names; a load whose words all hit
in the L1 binds the bytes that the L1 holds there, and its result is made of them. A load of a uniform register that no lane makes does nothing. -/
def Sys2Proof.Claims.LoadsAreTakenOn : Prop :=
  ∀ (s s' : State) (i : Iss) (g : Guard) (d : Operand) (ad : MAddr) (sc : Scope) (o : Order) (h : Hint) (sp : List (Nat × Spot)) (v : View) (sz : Size),
    (d.isS = true → i.part g = 0 → (Ready s i [(d, sz.words)] ad.regs → Completes (exec (.ld g sz d ad sc o h) s) s i.rid i.rod) ∧
      (Ready s i [(d, v.words)] ad.regs → Completes (exec (.ldmr g v d ad sc o h) s) s i.rid i.rod)) ∧
    (i.flagFull = false → s.mayLoad i sc o = true → allCached s' sp = true → (d.isS = true → i.part g ≠ 0) →
    ∀ k, k = s'.core (s.coreOf i.rid) →
    (Ready s i [(d, sz.words)] ad.regs → Places s i .read sz.bytes (addrsOf s i g ad sz.bytes (actorsOf i g d)) s' sp → AllHit s' i sz.bytes sp →
      s'.awaits i.rid (s'.cachedWords sz.bytes sp) = false →
      Issues (exec (.ld g sz d ad sc o h) s) i (fun u => KeepsRegisters s' u i.rid ∧
        ∃ l, LoadReady u i.rid s'.nextId l ∧ l.kind = .plain sz ∧ l.dst = d ∧ l.ord = o ∧ l.sc = sc ∧
          lanes l.lanes = actorsOf i g d ∧
          ∀ m pa ent, (m, .mem pa ent) ∈ sp → (l.result m).1 = sizedWords sz (l1Num k pa sz.bytes))) ∧
    (Ready s i [(d, v.words)] ad.regs → Places s i .read (if v = .y then 8 else 4) (addrsOf s i g ad (if v = .y then 8 else 4) (actorsOf i g d)) s' sp →
      AllHit s' i (if v = .y then 8 else 4) sp → s'.awaits i.rid (s'.cachedWords (if v = .y then 8 else 4) sp) = false →
      Issues (exec (.ldmr g v d ad sc o h) s) i (fun u => KeepsRegisters s' u i.rid ∧
        ∃ l, LoadReady u i.rid s'.nextId l ∧ l.kind = .mr v ∧ l.dst = d ∧ l.ord = o ∧ l.sc = sc ∧ lanes l.lanes = actorsOf i g d ∧
          ∀ m pa ent, (m, .mem pa ent) ∈ sp → (l.result m).1 = (mrcExpand v.fmt (l1Num k pa (if v = .y then 8 else 4))).words v)))

/-- R209, R308: a load that completes writes the result of each of its lanes to its destination, and nothing else of the rod but the flags its
results set, the count of its completion flag and the stores that its next release waits for. -/
def Sys2Proof.Claims.LoadCompletionWritesRegisters : Prop :=
  ∀ (s : State) (n : Nat) (o : Op) (l : LoadOp) (x : Rod), s.op n = some o → o.kind = .load l → l.need = [] → s.rod o.rod = some x →
    (l.ord.acqs = true → s.mayAcquire o.rod l.sc = true) →
    ∃ t y, exec (.loadComplete n) s = .next t ∧ t.op n = none ∧ t.mem = s.mem ∧ t.rod o.rod = some y ∧
      (∀ k, l.dst = .w k → { y with flags := x.flags, iflags := x.iflags, stores := x.stores } =
        (lanes l.lanes).foldl (fun (z : Rod) m => z.setWords k.toNat m (l.result m).1) x) ∧
      (∀ k m w ws, l.dst = .s k → lanes l.lanes = [m] → (l.result m).1 = w :: ws → { y with flags := x.flags, iflags := x.iflags, stores := x.stores } =
        x.setUn k.toNat (match ws with | [] => w.setWidth 64 | b :: _ => b ++ w))

/-- R310: `lds` and `ldtk` read the chain's scratchpad: the lanes' results are the bytes there; `ldtk` leaves every line it touched empty, `lds`
leaves the lines as they were. -/
def Sys2Proof.Claims.ScratchpadLoads : Prop :=
  ∀ (s : State) (i : Iss) (g : Guard) (sz : Size) (d : Operand) (ad : MAddr) (sc : Scope) (h : Hint) (ch : Chain) (off : Nat → Nat),
    Ready s i [(d, sz.words)] ad.regs → i.flagFull = false → s.acquiring i.rid = false → i.part g ≠ 0 →
    InScratch s i g ad sz.bytes (actorsOf i g d) ch off → (∀ k, ch.full k = true) → ch.scrBad = [] →
    Issues (exec (.lds g sz d ad sc .plain h) s) i (fun u => KeepsRegisters s u i.rid ∧ u.chain i.rid.chain = some ch ∧
      ∃ l, LoadReady u i.rid s.nextId l ∧ l.dst = d ∧ ∀ m ∈ actorsOf i g d, (l.result m).1 = sizedWords sz (ch.nat (off m) sz.bytes)) ∧
    (s.lineRelease i.rid = true → Issues (exec (.ldtk g sz d ad sc .plain h) s) i (fun u => KeepsRegisters s u i.rid ∧
      (∃ l, LoadReady u i.rid s.nextId l ∧ l.dst = d ∧ ∀ m ∈ actorsOf i g d, (l.result m).1 = sizedWords sz (ch.nat (off m) sz.bytes)) ∧
      ∃ c, u.chain i.rid.chain = some c ∧ c.scr = ch.scr ∧ ∀ m ∈ actorsOf i g d, ∀ k ∈ linesOf (off m) sz.bytes, c.full k = false))

/-- R207 to R209, R308 to R310: loads. -/
def Obligations.Loads : Prop :=
  Claims.LoadsAreTakenOn ∧ Claims.LoadCompletionWritesRegisters ∧ Claims.ScratchpadLoads

/-- R310, R117, R57: `sts` and `stfl` write every lane's bytes to the chain's scratchpad, the highest lane's where two meet, leave the lines full,
and change no other byte of it and no memory; `stfl` waits for its lines to be empty. -/
def Sys2Proof.Claims.ScratchpadStores : Prop :=
  ∀ (s : State) (i : Iss) (g : Guard) (sz : Size) (a : Operand) (ad : MAddr) (sc : Scope) (h : Hint) (ch : Chain) (off : Nat → Nat),
    Ready s i [] ((a, sz.words) :: ad.regs) → s.acquiring i.rid = false → s.lineRelease i.rid = true → i.part g ≠ 0 →
    InScratch s i g ad sz.bytes (actorsOf i g a) ch off → ch.scrBad = [] →
    (let P := fun (u : State) => KeepsRegisters s u i.rid ∧ ∃ c, u.chain i.rid.chain = some c ∧
        (∀ b, (∀ m ∈ actorsOf i g a, b < off m ∨ off m + sz.bytes ≤ b) → c.scr.get b 0 = ch.scr.get b 0) ∧
        (∀ m ∈ actorsOf i g a, ∀ k ∈ linesOf (off m) sz.bytes, c.full k = true) ∧
        (∀ k m, (actorsOf i g a)[k]? = some m → ∀ j < sz.bytes, lastAt off sz.bytes (off m + j) ((actorsOf i g a).drop (k + 1)) →
          c.scr.get (off m + j) 0 = ((srcs s i g none).storeData a sz.bytes m).getD j 0)
     Issues (exec (.sts g sz a ad sc .plain h) s) i P ∧
     ((∀ m ∈ actorsOf i g a, ∀ k ∈ linesOf (off m) sz.bytes, ch.full k = false) → Issues (exec (.stfl g sz a ad sc .plain h) s) i P)) ∧
    ((∃ m ∈ actorsOf i g a, ∃ k ∈ linesOf (off m) sz.bytes, ch.full k = true) →
      ∃ ls, Waits (exec (.stfl g sz a ad sc .plain h) s) s i (.fullEmpty ls []))

/-- R83, R308, R309: a cached store writes every lane's bytes to the L1 of the core, the highest lane's where two meet, takes the words it
does not own in Gp and asks for their registration, and leaves memory and every other core
alone; it waits while the core has too many registrations pending (R99). -/
def Sys2Proof.Claims.CachedStores : Prop :=
  ∀ (s s' : State) (i : Iss) (g : Guard) (a : Operand) (ad : MAddr) (sc : Scope) (h : Hint) (sp : List (Nat × Spot)) (v : View) (sz : Size) (x : Rod),
    s.mayStore i sc .plain = true → allCached s' sp = true → s'.rod i.rid = some x →
    (∀ e ∈ sp, ∀ pa ent, e.2 = .mem pa ent → ∀ wd ∈ wordsOf pa 16, ((s'.core (s'.coreOf i.rid)).l1Word wd).bad = false) →
    (let P := fun (z : Nat) (data : Nat → List Byte) (u : State) => KeepsRegisters s' u i.rid ∧
        (∀ c, coreKey c ≠ coreKey (s'.coreOf i.rid) → u.core c = s'.core c) ∧
        (∀ k m pa ent, sp[k]? = some (m, .mem pa ent) → ∀ j < z, (∀ e ∈ sp.drop (k + 1), ∀ p f, e.2 = .mem p f → pa + j < p ∨ p + z ≤ pa + j) →
          StoredByte u (s'.coreOf i.rid) (pa + j) ((data m).getD j 0)) ∧
        ∀ m pa ent, (m, .mem pa ent) ∈ sp → ∀ wd ∈ wordsOf pa z, ((s'.core (s'.coreOf i.rid)).l1Word wd).st.owned = false →
          ((u.core (s'.coreOf i.rid)).l1Word wd).st = .gp ∧ ∃ f,
            (if s'.homeDie (4 * wd) = (s'.coreOf i.rid).die then (if f then Instr.homeRegisterFetch (.core (s'.coreOf i.rid)) wd
              else .homeRegister (.core (s'.coreOf i.rid)) wd) else .nonhomeRegistration (s'.coreOf i.rid) wd f) ∈ u.inflight
     let zmr := if v = .y then 8 else 4
     (Ready s i [] ((a, sz.words) :: ad.regs) → Places s i .write sz.bytes (addrsOf s i g ad sz.bytes (actorsOf i g a)) s' sp →
      ((s'.core (s'.coreOf i.rid)).pending + newWords s' (s'.coreOf i.rid) sz.bytes sp ≤ Config.pendingRegs →
        Issues (exec (.st g sz a ad sc .plain h) s) i (P sz.bytes (fun m => (srcs s i g none).storeData a sz.bytes m))) ∧
      (Config.pendingRegs < (s'.core (s'.coreOf i.rid)).pending + newWords s' (s'.coreOf i.rid) sz.bytes sp → (a.isS = true → i.part g ≠ 0) →
        LeavesRod (exec (.st g sz a ad sc .plain h) s) i.rid (fun y => ∀ z, x.slot i.sl = some z →
          y.slot i.sl = some { z with wait := some .memory }))) ∧
     (Ready s i [] ((a, v.words) :: ad.regs) → Places s i .write zmr (addrsOf s i g ad zmr (actorsOf i g a)) s' sp →
      (s'.core (s'.coreOf i.rid)).pending + newWords s' (s'.coreOf i.rid) zmr sp ≤ Config.pendingRegs →
        Issues (exec (.stmr g v a ad sc .plain h) s) i (P zmr (fun m => bytesOf zmr (mrcCompress v.fmt (ivOf s i g none .a v a m))))))

/-- R57, R83, R117, R308 to R310: stores. -/
def Obligations.Stores : Prop :=
  Claims.ScratchpadStores ∧ Claims.CachedStores

/-- R136, R137, R316 to R318: atomics, reductions and exact sums on memory go to home as one request with the lanes in ascending order, and
change no register when they issue; `atom` and `ld.xs` are loads, which count in the flag that they name, `red` and `red.xs` are posted, and let the rod go on. -/
def Obligations.HomePerformedInstructions : Prop :=
  ∀ (s s' : State) (i : Iss) (g : Guard) (op : AmoOp) (sz : AmoSize) (a : Operand) (ad : MAddr) (sc : Scope) (h : Hint) (sp : List (Nat × Spot)) (v : View),
    s.mayStore i sc .ar = true → i.flagFull = false → sp ≠ [] → (∀ e ∈ sp, ∃ pa ent, e.2 = .mem pa ent) →
    (let P := fun (kind : OpKind → Prop) (flags : List (Nat × BitVec 4)) (accs : List HomeAcc) (u : State) => KeepsRegisters s' u i.rid ∧
        (∃ o, u.op s'.nextId = some o ∧ o.rod = i.rid ∧ o.flags = flags ∧ kind o.kind) ∧
        ∃ req, Instr.homePerformedAccess req ∈ u.inflight ∧ req.op = s'.nextId ∧ req.accs = accs ∧ req.stop = some (stopOf (s'.coreOf i.rid).die)
     let load := fun (k : LoadKind) (kind : OpKind) => ∃ l, kind = .load l ∧ l.kind = k ∧ l.dst = a ∧ l.lanes = i.part g ∧ l.sc = sc
     let quiet := fun (accs : List HomeAcc) => s'.homeReady (s'.coreOf i.rid) (accs.flatMap HomeAcc.words) = true
     let cells := ∀ e ∈ sp, ∀ pa ent, e.2 = .mem pa ent → Pte.cnt ent = false ∧ Pte.pageClass ent ≠ .device
     let amo := accsAt sp sz.bytes (fun l => .amo op ((srcs s i g none).amoArgs a sz l).1 ((srcs s i g none).amoArgs a sz l).2)
       (fun pa ent => s'.homeHint pa ent h)
     let rds := accsAt sp 128 (fun _ => .xsRead) (fun _ _ => .normal)
     let adds := accsAt sp 128 (fun l => .xsAdd (i.rod.lw (wordNum a) l) (i.rod.lw (wordNum a + 1) l)) (fun _ _ => .normal)
     (Places s i .write sz.bytes (addrsOf s i g { ad with ofs := 0 } 0 (lanes (i.part g))) s' sp → quiet amo →
       (Ready s i [(a, sz.bytes / 4)] ((a, if op = .cas then 2 * (sz.bytes / 4) else sz.bytes / 4) :: ad.regs) →
         Issues (exec (.atom g op sz a ad sc .plain h) s) i (P (load (.atom sz)) (flagsOf i true) amo)) ∧
       (Ready s i [] ((a, sz.bytes / 4) :: ad.regs) → Issues (exec (.red g op sz a ad sc .plain h) s) i (P (· = .posted) [] amo))) ∧
     (Ready s i [(a, v.words)] ad.regs → Places s i .read 128 (addrsOf s i g ad 128 (lanes (i.part g))) s' sp → cells → quiet rds →
       Issues (exec (.ldXs g v a ad sc .plain) s) i (P (load (.xs v)) (flagsOf i true) rds)) ∧
     (Ready s i [] ((a, 2) :: ad.regs) → Places s i .write 128 (addrsOf s i g ad 128 (lanes (i.part g))) s' sp → cells → quiet adds →
       Issues (exec (.redXs g a ad sc .plain) s) i (P (· = .posted) [] adds)))

/-- R57, R58, R311: `fest` sets the lines its lanes touch, `feq` reads whether they are full; an access that waits for lines does nothing while
no scratchpad has all of those that it touches there in the state waited for, and performs once all are; a load reads, of each scratchpad, the
part whose lines are all full and no other. -/
def Sys2Proof.Claims.FullEmptyLines : Prop :=
  (∀ (s : State) (i : Iss) (g : Guard) (ad : MAddr) (h : Hint) (ch : Chain) (off : Nat → Nat),
    InScratch s i g ad 1 (lanes (i.part g)) ch off →
    (∀ full, Ready s i [] ad.regs → s.lineRelease i.rid = true → Issues (exec (.fest g full ad h) s) i (fun u => u.mem = s.mem ∧ u.rod i.rid = some i.rod ∧
      ∃ c, u.chain i.rid.chain = some c ∧ c.scr = ch.scr ∧
        (∀ m ∈ lanes (i.part g), c.full (off m / 128) = full) ∧
        ∀ k, (∀ m ∈ lanes (i.part g), k ≠ off m / 128) → c.full k = ch.full k)) ∧
    (∀ k, Ready s i [(.w k, 1)] ad.regs → Completes (exec (.feq g (.w k) ad h) s) s i.rid
      (i.rod.setLws (i.part g) k.toNat (fun m => if ch.full (off m / 128) then 1 else 0)))) ∧
  (∀ (s : State) (r : RodId) (sl : SlotId) (x : Rod) (y : Slot) (w : DWord) (lw : List LineWait) (got : List Fetched), s.rod r = some x →
    x.slot sl = some y → y.wait = some (.fullEmpty lw got) → y.word = some w →
    (s.partMet lw = false → (decode w).toOption.isSome = true → exec (.fullEmptyRelease r sl) s = .next s) ∧
    (lw.all s.lineMet = true → ∀ g sz d ad sc o h, decode w = .ok (.ldtk g sz d ad sc o h) →
      ∀ i ch off, i.rid = r → i.sl = sl → InScratch s i g ad sz.bytes (actorsOf i g d) ch off → Ready { s with cur := some (r, sl) } i [(d, sz.words)] ad.regs →
        i.flagFull = false → s.acquiring r = false → s.lineRelease r = true → o = .plain → i.part g ≠ 0 → (∀ k, ch.full k = true) →
        Issues (exec (.fullEmptyRelease r sl) s) i (fun u => ∃ l, LoadReady u r s.nextId l ∧ l.dst = d))) ∧
  (∀ (s : State) (z m c off : Nat) (sp : List (Nat × Spot)) (ch : Chain), (sp.map Prod.fst).Nodup → (m, .scr c off) ∈ sp → s.chain c = some ch →
    ((⟨m, ch.nat off z, ch.anyBad off z⟩ : Fetched) ∈ (s.readParted z sp []).1 ↔
      ∀ e ∈ sp, ∀ k, e.2 = .scr c k → ∀ n ∈ linesOf k z, ch.full n = true))

/-- R312, R313: `gth` takes places in the gather queue for the words of its row, and its row arrives in them: column j holds, for each lane that
the row was read for, word j of its bytes, and 0 for the others; the order of the queue is that of issue. -/
def Sys2Proof.Claims.GatherQueue : Prop :=
  (∀ (s : State) (i : Iss) (g : Guard) (sz : Size) (ad : MAddr) (h : Hint), Ready s i [] ad.regs → i.flagFull = false → s.engineReady i.rid = true →
    i.rod.gx.length + sz.bytes / 4 ≤ Config.gatherWords →
    (i.part g ≠ 0 → Issues (exec (.gth g sz ad h) s) i (fun u => u.mem = s.mem ∧
      (∃ o, u.op s.nextId = some o ∧ o.rod = i.rid ∧
        ∃ gt, o.kind = .gather gt ∧ gt.words = sz.bytes / 4 ∧ gt.hint = h ∧ gt.reads = (lanes (i.part g)).flatMap (fun l =>
          gatherReads (sz.bytes / 4) l ((srcs s i g none).addr ad sz.bytes l))) ∧
      ∃ y, u.rod i.rid = some y ∧ { y with flags := i.rod.flags, gx := i.rod.gx } = i.rod ∧ ∃ row, y.gx = i.rod.gx ++ row ∧
        row.length = sz.bytes / 4 ∧ ∀ e ∈ row, e.op = some s.nextId)) ∧
    (i.part g = 0 → Completes (exec (.gth g sz ad h) s) s i.rid
      { i.rod with gx := i.rod.gx ++ List.replicate (sz.bytes / 4) { op := none, vals := List.replicate 32 0 } })) ∧
  (∀ (s s' : State) (n : Nat) (o : Op) (gt : GatherOp) (x : Rod) (sp : List (Nat × Spot)) (ch : Chain) (cid : Nat),
    s.op n = some o → o.kind = .gather gt → o.susp = false → s.rod o.rod = some x →
    s.spotAll (gatherIss o x) .read (4 * gt.words) (gt.reads.zipIdx.map (fun e => (e.2, e.1.2.2))) =
      .ready s' sp → s'.op n = some o → s'.rod o.rod = some x → s'.chain cid = some ch → ch.scrBad = [] → (∀ k, ch.full k = true) →
    (∀ e ∈ sp, ∃ off, e.2 = .scr cid off) → gt.got = [] → gt.bad = [] → ∀ (off : Nat → Nat) (ls : List Nat), ls.Nodup → (∀ l ∈ ls, l < 32) →
    gt.reads.map (fun e => (e.1, e.2.1)) = ls.flatMap (fun l => (List.range gt.words).map (fun j => (l, j))) →
    (∀ e ∈ (gt.reads.zip sp), e.2.2 = .scr cid (off e.1.1)) →
    x.gx.countP (fun e => e.op == some n) = gt.words → gt.words ≤ 16 →
    ∃ t y, exec (.gatherRowArrive n) s = .next t ∧ t.op n = none ∧ t.mem = s'.mem ∧ t.rod o.rod = some y ∧ y.gx.length = x.gx.length ∧
      (∀ e ∈ y.gx, e.op ≠ some n) ∧ (∀ (k : Nat) (e : GxWord), x.gx[k]? = some e → e.op ≠ some n → y.gx[k]? = some e) ∧
      ∀ (k : Nat) (e : GxWord), x.gx[k]? = some e → e.op = some n → ∃ e', y.gx[k]? = some e' ∧ e'.bad = 0 ∧
        ∀ l < 32, e'.vals.getD l 0 = if l ∈ ls then BitVec.ofNat 32 (ch.nat (off l + 4 * (x.gx.take k).countP (fun e => e.op == some n)) 4) else 0)

/-- R57, R58, R311 to R313: full and empty lines, and the gather queue. -/
def Obligations.FullEmptyAndGather : Prop :=
  Claims.FullEmptyLines ∧ Claims.GatherQueue

/-- R102, R103, R314: `prf` changes no register and no value that a word reads as (no soft error strikes meanwhile); `inv` drops the core's unowned copies of a range and no owned word; `wbk` sends the registered words
of a range home and keeps them in V; `own` asks for its words. -/
def Obligations.CacheInstructions : Prop :=
  ∀ (s s' : State) (i : Iss) (g : Guard) (n : Operand) (ad : MAddr) (h : Hint) (l : List (Nat × Nat)), i.flagFull = false →
    (Ready s i [] ad.regs → ∀ m o, lanes (i.part g) = [m] → (s.setRod i.rid i.rod).cachedFrame i ((srcs s i g none).addr ad 1 m) = (o, s') →
      s'.upsets = [] → Issues (exec (.prf g ad h) s) i (fun u => u.rods = s'.rods ∧ u.ops = s'.ops ∧
        ∀ wd, Steady s' wd → (u.curWord wd).seen = (s'.curWord wd).seen)) ∧
    (Ready s i [] ((n, 1) :: ad.regs) → i.part g ≠ 0 → RangeIs s i g n ad l s' → ∀ k, k = s'.core (s'.coreOf i.rid) →
      Tbl.sorted k.l1 = true →
      Issues (exec (.inv g n ad h) s) i (fun u => { u with cores := s'.cores } = s' ∧
        ∀ wd, (u.core (s'.coreOf i.rid)).l1Word wd = if (k.l1Word wd).st = .v ∧ inRanges l wd = true then L1Word.reset else k.l1Word wd) ∧
      Issues (exec (.wbk g n ad h) s) i (fun u => u.mem = s'.mem ∧
        (∀ wd, (k.l1Word wd).st = .g → inRanges l wd = true → (u.core (s'.coreOf i.rid)).l1Word wd = { k.l1Word wd with st := .v, fill := s'.cycle } ∧
          (s'.homeDie (4 * wd) = (s'.coreOf i.rid).die → Instr.homeWriteBack (.core (s'.coreOf i.rid)) wd (k.l1Word wd).val ∈ u.inflight)) ∧
        ∀ wd, (k.l1Word wd).st ≠ .g ∨ inRanges l wd = false → (u.core (s'.coreOf i.rid)).l1Word wd = k.l1Word wd)) ∧
    (Ready s i [] ad.regs → ∀ m pa, lanes (i.part g) = [m] → (s.setRod i.rid i.rod).cachedFrame i ((srcs s i g none).addr ad 1 m) = (some (some pa), s') →
      ((srcs s i g none).addr ad 1 m).toNat % 4 = 0 → (s'.core (s.coreOf i.rid)).pending < Config.pendingRegs →
      ((s'.core (s.coreOf i.rid)).l1Word (pa / 4)).st.owned = false →
      Issues (exec (.own g ad h) s) i (fun u => u.mem = s'.mem ∧ ((u.core (s.coreOf i.rid)).l1Word (pa / 4)).st = .gp ∧
        ∃ o, u.op s'.nextId = some o ∧ o.rod = i.rid ∧ o.kind = .words [pa / 4]))

/-- The size that a lane of `dalloc` or `dfree` names (R315). -/
def freeSize (s : State) (i : Iss) (g : Guard) (n : Operand) (l : Nat) : Nat :=
  match n with
  | .s k => (i.rod.un k.toNat).toNat
  | _ => ((srcs s i g none).int .a n false 32 l).toNat

/-- The slice of a line and its set hold fewer other lines than would make one leave (R62). -/
def Roomy (s : State) (d line : Nat) : Prop :=
  ((s.die d).resident.filter (fun e => sliceOf e.1 == sliceOf line && e.1 != line)).length < 16384 ∧
  ((s.die d).resident.filter (fun e => sliceOf e.1 == sliceOf line && lineSet e.1 == lineSet line && e.1 != line)).length < 16

/-- A word is whole at its home, outside host space: no owner and no poison holds it, and its line stands in its slice with room. -/
structure WholeWord (s : State) (wd : Nat) : Prop where
  home  : s.homeOf wd = none
  clean : s.poison.contains wd = false ∧ s.poisonLost.contains wd = false
  there : (s.die (s.homeDie (4 * wd))).resident.any (fun x => x.1 == lineOf wd) = true
  room  : Roomy s (s.homeDie (4 * wd)) (lineOf wd)
  own   : ∀ io, region (4 * wd) ≠ .host io

/-- The 8-byte data at some addresses are at hand: they translate, nothing is under way at them, data can go to and from their homes, their words are
whole there, and no soft error strikes. -/
structure DataAt (s : State) (i : Iss) (pa : Nat → Nat) (l : List Nat) : Prop where
  place : ∀ va ∈ l, ∀ kind, kind = .read ∨ kind = .write → s.allocPlace i va kind = .ok (some (pa va), s)
  free  : ∀ va ∈ l, s.canPut (stopOf (s.coreOf i.rid).die) (pa va) 8 = true
  whole : ∀ va ∈ l, ∀ wd ∈ wordsOf (pa va) 8, WholeWord s wd
  calm  : s.upsets = []

/-- R44 to R46, R315: the page instructions write a code per lane; `pgq` changes no value in memory, no translation, no page request and no pool (no soft error strikes meanwhile); addresses that are not
translated give the code of a violation. -/
def Sys2Proof.Claims.PageInstructions : Prop :=
  ∀ (s s' : State) (i : Iss) (g : Guard) (k : BitVec 8) (ad : MAddr) (h : Hint) (m : Nat) (v : Word) (a : DWord),
    Ready s i [(.w k, 1)] ad.regs → i.flagFull = false → lanes (i.part g) = [m] → a = (srcs s i g none).addr ad 1 m →
    ((s.setRod i.rid i.rod).pageCommit i a = .ok (v, s') →
      Issues (exec (.pgcm g (.w k) ad h) s) i (fun u => u.mem = s'.mem ∧ u.ops = s'.ops ∧
        ∀ x, s'.rod i.rid = some x → u.rod i.rid = some (x.setLw k.toNat m v))) ∧
    ((s.setRod i.rid i.rod).pageDecommit i a = .ok (v, s') →
      Issues (exec (.pgdc g (.w k) ad h) s) i (fun u => u.mem = s'.mem ∧ u.ops = s'.ops ∧
        ∀ x, s'.rod i.rid = some x → u.rod i.rid = some (x.setLw k.toNat m v))) ∧
    ((s.setRod i.rid i.rod).pageQuery i a = .ok (v, s') →
      s.upsets = [] → Issues (exec (.pgq g (.w k) ad h) s) i (fun u => u.rod i.rid = some (i.rod.setLw k.toNat m v) ∧ u.inflight = s.inflight ∧
        (∀ wd, Steady s wd → (u.curWord wd).seen = (s.curWord wd).seen) ∧ (∀ c, (u.core c).dtlb = (s.core c).dtlb ∧ (u.core c).itlb = (s.core c).itlb) ∧
        ∀ n, (u.die n).l2tlb = (s.die n).l2tlb ∧ (u.die n).l2big = (s.die n).l2big ∧ (u.die n).reqs = (s.die n).reqs ∧
          (u.die n).ppdb = (s.die n).ppdb) ∧ v.extractLsb' 12 20 = 0 ∧ (v.extractLsb' 0 4).toNat ≤ 4) ∧
    (vaKind a ≠ .translated → ∀ t : State, t.pageCommit i a = .ok (4, t) ∧ t.pageDecommit i a = .ok (4, t) ∧ t.pageQuery i a = .ok (0xC04, t))

/-- R47 to R51: `dalloc` gives a block or 0 to each lane and acquires, `dfree` changes no register but the flag of a bad free, and hands its pushes
to the load/store unit; with the allocator off a lane gets 0 and AEMPTY, and a free has no effect. Where the descriptor, the list's head and the
block are in memory with nothing under way, `dalloc` pops the head of its own die's list, and `dfree` pushes its block there. -/
def Sys2Proof.Claims.AllocatorInstructions : Prop :=
  (∀ (s s' : State) (i : Iss) (g : Guard) (d n : Operand) (h : Hint) (out : List (Nat × Nat × Bool)) (b : Word) (x : Rod),
    Ready s i [(d, 2)] [(n, 1)] → i.flagFull = false → s.mayStore i .package .acq = true → isReg d = true → (d.isS = true → i.part g ≠ 0) →
    allocLanes (fun t l => t.allocLane i (freeSize s i g n l)) (2 ^ 64 - 1, false) (actorsOf i g d) (s.setRod i.rid i.rod) [] 0 = .ok (out, b, s') →
    s'.rod i.rid = some x →
    Issues (exec (.dalloc g d n h) s) i (fun u => u.mem = s'.mem ∧ ∃ y, u.rod i.rid = some y ∧
      y.mflags = (if out.any (·.2.2) then x.mflags ||| 2 else x.mflags) ∧
      (∀ k, d = .w k → ∀ e ∈ out, (∀ e' ∈ out, e'.1 = e.1 → e' = e) → e.1 < 32 → y.lw k.toNat e.1 = wordAt e.2.1 0 ∧ y.lw (k.toNat + 1) e.1 = wordAt e.2.1 1) ∧
      ∀ k e, d = .s k → out = [e] → y.un k.toNat = BitVec.ofNat 64 e.2.1)) ∧
  (∀ (s s' : State) (i : Iss) (g : Guard) (n : Operand) (ad : MAddr) (h : Hint) (out : List (Nat × Bool × Option HomeAcc)) (b : Word) (x : Rod),
    Ready s i [] ((n, 1) :: ad.regs) → i.part g ≠ 0 → s.acquiring i.rid = false →
    allocLanes (fun t l => t.freeLane i l ((srcs s i g none).addr ad 1 l).toNat (freeSize s i g n l)) (false, none) (lanes (i.part g))
      (s.setRod i.rid i.rod) [] 0 = .ok (out, b, s') → s'.rod i.rid = some x →
    Issues (exec (.dfree g n ad h) s) i (fun u => u.mem = s'.mem ∧ (∃ y, u.rod i.rid = some y ∧
      { y with mflags := x.mflags, cause := x.cause } = x ∧ (y.mflags.getLsbD 2 = (x.mflags.getLsbD 2 || out.any (·.2.1)))) ∧
      (out.filterMap (·.2.2) ≠ [] → ∃ o req ws ops, u.op s'.nextId = some o ∧ o.rod = i.rid ∧ o.flags = [] ∧ o.kind = .free (some req) ws ops ∧
        req.op = s'.nextId ∧ req.accs = out.filterMap (·.2.2)))) ∧
  (∀ (s : State) (i : Iss) (n l a : Nat) (e : AstUse), s.astEntry (.core (s.coreOf i.rid)) (s.asidOf i.rid) = .ok (e, s) → e.aen = false →
    s.allocLane i n = .ok ((0, true), s) ∧ s.freeLane i l a n = .ok ((false, none), s)) ∧
  (∀ (s : State) (i : Iss) (e : AstUse) (pa : Nat → Nat) (n : Nat), s.ast.find (s.asidOf i.rid) = some e → e.aen = true → 0 < n → n ≤ 65536 →
    (s.coreOf i.rid).die < 8 → ∀ hd, hd = headAt e.adesc (sizeClass n) (s.coreOf i.rid).die → (∀ b x, b = s.curNat (pa hd) 8 → b ≠ 0 → x = s.curNat (pa b) 8 →
      DataAt s i pa [hd, e.adesc, e.adesc + 8, b] →
      (x = 0 ∨ blockOk (s.curNat (pa e.adesc) 8) (s.curNat (pa (e.adesc + 8)) 8) (sizeClass n) x = true) →
      s.allocLane i n = .ok ((b, false), s.putNat (pa hd) 8 x) ∧
      ∀ g k j m h, Ready s i [(.w k, 2)] [(.s j, 1)] → i.flagFull = false → s.mayStore i .package .acq = true → lanes (i.part g) = [m] →
        (i.rod.un j.toNat).toNat = n → s.rods = (s.setRod i.rid i.rod).rods → Issues (exec (.dalloc g (.w k) (.s j) h) s) i (fun u => u.mem = (s.putNat (pa hd) 8 x).mem ∧
          ∃ y, u.rod i.rid = some y ∧ y.mflags = i.rod.mflags ∧ y.lw k.toNat m = wordAt b 0 ∧ y.lw (k.toNat + 1) m = wordAt b 1)) ∧
    ∀ a g k ad m h, a = ((srcs s i g none).addr ad 1 m).toNat → a ≠ 0 → DataAt s i pa [hd, e.adesc, e.adesc + 8, a] →
      blockOk (s.curNat (pa e.adesc) 8) (s.curNat (pa (e.adesc + 8)) 8) (sizeClass n) a = true → Ready s i [] ((.s k, 1) :: ad.regs) →
      lanes (i.part g) = [m] → (i.rod.un k.toNat).toNat = n → s.acquiring i.rid = false → s.rods = (s.setRod i.rid i.rod).rods →
      Issues (exec (.dfree g (.s k) ad h) s) i (fun u => u.mem = s.mem ∧ u.rod i.rid = some i.rod ∧
        ∃ o req ws ops, u.op s.nextId = some o ∧ o.rod = i.rid ∧ o.kind = .free (some req) ws ops ∧ req.op = s.nextId ∧
          req.stop = some (stopOf (s.coreOf i.rid).die) ∧ req.accs = [{ lane := m, pa := pa hd, size := 8, act := .push a (pa a) }]))

/-- R28, R30, R34, R40: what ends a wait on a page: a walk or a commit replays the waiters, a retry walks again, a denial makes the access a
violation, and a response that matches no request is ignored; a commit that meets something under way comes again. -/
def Sys2Proof.Claims.PageWaits : Prop :=
  (∀ (s : State) (r : RodId) (sl : SlotId) (x : Rod) (y : Slot), s.rod r = some x → x.slot sl = some y →
    (y.wait = some .translation → exec (.translationReplay r sl) s = .next (s.setRod r (x.setSlot sl
      (some { y with wait := none, started := if s.windingUp r x then none else y.started })))) ∧
    (y.wait ≠ some .translation → exec (.translationReplay r sl) s = .next s)) ∧
  (∀ (s : State) (die asid vpn : Nat) (k : XKind), ∃ t, exec (.walkComplete die asid vpn k) s = .next t ∧
    ∀ u, u = (s.translate (.die die) asid (65536 * vpn) k).2 → t.mem = u.mem ∧ t.rods = u.rods ∧
      (∀ e ∈ u.translationWaits (fun c => c.die == die), Instr.translationReplay e.1 e.2 ∈ t.inflight) ∧
      ∀ e ∈ t.ops, (t.coreOf e.2.rod).die = die → e.2.susp = false) ∧
  (∀ (s u : State) (die asid vpn q : Nat), (∀ r ∈ [CommitOut.won, .readOnly, .mapped, .absent], s.commit asid vpn die = .ok (r, u) →
      ∃ t, exec (.commit die asid vpn q) s = .next t ∧ t.mem = u.mem ∧
      ∀ e ∈ u.translationWaits (fun c => c.die == die), Instr.translationReplay e.1 e.2 ∈ t.inflight) ∧
    (s.commit asid vpn die = .ok (.installed, u) → ∃ t, exec (.commit die asid vpn q) s = .next t ∧ t.mem = u.mem ∧
      ∀ e ∈ u.translationWaits (fun _ => true), Instr.translationReplay e.1 e.2 ∈ t.inflight) ∧
    (s.commit asid vpn die = .ok (.poolEmpty, u) → (u.die die).poolEn = false → ∃ t, exec (.commit die asid vpn q) s = .next t ∧
      (t.die die).reqs.any (fun q => q.asid == asid && q.vpn == vpn && q.kind == 4) = true) ∧
    (∀ x, s.commit asid vpn die = .error x → ∃ t, exec (.commit die asid vpn q) s = .next t ∧ t.mem = s.mem ∧ t.rods = s.rods ∧
      Instr.commit die asid vpn q ∈ t.inflight)) ∧
  (∀ (s : State) (die tag : Nat), ((s.die die).reqs.any (fun q => q.tag == tag) = false →
      exec (.pgrspRetry false die tag) s = .next s ∧ exec (.pgrspDeny false die tag) s = .next s) ∧
    ∀ q, (s.die die).reqs.find? (fun q => q.tag == tag) = some q →
      (∃ t, exec (.pgrspRetry false die tag) s = .next t ∧ (t.die die).reqs = (s.die die).reqs.filter (fun q => q.tag ≠ tag) ∧
        Instr.walkComplete die q.asid q.vpn (reqKind q.kind) ∈ t.inflight) ∧
      (∃ t, exec (.pgrspDeny false die tag) s = .next t ∧ (t.die die).reqs = (s.die die).reqs.filter (fun q => q.tag ≠ tag) ∧
        ∀ r sl, (r, sl) ∈ s.translationWaits (fun c => c.die == die) → s.asidOf r = q.asid → ∀ x, s.rod r = some x →
          ∃ y, t.rod r = some y ∧ ⟨q.vpn, reqKind q.kind, sl⟩ ∈ y.denied)) ∧
  (∀ (s : State) (io tag : Nat), 2 ≤ io ∨ (s.iod io).reqs.any (fun q => q.tag == tag) = false →
    exec (.pgrspRetry true io tag) s = .next s ∧ exec (.pgrspDeny true io tag) s = .next s) ∧
  (∀ (s : State) (io tag : Nat) (q : PageReq), io < 2 → (s.iod io).reqs.find? (fun q => q.tag == tag) = some q →
    (∃ t, exec (.pgrspRetry true io tag) s = .next t ∧ (t.iod io).reqs = (s.iod io).reqs.filter (fun q => q.tag ≠ tag) ∧ t.mem = s.mem ∧
      ∀ e ∈ t.cmds, ∀ p, e.2.kind = .dma p → e.2.queue / 512 = io → e.2.susp = false) ∧
    (∃ t, exec (.pgrspDeny true io tag) s = .next t ∧ (t.iod io).reqs = (s.iod io).reqs.filter (fun q => q.tag ≠ tag) ∧ t.mem = s.mem ∧
      ∀ e ∈ t.cmds, ∀ p, e.2.kind = .dma p → e.2.asid = q.asid → e.2.queue / 512 = io → e.2.pages.contains (q.vpn, reqKind q.kind) = true →
        ⟨q.vpn, reqKind q.kind, .a⟩ ∈ e.2.denied))

/-- R28, R30, R34, R40, R44 to R46, R315: page instructions and waits on pages. -/
def Obligations.PageInstructionsAndWaits : Prop :=
  Claims.PageInstructions ∧ Claims.PageWaits

/-- R35, R36, R43: an invalidation discards the translations in its scope at once, XLIC holds what was written, and its BUSY stays 1 until no access
that was under way is left; one that starts while another runs is ignored. A push to a disabled pool is ignored, one that has no room or whose
address does not fit its list is counted in DROP. -/
def Sys2Proof.Claims.InvalidationAndPoolPush : Prop :=
  (∀ s : State, s.xlic.getLsbD 63 = false →
    (let P := fun (x : DWord) (t : State) => t.xlic = (x ||| (1 <<< 63)) ∧ t.mem = s.mem ∧ t.ops = s.ops ∧ Instr.invalidationComplete ∈ t.inflight ∧
        ∀ r y, s.rod r = some y → ∃ z, t.rod r = some z ∧ { z with slotA := y.slotA, slotB := y.slotB } = y
     (∀ n, ∃ t, exec (.xlicInvalidateAll n) s = .next t ∧ P (0x200000000 ||| n.setWidth 64) t ∧
      (∀ e ∈ t.cores, e.2.dtlb = [] ∧ e.2.itlb = []) ∧ ∀ e ∈ t.dies, e.2.l2tlb = [] ∧ e.2.l2big = [] ∧ e.2.walkc = []) ∧
     (∀ n, ∃ t, exec (.xlicInvalidateAsid n) s = .next t ∧ P (0x100000000 ||| n.setWidth 64) t ∧
      (∀ e ∈ t.cores, ∀ x, x ∈ e.2.dtlb ∨ x ∈ e.2.itlb → x.asid ≠ s.xlia.bits 15 0) ∧ ∀ e ∈ t.dies, ∀ x ∈ e.2.l2tlb, x.asid ≠ s.xlia.bits 15 0) ∧
     (∀ n, ∃ t, exec (.xlicInvalidatePages n) s = .next t ∧ P (n.setWidth 64) t ∧
      ∀ e ∈ t.cores, ∀ x ∈ e.2.dtlb, x.asid = s.xlia.bits 15 0 → x.vpn + x.span ≤ s.xlia.bits 55 16 ∨ s.xlia.bits 55 16 + Nat.max 1 n.toNat ≤ x.vpn))) ∧
  (∀ s : State, s.xlic.getLsbD 63 = true → ∀ n, exec (.xlicInvalidateAll n) s = .next s ∧ exec (.xlicInvalidateAsid n) s = .next s ∧
    exec (.xlicInvalidatePages n) s = .next s) ∧
  (∀ s : State, (s.accessesOpen = true → exec .invalidationComplete s = .next (s.send .invalidationComplete)) ∧
    (s.accessesOpen = false → ∃ t, exec .invalidationComplete s = .next t ∧ t.xlic.getLsbD 63 = false ∧
      { t with xlic := s.xlic, xlicOps := s.xlicOps, xlicWords := s.xlicWords } = s)) ∧
  (∀ (s : State) (die : Nat) (v : DWord), ((s.die die).ppdb.getLsbD 0 = false → exec (.poolpush die v) s = .next s) ∧
    ((s.die die).ppdb.getLsbD 0 = true → ∀ u,
      (pushOk die (v.bits 1 0) (4096 * v.bits 51 12) = true → s.poolPush die (v.bits 1 0) (4096 * v.bits 51 12) = .ok (true, u) →
        exec (.poolpush die v) s = .next u) ∧
      (pushOk die (v.bits 1 0) (4096 * v.bits 51 12) = true → s.poolPush die (v.bits 1 0) (4096 * v.bits 51 12) = .ok (false, s) →
        s.poolCount die 60 = .ok u → exec (.poolpush die v) s = .next u) ∧
      (pushOk die (v.bits 1 0) (4096 * v.bits 51 12) = false → s.poolCount die 60 = .ok u → exec (.poolpush die v) s = .next u)))

/-- R35, R36, R43, R47 to R51: allocators, invalidation and the page pool. -/
def Obligations.AllocatorAndTranslation : Prop :=
  Claims.AllocatorInstructions ∧ Claims.InvalidationAndPoolPush

/-- R85, R86, R130 to R134: a fence waits for what its release needs, then acquires; an acquire at die scope or wider leaves no unowned copy in
the core's L1 readable, and the rod's next release waits for the stores then pending on its core; a release changes nothing. -/
def Sys2Proof.Claims.Fences : Prop :=
  ∀ (s : State) (i : Iss) (g : Guard) (sc : Scope), s.issuer = some i → i.part g ≠ 0 →
    (FenceReady s i sc → Completes (exec (.fenceRel g sc) s) s i.rid i.rod ∧
      (s.mayAcquire i.rid sc = true → ∀ f ∈ [Instr.fenceAcq g sc, .fenceAcqRel g sc, .fenceSc g sc],
        Issues (exec f s) i (fun u => u.mem = s.mem ∧ u.inflight = s.inflight ∧
          (∃ y, u.rod i.rid = some y ∧ { y with stores := i.rod.stores } = i.rod ∧ ∀ wd ∈ i.rod.stores ++ s.pendingNear (s.coreOf i.rid), wd ∈ y.stores) ∧
          (LinesKnown (s.core (s.coreOf i.rid)) → s.scopeClass i.rid sc ≠ .core → NoStaleCopies (u.core (s.coreOf i.rid))) ∧
          (s.scopeClass i.rid sc = .core → u.cores = s.cores ∧ u.dies = s.dies) ∧
          ∀ wd, ((s.core (s.coreOf i.rid)).l1Word wd).st.owned = true →
            (u.core (s.coreOf i.rid)).l1Word wd = (s.core (s.coreOf i.rid)).l1Word wd))) ∧
    (s.released i.rid sc = false → ∀ f ∈ [Instr.fenceRel g sc, .fenceAcqRel g sc, .fenceSc g sc], Waits (exec f s) s i .memory) ∧
    (s.engineReady i.rid = true → Completes (exec (.fenceEngine g sc) s) s i.rid i.rod) ∧
    (s.engineReady i.rid = false → Waits (exec (.fenceEngine g sc) s) s i .memory)

/-- R134, R320, R400, R401: `xfence` waits until no operation of the rod is left and its stores are registered; a late cause that has arrived then
traps, with the instruction after it as the trap point: the next of its clause, or instruction 0 of the clause that follows. -/
def Sys2Proof.Claims.Xfence : Prop :=
  ∀ (s : State) (i : Iss) (g : Guard), s.issuer = some i → i.part g ≠ 0 →
    (s.opsDone i.rid = false → Waits (exec (.xfence g) s) s i .ops) ∧
    (s.opsDone i.rid = true → (i.rod.lateCauses = 0 ∨ i.rod.inHandler = true) → Completes (exec (.xfence g) s) s i.rid i.rod) ∧
    (s.opsDone i.rid = true → i.rod.lateCauses ≠ 0 → i.rod.inHandler = false → i.rod.run = .running → ∀ c, i.slot.started = some c →
      LeavesRod (exec (.xfence g) s) i.rid (fun y => y.cause = i.rod.cause ∧ y.run ≠ .running ∧
        (i.slot.path.idx + 1 < c.count → y.skid = packSkid i.slot.path.pc i.sl (i.slot.path.idx + 1) 0) ∧
        (c.count ≤ i.slot.path.idx + 1 → y.skid = packSkid (nextClause i.slot.path.pc c.count) i.sl 0 0)))

/-- R104, R105, R266, R321, R402: `acqr` waits for a promotion of its target core, which is answered once the registrations that the core had
pending when it arrived are granted, and no later ones; a target that is no core raises ACCV and still acquires, one on a lost die raises
owner-lost at once. In a rod that is stopped or held an `acqr` has performed nothing and issues again; a `take` has issued, and completes. -/
def Sys2Proof.Claims.Promotions : Prop :=
  (∀ (s : State) (i : Iss) (g : Guard) (sc : Scope) (a : Operand) (v : Word), Ready s i [] [(a, 1)] → i.part g ≠ 0 → s.acquiring i.rid = false →
    s.unbound i.rid = false → v = (srcs s i g none).int .a a false 32 (lowest (i.part g)) →
    (v.bits 15 8 ≤ 7 → v.bits 7 0 ≤ 47 → s.inService (v.bits 15 8) = true → ∃ t y, exec (.acqr g sc a) s = .next t ∧ t.rod i.rid = some y ∧
      y.slot i.sl = some { i.slot with wait := some .promotion } ∧ Instr.promotion ⟨v.bits 15 8, v.bits 7 0⟩ i.rid i.sl sc ∈ t.under) ∧
    (v.bits 15 8 ≤ 7 → v.bits 7 0 ≤ 47 → s.inService (v.bits 15 8) = false → Issues (exec (.acqr g sc a) s) i (fun u => u.mem = s.mem ∧
      ∃ y, u.rod i.rid = some y ∧ { y with stores := i.rod.stores } = i.rod.raise Cause.olost)) ∧
    (7 < v.bits 15 8 ∨ 47 < v.bits 7 0 → s.mayAcquire i.rid sc = true → Issues (exec (.acqr g sc a) s) i (fun u => u.mem = s.mem ∧
      ∃ y, u.rod i.rid = some y ∧ { y with stores := i.rod.stores } = i.rod.raise Cause.accv))) ∧
  (∀ (s : State) (c : CoreId) (r : RodId) (sl : SlotId) (sc : Scope) (x : Rod) (y : Slot) (ws : List Nat) (b : Bool), s.rod r = some x →
    x.slot sl = some y → ((y.wait = some .promotion ∧ b = false ∧ ws = (s.core c).l1.keys) ∨ (y.wait = some .take ∧ b = true ∧ ws = (s.core c).l1.keys) ∨
      y.wait = some (.promoted ws b)) →
    (b = false → (x.frozen || s.windingUp r x) = true → exec (.promotion c r sl sc) s = .next (s.endWait r sl)) ∧
    ((b = true ∨ (x.frozen || s.windingUp r x) = false) →
      (s.inService c.die = false → exec (.promotion c r sl sc) s = .next ((s.raise r Cause.olost).promoted r sl (s.acqrClass r c.die sc) b)) ∧
      (s.inService c.die = true →
        (s.grantedAt c (s.acqrClass r c.die sc) ws = true → s.mayAcquire r sc = true →
          exec (.promotion c r sl sc) s = .next (s.promoted r sl (s.acqrClass r c.die sc) b)) ∧
        (s.grantedAt c (s.acqrClass r c.die sc) ws = false → ∃ due, (∀ wd, wd ∈ due ↔ wd ∈ ws ∧ s.grantedAt c (s.acqrClass r c.die sc) [wd] = false) ∧
          exec (.promotion c r sl sc) s =
            .next ((s.setRod r (x.setSlot sl (some { y with wait := some (.promoted due b) }))).send (.promotion c r sl sc))))))

/-- R85, R86, R104, R105, R130 to R134, R320, R321, R400: fences and promotions. -/
def Obligations.FencesAndPromotions : Prop :=
  Claims.Fences ∧ Claims.Xfence ∧ Claims.Promotions

/-- R144, R322: `waitany` returns the position of an armed word whose value differs from the one expected, and otherwise waits; a write to the
word, or the timeout, ends the wait, and in a rod that is stopped or held it issues again (R402, R440). -/
def Sys2Proof.Claims.Waitany : Prop :=
  (∀ (s s' : State) (i : Iss) (g : Guard) (k : BitVec 8) (ad : MAddr) (h : Hint) (m pa : Nat) (ent : DWord),
    Ready s i [(.w k, 1)] ((.w k, 1) :: ad.regs) → s.mayLoad i .rod .plain = true → lanes (i.part g) = [m] →
    Places s i .read 4 (addrsOf s i g { ad with ofs := 0 } 0 [m]) s' [(m, .mem pa ent)] → s'.armReady (s'.coreOf i.rid) (.mem pa ent) = true →
    ∀ x w, s'.rod i.rid = some x → w = s'.armValue (s'.coreOf i.rid) (.mem pa ent) →
    (w.seen ≠ i.rod.lw k.toNat m →
      Issues (exec (.waitany g (.w k) ad h) s) i (fun u => u.mem = s'.mem ∧ u.rod i.rid = some ((x.raise w.cause).setLw k.toNat m 8))) ∧
    (w.seen = i.rod.lw k.toNat m → ∀ z til, x.slot i.sl = some z →
      ((∃ arm, i.slot.wait = some (.waitany arm til)) ∨ ((∀ arm til, i.slot.wait ≠ some (.waitany arm til)) ∧
        til = (if ad.ofs = 0 then none else some (s'.cycle + 1024 * ad.ofs.toNat)))) →
      LeavesRod (exec (.waitany g (.w k) ad h) s) i.rid (fun y => y.slot i.sl = some { z with wait := some (.waitany [⟨pa / 4, 0⟩] til) }))) ∧
  (∀ (s : State) (r : RodId) (sl : SlotId) (x : Rod) (z : Slot) (arm : List Armed) (til : Option Nat) (w : DWord) (g : Guard) (k : BitVec 8) (ad : MAddr)
    (h : Hint) (i : Iss), s.rod r = some x → x.slot sl = some z → z.wait = some (.waitany arm til) → z.word = some w →
    decode w = .ok (.waitany g (.w k) ad h) → i = { rid := r, sl := sl, rod := x, slot := z } →
    (∀ wd a, (x.frozen || s.windingUp r x) = true → arm.find? (fun e => e.word == wd) = some a →
      exec (.waitanyWake r sl wd) s = .next (s.endWait r sl)) ∧
    (∀ wd, arm.all (fun e => lineOf e.word != lineOf wd) = true → exec (.waitanyWake r sl wd) s = .next s) ∧
    ((x.frozen || s.windingUp r x) = false →
    (∀ wd a, arm.find? (fun e => e.word == wd) = some a → Issues (exec (.waitanyWake r sl wd) s) i (fun u => u.mem = s.mem ∧
      u.rod r = some (x.setLws (i.part g) k.toNat (fun _ => BitVec.ofNat 32 a.pos)) ∧
      ∀ e ∈ arm, ((u.core (s.coreOf r)).l1Word e.word).st ≠ .v)) ∧
    (∀ wd a, arm.find? (fun e => e.word == wd) = none → arm.find? (fun e => lineOf e.word == lineOf wd) = some a →
      Issues (exec (.waitanyWake r sl wd) s) i (fun u => u.mem = s.mem ∧
        u.rod r = some (x.setLws (i.part g) k.toNat (fun _ => BitVec.ofNat 32 (4 + a.pos))))) ∧
    (∀ n, til = some n → n ≤ s.cycle → Issues (exec (.waitanyTimeout r sl) s) i (fun u => u.mem = s.mem ∧
      u.rod r = some (x.setLws (i.part g) k.toNat (fun _ => 16))))))

/-- R141, R166, R323, R324: an arrival is counted in the current phase of its barrier, a rod waits until the phase it arrived in has completed and
released its waiters, bytes are added to the phase's counter, and a phase completes the moment it is due: the next one starts from nothing, and
the waiters are released by a step of their own, on two dies after one that crosses the ring. -/
def Obligations.Barriers : Prop :=
  (∀ (s : State) (i : Iss) (g : Guard) (n : Operand) (lvl : BarLevel) (b : BarId) (x : Bar) (k : Nat), Ready s i [] [(n, 1)] → AtBarrier s i g n lvl b →
    BarKept s b → x = s.bar b → k = rodKey i.rid →
    (x.arrived.contains k = false → s.released i.rid (barScope lvl) = true →
      Issues (exec (.barv g n lvl) s) i (fun u => u.rod i.rid = some i.rod ∧
        BarIs s u b { x with arrived := insertNat k x.arrived, last := x.last.put k x.phase })) ∧
    (x.arrived.contains k = true → Waits (exec (.barv g n lvl) s) s i (.barrier b x.phase)) ∧
    (∀ p, (x.last.find k = some p ∨ (x.last.find k = none ∧ i.slot.wait = some (.barrier b p)) ∨
        (x.last.find k = none ∧ (∀ q, i.slot.wait ≠ some (.barrier b q)) ∧ p = x.phase)) →
      (x.holds p = false → s.mayAcquire i.rid (barScope lvl) = true → Issues (exec (.barw g n lvl) s) i (fun u => u.mem = s.mem ∧
        u.bar b = { x with last := x.last.erase k })) ∧
      (x.holds p = true → Waits (exec (.barw g n lvl) s) s i (.barrier b p))) ∧
    (∀ p m, m = 2 ^ 32 * k + i.slot.path.mask.toNat → x.mid.find m = some p →
      (x.holds p = false → s.mayAcquire i.rid (barScope lvl) = true → Issues (exec (.bars g n lvl) s) i (fun u => u.mem = s.mem ∧
        u.bar b = { x with last := x.last.erase k, mid := x.mid.erase m })) ∧
      (x.holds p = true → Waits (exec (.bars g n lvl) s) s i (.barrier b p))) ∧
    (x.mid.find (2 ^ 32 * k + i.slot.path.mask.toNat) = none → (lvl = .chain → s.opsDone i.rid = true ∧ i.rod.lateCauses = 0) →
      x.arrived.contains k = false → s.released i.rid (barScope lvl) = true →
      LeavesRod (exec (.bars g n lvl) s) i.rid (fun y => y.slot i.sl = some { i.slot with wait := some (.barrier b x.phase) }))) ∧
  (∀ (s : State) (i : Iss) (g : Guard) (n a : Operand) (lvl : BarLevel) (b : BarId) (x : Bar), Ready s i [] [(n, 1), (a, 1)] → AtBarrier s i g n lvl b →
    BarKept s b → x = s.bar b → (0 ≤ x.bytes ∧ x.bytes < 2 ^ 40) →
    Issues (exec (.barb g n a lvl) s) i (fun u => BarIs s u b
      { x with posted := true, bytes := x.bytes + ((srcs s i g none).int .b a false 32 (lowest (i.part g))).toNat })) ∧
  (∀ (s : State) (b : BarId) (x : Bar), BarKept s b → x = s.bar b →
    (x.open' = 0 → s.barDue b = false → exec (.barrierPhaseComplete b) s = .next s) ∧
    (x.open' = 0 → s.barDue b = true → ∃ t, exec (.barrierPhaseComplete b) s = .next t ∧ t.mem = s.mem ∧
      t.bar b = { x with phase := x.phase + 1, arrived := [], bytes := 0, posted := false, tagged := false, open' := 1 } ∧
      Instr.barrierPhaseComplete b ∈ t.inflight) ∧
    (0 < x.open' → s.twoDies b = true → ∃ t, exec (.barrierPhaseComplete b) s = .next t ∧ t.mem = s.mem ∧ t.bar b = x ∧
      Instr.furlongRemotePhase b ∈ t.under) ∧
    (0 < x.open' → s.twoDies b = false → ∃ t, exec (.barrierPhaseComplete b) s = .next t ∧ t.mem = s.mem ∧
      t.bar b = { x with open' := x.open' - 1 }) ∧
    (0 < x.open' → ∃ t, exec (.furlongRemotePhase b) s = .next t ∧ t.mem = s.mem ∧ t.bar b = { x with open' := x.open' - 1 }) ∧
    (x.open' = 0 → exec (.furlongRemotePhase b) s = .next s))

/-- R143, R325, R326: `seqinc` adds to an 8-byte counter, and a sum that wraps is counter regression; `seqwt` answers the counter once it has
reached the threshold and waits until then; a place that is no counter is an access violation. -/
def Sys2Proof.Claims.SequenceCounters : Prop :=
  (∀ (s s' : State) (i : Iss) (g : Guard) (a : Operand) (ad : MAddr) (sc : Scope) (h : Hint) (pa : Nat) (ent : DWord) (x : Rod),
    Ready s i [] ((a, 2) :: ad.regs) → i.part g ≠ 0 → s.mayStore i sc .plain = true →
    Places s i .write 8 (addrsOf s i g { ad with ofs := 0 } 0 [lowest (i.part g)]) s' [(lowest (i.part g), .mem pa ent)] → s'.rod i.rid = some x →
    (Pte.cnt ent = true → pa % 8 = 0 → s'.canPut (stopOf (s.coreOf i.rid).die) pa 8 = true → s'.wordCauses (wordsOf pa 8) = 0 →
      ∀ v, v = ((srcs s i g none).d64 .b a (lowest (i.part g))).toNat →
      (s'.curNat pa 8 + v < 2 ^ 64 ∨ s'.counterQueues pa = []) →
      Issues (exec (.seqinc g a ad sc .plain h) s) i (fun u => u.curNat pa 8 = (s'.curNat pa 8 + v) % 2 ^ 64 ∧
        u.rod i.rid = some (if s'.curNat pa 8 + v < 2 ^ 64 then x else x.raise Cause.creg))) ∧
    (Pte.cnt ent = false → Issues (exec (.seqinc g a ad sc .plain h) s) i (fun u => u.mem = s'.mem ∧ u.rod i.rid = some (x.raise Cause.accv)))) ∧
  (∀ (s s' : State) (i : Iss) (g : Guard) (k : BitVec 6) (ad : MAddr) (sc : Scope) (h : Hint) (pa : Nat) (ent : DWord) (x : Rod),
    Ready s i [(.s k, 1)] ((.s k, 1) :: ad.regs) → i.part g ≠ 0 → s.mayLoad i sc .plain = true → s.unbound i.rid = false →
    Places s i .read 8 (addrsOf s i g { ad with ofs := 0 } 0 [lowest (i.part g)]) s' [(lowest (i.part g), .mem pa ent)] → s'.rod i.rid = some x →
    (Pte.cnt ent = false → Issues (exec (.seqwt g (.s k) ad sc .plain h) s) i (fun u => u.mem = s'.mem ∧
      u.rod i.rid = some ((x.raise Cause.accv).setUn k.toNat 0))) ∧
    (Pte.cnt ent = true → s'.canGet (stopOf (s.coreOf i.rid).die) pa 8 = true →
    ((i.rod.un k.toNat).toNat ≤ s'.curNat pa 8 → s'.wordCauses (wordsOf pa 8) = 0 → s'.upsets = [] →
      Issues (exec (.seqwt g (.s k) ad sc .plain h) s) i (fun u => (∀ wd, u.curWord wd = s'.curWord wd) ∧ u.rod i.rid = some (x.setUn k.toNat (BitVec.ofNat 64 (s'.curNat pa 8))))) ∧
    (s'.curNat pa 8 < (i.rod.un k.toNat).toNat → ∀ z, x.slot i.sl = some z → LeavesRod (exec (.seqwt g (.s k) ad sc .plain h) s) i.rid (fun y =>
      y.slot i.sl = some { z with wait := some (.seqwt pa (i.rod.un k.toNat)) })))) ∧
  (∀ (s s' : State) (r : RodId) (sl : SlotId) (x : Rod) (z : Slot) (w : DWord) (pa : Nat) (thr : DWord) (g : Guard) (k : BitVec 6) (ad : MAddr) (sc : Scope)
    (h : Hint) (ent : DWord) (i : Iss), s.rod r = some x → x.slot sl = some z → z.wait = some (.seqwt pa thr) → z.word = some w →
    decode w = .ok (.seqwt g (.s k) ad sc .plain h) → i = { rid := r, sl := sl, rod := x, slot := z } →
    ((s.seqReached pa thr = false ∨ s.canIssue r x = false) → exec (.seqwtWake r sl) s = .next s) ∧
    (s.seqReached pa thr = true → s.canIssue r x = true → Ready { s with cur := some (r, sl) } i [(.s k, 1)] ((.s k, 1) :: ad.regs) → i.part g ≠ 0 →
      s.mayLoad i sc .plain = true → s.unbound r = false → Pte.cnt ent = true →
      Places { s with cur := some (r, sl) } i .read 8 (addrsOf { s with cur := some (r, sl) } i g { ad with ofs := 0 } 0 [lowest (i.part g)]) s'
        [(lowest (i.part g), .mem pa ent)] → s'.canGet (stopOf (s.coreOf r).die) pa 8 = true →
        (x.un k.toNat).toNat ≤ s'.curNat pa 8 → s'.upsets = [] →
      Issues (exec (.seqwtWake r sl) s) i (fun u => ∃ y, u.rod r = some y ∧ y.un k.toNat = BitVec.ofNat 64 (s'.curNat pa 8))))

/-- R143, R144, R322, R325, R326: waiting on words and on sequence counters. -/
def Obligations.WaitanyAndSequence : Prop :=
  Claims.Waitany ∧ Claims.SequenceCounters

/-- R399 to R402: a rod that traps records its causes and its trap point, stops its own slot there with nothing performed, sends every sibling a
halt, and enters its handler next once its other slot has stopped; no register and no byte of memory changes. -/
def Sys2Proof.Claims.TakingAnException : Prop :=
  ∀ (s : State) (i : Iss) (bits : Word), s.issuer = some i → i.rod.inHandler = false → i.rod.run = .running →
    ∃ t y x, trap s i bits = .next t ∧ t.mem = s.mem ∧ t.rod i.rid = some y ∧ RodTrapped i.rod y ∧
      y.cause = i.rod.cause ||| bits ∧ y.run ≠ .running ∧
      y.skid.toNat = i.slot.path.pc.toNat / 8 % 2 ^ 53 * 2048 + (if i.sl = .b then 1024 else 0) + i.slot.path.idx % 16 * 64 ∧
      y.slot i.sl = some x ∧ x.path = i.slot.path ∧ x.stopped = true ∧ y.slot i.sl.other = i.rod.slot i.sl.other ∧
      (slotStopped (i.rod.slot i.sl.other) = true → y.run = .halted ∧ Instr.handlerEntry i.rid ∈ t.inflight) ∧
      (∀ q, rodKey q ≠ rodKey i.rid → t.rod q = s.rod q) ∧
      ∀ ch, s.chain i.rid.chain = some ch → ∀ q ∈ ch.rodIds i.rid.chain, q.rod ≠ i.rid.rod → Instr.haltReceive q ∈ t.inflight

/-- R340, R402, R403: a halt reaches a rod, and frees the rendezvous latches it waits in; a rod that has stopped enters its handler with both slots in the shadow and every live lane on one path at
HANDLER; inside a handler a halt sets HALTP only, and a precise cause sets its bit and freezes the core held. -/
def Sys2Proof.Claims.HaltsAndHandlerEntry : Prop :=
  (∀ (s : State) (r : RodId) (x : Rod), s.rod r = some x → x.live ≠ 0 →
    (x.inHandler = false → x.run = .running → ∃ t y, exec (.haltReceive r) s = .next t ∧ t.rod r = some y ∧ t.mem = s.mem ∧ RodTrapped x y ∧
      y.cause = x.cause ||| Cause.haltp ∧ y.run ≠ .running ∧ y.slotA = x.slotA ∧ y.slotB = x.slotB ∧
      ∀ ch, s.chain r.chain = some ch →
        t.chain r.chain = some { ch with latches := ch.latches.filter (fun e => !e.2.arrived.contains r.rod) }) ∧
    (x.inHandler = true → exec (.haltReceive r) s = .next (s.setRod r { x with cause := x.cause ||| Cause.haltp }))) ∧
  (∀ (s s' : State) (r : RodId) (x : Rod) (p : Packet) (h : Header) (body : List (DWord × Bool)), s.rod r = some x → s.packet (s.launchOf r) = some p →
    x.run = .halted → x.frozen = false → x.live ≠ 0 → s.cancelledFor r = false → s.savingFor r = false → x.inHandler = false → p.handler ≠ 0 →
    s.fetchClause (s.coreOf r) (s.asidOf r) x.denied p.handler = .ok ((h, body), s') →
    ∃ t y, exec (.handlerEntry r) s = .next t ∧ t.rod r = some y ∧ t.mem = s'.mem ∧ y.run = .running ∧ y.cause = x.cause ||| Cause.inh ∧
      y.skid = x.skid ∧ y.shadowA = x.slotA.map (·.out s'.cycle) ∧ y.shadowB = x.slotB.map (·.out s'.cycle) ∧ At y .a p.handler x.live none ∧ y.slotB = none ∧
      { y with slotA := x.slotA, slotB := x.slotB, shadowA := x.shadowA, shadowB := x.shadowB, cause := x.cause, run := x.run,
               oldStack := x.oldStack, denied := x.denied } = x) ∧
  (∀ (s : State) (r : RodId) (x : Rod) (p : Packet), s.rod r = some x → s.packet (s.launchOf r) = some p → x.run = .halted → x.frozen = false →
    x.live ≠ 0 → s.cancelledFor r = false → s.savingFor r = false → p.handler = 0 → (s.core (s.coreOf r)).isHeld = false →
    ∃ t, exec (.handlerEntry r) s = .next t ∧ HeldWith t (s.coreOf r) r) ∧
  (∀ (s : State) (i : Iss) (bits : Word), s.issuer = some i → i.rod.inHandler = true → (s.core (s.coreOf i.rid)).isHeld = false →
    ∃ t y, trap s i bits = .next t ∧ HeldWith t (s.coreOf i.rid) i.rid ∧ t.rod i.rid = some y ∧ y.cause = i.rod.cause ||| bits ∧
      y.slot i.sl = i.rod.slot i.sl)

/-- R399 to R403: taking an exception. -/
def Obligations.ExceptionEntry : Prop :=
  Claims.TakingAnException ∧ Claims.HaltsAndHandlerEntry

/-- R405: `tret` is illegal outside a handler; in one it discards what was made since entry and, with no cause left, brings both slots back
from the shadow, the slot SLOT at PC and IDX; with a cause left it enters the handler again. -/
def Sys2Proof.Claims.ReturnFromException : Prop :=
  ∀ (s : State) (i : Iss) (g : Guard), s.issuer = some i →
    (i.part g = 0 → Completes (exec (.tret g) s) s i.rid i.rod) ∧
    (i.part g ≠ 0 → i.rod.inHandler = false → exec (.tret g) s = trap s i Cause.illegal) ∧
    (i.part g ≠ 0 → i.rod.inHandler = true → i.rod.cause &&& 0x27FFF ≠ 0 →
      ∃ t y, exec (.tret g) s = .next t ∧ t.rod i.rid = some y ∧ y.run = .halted ∧ y.cause = i.rod.cause ∧ y.shadowA = i.rod.shadowA ∧
        y.shadowB = i.rod.shadowB ∧ Instr.handlerEntry i.rid ∈ t.inflight) ∧
    (i.part g ≠ 0 → i.rod.inHandler = true → i.rod.cause &&& 0x27FFF = 0 → i.rod.run = .running → i.rod.stack = [] →
      ∀ p, i.rod.shadowA = some p → p.frame = none → i.rod.shadowB = none → i.rod.skid.getLsbD 10 = false →
      ∃ t y x, exec (.tret g) s = .next t ∧ { t with rods := s.rods } = s ∧ t.rod i.rid = some y ∧ y.cause = i.rod.cause &&& ~~~Cause.inh ∧
        y.shadowA = none ∧ y.slotB = none ∧ y.slotA = some x ∧ x.started = none ∧
        x.wait = (if s.cycle < p.nap then some (.sleep p.nap) else none) ∧
        x.path = { p with pc := i.rod.skid >>> 11 <<< 3, idx := i.rod.skid.bits 9 6, nap := 0, broke := p.broke && p.pc == i.rod.skid >>> 11 <<< 3 && p.idx == i.rod.skid.bits 9 6 } ∧ y.w = i.rod.w ∧ y.u = i.rod.u ∧ y.q = i.rod.q ∧ y.k = i.rod.k)

/-- R405, R406, R441: `trap` and, by EMODE, `ebrk` take their cause with the instruction after as the trap point; `tclr`, `sysrd` and `syswr` write
what their rules give and nothing else. -/
def Sys2Proof.Claims.TrapAndSystemInstructions : Prop :=
  (∀ (s : State) (i : Iss) (g : Guard) (c : Clause), s.issuer = some i → i.part g ≠ 0 → i.rod.inHandler = false → i.rod.run = .running →
    i.slot.started = some c →
    (∀ n : BitVec 8, ∃ t y, exec (.trap g n) s = .next t ∧ t.rod i.rid = some y ∧ RodTrapped i.rod y ∧ t.mem = s.mem ∧
      y.cause = ((i.rod.cause &&& 0x00FFFFFF) ||| (n.setWidth 32 <<< 24)) ||| Cause.strap ∧
      y.skid = packSkid (nextPoint i c).1 i.sl (nextPoint i c).2 0 ∧ y.run ≠ .running) ∧
    (∀ n : BitVec 8, (s.die (s.coreOf i.rid).die).dbgctl.getLsbD 1 = false →
      ∃ t y, exec (.ebrk g n) s = .next t ∧ t.rod i.rid = some y ∧ RodTrapped i.rod y ∧ t.mem = s.mem ∧ y.cause = i.rod.cause ||| Cause.brk ∧
        y.skid = packSkid (nextPoint i c).1 i.sl (nextPoint i c).2 0 ∧ y.run ≠ .running)) ∧
  (∀ (s : State) (i : Iss) (g : Guard), s.issuer = some i →
    (∀ m : BitVec 24, Completes (exec (.tclr g m) s) s i.rid
      (if i.part g = 0 then i.rod else { i.rod with cause := i.rod.cause &&& ~~~(m.setWidth 32 &&& ~~~Cause.inh) }))) ∧
  (∀ (s : State) (i : Iss) (g : Guard) (d : Operand) (item : BitVec 2) (cmd : Cmd) (p : Packet) (ch : Chain) (v : DWord),
    Ready s i [(d, 1)] [] → isReg d = true → itemIs s i.rid cmd p ch item v →
    Completes (exec (.sysrd g d item) s) s i.rid (writeInt i.rod (i.part g) d (fun n _ => v.setWidth n))) ∧
  (∀ (s : State) (i : Iss) (g : Guard) (a : Operand), Ready s i [] [(a, 1)] →
    (∀ e ∈ sysWritten i.rod ((srcs s i g none).int .a a false 64 (lowest (i.part g))),
      Completes (exec (.syswr g e.1 a) s) s i.rid (if i.part g = 0 then i.rod else e.2)) ∧
    (i.part g ≠ 0 → i.rod.run = .running → ∀ z, (SReg.skid, z) ∈ sysWritten i.rod ((srcs s i g none).int .a a false 64 (lowest (i.part g))) →
      LeavesRod (exec (.syswr g .skid a) s) i.rid (fun y => y.skid = z.skid)) ∧
    ∀ e ∈ [SReg.lane, .active, .place, .chain, .role, .cycle, .flags], Completes (exec (.syswr g e a) s) s i.rid i.rod)

/-- R405, R406, R441: return from an exception, and the system instructions. -/
def Obligations.ExceptionReturnAndSystem : Prop :=
  Claims.ReturnFromException ∧ Claims.TrapAndSystemInstructions

/-- R434, R440, R441, R446 to R448: `hold`, and `ebrk` by EMODE, issue and then hold the core, with a stop record for each rod stopped; with software
records on, `prmark` and `smpl` write one record at the write pointer, which moves past it, and without they do nothing. -/
def Obligations.HoldAndRecordInstructions : Prop :=
  (∀ (s : State) (i : Iss) (g : Guard), s.issuer = some i → (i.part g = 0 → Completes (exec (.hold g) s) s i.rid i.rod) ∧
    (i.part g ≠ 0 → (s.core (s.coreOf i.rid)).isHeld = false →
      (∃ t, exec (.hold g) s = .next t ∧ HeldWith t (s.coreOf i.rid) i.rid) ∧
      (∀ n, (s.die (s.coreOf i.rid).die).dbgctl.getLsbD 1 = true → ∃ t, exec (.ebrk g n) s = .next t ∧ HeldWith t (s.coreOf i.rid) i.rid) ∧
      ∀ rs, rs = heldRods s (s.coreOf i.rid) → MidClause i → SampleRoom s (s.coreOf i.rid).die (8 * rs.length) →
        (∀ r ∈ rs, (s.rod r).isSome = true ∧ (s.coreOf r).die = (s.coreOf i.rid).die) →
        (∃ t, exec (.hold g) s = .next t ∧ HeldWith t (s.coreOf i.rid) i.rid ∧
          (t.die (s.coreOf i.rid).die).smpwr = (s.die (s.coreOf i.rid).die).smpwr + BitVec.ofNat 32 (8 * rs.length) ∧
          ∀ j, rs[j]? = some i.rid → RecordAt s t (s.coreOf i.rid).die (8 * j) 4 4 (stopWords s i 0)) ∧
        (∀ n, (s.die (s.coreOf i.rid).die).dbgctl.getLsbD 1 = true → ∃ t, exec (.ebrk g n) s = .next t ∧ HeldWith t (s.coreOf i.rid) i.rid ∧
          ∀ j, rs[j]? = some i.rid → RecordAt s t (s.coreOf i.rid).die (8 * j) 4 2 (stopWords s i n.toNat)))) ∧
  (∀ (s : State) (i : Iss) (g : Guard) (imm : Word) (d : Nat), s.issuer = some i → d = (s.coreOf i.rid).die →
    ((s.die d).smpctl.getLsbD 62 = false ∨ i.part g = 0 → Completes (exec (.prmark g imm) s) s i.rid i.rod) ∧
    (i.part g ≠ 0 → SampleReady s d 5 → Issues (exec (.prmark g imm) s) i (fun u => u.rods = s.rods ∧ (u.die d).smpwr = (s.die d).smpwr + 5 ∧
      RecordAt s u d 0 3 0 (rodWordOf s i.rid i.rod 5 :: cycleOf s d ++ [imm])))) ∧
  (∀ (s : State) (i : Iss) (g : Guard) (a : BitVec 8) (n : BitVec 4) (d : Nat), Ready s i [] [(.w a, n.toNat)] → d = (s.coreOf i.rid).die →
    ((s.die d).smpctl.getLsbD 62 = false ∨ i.part g = 0 → Completes (exec (.smpl g a n) s) s i.rid i.rod) ∧
    (i.part g ≠ 0 → SampleReady s d (4 + n.toNat) → Issues (exec (.smpl g a n) s) i (fun u => u.rod i.rid = some i.rod ∧
      (u.die d).smpwr = (s.die d).smpwr + 4 + BitVec.ofNat 32 n.toNat ∧
      RecordAt s u d 0 2 n.toNat (rodWordOf s i.rid i.rod 5 :: cycleOf s d ++ i.rod.lws a.toNat n.toNat (lowest (i.part g))))))

/-- R407: `csave` writes the register image to memory block by block, and `crest` takes one back: the registers and the words below both windows. -/
def Obligations.RegisterImages : Prop :=
  ∀ (s : State) (i : Iss) (g : Guard) (a : Operand) (va : DWord), Ready s i [] [(a, 2)] → i.part g ≠ 0 → i.flagFull = false →
    va = (srcs s i g none).d64 .a a (lowest (i.part g)) → va.toNat % 64 = 0 → vaKind va = .translated →
    (∀ ws s' k t, s.mayStore i .rod .plain = true → ImageAt s i va .write (960 + 128 * i.rod.window) ws s' →
      s'.engineMay (s'.coreOf i.rid) (blockAccesses ws) = true →
      s'.writeBlocks i.rid (ws.zipIdx.map (fun e => (e.1, (i.rod.regImage.drop (64 * e.2)).take 64))) = (k, t) →
      Issues (exec (.csave g a) s) i (fun u => u.mem = t.mem ∧ u.cores = t.cores ∧ ∀ x, t.rod i.rid = some x → u.rod i.rid = some (x.raise k))) ∧
    (∀ w0 s0 head k0 s1 ws s2 bs k s3, s.mayLoad i .rod .plain = true → ImageAt s i va .read 64 w0 s0 →
      s0.engineCan (s.coreOf i.rid) (blockAccesses w0) = true → s0.readBlocks (s.coreOf i.rid) w0 [] 0 = (some (head, k0), s1) →
      s1.imageBlocks i va .read (blocksOf (960 + 128 * Nat.min i.rod.window (8 * natAt head 0 1))) [] = .ok (ws, s2) →
      s2.engineCan (s.coreOf i.rid) (blockAccesses ws) = true → s2.readBlocks (s.coreOf i.rid) ws [] 0 = (some (bs, k), s3) →
      Issues (exec (.crest g a) s) i (fun u => u.mem = s3.mem ∧ ∀ x, s3.rod i.rid = some x → u.rod i.rid =
        some ({ x with cause := x.cause ||| k, mflags := x.mflags ||| (if ws.contains .zero then 1 else 0) }.takeRegImage bs)))

/-- R202 to R206, R438, R259, R163: a slot starts its clause once the header's flags are clear, and otherwise waits or traps; a break bit holds the
core or raises breakpoint; a `sleep` ends; ageing puts the overdue path in a slot. -/
def Obligations.ClausesSlotsAndAgeing : Prop :=
  (∀ (s s' : State) (r : RodId) (sl : SlotId) (x : Rod) (y : Slot), MayStart s r sl x y →
    (∀ h body, s.fetchClause (s.coreOf r) (s.asidOf r) (x.denied.filter (fun d => d.sl == sl)) y.path.pc = .ok ((h, body), s') → s'.rod r = some x →
      (y.path.idx ≤ h.count.toNat → (y.path.idx = 0 → x.flagsClear h.wait = true) → ∃ t z, exec (.clauseStart r sl) s = .next t ∧ t.mem = s'.mem ∧
        t.rod r = some z ∧ z.slot sl = some { y with wait := none, started := some (clauseOf h body) } ∧ z.slot sl.other = x.slot sl.other) ∧
      (y.path.idx = 0 → x.flagsClear h.wait = false → LeavesRod (exec (.clauseStart r sl) s) r (fun z =>
        z.slot sl = some { y with wait := some (.flags h.wait) }))) ∧
    (∀ bits e, s.fetchClause (s.coreOf r) (s.asidOf r) (x.denied.filter (fun d => d.sl == sl)) y.path.pc = .error (.rejected bits e, s') →
      exec (.clauseStart r sl) s = .next ((s'.setRod r { x with denied := x.denied.filter (fun d => d.kind != .fetch) }).takeTrap r sl bits y.path.pc 0)) ∧
    (s.fetchClause (s.coreOf r) (s.asidOf r) (x.denied.filter (fun d => d.sl == sl)) y.path.pc = .error (.busy, s') → exec (.clauseStart r sl) s = .next s') ∧
    (∀ va, s.fetchClause (s.coreOf r) (s.asidOf r) (x.denied.filter (fun d => d.sl == sl)) y.path.pc = .error (.missing va, s') → s'.rod r = some x →
      LeavesRod (exec (.clauseStart r sl) s) r (fun z => z.slot sl = some { y with wait := some .translation }))) ∧
  (∀ (s : State) (r : RodId) (sl : SlotId) (x : Rod) (y : Slot), s.rod r = some x → x.slot sl = some y →
    (y.brk = true → y.path.broke = false → (s.die (s.coreOf r).die).dbgctl.getLsbD 0 = true → (s.core (s.coreOf r)).isHeld = false →
      ∃ t, exec (.breakBitHit r sl) s = .next t ∧ HeldWith t (s.coreOf r) r) ∧
    (y.brk = true → y.path.broke = false → (s.die (s.coreOf r).die).dbgctl.getLsbD 0 = false → exec (.breakBitHit r sl) s =
      .next ((s.setRod r (x.setSlot sl (some { y with path := { y.path with broke := true } }))).takeTrap r sl Cause.brk y.path.pc y.path.idx)) ∧
    (y.brk = false ∨ y.path.broke = true → exec (.breakBitHit r sl) s = .next s) ∧
    (∀ til, y.wait = some (.sleep til) →
      (til ≤ s.cycle → exec (.sleepExpire r sl) s = .next (s.setRod r (x.setSlot sl (some { y with wait := none })))) ∧
      (s.cycle < til → exec (.sleepExpire r sl) s = .next s))) ∧
  (∀ (s : State) (r : RodId) (x : Rod), s.rod r = some x →
    (x.overdue s.cycle = none → exec (.ageingSwap r) s = .next (s.setRod r x)) ∧
    (∀ i p sl z, x.overdue s.cycle = some (i, p) → x.swapSlot = some sl → x.slot sl = some z →
      LeavesRod (exec (.ageingSwap r) s) r (fun y => (∃ w, y.slot sl = some w ∧ w.path = { p with nap := 0 } ∧ w.started = none ∧
          w.wait = (if s.cycle < p.nap then some (.sleep p.nap) else none)) ∧
        y.entry i = .path (z.out s.cycle) ∧ y.slot sl.other = x.slot sl.other)))

/-- R384, R385, R389: a host write of WIDX appends slots or takes them back, QPUSH appends one; a fetch takes the slot at RIDX, and with it a packet
that passes every check, refuses a type above 3 with reason 6, and passes over type 0. -/
def Obligations.QueuesAndFetch : Prop :=
  (∀ (s : State) (q n : Nat) (v : DWord), n = (loWord v - (s.queue q).ridx).toNat →
    ((s.queue q).dev = false → n ≤ 2 ^ (s.queue q).log2 → ∃ t, exec (.widxWrite q v) s = .next t ∧ (t.queue q).widx = loWord v ∧
      { t with queues := s.queues, appended := s.appended } = s ∧ t.appended = s.appended + (n - (s.queue q).holds)) ∧
    ((s.queue q).dev = true ∨ 2 ^ (s.queue q).log2 < n → exec (.widxWrite q v) s = .next s) ∧
    ((s.queue q).dev = true → (s.queue q).holds < 2 ^ (s.queue q).log2 →
      ∀ pa, pa = (s.queue q).slotAt (s.queue q).widx → s.upsets = [] → s.reach pa ≠ .memory ∨ s.canPut (ioStop (q / 512)) pa 8 = true →
      ∃ t, exec (.qpush q v) s = .next t ∧ (t.queue q).widx = (s.queue q).widx + 1 ∧ t.rods = s.rods ∧ t.cmds = s.cmds ∧
        (s.reach pa = .memory → t.curNat pa 8 = v.toNat) ∧ (s.reach pa ≠ .memory → t.mem = s.mem)) ∧
    ((s.queue q).dev = false ∨ 2 ^ (s.queue q).log2 ≤ (s.queue q).holds → exec (.qpush q v) s = .next s)) ∧
  (∀ (s : State) (q w type : Nat), (s.canFetch q = false → exec (.slotFetch q) s = .next s) ∧
    ∀ s1, (s.canFetch q = true → s.upsets = [] → s.readPhys (.io (q / 512)) ((s.queue q).slotAt (s.queue q).ridx) 8 = .ok (w, s1) → type = w % 16 →
      (type = 0 → ∃ t, exec (.slotFetch q) s = .next t ∧ t.cmds = s.cmds ∧ (t.queue q).ridx = (s.queue q).ridx + 1 ∧ t.mem = s1.mem) ∧
      (3 < type → ∃ t c, exec (.slotFetch q) s = .next t ∧ (t.queue q).ridx = (s.queue q).ridx + 1 ∧
        t.cmd s1.nextId = some c ∧ c.queue = q ∧ c.state = .complete ∧ c.code = 1 ∧ c.reason = 6) ∧
      (∀ va bs s' c, 1 ≤ type → type ≤ 3 → (∀ slot : DWord, slot = BitVec.ofNat 64 w → va = 64 * slot.bits 55 6) →
        (s.queue q).shadows.find ((s.queue q).ridx.toNat % 2 ^ (s.queue q).log2) = none →
        s1.packetParts q ((s.queue q).qcfg.bits 47 32) va (if type = 1 then 32 else 4) [] = .ok (some bs, s') → s'.queue q = s.queue q →
        c = Cmd.fresh q (s.queue q).ridx.toNat ((s.queue q).qcfg.bits 47 32) ((s.queue q).seqs.headD 0) s'.appended (cmdKindOf type bs) false →
        s'.countersBusy c = false → s'.cancels = [] →
        (afterFetch s' q).refusal (q / 512) c.asid c.kind (c.levels.map (fun l => (l, c.counter l))) = 0 →
        ∃ t, exec (.slotFetch q) s = .next t ∧ (t.queue q).ridx = (s.queue q).ridx + 1 ∧ t.cmd s'.nextId = some c ∧ t.mem = s'.mem)))

/-- R390 to R393, R430: a launch joins the ready pool when its counters and its queue let it; a completed command publishes in its queue's order and
a level with its worst code; a neighbour command bins every particle of its grid. -/
def Obligations.ReadinessAndCompletion : Prop :=
  (∀ (s : State) (n : Nat) (c : Cmd), s.cmd n = some c →
    (s.launchable c = true → exec (.launchReady n) s = .next { s.setCmd n { c with state := .ready } with roundDue := true }) ∧
    (s.launchable c = false → exec (.launchReady n) s = .next s) ∧
    (c.state = .complete → s.inOrder c = true → s.owing n c = false → ∀ u, s.publish c.queue c.asid (c.counter .launch) c.code c.reason = .ok u →
      ∃ t, exec (.levelComplete .launch n) s = .next t ∧ t.cmd n = some { c with state := .published, owed := [] } ∧ t.mem = u.mem) ∧
    (c.state = .complete → s.inOrder c = true → s.owing n c = true → exec (.levelComplete .launch n) s = .next (s.send (.levelComplete .launch n))) ∧
    (c.state = .complete → s.inOrder c = false → ∃ t, exec (.levelComplete .launch n) s = .next t ∧ { t with canc := s.canc } = s) ∧
    (∀ lvl, lvl ≠ .launch → (s.levelReady n lvl = false ∨ s.levelTurn n lvl = false → exec (.levelComplete lvl n) s = .next s) ∧
      (s.levelReady n lvl = true → s.levelTurn n lvl = true → ∃ code reason, worstCode (s.levelCmds c lvl) code ∧ (code ≠ 1 → reason = 0) ∧
        (∀ u, s.publish c.queue c.asid (c.counter lvl) code reason = .ok u → ∃ t, exec (.levelComplete lvl n) s = .next t ∧
          t.cmd n = some { c with pubs := lvl :: c.pubs } ∧ t.mem = u.mem) ∧
        ∀ x, s.publish c.queue c.asid (c.counter lvl) code reason = .error x → ∃ t, exec (.levelComplete lvl n) s = .next t ∧
          t.cmds = s.cmds ∧ t.mem = s.mem ∧ Instr.levelComplete lvl n ∈ t.inflight))) ∧
  (∀ (s : State) (n : Nat) (c : Cmd) (p : NbPkt) (f : NbFor), s.cmd n = some c → c.kind = .neighbour p →
    f = { die := p.die, asid := c.asid, denied := c.denied, rod := none } →
    (s.cmdTurn c = false ∨ c.susp = true → exec (.neighbourCommand n) s = .next s) ∧
    (s.cmdTurn c = true → c.susp = false →
      (s.inService p.die = false → exec (.neighbourCommand n) s = .next (s.completeCmd n 3 0)) ∧
      (∀ gid x t1, s.inService p.die = true → gid < 4 → s.grid p.die gid = none → (∀ g < gid, (s.grid p.die g).isSome = true) →
        (∀ va k w e, s.nbBind f n gid p.desc.toNat = .error (va, k, w, e) → exec (.neighbourCommand n) s = .next (s.cmdWait n (.die p.die) va k w)) ∧
        (∀ t1, s.nbBind f n gid p.desc.toNat = .ok (none, t1) → exec (.neighbourCommand n) s = .next (t1.refuseCmd n 8)) ∧
        (s.nbBind f n gid p.desc.toNat = .ok (some x, t1) →
          ∀ y t2 z t3 w t4, t1.nbBin f x 0 x.grid.desc.npart = .ok (y, t2) → t2.nbStatus f y = .ok (z, t3) → t3.nbDone f z = .ok (w, t4) →
          exec (.neighbourCommand n) s = .next ((t4.setGrid p.die gid none).completeCmd n (if w.cause &&& Cause.accv = 0 then 0 else 4) 0)))))

/-- R328, R396: `cancel` and the host's writes of CANC cancel every fetched command of their level and stay in force until its END has been fetched; a
write while BUSY is ignored. No instruction of the rod issues after its `cancel`. -/
def Obligations.Cancellation : Prop :=
  (∀ (s : State) (i : Iss) (g : Guard) (lvl : Level), s.issuer = some i → (i.part g = 0 → Completes (exec (.cancel g lvl) s) s i.rid i.rod) ∧
    (i.part g ≠ 0 → ∀ c, s.cmd (s.launchOf i.rid) = some c → ∃ t y, exec (.cancel g lvl) s = .next t ∧
      Cancels s t { level := lvl, id := idsAt c.ids lvl, asid := c.asid, queue := c.queue, idx := c.ring, upTo := none } ∧ t.rod i.rid = some y ∧
      ∀ sl x, y.slot sl = some x → x.started = none)) ∧
  (∀ (s : State) (queue id asid : BitVec 16) (ix : Word),
    ∀ e ∈ (hostCancels queue.toNat ix.toNat id.toNat asid.toNat).zip [Instr.cancLaunch queue ix, .cancGraph id asid, .cancPhase id asid, .cancJob id asid],
      (s.canc.getLsbD 63 = true → exec e.2 s = .next s) ∧
      (s.canc.getLsbD 63 = false → ∃ t, exec e.2 s = .next t ∧ Cancels s t e.1.1 ∧ (t.canc.bits 62 0 = e.1.2)))

/-- R394, R397, R432, R470: pre-emption vacates the emptiest cores of a die and PREL gives them back; an acknowledged die loss and every scheduler
round go on from there. -/
def Obligations.SchedulingRegisters : Prop :=
  (∀ (s : State) (v : DWord), (s.preq.getLsbD 63 = true ∨ v.bits 5 0 = 0 ∨ 48 < v.bits 5 0 → exec (.preqVacate v) s = .next s) ∧
    (s.preq.getLsbD 63 = false → 0 < v.bits 5 0 → v.bits 5 0 ≤ 48 → s.chains = [] → ∃ t, exec (.preqVacate v) s = .next t ∧
      t.preq = v &&& 0x70000003F ∧ t.mem = s.mem ∧ ((∀ k < 48, (s.core ⟨v.bits 34 32, k⟩).isHeld = false ∧ (s.core ⟨v.bits 34 32, k⟩).vacated = false) →
        ∀ k < 48, (t.core ⟨v.bits 34 32, k⟩).vacated = decide (48 ≤ k + v.bits 5 0))) ∧
    (∃ t, exec (.prel v) s = .next t ∧ t.roundDue = (s.roundDue || (List.range 48).any (fun k => v.getLsbD k && (s.core ⟨v.bits 50 48, k⟩).vacated)) ∧ t.mem = s.mem ∧ t.rods = s.rods ∧ ∀ k < 48, t.core ⟨v.bits 50 48, k⟩ =
      { s.core ⟨v.bits 50 48, k⟩ with vacated := (s.core ⟨v.bits 50 48, k⟩).vacated && !v.getLsbD k }) ∧
    ∀ iod q, q = v.bits 9 0 →
      (q / 512 = iod → (s.queue q).dlwait = true → ∃ t, exec (.dlack iod v) s = .next t ∧ t.queue q = { s.queue q with dlwait := false } ∧
        { t with queues := s.queues, cmds := s.cmds } = s ∧ (∀ p, p ≠ q → t.queue p = s.queue p) ∧
        ∀ n c, s.cmd n = some c → t.cmd n = some (if c.queue = q then { c with lost := false } else c)) ∧
      (q / 512 ≠ iod ∨ (s.queue q).dlwait = false → exec (.dlack iod v) s = .next s)) ∧
  (∀ s : State, (s.roundDue = true → ∃ t, exec .schedulerRound s = .next t ∧ t.lastRound = s.cycle) ∧
    (s.roundDue = false → s.chains = [] → exec .schedulerRound s = .next { s with preq := s.preq &&& 0x7FFFFFFFFFFFFFFF }) ∧
    (s.roundDue = true → s.chains = [] → s.cmds = [] → ∃ t, exec .schedulerRound s = .next t ∧ t.roundDue = false ∧ t.rods = s.rods ∧ t.mem = s.mem ∧
      ∀ q ∈ s.queues.keys, t.queue q = { s.queue q with def' := 0 }) ∧
    (s.lastRound + 4096 ≤ s.cycle → ∃ t, exec .schedulerRoundTimer s = .next t ∧ t.lastRound = s.cycle) ∧
    (s.cycle < s.lastRound + 4096 → exec .schedulerRoundTimer s = .next s))

/-- R145, R151, R152, R156, R338: a rod starts with its role, its window and arguments, registers of zeros, q0 T, one path of all lanes at ENTRY,
and no cause. -/
def Obligations.RodStart : Prop :=
  ∀ (s : State) (lid num fid fchn : Nat) (cmd : Cmd) (p : Packet) (core : CoreId) (r : Room) (k : Nat), k < p.nrod → p.nrod ≤ 32 → p.args.length = 8 →
    ∃ x, (s.startChain lid cmd p num fid fchn core r).rod ⟨s.nextId, k⟩ = some x ∧ x.window = p.window ∧ x.role = p.roles.getD k 0 ∧
      (∀ j, x.un j = p.args.getD j 0) ∧ (∀ j l, x.lw j l = 0) ∧ (∀ n l, x.pred n l = if n = 0 then 1 else 0) ∧ (∀ n l, x.kreg n l = 0) ∧
      At x .a p.entry 0xFFFFFFFF none ∧ x.slotB = none ∧ x.stack = [] ∧ x.depth = p.depth ∧ x.cause = 0 ∧ x.agelimit = 4096 ∧
      x.gang = 1#32 <<< k ∧ x.held = 0xFFFFFFFF ∧ x.run = .running ∧ ∀ n, x.flagCount n = 0

/-- R327: `launch` appends one slot of its own queue or the one it names, with the packet as it reads it, and answers 0; a queue that cannot take it
answers 2 and one that is full 1. -/
def Obligations.DeviceLaunch : Prop :=
  ∀ (s : State) (i : Iss) (g : Guard) (d a b : Operand) (q : Nat) (va : Nat), Ready s i [(d, 1)] [(a, 2), (b, 1)] → isReg d = true → i.part g ≠ 0 →
    s.engineReady i.rid = true → s.released i.rid .package = true → s.unbound i.rid = false → s.acquiring i.rid = false →
    q = (if (srcs s i g none).d64 .b b (lowest (i.part g)) = -1 then (s.queueOf i.rid).1 else ((srcs s i g none).d64 .b b (lowest (i.part g))).toNat) →
    va = ((srcs s i g none).d64 .a a (lowest (i.part g))).toNat →
    (1024 ≤ q ∨ (s.queue q).qcfg.bits 47 32 ≠ s.asidOf i.rid ∨ (s.queue q).dev = false ∨ (s.queue q).log2 < 4 ∨ 16 < (s.queue q).log2 →
      Completes (exec (.launch g d a b) s) s i.rid (writeInt i.rod (i.part g) d (fun n _ => BitVec.ofNat n 2))) ∧
    (q < 1024 → (s.queue q).qcfg.bits 47 32 = s.asidOf i.rid → (s.queue q).dev = true → 4 ≤ (s.queue q).log2 → (s.queue q).log2 ≤ 16 → va % 64 = 0 →
      ∀ (fs : List Nat) (s' : State) (x : Rod), (s.setRod i.rid i.rod).slotFrames (.core (s.coreOf i.rid)) (s.asidOf i.rid) i.denied va .read (blocksOf 512) [] =
        .ok (some (fs.map some), s') → causesOf (packetWords s' fs) = 0 → s'.queue q = s.queue q → s'.rod i.rid = some x →
      ((s.queue q).holds < 2 ^ (s.queue q).log2 → (s'.reach ((s.queue q).slotAt (s.queue q).widx) ≠ .memory ∨
          s'.canPut (stopOf (s'.coreOf i.rid).die) ((s.queue q).slotAt (s.queue q).widx) 8 = true) → Issues (exec (.launch g d a b) s) i (fun u => (u.queue q).widx = (s.queue q).widx + 1 ∧
        u.appended = s'.appended + 1 ∧ u.rod i.rid = some (writeInt x (i.part g) d (fun n _ => BitVec.ofNat n 0)) ∧
        (u.queue q).shadows.find ((s.queue q).widx.toNat % 2 ^ (s.queue q).log2) = some ((packetWords s' fs).flatMap (fun w => bytesOf 4 w.val.toNat)))) ∧
      (2 ^ (s.queue q).log2 ≤ (s.queue q).holds → Issues (exec (.launch g d a b) s) i (fun u => u.queue q = s.queue q ∧ u.mem = s'.mem ∧
        u.rod i.rid = some (writeInt x (i.part g) d (fun n _ => BitVec.ofNat n 1)))))

/-- R335 to R342, R346, R348, R350 to R352, R354: a rod that is its own gang hands a tile operation to the engine, with its causes, flags and front-end
fields; `mxsp` changes its tile at once; an operand outside its limits is illegal; `mxrd` reads per lane; `mxgang` sets the gang or traps. -/
def Sys2Proof.Claims.TileInstructionsIssue : Prop :=
  (∀ (s : State) (i : Iss) (g : Guard) (x : MxFields) (v : View) (spc : MxSpace) (t : BitVec 3) (a b c : Operand) (ch : Chain), TileReady s i g ch →
    (∀ e ∈ tileRows s i g x v spc t a b c, Ready s i [] e.srcs →
      (ch.mxIllegal e.ins e.a.toNat = true → exec e.ins s = trap s i Cause.illegal) ∧
      (ch.mxIllegal e.ins e.a.toNat = false → (e.long = true → i.flagFull = false) → ∃ m, m.kind = ch.mxKind e.ins e.a e.b e.k ∧ m.gang = [i.rid.rod] ∧
        m.tile = mxTile e.ins ∧ m.prog = 0 ∧ m.raw = false ∧ Issues (exec e.ins s) i (fun u => u.mem = s.mem ∧
          u.op s.nextId = some { rod := i.rid, flags := flagsOf i e.long, kind := .mx m, susp := false, denied := [] } ∧
          u.chain i.rid.chain = some (ch.mxFront e.ins e.a.toNat) ∧
          ∃ y, u.rod i.rid = some y ∧ { y with flags := i.rod.flags, cause := i.rod.cause } = i.rod ∧
            y.cause = i.rod.cause ||| (if ch.mxCauses e.ins e.a e.b e.k then Cause.accv else 0) |||
              (if (ch.mxSnap e.ins e.a.toNat).any (fun (j : Nat × Nat) => ch.anyBad (e.a.toNat + 64 * j.1) 64) then Cause.umem else 0)))) ∧
    (Ready s i [] [(a, 1)] → ch.mxIllegal (.mxsp g t a) (word32 s i g .a a).toNat = false →
      Issues (exec (.mxsp g t a) s) i (fun u => u.mem = s.mem ∧ u.rod i.rid = some i.rod ∧ u.ops = s.ops ∧ ∃ z, u.chain i.rid.chain = some z ∧
        z.tile t.toNat = { ch.tile t.toNat with gr := bitsOf (word32 s i g .a a).toNat 1 0, gc := bitsOf (word32 s i g .a a).toNat 3 2,
                                                pr := bitsOf (word32 s i g .a a).toNat 4 4, pc := bitsOf (word32 s i g .a a).toNat 6 5 }))) ∧
  (∀ (s : State) (i : Iss) (g : Guard) (v : View) (t : BitVec 3) (d row col : Operand), Ready s i [(d, v.words)] [(row, 1), (col, 1)] → i.flagFull = false →
    s.engineReady i.rid = true → i.part g ≠ 0 → s.mxOn (s.coreOf i.rid) < Config.mxOps → ∃ m rt ct, m.kind = .rd v d (i.part g) rt ct ∧ m.tile = t.toNat ∧
      (∀ l ∈ lanes (i.part g), rt.get l 0 = ((srcs s i g none).int .b row false 32 l).toNat ∧ ct.get l 0 = ((srcs s i g none).int .c col false 32 l).toNat) ∧
      Issues (exec (.mxrd g v t d row col) s) i (fun u => OpTaken s u i (.mx m))) ∧
  (∀ (s : State) (i : Iss) (g : Guard) (a : Operand) (m : Word) (ch : Chain), Ready s i [] [(a, 1)] → i.part g ≠ 0 → s.chain i.rid.chain = some ch →
    m = (srcs s i g none).int .a a false 32 (lowest (i.part g)) →
    (m.getLsbD i.rid.rod = true → count m ≤ 6 → m.toNat < 2 ^ ch.nrod → Completes (exec (.mxgang g a) s) s i.rid { i.rod with gang := m }) ∧
    (m.getLsbD i.rid.rod = false ∨ 6 < count m ∨ 2 ^ ch.nrod ≤ m.toNat → exec (.mxgang g a) s = trap s i Cause.gang))

/-- R335, R336: `mxclr` gives its tile the extent its operand names, valid, and takes valid from every other tile that overlaps it. -/
def Sys2Proof.Claims.TileTable : Prop :=
  ∀ (ch : Chain) (g : Guard) (t : BitVec 3) (a : Operand) (x : Nat), Tbl.sorted ch.tiles = true →
    ∀ z, z = (ch.mxFront (.mxclr g t a) x).tile t.toNat →
      z.valid = true ∧ z.mq = x % 8 ∧ z.nq = x / 8 % 8 ∧ z.off = x / 64 % 64 ∧
      ∀ k, k ≠ t.toNat → (ch.mxFront (.mxclr g t a) x).tile k =
        (if (ch.tile k).valid = true ∧ z.lo < (ch.tile k).hi ∧ (ch.tile k).lo < z.hi then { ch.tile k with valid := false } else ch.tile k)

/-- R335 to R342, R346, R348, R350 to R352, R354: the tile instructions. -/
def Obligations.TileInstructions : Prop :=
  Claims.TileInstructionsIssue ∧ Claims.TileTable

/-- R343, R344, R354, R356: a step of a product whose turn has come and whose operands are at hand adds them to every element and counts them; an
operation with no step left takes effect and is over. -/
def Obligations.MatrixEngineSteps : Prop :=
  (∀ (s : State) (n : Nat) (o : Op) (m : MxOp) (ch : Chain), MxTurn s n o m ch →
    ∀ x conv k0 klen ra rb rra rrb, m.kind = .prod x conv k0 klen ra rb rra rrb → m.prog * kStep x.af x.bf < klen →
    ∀ t ks as bs ca cb s1 s2 c2 o2, t = m.tileIn ch → ks = m.ks (kStep x.af x.bf) klen →
      s.mxElems (fun s e => s.mxElemA n o t x conv k0 ra rra e) (mxGrid t.m ks) [] 0 = .ok ((as, ca), s1) →
      s1.mxElems (fun s e => s.mxElemB n o t x k0 rb rrb e) (mxGrid t.n ks) [] 0 = .ok ((bs, cb), s2) → s2.chain o.rod.chain = some c2 → s2.op n = some o2 →
      ∃ u z, exec (.mxKStep n) s = .next u ∧ u.mem = s2.mem ∧
        u.op n = some { o2 with kind := .mx { m with prog := m.prog + 1, held := [], caused := m.caused || (ca ||| cb) != 0 } } ∧
        u.chain o.rod.chain = some z ∧ (z.tile m.tile).terms = Nat.min (t.terms + ks.length) (2 ^ 40 - 1) ∧
        ∀ i j, i < t.m → j < t.n → z.accAt (t.elem i j) = (c2.accAt (t.elem i j)).addRow t.win (x.ara || x.bra) (mxRow as bs ks.length i j)) ∧
  (∀ (s : State) (n : Nat) (o : Op) (m : MxOp) (ch : Chain) (t x : Tile), MxTurn s n o m ch → m.raw = false → t = m.tileIn ch → x = ch.tile m.tile →
    (m.kind = .bad → exec (.mxOpComplete n) s = .next (s.endOp n)) ∧
    (∀ mq nq off z, m.kind = .clr mq nq off → z = { t with mq := mq, nq := nq, off := off } → ∃ u c, exec (.mxOpComplete n) s = .next u ∧ OpOver u n ∧
      u.mem = s.mem ∧ u.chain o.rod.chain = some c ∧ c.tile m.tile = { x with win := 0, terms := 0, prog := 0 } ∧
      ∀ k, c.accAt k = if z.lo ≤ k ∧ k < z.hi then Acc.reset else ch.accAt k) ∧
    (∀ v, m.kind = .win v → ∃ u c, exec (.mxOpComplete n) s = .next u ∧ OpOver u n ∧ u.mem = s.mem ∧ u.chain o.rod.chain = some c ∧
      c.tile m.tile = { x with win := v, terms := 0 } ∧ ∀ k, c.accAt k = if t.lo ≤ k ∧ k < t.hi then Acc.reset else ch.accAt k) ∧
    (∀ f conv k0 klen ra rb rra rrb, m.kind = .prod f conv k0 klen ra rb rra rrb → klen ≤ m.prog * kStep f.af f.bf → ∃ u, exec (.mxOpComplete n) s = .next u ∧
      OpOver u n ∧ u.mem = s.mem ∧ u.chain o.rod.chain = some (ch.setTile m.tile { x with prog := 0 })) ∧
    (∀ v k ls row col y, m.kind = .rd v (.w k) ls row col → s.rod o.rod = some y → ∃ u z, exec (.mxOpComplete n) s = .next u ∧ OpOver u n ∧ u.mem = s.mem ∧
      u.rod o.rod = some z ∧ ∀ l ∈ lanes ls, t.valid = true → row.get l 0 < t.m → col.get l 0 < t.n → ∀ j < v.words,
        z.lw (k.toNat + j) l = (((ch.accAt (t.elem (row.get l 0) (col.get l 0))).read t v.fmt).pair.words v).getD j 0) ∧
    (∀ v spc l k s', m.kind = .st v spc l → s.mxStore n o v spc l ch t ((mxStoreElems t l).drop m.wrote) 0 = .ok (k, s') → s'.op n = some o →
      ∃ u, exec (.mxOpComplete n) s = .next u ∧ OpOver u n ∧ u.mem = s'.mem ∧ u.chain o.rod.chain = s'.chain o.rod.chain) ∧
    (∀ a ws s' k w s2, m.kind = .sv a → s.rangeOf n o a .write (blocksOf t.imageLen) [] = .ok (ws, s') →
      s'.engineMay (s.coreOf o.rod) (blockAccesses ws) = true →
      s'.writeImage o.rod (ws.zipIdx.map (fun e => (e.1, ((ch.tileImage t 0).drop (64 * e.2)).take 64))) = (k, w, s2) →
      ∃ u, exec (.mxOpComplete n) s = .next u ∧ OpOver u n ∧ u.mem = s2.mem) ∧
    (∀ a ws s' bs bd k s2 h, m.kind = .rs a → s.rangeOf n o a .read (blocksOf t.imageLen) [] = .ok (ws, s') →
      s'.engineCan (s.coreOf o.rod) (blockAccesses ws) = true → ws.contains .zero = false →
      s'.readImage (s.coreOf o.rod) ws = (bs, bd, k, false, s2) → h = Tile.ofHeader (ofBytes (bs.take 64)) → h.valid = true → h.mq = t.mq → h.nq = t.nq →
      ∃ u, exec (.mxOpComplete n) s = .next u ∧ OpOver u n ∧ u.mem = s2.mem ∧ u.chain o.rod.chain =
        some ((ch.restoreElems t (bs.drop 64) (fun j => bd.getD (64 + j) false)).setTile m.tile { x with win := h.win, terms := h.terms })))

/-- R153, R329, R331, R332: rod 0's `cpy` and `cpyo` hand a copy to the streamer, every other rod traps; a line lands when it is in the state waited
for, and a copy whose lines have landed is over, with the counter that SEQ names one higher. -/
def Obligations.Copies : Prop :=
  (∀ (s : State) (i : Iss) (g : Guard) (a b k : Operand) (bar : Option CopyBar) (h : Hint) (seq : Option (BitVec 6)) (bid : Option BarId),
    Ready s i [] [(a, 1), (b, 2), (k, 1)] → i.part g ≠ 0 →
    (i.rod.role ≠ 0 → exec (.cpy g a b k bar h) s = trap s i Cause.copyr ∧ exec (.cpyo g a b k bar h seq) s = trap s i Cause.copyr) ∧
    (i.rod.role = 0 → s.copyBar i.rid (match bar with | none => 0 | some x => if x.furlong then 2 else 1) (match bar with | none => 0 | some x => x.no.toNat) =
        some bid → i.flagFull = false → s.copiesOn (s.coreOf i.rid) < Config.copyOps → ∀ va x y, va = (srcs s i g none).d64 .b b (lowest (i.part g)) →
      x = ((srcs s i g none).int .a a false 32 (lowest (i.part g))).toNat → y = ((srcs s i g none).int .c k false 32 (lowest (i.part g))).toNat →
      (s.engineReady i.rid .furlong = true → ∀ op n w, s.makeCopy i.rid false x va y bid none false h = (op, n, w) → Issues (exec (.cpy g a b k bar h) s) i (fun u => KeepsRegisters s u i.rid ∧
        u.op s.nextId = some { rod := i.rid, flags := flagsOf i true, kind := .copy op, susp := false, denied := [] })) ∧
      (s.engineReady i.rid (if seq.isSome then .package else .furlong) = true →
        ∀ op n w, s.makeCopy i.rid true x va y bid (seq.map (fun r => i.rod.un r.toNat)) false h = (op, n, w) → Issues (exec (.cpyo g a b k bar h seq) s) i (fun u =>
        KeepsRegisters s u i.rid ∧
        u.op s.nextId = some { rod := i.rid, flags := flagsOf i true, kind := .copy op, susp := false, denied := [] })))) ∧
  (∀ (s : State) (n line : Nat) (o : Op) (c : CopyOp) (ch : Chain), LandReady s n line o c ch → ∀ ps s1 x s2 t0 core,
    core = s1.coreOf o.rod →
    s.copyPlaces n o (if c.out then .write else .read) ((c.elemsOn line).filter (fun e => e.inb || !c.out)) [] = .ok (ps, s1) →
    (c.out = false → s1.engineCan core (copyAccesses c line ps) = true → s1.readParts core (copyAccesses c line ps) c.hint = (t0, s2) →
      ps.foldl (fun (x : Landing) p => s1.landIn t0 c line p.1 p.2 x) ⟨[], [], 0, 0, false⟩ = x →
      ∀ c2, s2.chain o.rod.chain = some c2 → s2.op n = some o → ∃ t y, exec (.copyLineLand n line) s = .next t ∧ t.mem = s2.mem ∧
        t.op n = some { o with kind := .copy { c with lines := c.lines.drop 1, caused := c.caused || x.cause != 0 } } ∧ t.chain o.rod.chain = some y ∧
        y.full line = true ∧ y.scr = (c2.putCells x.cells x.bad).scr) ∧
    (c.out = true → s1.engineMay core (copyAccesses c line ps) = true → ps.foldl (fun (acc : Landing × State) p => acc.2.landOut o.rod c line p.1 p.2 acc.1) (⟨[], [], 0, 0, false⟩, s1) = (x, s2) →
      s2.op n = some o → ∃ t, exec (.copyLineLand n line) s = .next t ∧ t.mem = s2.mem ∧
        t.op n = some { o with kind := .copy { c with lines := c.lines.drop 1, caused := c.caused || x.cause != 0 } })) ∧
  (∀ (s : State) (n line : Nat) (o : Op) (c : CopyOp) (ch : Chain), s.op n = some o → o.kind = .copy c → s.chain o.rod.chain = some ch →
    (c.lines.head? ≠ some line ∨ ch.full line ≠ c.out ∨ o.susp = true → exec (.copyLineLand n line) s = .next s) ∧
    (c.lines ≠ [] ∨ o.susp = true → exec (.copyComplete n) s = .next s) ∧
    (c.lines = [] → o.susp = false → c.raw = false →
      (c.seq = none → exec (.copyComplete n) s = .next (s.endOp n)) ∧
      (∀ va pa ent s1, c.seq = some va → va.toNat % 8 = 0 →
        s.resolve (.core (s.coreOf o.rod)) (s.asidOf o.rod) o.denied va .write = (.mem pa ent, s1) → Pte.cnt ent = true → s1.reach pa = .memory → pa % 8 = 0 →
        s1.canPut (stopOf (s1.coreOf o.rod).die) pa 8 = true → (∀ wd ∈ wordsOf pa 8, (s1.curWord wd).bad = false) → s1.op n = some o → Unwatched s1 pa → ∃ t, exec (.copyComplete n) s = .next t ∧ OpOver t n ∧ t.curNat pa 8 = (s1.curNat pa 8 + 1) % 2 ^ 64) ∧
      (∀ va, c.seq = some va → va.toNat % 8 ≠ 0 → exec (.copyComplete n) s = .next ((s.raise o.rod Cause.accv).endOp n))))

/-- R361, R366, R372 to R377: `nbgrid` binds its slot to the rod's launch with no member and status 1; the other neighbour instructions are taken on
as operations of the slot, and `nbpair` opens the rod's stream. -/
def Obligations.NeighbourInstructions : Prop :=
  (∀ (s : State) (i : Iss) (g : Guard) (gid : BitVec 2) (a : Operand), NbReady s i g → Ready s i [] [(a, 2)] → s.slotOps (s.coreOf i.rid).die gid.toNat = [] →
    (∀ x, s.grid (s.coreOf i.rid).die gid.toNat = some x → x.owner ≠ s.launchOf i.rid →
      Issues (exec (.nbgrid g gid a) s) i (fun u => u.rod i.rid = some (i.rod.raise Cause.accv) ∧ u.mem = s.mem ∧ u.dies = s.dies)) ∧
    ((∀ x, s.grid (s.coreOf i.rid).die gid.toNat = some x → x.owner = s.launchOf i.rid) → ∀ x s',
      (s.setRod i.rid i.rod).nbBind (nbUser s i) (s.launchOf i.rid) gid.toNat ((srcs s i g none).d64 .a a (lowest (i.part g))).toNat = .ok (x, s') →
      (∀ z, x = some z → Issues (exec (.nbgrid g gid a) s) i (fun u => u.mem = s'.mem ∧ (∃ gr, u.grid (s.coreOf i.rid).die gid.toNat = some gr ∧
        gr.owner = s.launchOf i.rid ∧ gr.cells = [] ∧ gr.status = 1) ∧ ∀ y, s'.rod i.rid = some y →
          u.rod i.rid = some { y with cause := y.cause ||| z.cause })) ∧
      (x = none → Issues (exec (.nbgrid g gid a) s) i (fun u => u.mem = s'.mem ∧ u.grid (s.coreOf i.rid).die gid.toNat = none ∧
        ∀ y, s'.rod i.rid = some y → u.rod i.rid = some { y with cause := y.cause ||| Cause.accv })))) ∧
  (∀ (s : State) (i : Iss) (g : Guard) (gid : BitVec 2) (a b d : Operand), NbReady s i g →
    (Ready s i [] [(a, 1), (b, 1)] → Issues (exec (.nbbin g gid a b) s) i (fun u =>
      OpTaken s u i (.nb (s.coreOf i.rid).die gid.toNat (.bin (once32 s i g .a a) (once32 s i g .b b))))) ∧
    (Ready s i [(d, 1)] [] → Issues (exec (.nbstat g gid d) s) i (fun u => OpTaken s u i (.nb (s.coreOf i.rid).die gid.toNat (.stat d (i.part g))))) ∧
    (Ready s i [(d, 1)] [(a, 1), (b, 1)] → Issues (exec (.nbmove g gid d a b) s) i (fun u =>
      OpTaken s u i (.nb (s.coreOf i.rid).die gid.toNat (.move (once32 s i g .b a) (once32 s i g .c b) d (i.part g))))) ∧
    (Ready s i [] [] → Issues (exec (.nbclr g gid) s) i (fun u => OpTaken s u i (.nb (s.coreOf i.rid).die gid.toNat .clr))) ∧
    (Ready s i [] [(a, 1), (b, 1)] → (i.rod.stream.opened = true → i.rod.stream.ended = true ∧ i.rod.stream.queue = []) →
      Issues (exec (.nbpair g gid a b) s) i (fun u => u.mem = s.mem ∧ (∃ o, u.op s.nextId = some o ∧ o.rod = i.rid ∧
          o.kind = .nb (s.coreOf i.rid).die gid.toNat (.pair [])) ∧
        ∃ y, u.rod i.rid = some y ∧ { y with flags := i.rod.flags, stream := i.rod.stream, cause := i.rod.cause } = i.rod ∧ y.stream.opened = true ∧
          y.stream.ended = false ∧ y.cause = i.rod.cause ||| (if 2 ^ 32 ≤ once32 s i g .a a + once32 s i g .b b then Cause.accv else 0) ∧
          y.stream.queue = [] ∧ y.stream.stat = (if 2 ^ 32 ≤ once32 s i g .a a + once32 s i g .b b then 4 else 0) ∧ y.stream.cell = once32 s i g .a a ∧ y.stream.op = some s.nextId ∧
          y.stream.last = Nat.min (once32 s i g .a a + once32 s i g .b b) (2 ^ 32 - 1))))

/-- R365, R366, R374, R376 to R378, R380: an operation on a slot takes effect as a whole at its turn; without a slot of its launch it raises ACCV. -/
def Sys2Proof.Claims.NeighbourOperations : Prop :=
  ∀ (s : State) (n : Nat) (o : Op) (die gid : Nat),
    (∀ d m, NbTurn s n o die gid (.stat d m) →
      (s.grid die gid = none → exec (.nbOpComplete n) s = .next ((s.modRod o.rod (fun x => x.putNb d m 0)).endOp n)) ∧
      (∀ gr x s', s.grid die gid = some gr → s.nbStatus (s.nbFor o die) ⟨gr, 0⟩ = .ok (x, s') →
        NbOver (exec (.nbOpComplete n) s) n s' o die gid gr (fun x => x.putNb d m gr.status))) ∧
    (NbTurn s n o die gid .clr → ∀ gr x s' y s2, s.gridFor die gid (s.launchOf o.rod) = some gr →
      s.nbStatus (s.nbFor o die) ⟨{ gr with cells := [], status := gr.status &&& 1 }, 0⟩ = .ok (x, s') → s'.nbDone (s.nbFor o die) x = .ok (y, s2) →
      NbOver (exec (.nbOpComplete n) s) n s2 o die gid { gr with cells := [], status := gr.status &&& 1 } id) ∧
    (∀ first count, NbTurn s n o die gid (.bin first count) →
      (s.gridFor die gid (s.launchOf o.rod) = none → exec (.nbOpComplete n) s = .next (((s.raise o.rod Cause.accv).modRod o.rod id).endOp n)) ∧
      (∀ gr x s1 y s' z s2, s.gridFor die gid (s.launchOf o.rod) = some gr → s.nbBin (s.nbFor o die) ⟨gr, 0⟩ first count = .ok (x, s1) →
        s1.nbStatus (s.nbFor o die) x = .ok (y, s') → s'.nbDone (s.nbFor o die) y = .ok (z, s2) →
        NbOver (exec (.nbOpComplete n) s) n s2 o die gid x.grid id)) ∧
    (∀ first count d m, NbTurn s n o die gid (.move first count d m) → ∀ gr x k s1 y s' z s2, s.gridFor die gid (s.launchOf o.rod) = some gr →
      s.nbMoved (s.nbFor o die) ⟨gr, 0⟩ (gr.binned first count) 0 = .ok ((x, k), s1) →
      s1.nbStatus (s.nbFor o die) (if k = 0 then x else { x with grid := x.grid.mark 8 }) = .ok (y, s') → s'.nbDone (s.nbFor o die) y = .ok (z, s2) →

      NbOver (exec (.nbOpComplete n) s) n s2 o die gid (if k = 0 then x.grid else x.grid.mark 8) (fun w => w.putNb d m (BitVec.ofNat 64 (Nat.min k (2 ^ 32 - 1)))))

/-- R367 to R371, R375: a stream's next record is a pair within the cut-off, its distance rounded up; it joins the rod's queue while that has room, and
the stream ends with its status when there is no further one, with VIOL and an access violation where its range ran past NCELL, or no slot of its
launch. -/
def Sys2Proof.Claims.PairStreams : Prop :=
  (∀ (d : GridDesc) (i j : Nat) (pi pj : List Word) (p q : List Rat), finPos pi = some p → finPos pj = some q →
    (((d.dist p q).2 ≤ ratOf d.cut * ratOf d.cut) ↔ (d.record i j pi pj).isSome = true) ∧
    ∀ r, d.record i j pi pj = some r → r.i = BitVec.ofNat 32 i ∧ r.j = BitVec.ofNat 32 j ∧
      ∃ v, fp32.value r.d2.toNat = some v ∧ XR.le (.fin (d.dist p q).2) v = true) ∧
  (∀ (s : State) (r : RodId) (y : Rod) (n : Nat) (o : Op) (die : Nat) (seen : Tbl Seen) (g : Grid), s.rod r = some y →
    s.streamOf r = some (n, o, die, seen, some g) →
    (64 ≤ y.stream.queue.length → exec (.nbPairRecord r) s = .next s) ∧
    (y.stream.queue.length < 64 → ∀ x e p s', s.scanStream (s.nbFor o die) g y.stream seen = .ok ((x, some (e, p)), s') → s'.rod r = some y →
      ∃ t z, exec (.nbPairRecord r) s = .next t ∧ t.mem = s'.mem ∧ t.rod r = some z ∧ z.stream.queue = y.stream.queue ++ [e] ∧
        z.stream.nrec = y.stream.nrec + 1 ∧ z.stream.cell = p.cell ∧ z.stream.ipos = p.ipos ∧ z.stream.jpos = p.jpos ∧ z.w = y.w ∧ z.u = y.u) ∧
    (∀ x s' run stat u s1 w s2, s.scanStream (s.nbFor o die) g y.stream seen = .ok ((x, none), s') →
      (run, stat) = (if g.desc.ncell < y.stream.last ∧ y.stream.cell < y.stream.last then ({ x.run with cause := x.run.cause ||| Cause.accv }, x.stat ||| 4)
        else (x.run, x.stat)) →
      s'.nbStatus (s.nbFor o die) run = .ok (u, s1) → s1.nbDone (s.nbFor o die) u = .ok (w, s2) → s2.rod r = some y →
      ∃ t z, exec (.nbStreamEnd r) s = .next t ∧ t.mem = s2.mem ∧ OpOver t n ∧ t.rod r = some z ∧ z.stream.ended = true ∧ z.stream.op = none ∧
        z.stream.queue = y.stream.queue ∧ z.stream.stat = stat ||| (if g.nspill = 0 then 0 else 2) ∧ z.cause = y.cause ||| w.cause)) ∧
  (∀ (s : State) (r : RodId) (y : Rod) (n : Nat) (o : Op) (die : Nat) (seen : Tbl Seen), s.rod r = some y →
    s.streamOf r = some (n, o, die, seen, none) → ∃ t z, exec (.nbStreamEnd r) s = .next t ∧ t.mem = s.mem ∧ OpOver t n ∧ t.rod r = some z ∧
      z.stream.ended = true ∧ z.stream.stat = y.stream.stat ||| 4 ∧ z.cause = y.cause ||| Cause.accv)

/-- R365 to R371, R374 to R378, R380: the neighbour engine. -/
def Obligations.NeighbourOperationsAndPairs : Prop :=
  Claims.NeighbourOperations ∧ Claims.PairStreams

/-- R89 to R92: a home slice answers a read from D, forwards it to an owner, grants a registration and records its owner, revokes another owner's first, and
takes a write-back or an owner's answer to D; a request that cannot be served waits in its order. -/
def Sys2Proof.Claims.HomeSlice : Prop :=
  ∀ (s : State) (wd : Nat),
    (∀ rd u, Came s u wd (.read rd) → (Served u wd (.read rd) →
        (∀ c, u.homeOf wd = some (.owned (.core c)) → exec (.homeRead rd wd) s = .next (u.send (.l1Forward c wd rd))) ∧
        (∀ d, u.homeOf wd = some (.owned (.die d)) → exec (.homeRead rd wd) s = .next (u.toDie (u.homeDie (4 * wd)) d (.nonhomeForward d wd rd))) ∧
        (u.homeOf wd = none ∨ u.homeOf wd = some .lost → exec (.homeRead rd wd) s =
          .next ((u.hostLine wd .shared).deliver (u.homeDie (4 * wd)) rd wd (u.curWord wd) u.cycle))) ∧
      (¬ Served u wd (.read rd) → exec (.homeRead rd wd) s = .next (u.setHomeQ wd (u.homeQ wd ++ [.read rd])))) ∧
    (∀ p u, Came s u wd (.reg p false) → (Served u wd (.reg p false) →
        (u.homeOf wd = none → (u.curWord wd).lost = false → ∃ t, exec (.homeRegister p wd) s = .next t ∧ t.homeOf wd = some (.owned (ownerOf p)) ∧
          t.mem = u.mem ∧ grantMsg p wd none ∈ t.under) ∧
        (∀ o, u.homeOf wd = some (.owned o) → o ≠ ownerOf p → exec (.homeRegister p wd) s = .next (u.startRevoke wd o (.reg p false))) ∧
        (u.homeOf wd = some (.owned (ownerOf p)) → exec (.homeRegister p wd) s = .next (u.grant p wd none))) ∧
      (¬ Served u wd (.reg p false) → exec (.homeRegister p wd) s = .next (u.queueAt wd (.reg p false)))) ∧
    (∀ p u, Came s u wd (.reg p true) →
      (Served u wd (.reg p true) → u.homeOf wd = none → (u.curWord wd).lost = false → ∃ t, exec (.homeRegisterFetch p wd) s = .next t ∧
        t.homeOf wd = some (.owned (ownerOf p)) ∧ t.mem = u.mem ∧ grantMsg p wd (some (u.curWord wd).val) ∈ t.under) ∧
      (¬ Served u wd (.reg p true) → exec (.homeRegisterFetch p wd) s = .next (u.queueAt wd (.reg p true)))) ∧
    (∀ p v, (s.homeOf wd = some (.owned (ownerOf p)) → ∃ t, exec (.homeWriteBack p wd v) s = .next t ∧ t.homeOf wd = none ∧ t.memWord wd = v) ∧
      (s.homeOf wd = some (.waiting (ownerOf p)) → ∃ t, exec (.homeWriteBack p wd v) s = .next t ∧ t.homeOf wd = s.homeOf wd ∧ t.memWord wd = v) ∧
      (s.homeOf wd = none → ∃ t, exec (.homeWriteBack p wd v) s = .next t ∧ t.homeOf wd = none ∧ t.mem = s.mem) ∧
      (s.homeOf wd = some (.waiting (ownerOf p)) → ∃ x : State, exec (.homeOwnerAnswer p wd (some v)) s = .next (x.homeDrain wd ((s.homeQ wd).length + 1)) ∧
        x.homeOf wd = none ∧ x.memWord wd = v ∧ x.homeQ wd = s.homeQ wd) ∧
      (s.homeOf wd = some (.waiting (ownerOf p)) → s.homeQ wd = [] → ∃ t, exec (.homeOwnerAnswer p wd none) s = .next t ∧ t.homeOf wd = none ∧ t.mem = s.mem))

/-- R75, R91, R100, R316: a home-performed store or atomic of an aligned word that no owner holds is performed in one step, and its operation has its
answer; one that meets a word in wait queues there, and one that meets an owner revokes it first. -/
def Sys2Proof.Claims.HomePerformedAccesses : Prop :=
  ∀ (s u : State) (r : HomeReq) (a : HomeAcc) (o : Op), r.accs = [a] → a.pa % 4 = 0 → a.size = 4 → (∀ v k, a.act ≠ .push v k) → s.op r.op = some o →
    (∀ x y z, o.kind ≠ .free x y z) → a.act.writes = true → (∀ k, r.stop = some k → s.homeNear k (a.pa / 4) = true) → u.upsets = [] →
    s.resideReq r = (true, u) → u.op r.op = some o →
    (u.blocked (a.pa / 4) (.perform r) = true ∨ u.homeQ (a.pa / 4) ≠ [] → exec (.homePerformedAccess r) s = .next (u.queueAt (a.pa / 4) (.perform r))) ∧
    (Served u (a.pa / 4) (.perform r) → (∀ x, u.homeOf (a.pa / 4) = some (.owned x) →
        exec (.homePerformedAccess r) s = .next (u.startRevoke (a.pa / 4) x (.perform r))) ∧
      ((∀ x, u.homeOf (a.pa / 4) ≠ some (.owned x)) → u.reach a.pa = .memory → Unwatched (u.hostLine (a.pa / 4) .owned) (8 * (a.pa / 8)) →
        (∀ v, a.act = .write v → o.kind = .posted → ∃ t, exec (.homePerformedAccess r) s = .next t ∧ OpOver t r.op ∧ t.curNat a.pa 4 = v % 2 ^ 32) ∧
        (∀ op v v2 l sz, a.act = .amo op v v2 → o.kind = .load l → l.kind = .atom sz → (u.curWord (a.pa / 4)).bad = false → (u.curWord (a.pa / 4)).lost = false →
          ∃ t m, exec (.homePerformedAccess r) s = .next t ∧ t.curNat a.pa 4 = amoApply op 32 (u.curNat a.pa 4) v v2 % 2 ^ 32 ∧
            t.op r.op = some { o with kind := .load m } ∧ m.need = l.need.filter (·.lane ≠ a.lane) ∧
            m.got.find (64 * a.lane) = some (BitVec.ofNat 32 (u.curNat a.pa 4)))))

/-- R75, R89 to R92, R100, R316: the home slice. -/
def Obligations.HomeCoherence : Prop :=
  Claims.HomeSlice ∧ Claims.HomePerformedAccesses

/-- R82 to R84, R94, R96, R97, R105: grants move a word of an L1 from Gp to Gd or G, the package grant puts a fetched value under the bytes stored, a
forward and a revoke are answered by a granted owner and held by one that is not, and an eviction writes back what the line owns. -/
def Obligations.L1Protocol : Prop :=
  (∀ (s : State) (c : CoreId) (wd : Nat),
    ((l1Of s c wd).st = .gp → s.homeDie (4 * wd) = c.die → NoWbk s wd → ∃ t, exec (.l1DieGrant c wd) s = .next t ∧ t.mem = s.mem ∧
      l1Of t c wd = { l1Of s c wd with st := .g } ∧ ∀ r ∈ s.rodsOn c, ∀ y, t.rod r = some y → wd ∉ y.stores) ∧
    ((l1Of s c wd).st = .gp → s.homeDie (4 * wd) ≠ c.die → exec (.l1DieGrant c wd) s = .next (s.setL1Word c wd { l1Of s c wd with st := .gd })) ∧
    ((l1Of s c wd).st ≠ .gp → exec (.l1DieGrant c wd) s = .next s) ∧
    (∀ v, (l1Of s c wd).st = .gp ∨ (l1Of s c wd).st = .gd → NoWbk s wd → s.poison.contains wd = false → ∃ x y : State, ∃ w,
      exec (.l1PackageGrant c wd v) s = .next y ∧ y = x.bindWord (stopOf c.die) c wd { val := w, bad := false, lost := false } ∧ x.mem = s.mem ∧
      w = (l1Of s c wd).over (v.getD (s.memWord wd)) ∧ l1Of x c wd = { st := .g, val := w, known := 15, bad := false, ret := (l1Of s c wd).ret } ∧
      ∀ r ∈ s.rodsOn c, ∀ z, x.rod r = some z → wd ∉ z.stores) ∧
    (∀ v, (l1Of s c wd).st = .gp ∨ (l1Of s c wd).st = .gd → NoWbk s wd → s.poison.contains wd = true → (l1Of s c wd).whole = false → ∃ x y : State,
      exec (.l1PackageGrant c wd (some v)) s = .next y ∧ y = x.bindWord (stopOf c.die) c wd { val := v, bad := true, lost := false } ∧ x.mem = s.mem ∧
      l1Of x c wd = { st := .g, val := v, known := 15, bad := true, ret := (l1Of s c wd).ret }) ∧
    (∀ v, (l1Of s c wd).st ≠ .gp → (l1Of s c wd).st ≠ .gd → exec (.l1PackageGrant c wd v) s = .next s)) ∧
  (∀ (s : State) (c : CoreId) (wd : Nat) (dest : Reader),
    ((l1Of s c wd).st = .g → exec (.l1Forward c wd dest) s =
      .next (s.deliver c.die dest wd { val := (l1Of s c wd).val, bad := (l1Of s c wd).bad, lost := false } s.cycle)) ∧
    ((l1Of s c wd).st = .gp ∨ (l1Of s c wd).st = .gd → exec (.l1Forward c wd dest) s = .next (s.send (.l1Forward c wd dest)) ∧
      ∀ k, exec (.l1Revoke c wd k) s = .next (s.send (.l1Revoke c wd k))) ∧
    ((l1Of s c wd).st = .i ∨ (l1Of s c wd).st = .v → exec (.l1Forward c wd dest) s = .next (s.askAgain c.die dest wd)) ∧
    (∀ v, ((l1Of s c wd).st = .g ∧ v = some (l1Of s c wd).val) ∨ (((l1Of s c wd).st = .i ∨ (l1Of s c wd).st = .v) ∧ s.backing c wd = false ∧ v = none) →
      (∃ t, exec (.l1Revoke c wd .home) s = .next t ∧ l1Of t c wd = (l1Of s c wd).gone ∧ t.mem = s.mem ∧
        t.inflight = s.inflight ++ [.homeOwnerAnswer (.core c) wd v]) ∧
      (∀ d, ∃ t, exec (.l1Revoke c wd (.homeVia d)) s = .next t ∧ l1Of t c wd = (l1Of s c wd).gone ∧ ((l2Of s d wd).st.owned = true → l2Of t d wd = L2Word.reset) ∧
        t.mem = s.mem ∧ .homeOwnerAnswer (.l2 d) wd v ∈ t.under) ∧
      (∀ d q f, ∃ t, exec (.l1Revoke c wd (.toLocal d q f)) s = .next t ∧ l1Of t c wd = (l1Of s c wd).gone ∧ t.mem = s.mem ∧
        (v = none → t.inflight = s.inflight ++ [.nonhomeRegistration ⟨d, q⟩ wd f]) ∧
        (v.isSome = true → (l2Of t d wd).own = q ∧ .l1DieGrant ⟨d, q⟩ wd ∈ t.inflight ∧ .l1PackageGrant ⟨d, q⟩ wd (if f then v else none) ∈ t.inflight))) ∧
    ((l1Of s c wd).st = .i ∨ (l1Of s c wd).st = .v → s.backing c wd = true → ∀ k, exec (.l1Revoke c wd k) s = .next (s.send (.l1Revoke c wd k)))) ∧
  (∀ (s : State) (c : CoreId) (line : Nat),
    (((s.core c).lru.filter (fun x => x % 256 == line % 256)).length ≤ 8 → exec (.l1Eviction c line) s = .next s) ∧
    ∀ l, (s.core c).victim line = some l → l % 256 = line % 256 ∧ l ∈ (s.core c).lru ∧
      ((s.core c).isHeld = true ∨ (∃ wd ∈ lineWords l, (l1Of s c wd).st = .gp ∨ (l1Of s c wd).st = .gd) →
        exec (.l1Eviction c line) s = .next (s.send (.l1Eviction c line))) ∧
      ((s.core c).isHeld = false → (∀ wd ∈ lineWords l, (l1Of s c wd).st ≠ .gp ∧ (l1Of s c wd).st ≠ .gd) → ∃ t, exec (.l1Eviction c line) s = .next t ∧
        t.mem = s.mem ∧ ∀ wd ∈ lineWords l, l1Of t c wd = L1Word.reset ∧ ((l1Of s c wd).st = .g → (if s.homeDie (4 * wd) = c.die
          then Instr.homeWriteBack (.core c) wd (l1Of s c wd).val else .nonhomeWriteBack c wd (l1Of s c wd).val) ∈ t.inflight))) ∧
  (∀ (s : State) (c : CoreId) (line : Nat), (s.core c).isHeld = false → ∃ t, exec (.stampScrubber false c line) s = .next t ∧
    (t.core c).lineStamp line = (s.core c).stamp ∧ t.mem = s.mem ∧ ∀ wd ∈ lineWords line, (l1Of s c wd).st.owned = true → l1Of t c wd = l1Of s c wd) ∧
  (∀ (s : State) (c : CoreId) (line : Nat), ((s.core c).isHeld = true → exec (.stampScrubber false c line) s = .next s) ∧
    exec (.stampScrubber true c line) s = .next (s.setDie c.die ((s.die c.die).openLine line)))

/-- R87, R95, R96: a slice away from home answers from V, sends a read to the local owner or on to home, grants a registration at once while it asks
home, passes a package grant, a forward, a revoke and a write-back on. -/
def Obligations.NonHomeSlice : Prop :=
  (∀ (s : State) (c : CoreId) (wd : Nat),
    ((s.die c.die).l2State wd = .v → exec (.nonhomeRead c wd) s =
      .next (s.deliver c.die ⟨c, false⟩ wd { val := (l2Of s c.die wd).val, bad := (l2Of s c.die wd).bad, lost := false } (l2Of s c.die wd).fill)) ∧
    ((s.die c.die).l2State wd = .i → exec (.nonhomeRead c wd) s =
      .next (s.carry (stopOf c.die) (stopOf (s.homeDie (4 * wd))) (if s.acquiresWord c wd then 0 else 1) (.homeRead ⟨c, true⟩ wd))) ∧
    ((s.die c.die).l2State wd = .x ∨ (s.die c.die).l2State wd = .xp → exec (.nonhomeRead c wd) s =
      .next (s.send (.l1Forward ⟨c.die, (l2Of s c.die wd).own⟩ wd ⟨c, false⟩))) ∧
    (∀ f, s.revoking c.die wd = true → exec (.nonhomeRegistration c wd f) s = .next (s.send (.nonhomeRegistration c wd f))) ∧
    (s.revoking c.die wd = false → ∀ f, ((l2Of s c.die wd).st = .x ∨ (l2Of s c.die wd).st = .xp) → (l2Of s c.die wd).own ≠ c.core →
      exec (.nonhomeRegistration c wd f) s = .next (s.send (.l1Revoke ⟨c.die, (l2Of s c.die wd).own⟩ wd (.toLocal c.die c.core f)))) ∧
    (s.revoking c.die wd = false → ∀ f, (l2Of s c.die wd).st = .xp → (l2Of s c.die wd).own = c.core → exec (.nonhomeRegistration c wd f) s = .next (s.send (.l1DieGrant c wd))) ∧
    (s.revoking c.die wd = false → ∀ f, (l2Of s c.die wd).st = .x → (l2Of s c.die wd).own = c.core → exec (.nonhomeRegistration c wd f) s =
      .next ((s.send (.l1DieGrant c wd)).send (.l1PackageGrant c wd (if f then some (s.curWord wd).val else none)))) ∧
    (s.revoking c.die wd = false → ∀ f b u, (l2Of s c.die wd).st = .i ∨ (l2Of s c.die wd).st = .v →
      s.reside c.die (lineOf wd) (l1Of s c wd).ret (fun s => s.setDie c.die
        (((s.die c.die).openLine (lineOf wd)).setL2 wd { st := .xp, val := 0, own := c.core, bad := false })) = (b, u) →
      (b = false → exec (.nonhomeRegistration c wd f) s = .next (u.send (.nonhomeRegistration c wd f))) ∧
      (b = true → ∃ t, exec (.nonhomeRegistration c wd f) s = .next t ∧ (l2Of t c.die wd).st = .xp ∧ (l2Of t c.die wd).own = c.core ∧
        .l1DieGrant c wd ∈ t.inflight ∧ (if f then .homeRegisterFetch (.l2 c.die) wd else .homeRegister (.l2 c.die) wd) ∈ t.under)) ∧
    (∀ v, (l2Of s c.die wd).st = .x → (l2Of s c.die wd).own = c.core → ∃ t, exec (.nonhomeWriteBack c wd v) s = .next t ∧
      l2Of t c.die wd = L2Word.reset ∧ t.mem = s.mem ∧ .homeWriteBack (.l2 c.die) wd v ∈ t.under) ∧
    (∀ v, (l2Of s c.die wd).st = .xp → (l2Of s c.die wd).own = c.core →
      exec (.nonhomeWriteBack c wd v) s = .next (s.send (.nonhomeWriteBack c wd v)))) ∧
  (∀ (s : State) (d wd : Nat),
    (∀ v, s.upsets = [] → (l2Of s d wd).st = .xp → ∃ t, exec (.nonhomePackageGrant d wd v) s = .next t ∧ l2Of t d wd = { l2Of s d wd with st := .x } ∧ t.mem = s.mem ∧
      t.inflight = s.inflight ++ [.l1PackageGrant ⟨d, (l2Of s d wd).own⟩ wd v]) ∧
    (∀ v, s.upsets = [] → (l2Of s d wd).st = .x → exec (.nonhomePackageGrant d wd v) s = .next (s.send (.l1PackageGrant ⟨d, (l2Of s d wd).own⟩ wd v))) ∧
    (∀ v, s.upsets = [] → (l2Of s d wd).st = .i ∨ (l2Of s d wd).st = .v → exec (.nonhomePackageGrant d wd v) s = .next s) ∧
    ((l2Of s d wd).st = .x ∨ (l2Of s d wd).st = .xp →
      (∀ dest, exec (.nonhomeForward d wd dest) s = .next (s.send (.l1Forward ⟨d, (l2Of s d wd).own⟩ wd dest))) ∧
      (s.revoking d wd = false → exec (.nonhomeRevoke d wd) s = .next (s.send (.l1Revoke ⟨d, (l2Of s d wd).own⟩ wd (.homeVia d))))) ∧
    ((l2Of s d wd).st = .i ∨ (l2Of s d wd).st = .v → (∀ dest, exec (.nonhomeForward d wd dest) s = .next (s.askAgain d dest wd)) ∧
      (s.revoking d wd = false → exec (.nonhomeRevoke d wd) s = .next (s.toDie d (s.homeDie (4 * wd)) (.homeOwnerAnswer (.l2 d) wd none)))) ∧
    (s.revoking d wd = true → exec (.nonhomeRevoke d wd) s = .next (s.send (.nonhomeRevoke d wd))))

/-- R106, R109 to R112: the notice of a lost die empties its caches; the host's snoop recalls a line, takes its data and its state, the host's accesses of
far memory are performed at home, and its answer to a back-invalidate lets the waiting requests go on. -/
def Obligations.LossAndHostCoherence : Prop :=
  (∀ (s : State) (die : Nat), s.under.contains (.lossNotice die) = true → exec (.lossNotice die) s = .next s) ∧
  (∀ (s : State) (die : Nat), s.under.contains (.lossNotice die) = false → s.inService die = false → (∃ d < 8, s.inService d = true) → ∃ t, exec (.lossNotice die) s = .next t ∧ (t.die die).l2 = [] ∧
    (t.die die).homeQ = [] ∧ (t.die die).resident = [] ∧ ∀ k < 64, (t.core ⟨die, k⟩).l1 = []) ∧
  (∀ (s : State) (line : Nat) (k : SnoopKind),
    (s.claim (128 * line) ≠ some true ∨ s.readable (128 * line) 128 = false → exec (.hostSnoop line k) s = .next s) ∧
    (s.claim (128 * line) = some true → s.readable (128 * line) 128 = true → ∃ t, exec (.hostSnoop line k) s = .next t ∧
      (∃ bad, t.outbox = s.outbox ++ [.data bad (s.curBytes (128 * line) 128)]) ∧
      (∀ wd ∈ lineWords line, t.ownerCore wd = none) ∧ (k = .inv → (t.die (s.homeDie (128 * line))).hostHeld.get line .invalid = .invalid)) ∧
    ((∀ wd ∈ lineWords line, s.homeQ wd = []) → ∃ t x y, exec (.backInvalidateResponse line) s = .next t ∧ t.mem = s.mem ∧
      x = s.die (s.homeDie (128 * line)) ∧ y = t.die (s.homeDie (128 * line)) ∧ y.mayHold = x.mayHold.filter (· ≠ line) ∧
      y.snooped = x.snooped.filter (· ≠ line) ∧ ∀ wd ∈ lineWords line, t.homeOf wd = (if s.homeOf wd = some (.waiting .host) then none else s.homeOf wd))) ∧
  (∀ (s : State) (a : HomeAcc) (r : HomeReq), r.accs = [a] →
    (s.farBytes a.pa a.size = true → a.act = .read → s.canGet (ioStop ((s.ioOf a.pa).getD 0)) a.pa a.size = true →
      (∀ wd ∈ wordsOf a.pa a.size, (s.curWord wd).lost = false) →
      ∃ t, exec (.hostCxlMemAccess r) s = .next t ∧ (∃ bad, t.outbox = s.outbox ++ [.data bad (s.curBytes a.pa a.size)]) ∧
        (∀ wd, t.curWord wd = s.curWord wd) ∧ (t.die (s.homeDie a.pa)).mayHold.contains (a.pa / 128) = true) ∧
    (∀ v, s.farBytes a.pa a.size = true → a.act = .write v → a.pa % 4 = 0 → a.size = 4 →
      s.canGet (ioStop ((s.ioOf a.pa).getD 0)) a.pa 4 = true → r.bad = false → s.upsets = [] →
      Unwatched s (8 * (a.pa / 8)) → ∃ t, exec (.hostCxlMemAccess r) s = .next t ∧ t.curNat a.pa 4 = v % 2 ^ 32) ∧
    (s.farBytes a.pa a.size = false ∨ s.canGet (ioStop ((s.ioOf a.pa).getD 0)) a.pa a.size = false → exec (.hostCxlMemAccess r) s = .next s))

/-- R425 to R427: a DMA command at its turn is served by an engine of its I/O die, moves or gathers its bytes in aligned parts, and completes with the code
of what it met; over a queue pair that is not live it has a queue-pair error, and an RDMA READ first asks the peer. -/
def Obligations.DmaCommands : Prop :=
  (∀ (s s' : State) (n : Nat) (c k : Cmd) (p : DmaPkt) (r : DmaRun), r.at' = none → s'.cmd n = some k →
    (∀ e ∈ [(Instr.dmaCopy n, 0, false), (.dmaFill n, 1, true)], DmaTurn s n e.2.1 c k p →
      (s.setCmd n k).dmaLoop c.dmaFor p e.2.2 (2 * p.len) { moved := c.moved, fouls := c.fouls, out := c.recv, at' := none } = (r, s') →
      ∃ t, exec e.1 s = .next t ∧ DmaRan t s' n k r true ∧ t.outbox = s'.outbox) ∧
    (∀ e ∈ [(Instr.dmaRdmaWrite n, 2, OutMsg.rdmaWrite p.qp p.arg p.dst (r.out.map Prod.fst)), (.dmaSend n, 4, .send p.qp (r.out.map Prod.fst))],
      DmaTurn s n e.2.1 c k p →
      (s.pairLive c p = false → DmaFails (exec e.1 s) s n k) ∧
      (s.pairLive c p = true →
        (s.setCmd n k).gatherLoop c.dmaFor p p.len { moved := c.moved, fouls := c.fouls, out := c.recv, at' := none } = (r, s') →
        (r.fouls &&& Cause.accv = 0 → ∃ t, exec e.1 s = .next t ∧ DmaRan t s' n k r (r.fouls != 0) ∧ t.outbox = s'.outbox ++ [e.2.2]) ∧
        (r.fouls &&& Cause.accv ≠ 0 → ∃ t, exec e.1 s = .next t ∧ DmaRan t s' n k r true ∧ t.outbox = s'.outbox))) ∧
    (∀ bytes bad, DmaTurn s n 3 c k p →
      (s.pairLive c p = false → DmaFails (exec (.dmaRdmaRead n bytes bad) s) s n k) ∧
      (s.pairLive c p = true → c.asked = false → ∃ t, exec (.dmaRdmaRead n [] bad) s = .next t ∧ t.mem = s.mem ∧ t.cmd n = some { k with asked := true } ∧
        t.outbox = s.outbox ++ [.rdmaRead p.qp p.arg p.dst p.len]) ∧
      (s.pairLive c p = true → c.asked = true → bytes.length ≠ p.len → DmaFails (exec (.dmaRdmaRead n bytes bad) s) s n k) ∧
      (s.pairLive c p = true → c.asked = true → bytes.length = p.len →
        (s.setCmd n k).landLoop c.dmaFor p bytes.length
          { moved := 0, fouls := if bad then Cause.umem else 0, out := bytes.map (fun b => (b, bad)), at' := none } = (r, s') →
        ∃ t, exec (.dmaRdmaRead n bytes bad) s = .next t ∧ DmaRan t s' n k r true))) ∧
  (∀ (s : State) (n code : Nat) (c : Cmd) (p : DmaPkt), s.cmd n = some c → c.kind = .dma p →
    (c.state ≠ .running → exec (.dmaComplete n code) s = .next s) ∧
    (c.state = .running → c.susp = true → exec (.dmaComplete n code) s = .next (s.send (.dmaComplete n code))) ∧
    (c.state = .running → c.susp = false → p.op ≠ 3 → ∃ t y, exec (.dmaComplete n code) s = .next t ∧ t.cmd n = some y ∧ y.state = .complete ∧
      y.engine = none ∧
      y.code = Nat.max c.code (if c.fouls &&& Cause.accv ≠ 0 then 4 else if c.fouls &&& Cause.umem ≠ 0 then 5 else if code = 0 ∨ code = 5 then code else 4)))

/-- R416 to R422: power-on and retry bring dies to quarantine; the root attests one step at a time, IO1 before any compute die, and a die that errs or whose
measurements are not the manifest's fails; link keys and their rollover go stage by stage; a die enters service, is reset, and the module's reset keeps
memory. That a key is used for one hour at 2.1 GHz is the model's reading (log 20). -/
def Sys2Proof.Claims.DieAndLinkLife : Prop :=
  (∀ s : State, (∃ t, exec .powerOn s = .next t ∧ t.mem = s.mem ∧ t.powered = true ∧
      ∀ k < 10, t.dieState k = if s.dieState k = .off then .quarantined else s.dieState k) ∧
    (∀ v : BitVec 10, ∃ t, exec (.diectlRetry v) s = .next t ∧ t.mem = s.mem ∧
      ∀ k < 10, t.dieState k = if v.getLsbD k = true ∧ s.dieState k = .failed then .quarantined else s.dieState k) ∧
    (∀ v : BitVec 10, ∃ t, exec (.diectlReset v) s = .next t ∧
      (∀ d < 8, v.getLsbD (stopOf d) = true → s.dieState (stopOf d) ≠ .failed → t.dieState (stopOf d) = .off) ∧
      ∀ d < 8, v.getLsbD (stopOf d) = false ∨ s.dieState (stopOf d) = .failed → t.dieState (stopOf d) = s.dieState (stopOf d)) ∧
    (∃ t, exec .moduleReset s = .next t ∧ t.mem = s.mem ∧ t.poison = s.poison ∧ t.rods = [] ∧ t.cmds = [] ∧ t.cores = [] ∧ t.queues = [] ∧ t.qps = [] ∧
      t.powered = s.powered ∧ ∀ k, t.dieState k = .off)) ∧
  (∀ (s : State) (stop : Nat) (ok : Bool), stop < 10 →
    (s.dieState 4 ≠ .failed → s.dieState 9 = .quarantined → s.dieState stop = .quarantined → stop ≠ 4 → stop ≠ 9 → exec (.attestation stop ok) s = .next s) ∧
    (s.attestDue stop = false → exec (.attestation stop ok) s = .next s) ∧
    (s.attestDue stop = true →
      (s.dieState stop = .quarantined → ∃ t, exec (.attestation stop ok) s = .next t ∧ t.dieState stop = .attesting ∧ t.spdmOf stop = Spdm.reset ∧ t.mem = s.mem) ∧
      (s.dieState stop = .attesting → stop = s.rootStop → ∃ t, exec (.attestation stop ok) s = .next t ∧ t.mem = s.mem ∧
        t.dieState stop = if ok = true then .keyed else .failed) ∧
      (s.dieState stop = .attesting → stop ≠ s.rootStop → ∀ q, q = (s.spdmOf stop).ask (Config.random s.nextId) →
        ∃ t, exec (.attestation stop ok) s = .next t ∧ t.mem = s.mem ∧
          (t.dieState stop, (s.spdmOf stop).take stop q (spdmAnswer stop ok q)) ∈
            [(.failed, none), (if q = .finish then .keyed else .attesting, some (t.spdmOf stop))]))) ∧
  (∀ (x : Spdm) (stop : Nat) (q : SpdmAsk), x.take stop q .error = none) ∧
  (∀ (x : Spdm) (stop : Nat) (n : BitVec 256) (l : List (BitVec 256)) (g : Nat), x.take stop (.getMeasurements n) (.measurements l g) =
    if Config.verify x.peer (bytesOf 32 n.toNat ++ l.flatMap (fun d => bytesOf 32 d.toNat)) g = true ∧
      l = Config.manifest (decide (stop = 4) || decide (stop = 9)) then some { x with step := x.step + 1 } else none) ∧
  (∀ (s : State) (link : Nat) (up : Bool) (x : LinkDir), link < 10 → x = s.link link up →
    (s.installDue link up = false → exec (.linkKeyInstall link up) s = .next s) ∧
    (s.installDue link up = true →
      (x.stage = .none ∨ x.stage = .switched → ∃ t k, exec (.linkKeyInstall link up) s = .next t ∧ t.mem = s.mem ∧
        k.key = Config.random s.nextId ∧ t.link link (!up) = s.link link (!up) ∧
        t.link link up = { LinkDir.reset with ph0 := ⟨some k, 0⟩, stage := .delivered, waiting := x.waiting, inject := x.inject }) ∧
      (x.stage = .delivered → exec (.linkKeyInstall link up) s = .next (s.setLink link up { x with stage := .confirmed })) ∧
      (x.stage = .confirmed → ∃ t, exec (.linkKeyInstall link up) s = .next t ∧ t.mem = s.mem ∧ (t.link link up).keyed = true ∧
        (t.link link up).stage = .none ∧ (t.link link up).ph0 = x.ph0)) ∧
    (s.rollDue link up = false → exec (.keyRollover link up) s = .next s) ∧
    (x.stage = .switched → exec (.keyRollover link up) s = .next s) ∧
    (x.keyed = true → x.stage = .none → (2 ^ 32 ≤ (x.phase x.kp).count ∨ x.since + 7560000000000 ≤ s.cycle) → ∃ t k, exec (.keyRollover link up) s = .next t ∧
      t.mem = s.mem ∧ k.key = Config.random s.nextId ∧ t.link link up = { x.setPhase (!x.kp) ⟨some k, 0⟩ with stage := .delivered } ∧
      (t.spdmOf link).updates = (s.spdmOf link).updates + 1 ∧ (t.spdmOf ((link + 1) % 10)).updates = (s.spdmOf ((link + 1) % 10)).updates + 1) ∧
    (x.keyed = true → x.stage = .delivered → exec (.keyRollover link up) s = .next (s.setLink link up { x with stage := .confirmed })) ∧
    (x.keyed = true → x.stage = .confirmed → exec (.keyRollover link up) s =
      .next (s.setLink link up { x with kp := !x.kp, stage := .switched, since := s.cycle, newSeen := false }))) ∧
  (∀ (s : State) (die : Nat), die < 8 → (s.dieState (stopOf die) = .keyed → s.stopKeyed (stopOf die) = true → s.mayHandBack die = true → ∃ t, exec (.standbyHandBack die) s = .next t ∧
      t.inService die = true ∧ t.roundDue = true) ∧
    (s.dieState (stopOf die) ≠ .keyed ∨ s.stopKeyed (stopOf die) = false ∨ s.mayHandBack die = false → exec (.standbyHandBack die) s = .next s))

/-- R411 to R415, R419, R420: the flit that a sender makes carries its fields and holds at the receiver; a good flit whose turn it is delivers its message at
its destination or goes on to its next hop; a bad one is retried, what is of the next key phase waits behind a retry, and after the fourth retry the
link goes down, to carry traffic again once it is restored. -/
def Sys2Proof.Claims.RingLinks : Prop :=
  (∀ (s : State) (link : Nat) (up : Bool) (f : Flit) (x : LinkDir), link < 10 → x = s.link link up → x.keyed = true → s.linkDown.contains link = false →
    (x.accepts f = true → x.retry = none → x.retries = 0 → x.held = [] →
      (∀ n m, f.msg = some n → s.ring.find n = some m → (x.queue (channel f.cls f.dl)).head? = some n → s.linkUp link = true →
        (f.dest = linkEnd link up → ∃ t, exec (.ringFlitReceive link up f) s = .next t ∧ m.msg ∈ t.inflight ∧ t.ring.find n = none ∧ t.mem = s.mem ∧
          (f.kp = x.kp → ((t.link link up).phase x.kp).count = (x.phase x.kp).count + 1)) ∧
        (f.dest ≠ linkEnd link up → (s.withHeader f).credit link up n = true → ∃ t, exec (.ringFlitReceive link up f) s = .next t ∧ t.inflight = s.inflight ∧
          t.ring.find n = some { m with dst := f.dest, src := f.src, cls := f.cls, dl := f.dl || link == 9 } ∧ t.mem = s.mem ∧
          (f.kp = x.kp → ((t.link link up).phase x.kp).count = (x.phase x.kp).count + 1))) ∧
      (f.msg = none → ∃ t, exec (.ringFlitReceive link up f) s = .next t ∧ { t with links := s.links } = s ∧
        (f.kp = x.kp → ((t.link link up).phase x.kp).count = (x.phase x.kp).count + 1))) ∧
    (x.accepts f = true → ∀ k, x.retry = some (f.kp, k) → ∃ t, exec (.ringFlitReceive link up f) s = .next t ∧ (t.link link up).retries = 0 ∧
      (t.link link up).retry = none ∧ (t.link link up).held = [] ∧ t.mem = s.mem) ∧
    (x.accepts f = true → ∀ k, x.retry = some (!f.kp, k) → ∃ t, exec (.ringFlitReceive link up f) s = .next t ∧ (t.link link up).held = x.held ++ f.msg.toList ∧
      { t with links := s.links, ring := s.ring } = s) ∧
    (f.crcOk = false → x.accepts f = false) ∧
    (x.accepts f = false →
      (x.retries < 4 → ∃ t, exec (.ringFlitReceive link up f) s = .next t ∧ (t.link link up).retries = x.retries + 1 ∧ { t with links := s.links } = s) ∧
      (x.retries = 4 → ∃ t, exec (.ringFlitReceive link up f) s = .next t ∧ t.linkDown.contains link = true ∧ t.linkKeyed link = false ∧ t.mem = s.mem ∧
        ∀ io < 2, (s.iod io).unmasked.contains 3 = true → (t.iod io).vectors.contains 3 = true))) ∧
  (∀ (k : LinkKey) (count n : Nat) (m : RingMsg) (kp : Bool) (x : LinkDir), m.dst < 16 → m.src < 16 → (x.phase kp) = ⟨some k, count⟩ → x.retry = none →
    (m.flit k kp count n).dest = m.dst ∧ (m.flit k kp count n).src = m.src ∧ (m.flit k kp count n).cls = m.cls ∧ (m.flit k kp count n).dl = m.dl ∧
    (m.flit k kp count n).kp = kp ∧ x.accepts (m.flit k kp count n) = true) ∧
  (∀ (s : State) (link : Nat), (s.linkDown.contains link = true → s.linkKeyed link = true → ∃ t, exec (.linkRestore link) s = .next t ∧
      t.linkDown.contains link = false ∧ t.mem = s.mem) ∧
    (s.linkDown.contains link = false ∨ s.linkKeyed link = false → exec (.linkRestore link) s = .next s))

/-- R411, R415, R417 to R422: dies and ring links. -/
def Obligations.DiesAndLinks : Prop :=
  Claims.DieAndLinkLife ∧ Claims.RingLinks

/-- R78, R110, R422 to R425, R428, R429: near memory is enabled, and cleared when it was lost; the host's SPDM request, its BAR2 accesses, its watches,
peers' queue pairs and their requests on device memory, and the patrol scrubber do what their rules give. Where the BAR2 window of a link lies is the
model's reading (log 68). -/
def Sys2Proof.Claims.MemoryFromOutside : Prop :=
  (∀ (s : State) (die : Nat), die < 8 → ∃ t, exec (.nmctlEnable die) s = .next t ∧ (t.die die).nmctl = 1 ∧ (t.die die).nearLost = false ∧
    ((s.die die).nearLost = true → (s.die die).nmctl.getLsbD 0 = false → ∀ pa, region pa = .near die → t.byte pa = 0) ∧
    ∀ pa, region pa ≠ .near die → t.byte pa = s.byte pa) ∧
  (∀ (s : State) (nonce m : List Byte), m = nonce ++ [1, 2, 3, 4].flatMap (fun k => bytesOf 32 (Config.measurement 4 k).toNat) ++ bytesOf 8 (s.diestat.bits 29 0) →
    exec (.hostSpdmRequest nonce) s = .next { s with outbox := s.outbox ++ [.spdm (m ++ bytesOf 384 (Config.sign (Config.privateKey 4) m))] }) ∧
  (∀ (s : State) (io off pa : Nat), pa = (if io = 0 then 2 ^ 40 else 7 * 2 ^ 38) + off → s.upsets = [] →
    (∀ n h, s.inBar2 ⟨io, off⟩ n = true → s.canGet (ioStop io) pa n = true →
      (∀ k < n, (s.curWord ((pa + k) / 4)).bad = false ∧ (s.curWord ((pa + k) / 4)).lost = false) → h = (s.homeReads (wordsOf pa n) (some 1) (ioStop io)).2 →
      exec (.bar2Read ⟨io, off⟩ n) s = .next { h with outbox := h.outbox ++ [.data false (s.curBytes pa n)] }) ∧
    (∀ n, s.inBar2 ⟨io, off⟩ n = false ∨ s.canGet (ioStop io) pa n = false → exec (.bar2Read ⟨io, off⟩ n) s = .next s) ∧
    (∀ (bs : List Byte) bad, s.inBar2 ⟨io, off⟩ bs.length = false → exec (.bar2Write ⟨io, off⟩ bs bad) s = .next s) ∧
    ∀ bs : List Byte, bs.length = 4 → pa % 4 = 0 → s.inBar2 ⟨io, off⟩ 4 = true →
      (s.canPut (ioStop io) pa 4 = true → Unwatched s (8 * (pa / 8)) → ∃ t, exec (.bar2Write ⟨io, off⟩ bs false) s = .next t ∧ t.curBytes pa 4 = bs) ∧
      ∀ bad, s.canPut (ioStop io) pa 4 = false → exec (.bar2Write ⟨io, off⟩ bs bad) s = .next (s.clearWay pa 4)) ∧
  (∀ (s : State) (io k : Nat) (w : Watch) (u : State), io < 2 → k < 64 → w = (s.iod io).watches.get k Watch.reset →
    u = s.setIod io { s.iod io with watches := (s.iod io).watches.set k { w with en := true } Watch.reset } →
    (∀ v, ((∃ pa, u.counterPlace (.io io) w.asid.toNat w.va.toNat .read = .at' pa ∧ v = u.curNat pa 8) ∨
        (u.counterPlace (.io io) w.asid.toNat w.va.toNat .read = .zero ∧ v = 0)) →
      (w.thr.toNat ≤ v → ∃ t, exec (.hwArm io k) s = .next t ∧ (t.iod io).watches.get k Watch.reset = { w with en := false, fired := true, late := false } ∧
        ((s.iod io).unmasked.contains (64 + k) = true → (t.iod io).vectors = (s.iod io).vectors ++ [64 + k]) ∧
        ((s.iod io).unmasked.contains (64 + k) = false → (t.iod io).pending.contains (64 + k) = true)) ∧
      (v < w.thr.toNat → ∃ t, exec (.hwArm io k) s = .next t ∧ (t.iod io).watches.get k Watch.reset = { w with en := true, late := false } ∧
        (t.iod io).vectors = (s.iod io).vectors)) ∧
    (∀ pa n, u.counterPlace (.io io) w.asid.toNat w.va.toNat .read = .busy pa n → ∃ t, exec (.hwArm io k) s = .next t ∧
      (t.iod io).watches.get k Watch.reset = { w with en := true, late := true })) ∧
  (∀ (s : State) (q : Nat), (32768 ≤ q ∨ s.ioUp (q / 16384) = false → ∀ r, exec (.peerRdmaRequest q r) s = .next s) ∧
    (q < 32768 → s.ioUp (q / 16384) = true →
      exec (.peerRdmaRequest q .connect) s = .next { s with qps := insertNat q s.qps } ∧
      (∃ t, exec (.peerRdmaRequest q .disconnect) s = .next t ∧ t.qps.contains q = false ∧ t.mem = s.mem) ∧
      (s.qps.contains q = false → ∀ r, r ≠ .connect → r ≠ .disconnect → exec (.peerRdmaRequest q r) s = .next s) ∧
      (s.qps.contains q = true →
        (∀ bytes, exec (.peerRdmaRequest q (.send bytes)) s = .next { s with outbox := s.outbox ++ [.answer q []] }) ∧
        (∀ pa n, inMemory s pa n = false → exec (.peerRdmaRequest q (.read pa n)) s = .next { s with outbox := s.outbox ++ [.refusal q] }) ∧
        (s.upsets = [] →
          (∀ pa n h, inMemory s pa n = true → s.canGet (ioStop (q / 16384)) pa n = true →
            (∀ k < n, (s.curWord ((pa + k) / 4)).bad = false ∧ (s.curWord ((pa + k) / 4)).lost = false) →
            h = (s.homeReads (wordsOf pa n) (some 1) (ioStop (q / 16384))).2 →
            exec (.peerRdmaRequest q (.read pa n)) s = .next { h with outbox := h.outbox ++ [.answer q (s.curBytes pa n)] }) ∧
          (∀ (pa : Nat) (bytes : List Byte) (imm : Word), pa % 4 = 0 → bytes.length = 4 → inMemory s pa 4 = true → s.canPut (ioStop (q / 16384)) pa 4 = true →
            Unwatched s (8 * (pa / 8)) → ∀ r ∈ [PeerReq.write pa bytes false, .writeImm pa bytes imm false], ∃ t, exec (.peerRdmaRequest q r) s = .next t ∧
              t.curBytes pa 4 = bytes ∧ t.outbox.getLast? = some (.answer q [])) ∧
          (∀ (pa old : Nat) (v w : DWord), pa % 8 = 0 → inMemory s pa 8 = true → s.canPut (ioStop (q / 16384)) pa 8 = true →
            (∀ wd ∈ wordsOf pa 8, (s.curWord wd).bad = false) → Unwatched s pa → old = s.curNat pa 8 →
            (∃ t, exec (.peerRdmaRequest q (.fetchAdd pa v)) s = .next t ∧ t.curNat pa 8 = (old + v.toNat) % 2 ^ 64 ∧
              t.outbox.getLast? = some (.answer q (bytesOf 8 old))) ∧
            ∃ t, exec (.peerRdmaRequest q (.cmpSwap pa v w)) s = .next t ∧ t.curNat pa 8 = (if old = v.toNat then w.toNat else old) ∧
              t.outbox.getLast? = some (.answer q (bytesOf 8 old))))))) ∧
  (∀ (s : State) (pa d : Nat), region pa = .near d → (s.die d).nmctl.getLsbD 0 = true →
    exec (.patrolScrub pa .clean) s = .next s ∧
    (d < 8 → exec (.patrolScrub pa .corrected) s = .next (s.setDie d { s.die d with merrs := cecntNext (s.die d).merrs })) ∧
    ∃ t, exec (.patrolScrub pa .uncorrectable) s = .next t ∧ t.mem = s.mem ∧ t.poison.contains (2 * (pa / 8)) = true ∧
      t.poison.contains (2 * (pa / 8) + 1) = true ∧ (t.die d).merrs.getLsbD 63 = true)

/-- R172, R173: a steal request joins its victim's mailbox or comes back at once with no item, and an item that comes back finds a place in the spill
area or the segment. -/
def Obligations.Stealing : Prop :=
  (∀ (s : State) (lid victim : Nat) (thief : CoreId),
    ((s.core thief).stealFor ≠ some lid → exec (.stealRequest lid victim thief) s = .next s) ∧
    ((s.core thief).stealFor = some lid → s.inService victim = true → (∃ e ∈ s.chains, e.2.launch = lid ∧ e.2.core.die = victim ∧ e.2.here = true) →
      (s.die victim).mailbox.length < 96 → exec (.stealRequest lid victim thief) s =
        .next (s.setDie victim { s.die victim with mailbox := (s.die victim).mailbox ++ [{ launch := lid, thief := thief }] })) ∧
    ((s.core thief).stealFor = some lid → s.inService victim = false ∨ 96 ≤ (s.die victim).mailbox.length ∨
        (∀ e ∈ s.chains, e.2.launch = lid → e.2.core.die = victim → e.2.here = false) → exec (.stealRequest lid victim thief) s =
      .next (s.setCore thief { s.core thief with stealFor := none }))) ∧
  (∀ (s s' : State) (lid : Nat) (core : CoreId) (item : List Word) (p : Packet), s.packet lid = some p → s.cmdSusp lid = false → s.coreReleased core = true →
    (s.spillAll (s.poolFor lid core) p [item] = .ok (.stored, s') → exec (.stolenItemReturn lid core item) s = .next (s'.cmdDone lid)) ∧
    (∀ r g, s.spillAll (s.poolFor lid core) p [item] = .ok (r, s') → r ≠ .stored → s'.seg lid core = some g → g.entries.length < p.poolE →
      exec (.stolenItemReturn lid core item) s = .next ((s'.setSeg lid core (some { g with entries := item :: g.entries })).cmdDone lid))) ∧
  (∀ (s : State) (lid : Nat) (core : CoreId) (item : List Word) (p : Packet), s.packet lid = some p → s.cmdSusp lid = true ∨ s.coreReleased core = false →
    exec (.stolenItemReturn lid core item) s = .next (s.send (.stolenItemReturn lid core item)))

/-- R439 to R445, R447: the host holds a core and lets it go, an unattended hold ends at its limit with its launch cancelled, the rod window writes a byte of a
held rod, and the counters are cleared and copied. -/
def Obligations.DebuggerAndCounters : Prop :=
  (∀ (s : State) (die : Nat) (v : DWord) (c : CoreId), c = ⟨die, v.bits 5 0⟩ →
    (die < 8 → v.bits 5 0 < 48 → (s.core c).isHeld = false → ∃ t, exec (.dbghalt die v) s = .next t ∧ (t.core c).isHeld = true ∧ (t.core c).holdRod = none ∧
      (t.core c).holdEnd = none ∧ ∀ e ∈ s.heldChains c, ∀ r ∈ e.2.rodIds e.1, ∀ x, s.rod r = some x → t.rod r = some { x with frozen := true }) ∧
    (8 ≤ die ∨ 48 ≤ v.bits 5 0 ∨ (s.core c).isHeld = true → exec (.dbghalt die v) s = .next s)) ∧
  (∀ (s : State) (die : Nat) (core : BitVec 6) (c : CoreId), c = ⟨die, core.toNat⟩ →
    ((s.core c).isHeld = false → exec (.dbgrelResume die core) s = .next s ∧ exec (.dbgrelKill die core) s = .next s) ∧
    ((s.core c).isHeld = true → (∃ t, exec (.dbgrelResume die core) s = .next t ∧ (t.core c).isHeld = false ∧ (t.die die).attach.getLsbD core.toNat = false ∧
        t.roundDue = true ∧ t.mem = s.mem) ∧
      ∃ t, exec (.dbgrelKill die core) s = .next t ∧ (t.core c).isHeld = false ∧ ∀ e ∈ s.residents c, ∀ x, s.cmd e.2.launch = some x →
        ∃ y, t.cmd e.2.launch = some y ∧ (x.isDone = true ∨ y.cancelled = true))) ∧
  (∀ s : State, (s.expired = none → exec .holdLimitExpire s = .next s) ∧
    ∀ c, s.expired = some c → ∃ t, exec .holdLimitExpire s = .next t ∧ (t.core c).isHeld = false ∧
      ∀ r x, (s.core c).holdRod = some r → s.cmd (s.launchOf r) = some x → (s.rod r).isSome = true → ∃ y, t.cmd (s.launchOf r) = some y ∧ (x.isDone = true ∨ y.cancelled = true)) ∧
  (∀ (s : State) (die off : Nat) (bs : List Byte), (s.windowRod die = none → exec (.rodWindowWrite die off bs) s = .next s) ∧
    ∀ r x, s.windowRod die = some r → s.rod r = some x →
      ((s.core (s.coreOf r)).isHeld = false → exec (.rodWindowWrite die off bs) s = .next s) ∧
      ((s.core (s.coreOf r)).isHeld = true → ∃ y, exec (.rodWindowWrite die off bs) s = .next (s.setRod r y) ∧
        (44288 ≤ off → y = x) ∧
        (∀ n, n < 64 → bs.length = 8 → off = 0xC0 + 8 * n → y.un n = BitVec.ofNat 64 (ofBytes bs) ∧ (∀ m, m ≠ n → y.un m = x.un m) ∧
          (∀ j l, y.lw j l = x.lw j l) ∧ y.slotA = x.slotA ∧ y.slotB = x.slotB ∧ y.cause = x.cause) ∧
        (bs.length = 4 → off = 8 → x.inHandler = false → y.agelimit = (if ofBytes bs < 64 then 64 else BitVec.ofNat 32 (ofBytes bs))))) ∧
  (∀ (s : State) (die : Nat), die < 8 → (∃ t, exec (.perfctlClear die) s = .next t ∧ { t with dies := s.dies } = s ∧ ∀ core quad leaf, t.counterRead die core quad leaf = 0) ∧
    ∃ t, exec (.perfctlSnapshot die) s = .next t ∧ { t with dies := s.dies } = s ∧ ∀ core quad leaf, t.shadowRead die core quad leaf = s.counterRead die core quad leaf ∧
      t.counterRead die core quad leaf = s.counterRead die core quad leaf) ∧
  (∀ s : State, (∃ t, exec .brksync s = .next t ∧ { t with cores := s.cores, rods := s.rods } = s ∧ (∀ c, (t.core c).icache = []) ∧
      ∀ r x, r.rod < 32 → s.rod r = some x → ∃ y, t.rod r = some y ∧ { y with slotA := x.slotA, slotB := x.slotB } = x ∧
        ∀ sl z c, x.slot sl = some z → z.started = some c → y.slot sl = some { z with started := some { c with
          brk := (List.range c.count).map (fun k => s.breakBit (s.asidOf r) (z.path.pc.toNat + 8 * (k + 1))) } }) ∧
    (∃ t, exec .pcSample s = .next t ∧ t.rods = s.rods ∧ t.cmds = s.cmds ∧ t.chains = s.chains) ∧
    ((∀ d < 8, s.sampleDue d = false) → exec .pcSample s = .next s) ∧
    ∀ (c : CoreId) (q : Nat) (r : RodId) (sl : SlotId) (y : Slot), c.die < 8 → c.core < 48 → q < 4 → (∀ d < 8, s.sampleDue d = decide (d = c.die)) →
      s.quadNext c q = some (r, sl, y) → (∀ k p, k < 48 → p < 4 → (k, p) ≠ (c.core, q) → s.quadNext ⟨c.die, k⟩ p = none) →
      SampleRoom s c.die 7 → ∀ x, s.rod r = some x → ∃ t, exec .pcSample s = .next t ∧ (t.die c.die).smpwr = (s.die c.die).smpwr + 7 ∧
        RecordAt s t c.die 0 1 0 (rodWordOf s r x (s.idleLeaf c q) :: pcPair y.path.pc sl y.path.idx ++ y.path.mask :: cycleOf s c.die))

/-- R8: a write of a register keeps its writable fields alone; a read-only register, and a number that names none, keep what they have. -/
def Sys2Proof.Claims.RegisterWrites : Prop :=
  ∀ (s : State) (i : Nat) (v : DWord),
    (∀ e ∈ plainWrites s i v, regNamed e.1 i = true → exec (.registerWrite e.1 i v) s = .next e.2) ∧
    (∀ r, regNamed r i = false → exec (.registerWrite r i v) s = .next s) ∧
    (i < 1024 → ∀ e ∈ [(HostReg.qcfg, { s.queue i with qcfg := v &&& 0xC000FFFFFFFFFFFF }), (.qbase, { s.queue i with qbase := v &&& 0x000FFFFFFFFFF01F })],
      exec (.registerWrite e.1 i v) s = .next { s.setQueue i e.2 with
        roundDue := s.roundDue || ((e.2.en && !(s.queue i).en) || e.2.qcfg.bits 31 0 != (s.queue i).qcfg.bits 31 0) }) ∧
    (i < 2 → exec (.registerWrite .bar2 i v) s = .next (s.setIod i { s.iod i with bar2 := Nat.min (v.bits 5 0) 6 })) ∧
    (i < 2048 → ∀ x n, x = s.iod (i / 1024) → n = i % 1024 → ∃ t, exec (.registerWrite .msix i v) s = .next t ∧ { t with iods := s.iods } = s ∧
      (v.getLsbD 0 = true → (t.iod (i / 1024)).unmasked.contains n = false ∧ (t.iod (i / 1024)).vectors = x.vectors) ∧
      (v.getLsbD 0 = false → (t.iod (i / 1024)).unmasked.contains n = true ∧ (t.iod (i / 1024)).pending.contains n = false ∧
        (t.iod (i / 1024)).vectors = (if x.pending.contains n then x.vectors ++ [n] else x.vectors))) ∧
    (i < 1024 → ∃ t, exec (.registerWrite .qstat i v) s = .next t ∧ t.queue i = { s.queue i with evovf := (s.queue i).evovf && !v.getLsbD 63 }) ∧
    (s.xlicBusy = true → exec (.registerWrite .xlia i v) s = .next s)

/-- R8, R78, R110, R422 to R425, R428: memory and registers as the host reaches them. -/
def Obligations.OutsideAccess : Prop :=
  Claims.MemoryFromOutside ∧ Claims.RegisterWrites

/-- R8, R110, R288, R289, R417: every register that the host reads is 0 after reset but NMCTL, whose EN is 1; bank 0 of every table store is
active and holds no entry; every word is in D at home and in no cache; every die is off; nothing is resident. That the reset is the state
before power-on is the model's reading (log 44). -/
def Obligations.ResetState : Prop :=
  (∀ r i, regNamed r i = true → State.reset.readReg r i = if r = .nmctl then 1 else 0) ∧
  (∀ c : CoreId, (State.reset.core c).bankNo = false ∧ (State.reset.core c).bank0.entries = [] ∧ (State.reset.core c).bank1.entries = [] ∧
    (∀ wd, (State.reset.core c).l1State wd = .i) ∧ (State.reset.core c).isHeld = false) ∧
  (∀ wd, State.reset.homeOf wd = none) ∧ (∀ d wd, (State.reset.die d).l2State wd = .i) ∧
  (∀ k, State.reset.dieState k = .off) ∧ (∀ r, State.reset.rod r = none) ∧ (∀ n, State.reset.chain n = none)

/-- R155, R202, R205, R212: when a pair has the turn and stands, with nothing to wait for, at a word of its started clause that decodes to i,
the step is that of i for the pair; what the step adds counts the cycle in the counters of the dies (R444) and changes nothing else. -/
def Obligations.StepRunsTheDecodedInstruction : Prop :=
  (∀ (s u v : State) (r : RodId) (sl : SlotId) (rest : List (RodId × SlotId)) (x : Rod) (y : Slot) (c : Clause) (w : DWord) (i : Instr) (ch : Chain),
    u = s.tick → u.pickUrgent = none → (u.cycle % 4 = 0 ∨ (u.pickMessage = none ∧ u.pickInput = none ∧ u.hardware = [])) → u.order = (r, sl) :: rest →
    u.rod r = some x → x.slot sl = some y → y.started = some c → c.body[y.path.idx]? = some w → decode w = .ok i →
    y.wait = none → y.stopped = false → x.suspended = false → x.frozen = false → x.run = .running → u.chain r.chain = some ch → ch.here = true → ch.state = .resident →
    (∀ cmd, u.cmd ch.launch = some cmd → cmd.cancelled = false) → x.overdue u.cycle = none → (y.brk = false ∨ y.path.broke = true) →
    v = { u with cur := some (r, sl), rr := pairKey (r, sl) + 1 } →
    v.issuer = some ⟨r, sl, x, y⟩ ∧
    (∀ t, exec i v = .next t → ∃ o, step s = .next (t.count o)) ∧
    (∀ f, exec i v = .fault f → step s = .fault f) ∧ (∀ f, exec i v = .refused f → step s = .refused f)) ∧
  (∀ (t : State) o, { t.count o with dies := t.dies, counted := t.counted } = t ∧ ∀ d, { (t.count o).die d with leaves := (t.die d).leaves } = t.die d) ∧
  (∀ (s : State), s.inputs = [] → (∀ x ∈ s.upsets, s.cycle + 1 < x.cycle) → (∀ io < 2, ∀ e ∈ (s.iod io).watches, e.2.late = false) →
    { s.tick with cycle := s.cycle, chains := s.chains, cores := s.cores } = s) ∧
  (∀ (n w : Nat) (i : Instr), decode (BitVec.ofNat 64 w) = .ok i →
    ((State.reset.withFetchWord n w).tick.select).map Pick.turn = some (.instr i))

/-- R203, R211 to R226, R228: words that the manual writes out for its examples decode to the instructions they stand for. -/
def Obligations.WordsDecode : Prop :=
  (∀ e ∈ [(0x4019020201520585, Instr.iadd ⟨3, .isT⟩ .f (.w 4) (.w 8) (.w 10) (some ⟨.rot, 3, 1, .b⟩)),
      (0x1580A8543BE00000, .kadd ⟨0, .always⟩ 0 (.k 0) (.int (-1)) none),
      (0x28900006000CFFEC, .br3 2 6 12 (-20)),
      (0xAA00045081924000, .split ⟨0, .always⟩ .f 8 2 12 4),
      (0x4380040080925000, .idiv2 ⟨0, .always⟩ .f (.w 8) (.w 2) (.w 4) 5 none),
      (0x4F00A18100D20000, .icmp ⟨0, .always⟩ .f .lt 3 (.w 4) (.w 6) none),
      (0x81800140000C8002, .ld ⟨0, .always⟩ .x8 (.w 2) ⟨.s 0, .w 0, 2⟩ .package .acq .normal),
      (0x852188C3F80D0000, .st ⟨4, .isT⟩ .x4 (.s 17) ⟨.s 15, .int 0, 0⟩ .package .rel .normal)],
    decodeTableWord 64 e.1 = some e.2) ∧
  (∀ e ∈ [(0xA180003100000000, Instr.fenceRel ⟨0, .always⟩ .package),
      (0xC200827038492D40, .mxim ⟨0, .always⟩ ⟨2, .hf, .hf, true, true, .sp, .sp⟩ (.s 4) (.int 0) (.int 2)),
      (0xC900824140000000, .nbpair ⟨0, .always⟩ 0 (.s 4) (.s 5)),
      (0x16000B002A3C1000, .rdx ⟨0, .always⟩ 22 0 1 .n1)],
    decodeTableWord 64 e.1 = some e.2) ∧
  decodeHeader 0x1300084400000000 = some ⟨.memory, 3, 0, some 0, some 1⟩ ∧ decodeHeader 0x1200300000000000 = some ⟨.memory, 2, 3, none, none⟩

/-- R211 to R226: an instruction that the encoding admits is read back from its word with every operand, and so is a header. -/
def Obligations.EncodedInstructionsDecode : Prop :=
  (∀ (i : Instr) (w : DWord), i.wf = true → encode i = some w → decode w = .ok i) ∧
  (∀ h : Header, (∀ f, h.a = some f → f.toNat ≤ 11) → (∀ f, h.b = some f → f.toNat ≤ 11 ∧ h.a.isSome = true) →
    decodeHeader (encodeHeader h) = some h)

/-- R211 to R226: every word the decoder accepts is the word of its instruction: no bit of it is passed over. -/
def Obligations.DecodedWordsEncode : Prop :=
  (∀ (w : DWord) (i : Instr), decode w = .ok i → i.wf = true ∧ encode i = some w) ∧
  (∀ (w : DWord) (h : Header), decodeHeader w = some h → encodeHeader h = w)

/-- Memory keeps its canonical form in every step (the model's form, log 2). -/
def Obligations.MemoryKeepsItsForm : Prop :=
  ∀ (s t : State), Memory.wf s.mem = true → step s = .next t → Memory.wf t.mem = true

/-- Memory has its canonical form at reset (the model's form, log 2). -/
def Obligations.ResetMemoryHasItsForm : Prop :=
  Memory.wf State.reset.mem = true ∧ ∀ n w, Memory.wf (State.reset.withFetchWord n w).mem = true

/-- R83, R91, R100, R101: a word written at home, whole or in part, reads back as written and no byte of another word of memory changes; a word
written through a core's L1 reads back there. -/
def Obligations.WordsReadBack : Prop :=
  (∀ (s : State) (wd : Nat) (v : Word), (s.putWord wd v 15).curWord wd = { val := v, bad := false, lost := false }) ∧
  (∀ (s : State) (wd : Nat) (v : Word) (m : BitVec 4), (s.curWord wd).bad = false → (s.curWord wd).lost = false →
    ∃ n, (s.putWord wd v m).curWord wd = { val := n, bad := false, lost := false } ∧
      ∀ k < 4, Word.byte n k = if m.getLsbD k then Word.byte v k else Word.byte (s.curWord wd).val k) ∧
  (∀ (s : State) (wd : Nat) (v : Word) (m : BitVec 4) (a : Nat), a / 4 ≠ wd → (s.putWord wd v m).byte a = s.byte a) ∧
  (∀ (s : State) (c : CoreId) (wd : Nat) (v : Word),
    ((s.coreWrite c wd v 15).coreRead c wd).1 = { val := v, bad := false, lost := false } ∧
    ∀ a, a / 4 ≠ wd → (s.coreWrite c wd v 15).byte a = s.byte a)

/-- R76, R154, R219, R220, R313, R333, R359, R371: ports as operands. A named port pops once and gives its value to every field, and an
instruction whose port is empty waits; a push joins its raw command, which is discarded with access violation when it is malformed, and a
push to port.cp by another role than 0 traps. An operand outside the window traps. A register in error reads as ones and raises its cause. -/
def Obligations.PortsAndOperandChecks : Prop :=
  (∀ r ∈ int2Rows, ∀ (s : State) (i : Iss) (g : Guard) (d : Operand) (m : Option SrcMod),
    s.issuer = some i → inWindow i.rod d 1 = true → isReg d = true → i.rod.regBad = [] →
    ∀ both, both = (fun (x : Rod) (f : Nat → Word) => writeInt x (i.part g) d (fun n l =>
      r.f n (if r.sgn then (f l).signExtend n else (f l).setWidth n) (if r.sgn then (f l).signExtend n else (f l).setWidth n))) →
    (i.part g ≠ 0 → i.rod.mxOut = [] → Waits (exec (r.con g d (.port .mx) (.port .mx) m) s) s i .matrix) ∧
    (∀ w rest, i.part g ≠ 0 → i.rod.mxOut = w :: rest →
      Completes (exec (r.con g d (.port .mx) (.port .mx) m) s) s i.rid (both { i.rod with mxOut := rest } (fun _ => w))) ∧
    (i.part g ≠ 0 → i.rod.cpOut = [] → Waits (exec (r.con g d (.port .cp) (.port .cp) m) s) s i .copy) ∧
    (∀ w rest, i.part g ≠ 0 → i.rod.cpOut = w :: rest →
      Completes (exec (r.con g d (.port .cp) (.port .cp) m) s) s i.rid (both { i.rod with cpOut := rest } (fun _ => w))) ∧
    ((∀ w rest, i.rod.gx = w :: rest → w.op.isSome = true) → Waits (exec (r.con g d (.port .gx) (.port .gx) m) s) s i .memory) ∧
    (∀ w rest, i.rod.gx = w :: rest → w.op = none →
      Completes (exec (r.con g d (.port .gx) (.port .gx) m) s) s i.rid
        (both (({ i.rod with gx := rest } : Rod).raise (if w.bad &&& i.part g ≠ 0 then Cause.umem else 0))
          (fun l => if w.bad.has l then 0xFFFFFFFF else w.vals.getD l 0))) ∧
    (i.rod.stream.deal (lanes (i.part g)) = none → Waits (exec (r.con g d (.port .nb) (.port .nb) m) s) s i .neighbour) ∧
    (∀ t ws, i.rod.stream.deal (lanes (i.part g)) = some (t, ws) →
      Completes (exec (r.con g d (.port .nb) (.port .nb) m) s) s i.rid
        (both { i.rod with stream := t } (fun l => ((ws.find? (·.1 == l)).map (·.2)).getD 0)))) ∧
  (∀ (t : Stream) (l : Nat) (rest : List Nat), (∀ p q, t.cur.get l 0 = 0 → t.queue = p :: q →
      t.deal (l :: rest) = (Stream.deal { t with queue := q, dealt := t.dealt.put l p, cur := t.cur.set l 1 0 } rest).map
        (fun e => (e.1, (l, p.i) :: e.2))) ∧
    (t.cur.get l 0 = 0 → t.queue = [] → t.ended = false → t.deal (l :: rest) = none)) ∧
  (∀ r ∈ int1Rows, ∀ (s : State) (i : Iss) (g : Guard) (a : Operand) (m : Option SrcMod) (ch : Chain),
    s.issuer = some i → inWindow i.rod a 1 = true → noPorts [(a, 1)] = true → i.rod.regBad = [] → s.chain i.rid.chain = some ch → i.part g ≠ 0 →
    ∀ v, v = r.f 32 ((srcs s i g m).int .a a r.sgn 32 (lowest (i.part g))) →
    (i.rod.mxIn.length < 4 → Completes (exec (r.con g (.port .mx) a m) s) s i.rid { i.rod with mxIn := i.rod.mxIn ++ [v] }) ∧
    (∀ hi lo b c e, i.rod.mxIn = [hi, lo, b, c] → decode (dword lo hi) = .error e →
      Completes (exec (r.con g (.port .mx) a m) s) s i.rid (({ i.rod with mxIn := [] } : Rod).raise Cause.accv)) ∧
    (i.rod.role = 0 → i.rod.cpIn.length < 5 → Completes (exec (r.con g (.port .cp) a m) s) s i.rid { i.rod with cpIn := i.rod.cpIn ++ [v] }) ∧
    (i.rod.role = 0 → i.rod.cpIn.length = 5 → v ≠ 0 →
      Completes (exec (r.con g (.port .cp) a m) s) s i.rid (({ i.rod with cpIn := [] } : Rod).raise Cause.accv)) ∧
    (i.rod.role ≠ 0 → exec (r.con g (.port .cp) a m) s = .next (s.takeTrap i.rid i.sl Cause.copyr i.slot.path.pc i.slot.path.idx))) ∧
  (∀ r ∈ int2Rows, ∀ (s : State) (i : Iss) (g : Guard) (d a b : Operand) (m : Option SrcMod), s.issuer = some i →
    (inWindow i.rod d 1 && inWindow i.rod a 1 && inWindow i.rod b 1) = false →
    exec (r.con g d a b m) s = .next (s.takeTrap i.rid i.sl Cause.regidx i.slot.path.pc i.slot.path.idx)) ∧
  (∀ r ∈ int1Rows, ∀ (s : State) (i : Iss) (g : Guard) (d : Operand) (k : BitVec 8) (l : Nat),
    s.issuer = some i → inWindow i.rod d 1 = true → inWindow i.rod (.w k) 1 = true → isReg d = true → (i.part g).has l = true → l < 32 →
    i.rod.regBad.contains (32 * k.toNat + l) = true → (srcs s i g none).int .a (.w k) false 32 l = 0xFFFFFFFF ∧
    Completes (exec (r.con g d (.w k) none) s) s i.rid (writeInt (i.rod.raise Cause.umem) (i.part g) d (fun n j =>
      r.f n ((srcs s i g none).int .a (.w k) r.sgn n j))))

/-- R17, R155: where the model stops. An instruction with no issuing pair faults, and a load that reaches the device register space, whose
addresses the manual does not give, is refused (log 35). -/
def Obligations.WhereTheModelStops : Prop :=
  (∀ (w : DWord) (j : Instr) (s : State), decode w = .ok j → s.issuer = none → exec j s = .fault .noIssuer) ∧
  (∀ (s s' : State) (i : Iss) (g : Guard) (sz : Size) (d : Operand) (ad : MAddr) (sc : Scope) (o : Order) (h : Hint) (l pa : Nat) (ent a : DWord),
    Ready s i [(d, sz.words)] ad.regs → i.flagFull = false → s.mayLoad i sc o = true → actorsOf i g d = [l] →
    a = (srcs s i g none).addr ad sz.bytes l → vaKind a = .translated → a.toNat % sz.bytes = 0 →
    (s.setRod i.rid i.rod).resolve (.core (s.coreOf i.rid)) (s.asidOf i.rid) i.rod.denied a .read = (.mem pa ent, s') → region pa = .registers →
    exec (.ld g sz d ad sc o h) s = .refused .deviceRegisters)
end

