-- ==== Sys2Proof/Laws/Arms.lean ====
section
/-!
SUPPORT. The meaning of each constructor of Instr, one equation an arm of `exec`.
-/
namespace Sys2Proof.Laws

open Sys2Proof.Machine

theorem exec_add (g : Guard) (d a b : Operand) (m : Option SrcMod) (s : State) : exec (Instr.add g d a b m) s = execAdd g d a b m s := rfl
theorem exec_sub (g : Guard) (d a b : Operand) (m : Option SrcMod) (s : State) : exec (Instr.sub g d a b m) s = execSub g d a b m s := rfl
theorem exec_mul (g : Guard) (d a b : Operand) (m : Option SrcMod) (s : State) : exec (Instr.mul g d a b m) s = execMul g d a b m s := rfl
theorem exec_mulh (g : Guard) (d a b : Operand) (m : Option SrcMod) (s : State) : exec (Instr.mulh g d a b m) s = execMulh g d a b m s := rfl
theorem exec_mulhn (g : Guard) (d a b : Operand) (m : Option SrcMod) (s : State) : exec (Instr.mulhn g d a b m) s = execMulhn g d a b m s := rfl
theorem exec_mad (g : Guard) (d a b c : Operand) (m : Option SrcMod) (s : State) : exec (Instr.mad g d a b c m) s = execMad g d a b c m s := rfl
theorem exec_madh (g : Guard) (d a b c : Operand) (m : Option SrcMod) (s : State) : exec (Instr.madh g d a b c m) s = execMadh g d a b c m s := rfl
theorem exec_div (g : Guard) (d a b : Operand) (m : Option SrcMod) (s : State) : exec (Instr.div g d a b m) s = execDiv g d a b m s := rfl
theorem exec_divn (g : Guard) (d a b : Operand) (m : Option SrcMod) (s : State) : exec (Instr.divn g d a b m) s = execDivn g d a b m s := rfl
theorem exec_rem (g : Guard) (d a b : Operand) (m : Option SrcMod) (s : State) : exec (Instr.rem g d a b m) s = execRem g d a b m s := rfl
theorem exec_remn (g : Guard) (d a b : Operand) (m : Option SrcMod) (s : State) : exec (Instr.remn g d a b m) s = execRemn g d a b m s := rfl
theorem exec_neg (g : Guard) (d a : Operand) (m : Option SrcMod) (s : State) : exec (Instr.neg g d a m) s = execNeg g d a m s := rfl
theorem exec_abs (g : Guard) (d a : Operand) (m : Option SrcMod) (s : State) : exec (Instr.abs g d a m) s = execAbs g d a m s := rfl
theorem exec_min (g : Guard) (d a b : Operand) (m : Option SrcMod) (s : State) : exec (Instr.min g d a b m) s = execMin g d a b m s := rfl
theorem exec_minn (g : Guard) (d a b : Operand) (m : Option SrcMod) (s : State) : exec (Instr.minn g d a b m) s = execMinn g d a b m s := rfl
theorem exec_max (g : Guard) (d a b : Operand) (m : Option SrcMod) (s : State) : exec (Instr.max g d a b m) s = execMax g d a b m s := rfl
theorem exec_maxn (g : Guard) (d a b : Operand) (m : Option SrcMod) (s : State) : exec (Instr.maxn g d a b m) s = execMaxn g d a b m s := rfl
theorem exec_and (g : Guard) (d a b : Operand) (m : Option SrcMod) (s : State) : exec (Instr.and g d a b m) s = execAnd g d a b m s := rfl
theorem exec_or (g : Guard) (d a b : Operand) (m : Option SrcMod) (s : State) : exec (Instr.or g d a b m) s = execOr g d a b m s := rfl
theorem exec_xor (g : Guard) (d a b : Operand) (m : Option SrcMod) (s : State) : exec (Instr.xor g d a b m) s = execXor g d a b m s := rfl
theorem exec_andn (g : Guard) (d a b : Operand) (m : Option SrcMod) (s : State) : exec (Instr.andn g d a b m) s = execAndn g d a b m s := rfl
theorem exec_not (g : Guard) (d a : Operand) (m : Option SrcMod) (s : State) : exec (Instr.not g d a m) s = execNot g d a m s := rfl
theorem exec_shl (g : Guard) (d a b : Operand) (m : Option SrcMod) (s : State) : exec (Instr.shl g d a b m) s = execShl g d a b m s := rfl
theorem exec_shr (g : Guard) (d a b : Operand) (m : Option SrcMod) (s : State) : exec (Instr.shr g d a b m) s = execShr g d a b m s := rfl
theorem exec_sar (g : Guard) (d a b : Operand) (m : Option SrcMod) (s : State) : exec (Instr.sar g d a b m) s = execSar g d a b m s := rfl
theorem exec_rol (g : Guard) (d a b : Operand) (m : Option SrcMod) (s : State) : exec (Instr.rol g d a b m) s = execRol g d a b m s := rfl
theorem exec_bfx (g : Guard) (d a b : Operand) (m : Option SrcMod) (s : State) : exec (Instr.bfx g d a b m) s = execBfx g d a b m s := rfl
theorem exec_bfxn (g : Guard) (d a b : Operand) (m : Option SrcMod) (s : State) : exec (Instr.bfxn g d a b m) s = execBfxn g d a b m s := rfl
theorem exec_bfi (g : Guard) (d a b c : Operand) (m : Option SrcMod) (s : State) : exec (Instr.bfi g d a b c m) s = execBfi g d a b c m s := rfl
theorem exec_popc (g : Guard) (d a : Operand) (m : Option SrcMod) (s : State) : exec (Instr.popc g d a m) s = execPopc g d a m s := rfl
theorem exec_clz (g : Guard) (d a : Operand) (m : Option SrcMod) (s : State) : exec (Instr.clz g d a m) s = execClz g d a m s := rfl
theorem exec_ctz (g : Guard) (d a : Operand) (m : Option SrcMod) (s : State) : exec (Instr.ctz g d a m) s = execCtz g d a m s := rfl
theorem exec_brev (g : Guard) (d a : Operand) (m : Option SrcMod) (s : State) : exec (Instr.brev g d a m) s = execBrev g d a m s := rfl
theorem exec_sel (g : Guard) (d a b : Operand) (q : BitVec 4) (m : Option SrcMod) (s : State) : exec (Instr.sel g d a b q m) s = execSel g d a b q m s := rfl
theorem exec_mov (g : Guard) (d a : Operand) (m : Option SrcMod) (s : State) : exec (Instr.mov g d a m) s = execMov g d a m s := rfl
theorem exec_ldi (g : Guard) (mode : LdiMode) (d : Operand) (imm : Word) (s : State) : exec (Instr.ldi g mode d imm) s = execLdi g mode d imm s := rfl
theorem exec_cvt (g : Guard) (dt st : Ty) (sat : Bool) (d a : Operand) (m : Option SrcMod) (s : State) : exec (Instr.cvt g dt st sat d a m) s = execCvt g dt st sat d a m s := rfl
theorem exec_lea (g : Guard) (d a b c : Operand) (m : Option SrcMod) (s : State) : exec (Instr.lea g d a b c m) s = execLea g d a b c m s := rfl
theorem exec_perm (g : Guard) (d a b : Operand) (m : Option SrcMod) (s : State) : exec (Instr.perm g d a b m) s = execPerm g d a b m s := rfl
theorem exec_kset (g : Guard) (k : BitVec 2) (imm : BitVec 10) (s : State) : exec (Instr.kset g k imm) s = execKset g k imm s := rfl
theorem exec_kadd (g : Guard) (k : BitVec 2) (a b : Operand) (m : Option SrcMod) (s : State) : exec (Instr.kadd g k a b m) s = execKadd g k a b m s := rfl
theorem exec_rdx (g : Guard) (d base : BitVec 8) (k : BitVec 2) (n : NWords) (s : State) : exec (Instr.rdx g d base k n) s = execRdx g d base k n s := rfl
theorem exec_wrx (g : Guard) (base : BitVec 8) (k : BitVec 2) (b : BitVec 8) (n : NWords) (s : State) : exec (Instr.wrx g base k b n) s = execWrx g base k b n s := rfl
theorem exec_cmp (g : Guard) (ty : Ty) (rel : CmpRel) (q : BitVec 4) (a b : Operand) (m : Option SrcMod) (s : State) : exec (Instr.cmp g ty rel q a b m) s = execCmp g ty rel q a b m s := rfl
theorem exec_qand (g : Guard) (qd qa qb : BitVec 4) (s : State) : exec (Instr.qand g qd qa qb) s = execQand g qd qa qb s := rfl
theorem exec_qor (g : Guard) (qd qa qb : BitVec 4) (s : State) : exec (Instr.qor g qd qa qb) s = execQor g qd qa qb s := rfl
theorem exec_qxor (g : Guard) (qd qa qb : BitVec 4) (s : State) : exec (Instr.qxor g qd qa qb) s = execQxor g qd qa qb s := rfl
theorem exec_qnot (g : Guard) (qd qa : BitVec 4) (s : State) : exec (Instr.qnot g qd qa) s = execQnot g qd qa s := rfl
theorem exec_qsure (g : Guard) (qd qa : BitVec 4) (s : State) : exec (Instr.qsure g qd qa) s = execQsure g qd qa s := rfl
theorem exec_qmaybe (g : Guard) (qd qa : BitVec 4) (s : State) : exec (Instr.qmaybe g qd qa) s = execQmaybe g qd qa s := rfl
theorem exec_qmov (g : Guard) (qd qa : BitVec 4) (s : State) : exec (Instr.qmov g qd qa) s = execQmov g qd qa s := rfl
theorem exec_qvote (g : Guard) (mode : VoteMode) (qd qa : BitVec 4) (s : State) : exec (Instr.qvote g mode qd qa) s = execQvote g mode qd qa s := rfl
theorem exec_qmask (g : Guard) (mode : MaskMode) (d : Operand) (qa : BitVec 4) (s : State) : exec (Instr.qmask g mode d qa) s = execQmask g mode d qa s := rfl
theorem exec_qfrom (g : Guard) (mode : FromMode) (qd : BitVec 4) (a : Operand) (m : Option SrcMod) (s : State) : exec (Instr.qfrom g mode qd a m) s = execQfrom g mode qd a m s := rfl
theorem exec_br (g : Guard) (off : BitVec 48) (s : State) : exec (Instr.br g off) s = execBr g off s := rfl
theorem exec_br3 (q : BitVec 4) (offT offF offU : BitVec 16) (s : State) : exec (Instr.br3 q offT offF offU) s = execBr3 q offT offF offU s := rfl
theorem exec_join (off : BitVec 48) (s : State) : exec (Instr.join off) s = execJoin off s := rfl
theorem exec_call (g : Guard) (off : BitVec 48) (s : State) : exec (Instr.call g off) s = execCall g off s := rfl
theorem exec_ret (g : Guard) (s : State) : exec (Instr.ret g) s = execRet g s := rfl
theorem exec_jmpi (g : Guard) (a : Operand) (s : State) : exec (Instr.jmpi g a) s = execJmpi g a s := rfl
theorem exec_exit (g : Guard) (s : State) : exec (Instr.exit g) s = execExit g s := rfl
theorem exec_yield (g : Guard) (s : State) : exec (Instr.yield g) s = execYield g s := rfl
theorem exec_sleep (g : Guard) (a : Operand) (s : State) : exec (Instr.sleep g a) s = execSleep g a s := rfl
theorem exec_nop (g : Guard) (s : State) : exec (Instr.nop g) s = execNop g s := rfl
theorem exec_rgive (g : Guard) (a : Operand) (s : State) : exec (Instr.rgive g a) s = execRgive g a s := rfl
theorem exec_rtake (g : Guard) (a : Operand) (s : State) : exec (Instr.rtake g a) s = execRtake g a s := rfl
theorem exec_split (g : Guard) (v : View) (x : BitVec 8) (q : BitVec 4) (b : BitVec 8) (n : BitVec 4) (s : State) : exec (Instr.split g v x q b n) s = execSplit g v x q b n s := rfl
theorem exec_fork (g : Guard) (q : BitVec 4) (b : BitVec 8) (n : BitVec 4) (s : State) : exec (Instr.fork g q b n) s = execFork g q b n s := rfl
theorem exec_take (g : Guard) (d : BitVec 8) (q : BitVec 4) (s : State) : exec (Instr.take g d q) s = execTake g d q s := rfl
theorem exec_poolcfg (g : Guard) (a : Operand) (s : State) : exec (Instr.poolcfg g a) s = execPoolcfg g a s := rfl
theorem exec_poolst (g : Guard) (d : BitVec 8) (s : State) : exec (Instr.poolst g d) s = execPoolst g d s := rfl
theorem exec_iadd (g : Guard) (v : View) (d a b : Operand) (m : Option SrcMod) (s : State) : exec (Instr.iadd g v d a b m) s = execIadd g v d a b m s := rfl
theorem exec_isub (g : Guard) (v : View) (d a b : Operand) (m : Option SrcMod) (s : State) : exec (Instr.isub g v d a b m) s = execIsub g v d a b m s := rfl
theorem exec_imul (g : Guard) (v : View) (d a b : Operand) (m : Option SrcMod) (s : State) : exec (Instr.imul g v d a b m) s = execImul g v d a b m s := rfl
theorem exec_ifma (g : Guard) (v : View) (d a b c : Operand) (m : Option SrcMod) (s : State) : exec (Instr.ifma g v d a b c m) s = execIfma g v d a b c m s := rfl
theorem exec_idiv (g : Guard) (v : View) (d a b : Operand) (m : Option SrcMod) (s : State) : exec (Instr.idiv g v d a b m) s = execIdiv g v d a b m s := rfl
theorem exec_idiv2 (g : Guard) (v : View) (d a b : Operand) (q : BitVec 4) (m : Option SrcMod) (s : State) : exec (Instr.idiv2 g v d a b q m) s = execIdiv2 g v d a b q m s := rfl
theorem exec_ircp (g : Guard) (v : View) (d a : Operand) (m : Option SrcMod) (s : State) : exec (Instr.ircp g v d a m) s = execIrcp g v d a m s := rfl
theorem exec_isqr (g : Guard) (v : View) (d a : Operand) (m : Option SrcMod) (s : State) : exec (Instr.isqr g v d a m) s = execIsqr g v d a m s := rfl
theorem exec_isqrt (g : Guard) (v : View) (d a : Operand) (m : Option SrcMod) (s : State) : exec (Instr.isqrt g v d a m) s = execIsqrt g v d a m s := rfl
theorem exec_iabs (g : Guard) (v : View) (d a : Operand) (m : Option SrcMod) (s : State) : exec (Instr.iabs g v d a m) s = execIabs g v d a m s := rfl
theorem exec_ineg (g : Guard) (v : View) (d a : Operand) (m : Option SrcMod) (s : State) : exec (Instr.ineg g v d a m) s = execIneg g v d a m s := rfl
theorem exec_imin (g : Guard) (v : View) (d a b : Operand) (m : Option SrcMod) (s : State) : exec (Instr.imin g v d a b m) s = execImin g v d a b m s := rfl
theorem exec_imax (g : Guard) (v : View) (d a b : Operand) (m : Option SrcMod) (s : State) : exec (Instr.imax g v d a b m) s = execImax g v d a b m s := rfl
theorem exec_ihull (g : Guard) (v : View) (d a b : Operand) (m : Option SrcMod) (s : State) : exec (Instr.ihull g v d a b m) s = execIhull g v d a b m s := rfl
theorem exec_imeet (g : Guard) (v : View) (d a b : Operand) (m : Option SrcMod) (s : State) : exec (Instr.imeet g v d a b m) s = execImeet g v d a b m s := rfl
theorem exec_imid (g : Guard) (v : View) (d a : Operand) (m : Option SrcMod) (s : State) : exec (Instr.imid g v d a m) s = execImid g v d a m s := rfl
theorem exec_irad (g : Guard) (v : View) (d a : Operand) (m : Option SrcMod) (s : State) : exec (Instr.irad g v d a m) s = execIrad g v d a m s := rfl
theorem exec_iwid (g : Guard) (v : View) (d a : Operand) (m : Option SrcMod) (s : State) : exec (Instr.iwid g v d a m) s = execIwid g v d a m s := rfl
theorem exec_imag (g : Guard) (v : View) (d a : Operand) (m : Option SrcMod) (s : State) : exec (Instr.imag g v d a m) s = execImag g v d a m s := rfl
theorem exec_imig (g : Guard) (v : View) (d a : Operand) (m : Option SrcMod) (s : State) : exec (Instr.imig g v d a m) s = execImig g v d a m s := rfl
theorem exec_iinf (g : Guard) (v : View) (d a : Operand) (m : Option SrcMod) (s : State) : exec (Instr.iinf g v d a m) s = execIinf g v d a m s := rfl
theorem exec_isup (g : Guard) (v : View) (d a : Operand) (m : Option SrcMod) (s : State) : exec (Instr.isup g v d a m) s = execIsup g v d a m s := rfl
theorem exec_imk (g : Guard) (v : View) (d a b : Operand) (m : Option SrcMod) (s : State) : exec (Instr.imk g v d a b m) s = execImk g v d a b m s := rfl
theorem exec_ipt (g : Guard) (v : View) (d a : Operand) (m : Option SrcMod) (s : State) : exec (Instr.ipt g v d a m) s = execIpt g v d a m s := rfl
theorem exec_ibis (g : Guard) (v : View) (d a : Operand) (q : BitVec 4) (m : Option SrcMod) (s : State) : exec (Instr.ibis g v d a q m) s = execIbis g v d a q m s := rfl
theorem exec_iscl (g : Guard) (v : View) (d a b : Operand) (m : Option SrcMod) (s : State) : exec (Instr.iscl g v d a b m) s = execIscl g v d a b m s := rfl
theorem exec_iflr (g : Guard) (v : View) (d a : Operand) (m : Option SrcMod) (s : State) : exec (Instr.iflr g v d a m) s = execIflr g v d a m s := rfl
theorem exec_iceil (g : Guard) (v : View) (d a : Operand) (m : Option SrcMod) (s : State) : exec (Instr.iceil g v d a m) s = execIceil g v d a m s := rfl
theorem exec_icmp (g : Guard) (v : View) (rel : IRel) (q : BitVec 4) (a b : Operand) (m : Option SrcMod) (s : State) : exec (Instr.icmp g v rel q a b m) s = execIcmp g v rel q a b m s := rfl
theorem exec_icls (g : Guard) (v : View) (cls : ICls) (q : BitVec 4) (a : Operand) (m : Option SrcMod) (s : State) : exec (Instr.icls g v cls q a m) s = execIcls g v cls q a m s := rfl
theorem exec_icvt (g : Guard) (dt st : Ty) (hi : Bool) (d a : Operand) (m : Option SrcMod) (s : State) : exec (Instr.icvt g dt st hi d a m) s = execIcvt g dt st hi d a m s := rfl
theorem exec_imr (g : Guard) (v : View) (plane : Option (PFmt × Operand)) (d a : Operand) (m : Option SrcMod) (s : State) : exec (Instr.imr g v plane d a m) s = execImr g v plane d a m s := rfl
theorem exec_ixr (g : Guard) (v : View) (d a : Operand) (m : Option SrcMod) (s : State) : exec (Instr.ixr g v d a m) s = execIxr g v d a m s := rfl
theorem exec_iexp2 (g : Guard) (v : View) (d a : Operand) (m : Option SrcMod) (s : State) : exec (Instr.iexp2 g v d a m) s = execIexp2 g v d a m s := rfl
theorem exec_ilog2 (g : Guard) (v : View) (d a : Operand) (m : Option SrcMod) (s : State) : exec (Instr.ilog2 g v d a m) s = execIlog2 g v d a m s := rfl
theorem exec_irsqrt (g : Guard) (v : View) (d a : Operand) (m : Option SrcMod) (s : State) : exec (Instr.irsqrt g v d a m) s = execIrsqrt g v d a m s := rfl
theorem exec_ifn (g : Guard) (v : View) (tid : BitVec 4) (d a : Operand) (m : Option SrcMod) (s : State) : exec (Instr.ifn g v tid d a m) s = execIfn g v tid d a m s := rfl
theorem exec_ifnc (g : Guard) (tid : BitVec 4) (d a : Operand) (m : Option SrcMod) (s : State) : exec (Instr.ifnc g tid d a m) s = execIfnc g tid d a m s := rfl
theorem exec_tblld (g : Guard) (a : Operand) (tid : BitVec 4) (slot : BitVec 8) (s : State) : exec (Instr.tblld g a tid slot) s = execTblld g a tid slot s := rfl
theorem exec_tblldComplete (op : Nat) (s : State) : exec (Instr.tblldComplete op) s = execTblldComplete op s := rfl
theorem exec_tblsw (g : Guard) (s : State) : exec (Instr.tblsw g) s = execTblsw g s := rfl
theorem exec_tblq (g : Guard) (d : Operand) (tid : BitVec 4) (s : State) : exec (Instr.tblq g d tid) s = execTblq g d tid s := rfl
theorem exec_segmax (g : Guard) (v : View) (z : BitVec 3) (d a : Operand) (b : Option Operand) (m : Option SrcMod) (s : State) : exec (Instr.segmax g v z d a b m) s = execSegmax g v z d a b m s := rfl
theorem exec_segmin (g : Guard) (v : View) (z : BitVec 3) (d a : Operand) (b : Option Operand) (m : Option SrcMod) (s : State) : exec (Instr.segmin g v z d a b m) s = execSegmin g v z d a b m s := rfl
theorem exec_segsum (g : Guard) (v : View) (z : BitVec 3) (d a : Operand) (b : Option Operand) (m : Option SrcMod) (s : State) : exec (Instr.segsum g v z d a b m) s = execSegsum g v z d a b m s := rfl
theorem exec_segnorm (g : Guard) (v : View) (z : BitVec 3) (d a : Operand) (b : Option Operand) (m : Option SrcMod) (s : State) : exec (Instr.segnorm g v z d a b m) s = execSegnorm g v z d a b m s := rfl
theorem exec_smxexp (g : Guard) (v : View) (z : BitVec 3) (d a : Operand) (m : Option SrcMod) (s : State) : exec (Instr.smxexp g v z d a m) s = execSmxexp g v z d a m s := rfl
theorem exec_smxnorm (g : Guard) (v : View) (z : BitVec 3) (d a : Operand) (q : BitVec 4) (m : Option SrcMod) (s : State) : exec (Instr.smxnorm g v z d a q m) s = execSmxnorm g v z d a q m s := rfl
theorem exec_ld (g : Guard) (sz : Size) (d : Operand) (ad : MAddr) (sc : Scope) (o : Order) (h : Hint) (s : State) : exec (Instr.ld g sz d ad sc o h) s = execLd g sz d ad sc o h s := rfl
theorem exec_loadComplete (op : Nat) (s : State) : exec (Instr.loadComplete op) s = execLoadComplete op s := rfl
theorem exec_st (g : Guard) (sz : Size) (a : Operand) (ad : MAddr) (sc : Scope) (o : Order) (h : Hint) (s : State) : exec (Instr.st g sz a ad sc o h) s = execSt g sz a ad sc o h s := rfl
theorem exec_ldmr (g : Guard) (v : View) (d : Operand) (ad : MAddr) (sc : Scope) (o : Order) (h : Hint) (s : State) : exec (Instr.ldmr g v d ad sc o h) s = execLdmr g v d ad sc o h s := rfl
theorem exec_stmr (g : Guard) (v : View) (a : Operand) (ad : MAddr) (sc : Scope) (o : Order) (h : Hint) (s : State) : exec (Instr.stmr g v a ad sc o h) s = execStmr g v a ad sc o h s := rfl
theorem exec_ldXs (g : Guard) (v : View) (d : Operand) (ad : MAddr) (sc : Scope) (o : Order) (s : State) : exec (Instr.ldXs g v d ad sc o) s = execLdXs g v d ad sc o s := rfl
theorem exec_redXs (g : Guard) (a : Operand) (ad : MAddr) (sc : Scope) (o : Order) (s : State) : exec (Instr.redXs g a ad sc o) s = execRedXs g a ad sc o s := rfl
theorem exec_lds (g : Guard) (sz : Size) (d : Operand) (ad : MAddr) (sc : Scope) (o : Order) (h : Hint) (s : State) : exec (Instr.lds g sz d ad sc o h) s = execLds g sz d ad sc o h s := rfl
theorem exec_sts (g : Guard) (sz : Size) (a : Operand) (ad : MAddr) (sc : Scope) (o : Order) (h : Hint) (s : State) : exec (Instr.sts g sz a ad sc o h) s = execSts g sz a ad sc o h s := rfl
theorem exec_ldtk (g : Guard) (sz : Size) (d : Operand) (ad : MAddr) (sc : Scope) (o : Order) (h : Hint) (s : State) : exec (Instr.ldtk g sz d ad sc o h) s = execLdtk g sz d ad sc o h s := rfl
theorem exec_stfl (g : Guard) (sz : Size) (a : Operand) (ad : MAddr) (sc : Scope) (o : Order) (h : Hint) (s : State) : exec (Instr.stfl g sz a ad sc o h) s = execStfl g sz a ad sc o h s := rfl
theorem exec_fullEmptyRelease (r : RodId) (sl : SlotId) (s : State) : exec (Instr.fullEmptyRelease r sl) s = execFullEmptyRelease r sl s := rfl
theorem exec_fest (g : Guard) (full : Bool) (ad : MAddr) (h : Hint) (s : State) : exec (Instr.fest g full ad h) s = execFest g full ad h s := rfl
theorem exec_feq (g : Guard) (d : Operand) (ad : MAddr) (h : Hint) (s : State) : exec (Instr.feq g d ad h) s = execFeq g d ad h s := rfl
theorem exec_gth (g : Guard) (sz : Size) (ad : MAddr) (h : Hint) (s : State) : exec (Instr.gth g sz ad h) s = execGth g sz ad h s := rfl
theorem exec_gatherRowArrive (op : Nat) (s : State) : exec (Instr.gatherRowArrive op) s = execGatherRowArrive op s := rfl
theorem exec_prf (g : Guard) (ad : MAddr) (h : Hint) (s : State) : exec (Instr.prf g ad h) s = execPrf g ad h s := rfl
theorem exec_inv (g : Guard) (n : Operand) (ad : MAddr) (h : Hint) (s : State) : exec (Instr.inv g n ad h) s = execInv g n ad h s := rfl
theorem exec_wbk (g : Guard) (n : Operand) (ad : MAddr) (h : Hint) (s : State) : exec (Instr.wbk g n ad h) s = execWbk g n ad h s := rfl
theorem exec_own (g : Guard) (ad : MAddr) (h : Hint) (s : State) : exec (Instr.own g ad h) s = execOwn g ad h s := rfl
theorem exec_pgcm (g : Guard) (d : Operand) (ad : MAddr) (h : Hint) (s : State) : exec (Instr.pgcm g d ad h) s = execPgcm g d ad h s := rfl
theorem exec_pgdc (g : Guard) (d : Operand) (ad : MAddr) (h : Hint) (s : State) : exec (Instr.pgdc g d ad h) s = execPgdc g d ad h s := rfl
theorem exec_pgq (g : Guard) (d : Operand) (ad : MAddr) (h : Hint) (s : State) : exec (Instr.pgq g d ad h) s = execPgq g d ad h s := rfl
theorem exec_dalloc (g : Guard) (d n : Operand) (h : Hint) (s : State) : exec (Instr.dalloc g d n h) s = execDalloc g d n h s := rfl
theorem exec_dfree (g : Guard) (n : Operand) (ad : MAddr) (h : Hint) (s : State) : exec (Instr.dfree g n ad h) s = execDfree g n ad h s := rfl
theorem exec_atom (g : Guard) (op : AmoOp) (sz : AmoSize) (d : Operand) (ad : MAddr) (sc : Scope) (o : Order) (h : Hint) (s : State) : exec (Instr.atom g op sz d ad sc o h) s = execAtom g op sz d ad sc o h s := rfl
theorem exec_red (g : Guard) (op : AmoOp) (sz : AmoSize) (a : Operand) (ad : MAddr) (sc : Scope) (o : Order) (h : Hint) (s : State) : exec (Instr.red g op sz a ad sc o h) s = execRed g op sz a ad sc o h s := rfl
theorem exec_fenceAcq (g : Guard) (sc : Scope) (s : State) : exec (Instr.fenceAcq g sc) s = execFenceAcq g sc s := rfl
theorem exec_fenceRel (g : Guard) (sc : Scope) (s : State) : exec (Instr.fenceRel g sc) s = execFenceRel g sc s := rfl
theorem exec_fenceAcqRel (g : Guard) (sc : Scope) (s : State) : exec (Instr.fenceAcqRel g sc) s = execFenceAcqRel g sc s := rfl
theorem exec_fenceSc (g : Guard) (sc : Scope) (s : State) : exec (Instr.fenceSc g sc) s = execFenceSc g sc s := rfl
theorem exec_fenceEngine (g : Guard) (sc : Scope) (s : State) : exec (Instr.fenceEngine g sc) s = execFenceEngine g sc s := rfl
theorem exec_xfence (g : Guard) (s : State) : exec (Instr.xfence g) s = execXfence g s := rfl
theorem exec_acqr (g : Guard) (sc : Scope) (a : Operand) (s : State) : exec (Instr.acqr g sc a) s = execAcqr g sc a s := rfl
theorem exec_waitany (g : Guard) (d : Operand) (ad : MAddr) (h : Hint) (s : State) : exec (Instr.waitany g d ad h) s = execWaitany g d ad h s := rfl
theorem exec_waitanyWake (r : RodId) (sl : SlotId) (wd : Nat) (s : State) : exec (Instr.waitanyWake r sl wd) s = execWaitanyWake r sl wd s := rfl
theorem exec_waitanyTimeout (r : RodId) (sl : SlotId) (s : State) : exec (Instr.waitanyTimeout r sl) s = execWaitanyTimeout r sl s := rfl
theorem exec_barv (g : Guard) (n : Operand) (lvl : BarLevel) (s : State) : exec (Instr.barv g n lvl) s = execBarv g n lvl s := rfl
theorem exec_barw (g : Guard) (n : Operand) (lvl : BarLevel) (s : State) : exec (Instr.barw g n lvl) s = execBarw g n lvl s := rfl
theorem exec_bars (g : Guard) (n : Operand) (lvl : BarLevel) (s : State) : exec (Instr.bars g n lvl) s = execBars g n lvl s := rfl
theorem exec_barb (g : Guard) (n : Operand) (bytes : Operand) (lvl : BarLevel) (s : State) : exec (Instr.barb g n bytes lvl) s = execBarb g n bytes lvl s := rfl
theorem exec_barrierPhaseComplete (b : BarId) (s : State) : exec (Instr.barrierPhaseComplete b) s = execBarrierPhaseComplete b s := rfl
theorem exec_furlongRemotePhase (b : BarId) (s : State) : exec (Instr.furlongRemotePhase b) s = execFurlongRemotePhase b s := rfl
theorem exec_seqinc (g : Guard) (a : Operand) (ad : MAddr) (sc : Scope) (o : Order) (h : Hint) (s : State) : exec (Instr.seqinc g a ad sc o h) s = execSeqinc g a ad sc o h s := rfl
theorem exec_seqwt (g : Guard) (d : Operand) (ad : MAddr) (sc : Scope) (o : Order) (h : Hint) (s : State) : exec (Instr.seqwt g d ad sc o h) s = execSeqwt g d ad sc o h s := rfl
theorem exec_seqwtWake (r : RodId) (sl : SlotId) (s : State) : exec (Instr.seqwtWake r sl) s = execSeqwtWake r sl s := rfl
theorem exec_launch (g : Guard) (c a b : Operand) (s : State) : exec (Instr.launch g c a b) s = execLaunch g c a b s := rfl
theorem exec_cancel (g : Guard) (lvl : Level) (s : State) : exec (Instr.cancel g lvl) s = execCancel g lvl s := rfl
theorem exec_cpy (g : Guard) (a b c : Operand) (bar : Option CopyBar) (h : Hint) (s : State) : exec (Instr.cpy g a b c bar h) s = execCpy g a b c bar h s := rfl
theorem exec_cpyo (g : Guard) (a b c : Operand) (bar : Option CopyBar) (h : Hint) (seq : Option (BitVec 6)) (s : State) : exec (Instr.cpyo g a b c bar h seq) s = execCpyo g a b c bar h seq s := rfl
theorem exec_copyLineLand (op : Nat) (line : Nat) (s : State) : exec (Instr.copyLineLand op line) s = execCopyLineLand op line s := rfl
theorem exec_copyComplete (op : Nat) (s : State) : exec (Instr.copyComplete op) s = execCopyComplete op s := rfl
theorem exec_mxgang (g : Guard) (a : Operand) (s : State) : exec (Instr.mxgang g a) s = execMxgang g a s := rfl
theorem exec_mxwin (g : Guard) (t : BitVec 3) (a : Operand) (s : State) : exec (Instr.mxwin g t a) s = execMxwin g t a s := rfl
theorem exec_mxclr (g : Guard) (t : BitVec 3) (a : Operand) (s : State) : exec (Instr.mxclr g t a) s = execMxclr g t a s := rfl
theorem exec_mxmm (g : Guard) (x : MxFields) (a b c : Operand) (s : State) : exec (Instr.mxmm g x a b c) s = execMxmm g x a b c s := rfl
theorem exec_mxim (g : Guard) (x : MxFields) (a b c : Operand) (s : State) : exec (Instr.mxim g x a b c) s = execMxim g x a b c s := rfl
theorem exec_mxcv (g : Guard) (x : MxFields) (a b c : Operand) (s : State) : exec (Instr.mxcv g x a b c) s = execMxcv g x a b c s := rfl
theorem exec_mxKStep (op : Nat) (s : State) : exec (Instr.mxKStep op) s = execMxKStep op s := rfl
theorem exec_mxOpComplete (op : Nat) (s : State) : exec (Instr.mxOpComplete op) s = execMxOpComplete op s := rfl
theorem exec_mxrd (g : Guard) (v : View) (t : BitVec 3) (d row col : Operand) (s : State) : exec (Instr.mxrd g v t d row col) s = execMxrd g v t d row col s := rfl
theorem exec_mxst (g : Guard) (v : View) (space : MxSpace) (t : BitVec 3) (a : Operand) (s : State) : exec (Instr.mxst g v space t a) s = execMxst g v space t a s := rfl
theorem exec_mxsv (g : Guard) (t : BitVec 3) (a : Operand) (s : State) : exec (Instr.mxsv g t a) s = execMxsv g t a s := rfl
theorem exec_mxrs (g : Guard) (t : BitVec 3) (a : Operand) (s : State) : exec (Instr.mxrs g t a) s = execMxrs g t a s := rfl
theorem exec_mxsp (g : Guard) (t : BitVec 3) (a : Operand) (s : State) : exec (Instr.mxsp g t a) s = execMxsp g t a s := rfl
theorem exec_nbgrid (g : Guard) (gid : BitVec 2) (a : Operand) (s : State) : exec (Instr.nbgrid g gid a) s = execNbgrid g gid a s := rfl
theorem exec_nbbin (g : Guard) (gid : BitVec 2) (a b : Operand) (s : State) : exec (Instr.nbbin g gid a b) s = execNbbin g gid a b s := rfl
theorem exec_nbpair (g : Guard) (gid : BitVec 2) (a b : Operand) (s : State) : exec (Instr.nbpair g gid a b) s = execNbpair g gid a b s := rfl
theorem exec_nbPairRecord (r : RodId) (s : State) : exec (Instr.nbPairRecord r) s = execNbPairRecord r s := rfl
theorem exec_nbStreamEnd (r : RodId) (s : State) : exec (Instr.nbStreamEnd r) s = execNbStreamEnd r s := rfl
theorem exec_nbstat (g : Guard) (gid : BitVec 2) (d : Operand) (s : State) : exec (Instr.nbstat g gid d) s = execNbstat g gid d s := rfl
theorem exec_nbmove (g : Guard) (gid : BitVec 2) (d b c : Operand) (s : State) : exec (Instr.nbmove g gid d b c) s = execNbmove g gid d b c s := rfl
theorem exec_nbclr (g : Guard) (gid : BitVec 2) (s : State) : exec (Instr.nbclr g gid) s = execNbclr g gid s := rfl
theorem exec_nbOpComplete (op : Nat) (s : State) : exec (Instr.nbOpComplete op) s = execNbOpComplete op s := rfl
theorem exec_trap (g : Guard) (n : BitVec 8) (s : State) : exec (Instr.trap g n) s = execTrap g n s := rfl
theorem exec_tret (g : Guard) (s : State) : exec (Instr.tret g) s = execTret g s := rfl
theorem exec_tclr (g : Guard) (m : BitVec 24) (s : State) : exec (Instr.tclr g m) s = execTclr g m s := rfl
theorem exec_hold (g : Guard) (s : State) : exec (Instr.hold g) s = execHold g s := rfl
theorem exec_ebrk (g : Guard) (n : BitVec 8) (s : State) : exec (Instr.ebrk g n) s = execEbrk g n s := rfl
theorem exec_sysrd (g : Guard) (d : Operand) (item : BitVec 2) (s : State) : exec (Instr.sysrd g d item) s = execSysrd g d item s := rfl
theorem exec_syswr (g : Guard) (r : SReg) (a : Operand) (s : State) : exec (Instr.syswr g r a) s = execSyswr g r a s := rfl
theorem exec_prmark (g : Guard) (imm : Word) (s : State) : exec (Instr.prmark g imm) s = execPrmark g imm s := rfl
theorem exec_smpl (g : Guard) (a : BitVec 8) (n : BitVec 4) (s : State) : exec (Instr.smpl g a n) s = execSmpl g a n s := rfl
theorem exec_csave (g : Guard) (a : Operand) (s : State) : exec (Instr.csave g a) s = execCsave g a s := rfl
theorem exec_crest (g : Guard) (a : Operand) (s : State) : exec (Instr.crest g a) s = execCrest g a s := rfl
theorem exec_clauseStart (r : RodId) (sl : SlotId) (s : State) : exec (Instr.clauseStart r sl) s = execClauseStart r sl s := rfl
theorem exec_breakBitHit (r : RodId) (sl : SlotId) (s : State) : exec (Instr.breakBitHit r sl) s = execBreakBitHit r sl s := rfl
theorem exec_sleepExpire (r : RodId) (sl : SlotId) (s : State) : exec (Instr.sleepExpire r sl) s = execSleepExpire r sl s := rfl
theorem exec_ageingSwap (r : RodId) (s : State) : exec (Instr.ageingSwap r) s = execAgeingSwap r s := rfl
theorem exec_rtakeGrant (r : RodId) (sl : SlotId) (s : State) : exec (Instr.rtakeGrant r sl) s = execRtakeGrant r sl s := rfl
theorem exec_translationReplay (r : RodId) (sl : SlotId) (s : State) : exec (Instr.translationReplay r sl) s = execTranslationReplay r sl s := rfl
theorem exec_walkComplete (die asid vpn : Nat) (k : XKind) (s : State) : exec (Instr.walkComplete die asid vpn k) s = execWalkComplete die asid vpn k s := rfl
theorem exec_commit (die asid vpn : Nat) (q : Nat) (s : State) : exec (Instr.commit die asid vpn q) s = execCommit die asid vpn s q := rfl
theorem exec_pgrspRetry (iod : Bool) (die tag : Nat) (s : State) : exec (Instr.pgrspRetry iod die tag) s = execPgrspRetry iod die tag s := rfl
theorem exec_pgrspDeny (iod : Bool) (die tag : Nat) (s : State) : exec (Instr.pgrspDeny iod die tag) s = execPgrspDeny iod die tag s := rfl
theorem exec_xlicInvalidatePages (count : Word) (s : State) : exec (Instr.xlicInvalidatePages count) s = execXlicInvalidatePages count s := rfl
theorem exec_xlicInvalidateAsid (count : Word) (s : State) : exec (Instr.xlicInvalidateAsid count) s = execXlicInvalidateAsid s count := rfl
theorem exec_xlicInvalidateAll (count : Word) (s : State) : exec (Instr.xlicInvalidateAll count) s = execXlicInvalidateAll s count := rfl
theorem exec_invalidationComplete (s : State) : exec Instr.invalidationComplete s = execInvalidationComplete s := rfl
theorem exec_poolpush (die : Nat) (v : DWord) (s : State) : exec (Instr.poolpush die v) s = execPoolpush die v s := rfl
theorem exec_l1DieGrant (c : CoreId) (wd : Nat) (s : State) : exec (Instr.l1DieGrant c wd) s = execL1DieGrant c wd s := rfl
theorem exec_l1PackageGrant (c : CoreId) (wd : Nat) (val : Option Word) (s : State) : exec (Instr.l1PackageGrant c wd val) s = execL1PackageGrant c wd val s := rfl
theorem exec_l1Forward (c : CoreId) (wd : Nat) (dest : Reader) (s : State) : exec (Instr.l1Forward c wd dest) s = execL1Forward c wd dest s := rfl
theorem exec_l1Revoke (c : CoreId) (wd : Nat) (dest : RevokeTo) (s : State) : exec (Instr.l1Revoke c wd dest) s = execL1Revoke c wd dest s := rfl
theorem exec_l1Eviction (c : CoreId) (line : Nat) (s : State) : exec (Instr.l1Eviction c line) s = execL1Eviction c line s := rfl
theorem exec_homeRead (rd : Reader) (wd : Nat) (s : State) : exec (Instr.homeRead rd wd) s = execHomeRead rd wd s := rfl
theorem exec_homeRegister (p : Party) (wd : Nat) (s : State) : exec (Instr.homeRegister p wd) s = execHomeRegister p wd s := rfl
theorem exec_homeRegisterFetch (p : Party) (wd : Nat) (s : State) : exec (Instr.homeRegisterFetch p wd) s = execHomeRegisterFetch p wd s := rfl
theorem exec_homeWriteBack (p : Party) (wd : Nat) (val : Word) (s : State) : exec (Instr.homeWriteBack p wd val) s = execHomeWriteBack p wd val s := rfl
theorem exec_homeOwnerAnswer (p : Party) (wd : Nat) (val : Option Word) (s : State) : exec (Instr.homeOwnerAnswer p wd val) s = execHomeOwnerAnswer p wd val s := rfl
theorem exec_homePerformedAccess (req : HomeReq) (s : State) : exec (Instr.homePerformedAccess req) s = execHomePerformedAccess req s := rfl
theorem exec_nonhomeRead (c : CoreId) (wd : Nat) (s : State) : exec (Instr.nonhomeRead c wd) s = execNonhomeRead c wd s := rfl
theorem exec_nonhomeRegistration (c : CoreId) (wd : Nat) (fetch : Bool) (s : State) : exec (Instr.nonhomeRegistration c wd fetch) s = execNonhomeRegistration c wd fetch s := rfl
theorem exec_nonhomePackageGrant (die wd : Nat) (val : Option Word) (s : State) : exec (Instr.nonhomePackageGrant die wd val) s = execNonhomePackageGrant die wd val s := rfl
theorem exec_nonhomeForward (die wd : Nat) (dest : Reader) (s : State) : exec (Instr.nonhomeForward die wd dest) s = execNonhomeForward die wd dest s := rfl
theorem exec_nonhomeRevoke (die wd : Nat) (s : State) : exec (Instr.nonhomeRevoke die wd) s = execNonhomeRevoke die wd s := rfl
theorem exec_nonhomeWriteBack (c : CoreId) (wd : Nat) (val : Word) (s : State) : exec (Instr.nonhomeWriteBack c wd val) s = execNonhomeWriteBack c wd val s := rfl
theorem exec_promotion (c : CoreId) (r : RodId) (sl : SlotId) (sc : Scope) (s : State) : exec (Instr.promotion c r sl sc) s = execPromotion c r sl sc s := rfl
theorem exec_lossNotice (die : Nat) (s : State) : exec (Instr.lossNotice die) s = execLossNotice die s := rfl
theorem exec_standbyHandBack (die : Nat) (s : State) : exec (Instr.standbyHandBack die) s = execStandbyHandBack die s := rfl
theorem exec_hostSnoop (line : Nat) (k : SnoopKind) (s : State) : exec (Instr.hostSnoop line k) s = execHostSnoop line k s := rfl
theorem exec_backInvalidateResponse (line : Nat) (s : State) : exec (Instr.backInvalidateResponse line) s = execBackInvalidateResponse line s := rfl
theorem exec_hostCxlMemAccess (req : HomeReq) (s : State) : exec (Instr.hostCxlMemAccess req) s = execHostCxlMemAccess req s := rfl
theorem exec_bar2Read (a : Bar2At) (n : Nat) (s : State) : exec (Instr.bar2Read a n) s = execBar2Read a n s := rfl
theorem exec_bar2Write (a : Bar2At) (bytes : List Byte) (bad : Bool) (s : State) : exec (Instr.bar2Write a bytes bad) s = execBar2Write a bytes s bad := rfl
theorem exec_patrolScrub (pa : Nat) (found : ScrubFind) (s : State) : exec (Instr.patrolScrub pa found) s = execPatrolScrub pa found s := rfl
theorem exec_widxWrite (q : Nat) (v : DWord) (s : State) : exec (Instr.widxWrite q v) s = execWidxWrite q v s := rfl
theorem exec_qpush (q : Nat) (v : DWord) (s : State) : exec (Instr.qpush q v) s = execQpush q v s := rfl
theorem exec_slotFetch (q : Nat) (s : State) : exec (Instr.slotFetch q) s = execSlotFetch q s := rfl
theorem exec_launchReady (lid : Nat) (s : State) : exec (Instr.launchReady lid) s = execLaunchReady lid s := rfl
theorem exec_schedulerRound (s : State) : exec Instr.schedulerRound s = execSchedulerRound s := rfl
theorem exec_schedulerRoundTimer (s : State) : exec Instr.schedulerRoundTimer s = execSchedulerRoundTimer s := rfl
theorem exec_levelComplete (lvl : Level) (cmd : Nat) (s : State) : exec (Instr.levelComplete lvl cmd) s = execLevelComplete lvl cmd s := rfl
theorem exec_neighbourCommand (cmd : Nat) (s : State) : exec (Instr.neighbourCommand cmd) s = execNeighbourCommand cmd s := rfl
theorem exec_dmaCopy (cmd : Nat) (s : State) : exec (Instr.dmaCopy cmd) s = execDmaCopy cmd s := rfl
theorem exec_dmaFill (cmd : Nat) (s : State) : exec (Instr.dmaFill cmd) s = execDmaFill cmd s := rfl
theorem exec_dmaRdmaWrite (cmd : Nat) (s : State) : exec (Instr.dmaRdmaWrite cmd) s = execDmaRdmaWrite cmd s := rfl
theorem exec_dmaRdmaRead (cmd : Nat) (bytes : List Byte) (bad : Bool) (s : State) : exec (Instr.dmaRdmaRead cmd bytes bad) s = execDmaRdmaRead cmd bytes s bad := rfl
theorem exec_dmaSend (cmd : Nat) (s : State) : exec (Instr.dmaSend cmd) s = execDmaSend cmd s := rfl
theorem exec_dmaComplete (cmd : Nat) (code : Nat) (s : State) : exec (Instr.dmaComplete cmd code) s = execDmaComplete cmd code s := rfl
theorem exec_stealRequest (lid victim : Nat) (thief : CoreId) (s : State) : exec (Instr.stealRequest lid victim thief) s = execStealRequest lid victim thief s := rfl
theorem exec_stolenItemReturn (lid : Nat) (pusher : CoreId) (item : List Word) (s : State) : exec (Instr.stolenItemReturn lid pusher item) s = execStolenItemReturn lid pusher item s := rfl
theorem exec_haltReceive (r : RodId) (s : State) : exec (Instr.haltReceive r) s = execHaltReceive r s := rfl
theorem exec_handlerEntry (r : RodId) (s : State) : exec (Instr.handlerEntry r) s = execHandlerEntry r s := rfl
theorem exec_cancLaunch (queue : BitVec 16) (idx : Word) (s : State) : exec (Instr.cancLaunch queue idx) s = execCancLaunch queue idx s := rfl
theorem exec_cancGraph (id asid : BitVec 16) (s : State) : exec (Instr.cancGraph id asid) s = execCancGraph id asid s := rfl
theorem exec_cancPhase (id asid : BitVec 16) (s : State) : exec (Instr.cancPhase id asid) s = execCancPhase id asid s := rfl
theorem exec_cancJob (id asid : BitVec 16) (s : State) : exec (Instr.cancJob id asid) s = execCancJob id asid s := rfl
theorem exec_preqVacate (v : DWord) (s : State) : exec (Instr.preqVacate v) s = execPreqVacate v s := rfl
theorem exec_prel (v : DWord) (s : State) : exec (Instr.prel v) s = execPrel v s := rfl
theorem exec_dlack (iod : Nat) (v : DWord) (s : State) : exec (Instr.dlack iod v) s = execDlack iod v s := rfl
theorem exec_nmctlEnable (die : Nat) (s : State) : exec (Instr.nmctlEnable die) s = execNmctlEnable die s := rfl
theorem exec_hwArm (iod x1 : Nat) (s : State) : exec (Instr.hwArm iod x1) s = execHwArm iod x1 s := rfl
theorem exec_diectlReset (v : BitVec 10) (s : State) : exec (Instr.diectlReset v) s = execDiectlReset v s := rfl
theorem exec_diectlRetry (v : BitVec 10) (s : State) : exec (Instr.diectlRetry v) s = execDiectlRetry v s := rfl
theorem exec_powerOn (s : State) : exec Instr.powerOn s = execPowerOn s := rfl
theorem exec_moduleReset (s : State) : exec Instr.moduleReset s = execModuleReset s := rfl
theorem exec_attestation (stop : Nat) (ok : Bool) (s : State) : exec (Instr.attestation stop ok) s = execAttestation stop ok s := rfl
theorem exec_linkKeyInstall (link : Nat) (up : Bool) (s : State) : exec (Instr.linkKeyInstall link up) s = execLinkKeyInstall link up s := rfl
theorem exec_keyRollover (link : Nat) (up : Bool) (s : State) : exec (Instr.keyRollover link up) s = execKeyRollover link up s := rfl
theorem exec_ringFlitReceive (link : Nat) (up : Bool) (f : Flit) (s : State) : exec (Instr.ringFlitReceive link up f) s = execRingFlitReceive link up f s := rfl
theorem exec_linkRestore (link : Nat) (s : State) : exec (Instr.linkRestore link) s = execLinkRestore link s := rfl
theorem exec_hostSpdmRequest (nonce : List Byte) (s : State) : exec (Instr.hostSpdmRequest nonce) s = execHostSpdmRequest nonce s := rfl
theorem exec_dbghalt (die : Nat) (v : DWord) (s : State) : exec (Instr.dbghalt die v) s = execDbghalt die v s := rfl
theorem exec_dbgrelResume (die : Nat) (core : BitVec 6) (s : State) : exec (Instr.dbgrelResume die core) s = execDbgrelResume die core s := rfl
theorem exec_dbgrelKill (die : Nat) (core : BitVec 6) (s : State) : exec (Instr.dbgrelKill die core) s = execDbgrelKill die core s := rfl
theorem exec_holdLimitExpire (s : State) : exec Instr.holdLimitExpire s = execHoldLimitExpire s := rfl
theorem exec_rodWindowWrite (die : Nat) (off : Nat) (bytes : List Byte) (s : State) : exec (Instr.rodWindowWrite die off bytes) s = execRodWindowWrite die off bytes s := rfl
theorem exec_brksync (s : State) : exec Instr.brksync s = execBrksync s := rfl
theorem exec_perfctlClear (die : Nat) (s : State) : exec (Instr.perfctlClear die) s = execPerfctlClear die s := rfl
theorem exec_perfctlSnapshot (die : Nat) (s : State) : exec (Instr.perfctlSnapshot die) s = execPerfctlSnapshot die s := rfl
theorem exec_pcSample (s : State) : exec Instr.pcSample s = execPcSample s := rfl
theorem exec_registerWrite (r : HostReg) (x1 : Nat) (v : DWord) (s : State) : exec (Instr.registerWrite r x1 v) s = execRegisterWrite r x1 v s := rfl
theorem exec_stampScrubber (l2 : Bool) (c : CoreId) (line : Nat) (s : State) : exec (Instr.stampScrubber l2 c line) s = execStampScrubber l2 c line s := rfl
theorem exec_peerRdmaRequest (q : Nat) (req : PeerReq) (s : State) : exec (Instr.peerRdmaRequest q req) s = execPeerRdmaRequest q req s := rfl

end Sys2Proof.Laws
end

