-- ==== Sys2Proof/Laws/Tbl.lean ====
section
/-!
SUPPORT. Laws of sparse tables: reading after an update, and the canonical form kept by every update.
-/
namespace Sys2Proof.Laws

open Sys2Proof.Machine

variable {α : Type}

@[simp] theorem Tbl.find_nil (k : Nat) : Tbl.find ([] : Tbl α) k = none := rfl

theorem Tbl.find_cons (i : Nat) (v : α) (r : Tbl α) (k : Nat) :
    Tbl.find ((i, v) :: r) k = if i = k then some v else Tbl.find r k := rfl

@[simp] theorem Tbl.find_put_self (t : Tbl α) (k : Nat) (v : α) : (Tbl.put t k v).find k = some v := by
  induction t with
  | nil => simp [Tbl.put, Tbl.find]
  | cons e r ih =>
    obtain ⟨i, x⟩ := e
    simp only [Tbl.put]
    split
    · simp [Tbl.find]
    · split
      · simp [Tbl.find]
      · simp_all [Tbl.find]

@[simp] theorem Tbl.find_put_other (t : Tbl α) {k j : Nat} (v : α) (h : j ≠ k) : (Tbl.put t k v).find j = t.find j := by
  induction t with
  | nil => simp [Tbl.put, Tbl.find, Ne.symm h]
  | cons e r ih =>
    obtain ⟨i, x⟩ := e
    simp only [Tbl.put]
    split
    · subst_vars; simp [Tbl.find, Ne.symm h]
    · split
      · simp [Tbl.find, Ne.symm h]
      · simp [Tbl.find, ih]

theorem Tbl.find_put (t : Tbl α) (k j : Nat) (v : α) : (Tbl.put t k v).find j = if j = k then some v else t.find j := by
  by_cases h : j = k
  · subst h; simp
  · simp [h]

@[simp] theorem Tbl.find_erase_self (t : Tbl α) (k : Nat) : (Tbl.erase t k).find k = none := by
  induction t with
  | nil => rfl
  | cons e r ih =>
    obtain ⟨i, x⟩ := e
    by_cases h : i = k
    · simpa [Tbl.erase, h] using ih
    · simp only [Tbl.erase, List.filter_cons, bne_iff_ne, ne_eq, h, not_false_eq_true, ↓reduceIte, Tbl.find_cons]
      exact ih

@[simp] theorem Tbl.find_erase_other (t : Tbl α) {k j : Nat} (h : j ≠ k) : (Tbl.erase t k).find j = t.find j := by
  induction t with
  | nil => rfl
  | cons e r ih =>
    obtain ⟨i, x⟩ := e
    by_cases hi : i = k
    · subst hi
      simpa [Tbl.erase, Tbl.find_cons, Ne.symm h] using ih
    · simp only [Tbl.erase, List.filter_cons, bne_iff_ne, ne_eq, hi, not_false_eq_true, ↓reduceIte, Tbl.find_cons]
      split
      · rfl
      · exact ih

/-- Reading a table after a write: the written key reads as written, every other key as before. -/
theorem Tbl.get_set [DecidableEq α] (t : Tbl α) (k j : Nat) (v d : α) :
    (Tbl.set t k v d).get j d = if j = k then v else t.get j d := by
  by_cases hv : v = d <;> by_cases h : j = k <;> simp [Tbl.set, Tbl.get, hv, h]

@[simp] theorem Tbl.get_set_self [DecidableEq α] (t : Tbl α) (k : Nat) (v d : α) : (Tbl.set t k v d).get k d = v := by
  simp [Tbl.get_set]

@[simp] theorem Tbl.get_set_other [DecidableEq α] (t : Tbl α) {k j : Nat} (v d : α) (h : j ≠ k) :
    (Tbl.set t k v d).get j d = t.get j d := by
  simp [Tbl.get_set, h]

/-! ### The canonical form -/

theorem Tbl.above_mono {m n : Nat} (h : m ≤ n) {t : Tbl α} (ht : Tbl.above n t = true) : Tbl.above m t = true := by
  cases t with
  | nil => rfl
  | cons e r =>
    obtain ⟨i, x⟩ := e
    simp only [Tbl.above, Bool.and_eq_true, decide_eq_true_eq] at ht ⊢
    exact ⟨by omega, ht.2⟩

theorem Tbl.sorted_of_above {n : Nat} {t : Tbl α} (h : Tbl.above n t = true) : Tbl.sorted t = true := by
  cases t with
  | nil => rfl
  | cons e r => obtain ⟨i, x⟩ := e; simp only [Tbl.above, Bool.and_eq_true] at h; exact h.2

theorem Tbl.above_put {n k : Nat} (v : α) (hk : n < k) {t : Tbl α} (h : Tbl.above n t = true) :
    Tbl.above n (Tbl.put t k v) = true := by
  induction t generalizing n with
  | nil => simp [Tbl.put, Tbl.above, hk]
  | cons e r ih =>
    obtain ⟨i, x⟩ := e
    simp only [Tbl.above, Bool.and_eq_true, decide_eq_true_eq] at h
    simp only [Tbl.put]
    split
    · subst_vars; simp [Tbl.above, h.2, hk]
    · split
      · simp [Tbl.above, *]
      · simp only [Tbl.above, Bool.and_eq_true, decide_eq_true_eq]
        exact ⟨h.1, ih (by omega) h.2⟩

theorem Tbl.sorted_put (k : Nat) (v : α) {t : Tbl α} (h : Tbl.sorted t = true) : Tbl.sorted (Tbl.put t k v) = true := by
  cases t with
  | nil => rfl
  | cons e r =>
    obtain ⟨i, x⟩ := e
    simp only [Tbl.sorted] at h
    simp only [Tbl.put]
    split
    · subst_vars; exact h
    · split
      · simp [Tbl.sorted, Tbl.above, *]
      · simp only [Tbl.sorted]
        exact Tbl.above_put v (by omega) h

theorem Tbl.above_filter {n : Nat} (p : Nat × α → Bool) {t : Tbl α} (h : Tbl.above n t = true) :
    Tbl.above n (t.filter p : Tbl α) = true := by
  induction t generalizing n with
  | nil => rfl
  | cons e r ih =>
    obtain ⟨i, x⟩ := e
    simp only [Tbl.above, Bool.and_eq_true, decide_eq_true_eq] at h
    rw [List.filter_cons]
    split
    · simp only [Tbl.above, Bool.and_eq_true, decide_eq_true_eq]
      exact ⟨h.1, ih h.2⟩
    · exact Tbl.above_mono (by omega) (ih h.2)

theorem Tbl.sorted_filter (p : Nat × α → Bool) {t : Tbl α} (h : Tbl.sorted t = true) :
    Tbl.sorted (t.filter p : Tbl α) = true := by
  cases t with
  | nil => rfl
  | cons e r =>
    obtain ⟨i, x⟩ := e
    simp only [Tbl.sorted] at h
    rw [List.filter_cons]
    split
    · exact Tbl.above_filter p h
    · exact Tbl.sorted_of_above (Tbl.above_filter p h)

/-- Keeping a part of a canonical table leaves it canonical. -/
theorem Tbl.wf_filter [DecidableEq α] (p : Nat × α → Bool) {t : Tbl α} {d : α} (h : Tbl.wf t d = true) :
    Tbl.wf (t.filter p : Tbl α) d = true := by
  simp only [Tbl.wf, Bool.and_eq_true, List.all_eq_true, List.mem_filter] at h ⊢
  exact ⟨Tbl.sorted_filter p h.1, fun e he => h.2 e he.1⟩

theorem Tbl.mem_put {t : Tbl α} {k : Nat} {v : α} {e : Nat × α} (h : e ∈ Tbl.put t k v) : e = (k, v) ∨ e ∈ t := by
  induction t with
  | nil => simpa [Tbl.put] using h
  | cons a r ih =>
    obtain ⟨i, x⟩ := a
    simp only [Tbl.put] at h
    split at h
    · rcases List.mem_cons.1 h with h | h
      · exact .inl h
      · exact .inr (List.mem_cons_of_mem _ h)
    · split at h
      · rcases List.mem_cons.1 h with h | h
        · exact .inl h
        · exact .inr h
      · rcases List.mem_cons.1 h with h | h
        · exact .inr (h ▸ List.mem_cons_self ..)
        · exact (ih h).imp id (List.mem_cons_of_mem _)

/-- A write keeps the canonical form. -/
theorem Tbl.wf_set [DecidableEq α] (k : Nat) (v : α) {t : Tbl α} {d : α} (h : Tbl.wf t d = true) :
    Tbl.wf (Tbl.set t k v d) d = true := by
  unfold Tbl.set
  split
  · exact Tbl.wf_filter _ h
  · rename_i hv
    simp only [Tbl.wf, Bool.and_eq_true, List.all_eq_true, decide_eq_true_eq] at h ⊢
    refine ⟨Tbl.sorted_put k v h.1, fun e he => ?_⟩
    rcases Tbl.mem_put he with rfl | he
    · exact hv
    · exact h.2 e he

@[simp] theorem Tbl.wf_nil [DecidableEq α] (d : α) : Tbl.wf ([] : Tbl α) d = true := rfl

end Sys2Proof.Laws
end

