-- ==== Sys2Proof/Laws/Rod.lean ====
section
/-!
SUPPORT. What each register update of a rod writes and what it leaves alone, field by field.
-/
namespace Sys2Proof.Laws

open Sys2Proof.Machine


/-! ### Rod.setLw -/

@[simp] theorem Rod.setLw_role (x : Rod) (i l : Nat) (v : Word) : (x.setLw i l v).role = x.role := rfl
@[simp] theorem Rod.setLw_window (x : Rod) (i l : Nat) (v : Word) : (x.setLw i l v).window = x.window := rfl
@[simp] theorem Rod.setLw_w (x : Rod) (i l : Nat) (v : Word) : (x.setLw i l v).w = x.w.set (32 * i + l) v 0 := rfl
@[simp] theorem Rod.setLw_u (x : Rod) (i l : Nat) (v : Word) : (x.setLw i l v).u = x.u := rfl
@[simp] theorem Rod.setLw_q (x : Rod) (i l : Nat) (v : Word) : (x.setLw i l v).q = x.q := rfl
@[simp] theorem Rod.setLw_k (x : Rod) (i l : Nat) (v : Word) : (x.setLw i l v).k = x.k := rfl
@[simp] theorem Rod.setLw_slotA (x : Rod) (i l : Nat) (v : Word) : (x.setLw i l v).slotA = x.slotA := rfl
@[simp] theorem Rod.setLw_slotB (x : Rod) (i l : Nat) (v : Word) : (x.setLw i l v).slotB = x.slotB := rfl
@[simp] theorem Rod.setLw_depth (x : Rod) (i l : Nat) (v : Word) : (x.setLw i l v).depth = x.depth := rfl
@[simp] theorem Rod.setLw_stack (x : Rod) (i l : Nat) (v : Word) : (x.setLw i l v).stack = x.stack := rfl
@[simp] theorem Rod.setLw_shadowA (x : Rod) (i l : Nat) (v : Word) : (x.setLw i l v).shadowA = x.shadowA := rfl
@[simp] theorem Rod.setLw_shadowB (x : Rod) (i l : Nat) (v : Word) : (x.setLw i l v).shadowB = x.shadowB := rfl
@[simp] theorem Rod.setLw_cause (x : Rod) (i l : Nat) (v : Word) : (x.setLw i l v).cause = x.cause := rfl
@[simp] theorem Rod.setLw_skid (x : Rod) (i l : Nat) (v : Word) : (x.setLw i l v).skid = x.skid := rfl
@[simp] theorem Rod.setLw_iflags (x : Rod) (i l : Nat) (v : Word) : (x.setLw i l v).iflags = x.iflags := rfl
@[simp] theorem Rod.setLw_mflags (x : Rod) (i l : Nat) (v : Word) : (x.setLw i l v).mflags = x.mflags := rfl
@[simp] theorem Rod.setLw_agelimit (x : Rod) (i l : Nat) (v : Word) : (x.setLw i l v).agelimit = x.agelimit := rfl
@[simp] theorem Rod.setLw_compat (x : Rod) (i l : Nat) (v : Word) : (x.setLw i l v).compat = x.compat := rfl
@[simp] theorem Rod.setLw_holdlimit (x : Rod) (i l : Nat) (v : Word) : (x.setLw i l v).holdlimit = x.holdlimit := rfl
@[simp] theorem Rod.setLw_flags (x : Rod) (i l : Nat) (v : Word) : (x.setLw i l v).flags = x.flags := rfl
@[simp] theorem Rod.setLw_gang (x : Rod) (i l : Nat) (v : Word) : (x.setLw i l v).gang = x.gang := rfl
@[simp] theorem Rod.setLw_held (x : Rod) (i l : Nat) (v : Word) : (x.setLw i l v).held = x.held := rfl
@[simp] theorem Rod.setLw_gx (x : Rod) (i l : Nat) (v : Word) : (x.setLw i l v).gx = x.gx := rfl
@[simp] theorem Rod.setLw_mxIn (x : Rod) (i l : Nat) (v : Word) : (x.setLw i l v).mxIn = x.mxIn := rfl
@[simp] theorem Rod.setLw_mxOut (x : Rod) (i l : Nat) (v : Word) : (x.setLw i l v).mxOut = x.mxOut := rfl
@[simp] theorem Rod.setLw_cpIn (x : Rod) (i l : Nat) (v : Word) : (x.setLw i l v).cpIn = x.cpIn := rfl
@[simp] theorem Rod.setLw_cpOut (x : Rod) (i l : Nat) (v : Word) : (x.setLw i l v).cpOut = x.cpOut := rfl
@[simp] theorem Rod.setLw_stream (x : Rod) (i l : Nat) (v : Word) : (x.setLw i l v).stream = x.stream := rfl
@[simp] theorem Rod.setLw_stores (x : Rod) (i l : Nat) (v : Word) : (x.setLw i l v).stores = x.stores := rfl
@[simp] theorem Rod.setLw_parts (x : Rod) (i l : Nat) (v : Word) : (x.setLw i l v).parts = x.parts := rfl
@[simp] theorem Rod.setLw_run (x : Rod) (i l : Nat) (v : Word) : (x.setLw i l v).run = x.run := rfl
@[simp] theorem Rod.setLw_frozen (x : Rod) (i l : Nat) (v : Word) : (x.setLw i l v).frozen = x.frozen := rfl
@[simp] theorem Rod.setLw_lastSlot (x : Rod) (i l : Nat) (v : Word) : (x.setLw i l v).lastSlot = x.lastSlot := rfl
@[simp] theorem Rod.setLw_oldStack (x : Rod) (i l : Nat) (v : Word) : (x.setLw i l v).oldStack = x.oldStack := rfl
@[simp] theorem Rod.setLw_denied (x : Rod) (i l : Nat) (v : Word) : (x.setLw i l v).denied = x.denied := rfl
@[simp] theorem Rod.setLw_rslot (x : Rod) (i l : Nat) (v : Word) : (x.setLw i l v).rslot = x.rslot := rfl
@[simp] theorem Rod.setLw_regBad (x : Rod) (i l : Nat) (v : Word) : (x.setLw i l v).regBad = x.regBad.filter (· ≠ 32 * i + l) := rfl
@[simp] theorem Rod.setLw_stage (x : Rod) (i l : Nat) (v : Word) : (x.setLw i l v).stage = x.stage := rfl

/-! ### Rod.setUn -/

@[simp] theorem Rod.setUn_role (x : Rod) (n : Nat) (v : DWord) : (x.setUn n v).role = x.role := rfl
@[simp] theorem Rod.setUn_window (x : Rod) (n : Nat) (v : DWord) : (x.setUn n v).window = x.window := rfl
@[simp] theorem Rod.setUn_w (x : Rod) (n : Nat) (v : DWord) : (x.setUn n v).w = x.w := rfl
@[simp] theorem Rod.setUn_u (x : Rod) (n : Nat) (v : DWord) : (x.setUn n v).u = x.u.set n v 0 := rfl
@[simp] theorem Rod.setUn_q (x : Rod) (n : Nat) (v : DWord) : (x.setUn n v).q = x.q := rfl
@[simp] theorem Rod.setUn_k (x : Rod) (n : Nat) (v : DWord) : (x.setUn n v).k = x.k := rfl
@[simp] theorem Rod.setUn_slotA (x : Rod) (n : Nat) (v : DWord) : (x.setUn n v).slotA = x.slotA := rfl
@[simp] theorem Rod.setUn_slotB (x : Rod) (n : Nat) (v : DWord) : (x.setUn n v).slotB = x.slotB := rfl
@[simp] theorem Rod.setUn_depth (x : Rod) (n : Nat) (v : DWord) : (x.setUn n v).depth = x.depth := rfl
@[simp] theorem Rod.setUn_stack (x : Rod) (n : Nat) (v : DWord) : (x.setUn n v).stack = x.stack := rfl
@[simp] theorem Rod.setUn_shadowA (x : Rod) (n : Nat) (v : DWord) : (x.setUn n v).shadowA = x.shadowA := rfl
@[simp] theorem Rod.setUn_shadowB (x : Rod) (n : Nat) (v : DWord) : (x.setUn n v).shadowB = x.shadowB := rfl
@[simp] theorem Rod.setUn_cause (x : Rod) (n : Nat) (v : DWord) : (x.setUn n v).cause = x.cause := rfl
@[simp] theorem Rod.setUn_skid (x : Rod) (n : Nat) (v : DWord) : (x.setUn n v).skid = x.skid := rfl
@[simp] theorem Rod.setUn_iflags (x : Rod) (n : Nat) (v : DWord) : (x.setUn n v).iflags = x.iflags := rfl
@[simp] theorem Rod.setUn_mflags (x : Rod) (n : Nat) (v : DWord) : (x.setUn n v).mflags = x.mflags := rfl
@[simp] theorem Rod.setUn_agelimit (x : Rod) (n : Nat) (v : DWord) : (x.setUn n v).agelimit = x.agelimit := rfl
@[simp] theorem Rod.setUn_compat (x : Rod) (n : Nat) (v : DWord) : (x.setUn n v).compat = x.compat := rfl
@[simp] theorem Rod.setUn_holdlimit (x : Rod) (n : Nat) (v : DWord) : (x.setUn n v).holdlimit = x.holdlimit := rfl
@[simp] theorem Rod.setUn_flags (x : Rod) (n : Nat) (v : DWord) : (x.setUn n v).flags = x.flags := rfl
@[simp] theorem Rod.setUn_gang (x : Rod) (n : Nat) (v : DWord) : (x.setUn n v).gang = x.gang := rfl
@[simp] theorem Rod.setUn_held (x : Rod) (n : Nat) (v : DWord) : (x.setUn n v).held = x.held := rfl
@[simp] theorem Rod.setUn_gx (x : Rod) (n : Nat) (v : DWord) : (x.setUn n v).gx = x.gx := rfl
@[simp] theorem Rod.setUn_mxIn (x : Rod) (n : Nat) (v : DWord) : (x.setUn n v).mxIn = x.mxIn := rfl
@[simp] theorem Rod.setUn_mxOut (x : Rod) (n : Nat) (v : DWord) : (x.setUn n v).mxOut = x.mxOut := rfl
@[simp] theorem Rod.setUn_cpIn (x : Rod) (n : Nat) (v : DWord) : (x.setUn n v).cpIn = x.cpIn := rfl
@[simp] theorem Rod.setUn_cpOut (x : Rod) (n : Nat) (v : DWord) : (x.setUn n v).cpOut = x.cpOut := rfl
@[simp] theorem Rod.setUn_stream (x : Rod) (n : Nat) (v : DWord) : (x.setUn n v).stream = x.stream := rfl
@[simp] theorem Rod.setUn_stores (x : Rod) (n : Nat) (v : DWord) : (x.setUn n v).stores = x.stores := rfl
@[simp] theorem Rod.setUn_parts (x : Rod) (n : Nat) (v : DWord) : (x.setUn n v).parts = x.parts := rfl
@[simp] theorem Rod.setUn_run (x : Rod) (n : Nat) (v : DWord) : (x.setUn n v).run = x.run := rfl
@[simp] theorem Rod.setUn_frozen (x : Rod) (n : Nat) (v : DWord) : (x.setUn n v).frozen = x.frozen := rfl
@[simp] theorem Rod.setUn_lastSlot (x : Rod) (n : Nat) (v : DWord) : (x.setUn n v).lastSlot = x.lastSlot := rfl
@[simp] theorem Rod.setUn_oldStack (x : Rod) (n : Nat) (v : DWord) : (x.setUn n v).oldStack = x.oldStack := rfl
@[simp] theorem Rod.setUn_denied (x : Rod) (n : Nat) (v : DWord) : (x.setUn n v).denied = x.denied := rfl
@[simp] theorem Rod.setUn_rslot (x : Rod) (n : Nat) (v : DWord) : (x.setUn n v).rslot = x.rslot := rfl
@[simp] theorem Rod.setUn_regBad (x : Rod) (n : Nat) (v : DWord) : (x.setUn n v).regBad = x.regBad.filter (fun k => k ≠ 8192 + 2 * n ∧ k ≠ 8192 + 2 * n + 1) := rfl
@[simp] theorem Rod.setUn_stage (x : Rod) (n : Nat) (v : DWord) : (x.setUn n v).stage = x.stage := rfl

/-! ### Rod.setK -/

@[simp] theorem Rod.setK_role (x : Rod) (n l : Nat) (v : BitVec 10) : (x.setK n l v).role = x.role := rfl
@[simp] theorem Rod.setK_window (x : Rod) (n l : Nat) (v : BitVec 10) : (x.setK n l v).window = x.window := rfl
@[simp] theorem Rod.setK_w (x : Rod) (n l : Nat) (v : BitVec 10) : (x.setK n l v).w = x.w := rfl
@[simp] theorem Rod.setK_u (x : Rod) (n l : Nat) (v : BitVec 10) : (x.setK n l v).u = x.u := rfl
@[simp] theorem Rod.setK_q (x : Rod) (n l : Nat) (v : BitVec 10) : (x.setK n l v).q = x.q := rfl
@[simp] theorem Rod.setK_k (x : Rod) (n l : Nat) (v : BitVec 10) : (x.setK n l v).k = x.k.set (4 * l + n) v 0 := rfl
@[simp] theorem Rod.setK_slotA (x : Rod) (n l : Nat) (v : BitVec 10) : (x.setK n l v).slotA = x.slotA := rfl
@[simp] theorem Rod.setK_slotB (x : Rod) (n l : Nat) (v : BitVec 10) : (x.setK n l v).slotB = x.slotB := rfl
@[simp] theorem Rod.setK_depth (x : Rod) (n l : Nat) (v : BitVec 10) : (x.setK n l v).depth = x.depth := rfl
@[simp] theorem Rod.setK_stack (x : Rod) (n l : Nat) (v : BitVec 10) : (x.setK n l v).stack = x.stack := rfl
@[simp] theorem Rod.setK_shadowA (x : Rod) (n l : Nat) (v : BitVec 10) : (x.setK n l v).shadowA = x.shadowA := rfl
@[simp] theorem Rod.setK_shadowB (x : Rod) (n l : Nat) (v : BitVec 10) : (x.setK n l v).shadowB = x.shadowB := rfl
@[simp] theorem Rod.setK_cause (x : Rod) (n l : Nat) (v : BitVec 10) : (x.setK n l v).cause = x.cause := rfl
@[simp] theorem Rod.setK_skid (x : Rod) (n l : Nat) (v : BitVec 10) : (x.setK n l v).skid = x.skid := rfl
@[simp] theorem Rod.setK_iflags (x : Rod) (n l : Nat) (v : BitVec 10) : (x.setK n l v).iflags = x.iflags := rfl
@[simp] theorem Rod.setK_mflags (x : Rod) (n l : Nat) (v : BitVec 10) : (x.setK n l v).mflags = x.mflags := rfl
@[simp] theorem Rod.setK_agelimit (x : Rod) (n l : Nat) (v : BitVec 10) : (x.setK n l v).agelimit = x.agelimit := rfl
@[simp] theorem Rod.setK_compat (x : Rod) (n l : Nat) (v : BitVec 10) : (x.setK n l v).compat = x.compat := rfl
@[simp] theorem Rod.setK_holdlimit (x : Rod) (n l : Nat) (v : BitVec 10) : (x.setK n l v).holdlimit = x.holdlimit := rfl
@[simp] theorem Rod.setK_flags (x : Rod) (n l : Nat) (v : BitVec 10) : (x.setK n l v).flags = x.flags := rfl
@[simp] theorem Rod.setK_gang (x : Rod) (n l : Nat) (v : BitVec 10) : (x.setK n l v).gang = x.gang := rfl
@[simp] theorem Rod.setK_held (x : Rod) (n l : Nat) (v : BitVec 10) : (x.setK n l v).held = x.held := rfl
@[simp] theorem Rod.setK_gx (x : Rod) (n l : Nat) (v : BitVec 10) : (x.setK n l v).gx = x.gx := rfl
@[simp] theorem Rod.setK_mxIn (x : Rod) (n l : Nat) (v : BitVec 10) : (x.setK n l v).mxIn = x.mxIn := rfl
@[simp] theorem Rod.setK_mxOut (x : Rod) (n l : Nat) (v : BitVec 10) : (x.setK n l v).mxOut = x.mxOut := rfl
@[simp] theorem Rod.setK_cpIn (x : Rod) (n l : Nat) (v : BitVec 10) : (x.setK n l v).cpIn = x.cpIn := rfl
@[simp] theorem Rod.setK_cpOut (x : Rod) (n l : Nat) (v : BitVec 10) : (x.setK n l v).cpOut = x.cpOut := rfl
@[simp] theorem Rod.setK_stream (x : Rod) (n l : Nat) (v : BitVec 10) : (x.setK n l v).stream = x.stream := rfl
@[simp] theorem Rod.setK_stores (x : Rod) (n l : Nat) (v : BitVec 10) : (x.setK n l v).stores = x.stores := rfl
@[simp] theorem Rod.setK_parts (x : Rod) (n l : Nat) (v : BitVec 10) : (x.setK n l v).parts = x.parts := rfl
@[simp] theorem Rod.setK_run (x : Rod) (n l : Nat) (v : BitVec 10) : (x.setK n l v).run = x.run := rfl
@[simp] theorem Rod.setK_frozen (x : Rod) (n l : Nat) (v : BitVec 10) : (x.setK n l v).frozen = x.frozen := rfl
@[simp] theorem Rod.setK_lastSlot (x : Rod) (n l : Nat) (v : BitVec 10) : (x.setK n l v).lastSlot = x.lastSlot := rfl
@[simp] theorem Rod.setK_oldStack (x : Rod) (n l : Nat) (v : BitVec 10) : (x.setK n l v).oldStack = x.oldStack := rfl
@[simp] theorem Rod.setK_denied (x : Rod) (n l : Nat) (v : BitVec 10) : (x.setK n l v).denied = x.denied := rfl
@[simp] theorem Rod.setK_rslot (x : Rod) (n l : Nat) (v : BitVec 10) : (x.setK n l v).rslot = x.rslot := rfl
@[simp] theorem Rod.setK_regBad (x : Rod) (n l : Nat) (v : BitVec 10) : (x.setK n l v).regBad = x.regBad := rfl
@[simp] theorem Rod.setK_stage (x : Rod) (n l : Nat) (v : BitVec 10) : (x.setK n l v).stage = x.stage := rfl

/-! ### Rod.setFlag -/

@[simp] theorem Rod.setFlag_role (x : Rod) (n v : Nat) : (x.setFlag n v).role = x.role := rfl
@[simp] theorem Rod.setFlag_window (x : Rod) (n v : Nat) : (x.setFlag n v).window = x.window := rfl
@[simp] theorem Rod.setFlag_w (x : Rod) (n v : Nat) : (x.setFlag n v).w = x.w := rfl
@[simp] theorem Rod.setFlag_u (x : Rod) (n v : Nat) : (x.setFlag n v).u = x.u := rfl
@[simp] theorem Rod.setFlag_q (x : Rod) (n v : Nat) : (x.setFlag n v).q = x.q := rfl
@[simp] theorem Rod.setFlag_k (x : Rod) (n v : Nat) : (x.setFlag n v).k = x.k := rfl
@[simp] theorem Rod.setFlag_slotA (x : Rod) (n v : Nat) : (x.setFlag n v).slotA = x.slotA := rfl
@[simp] theorem Rod.setFlag_slotB (x : Rod) (n v : Nat) : (x.setFlag n v).slotB = x.slotB := rfl
@[simp] theorem Rod.setFlag_depth (x : Rod) (n v : Nat) : (x.setFlag n v).depth = x.depth := rfl
@[simp] theorem Rod.setFlag_stack (x : Rod) (n v : Nat) : (x.setFlag n v).stack = x.stack := rfl
@[simp] theorem Rod.setFlag_shadowA (x : Rod) (n v : Nat) : (x.setFlag n v).shadowA = x.shadowA := rfl
@[simp] theorem Rod.setFlag_shadowB (x : Rod) (n v : Nat) : (x.setFlag n v).shadowB = x.shadowB := rfl
@[simp] theorem Rod.setFlag_cause (x : Rod) (n v : Nat) : (x.setFlag n v).cause = x.cause := rfl
@[simp] theorem Rod.setFlag_skid (x : Rod) (n v : Nat) : (x.setFlag n v).skid = x.skid := rfl
@[simp] theorem Rod.setFlag_iflags (x : Rod) (n v : Nat) : (x.setFlag n v).iflags = x.iflags := rfl
@[simp] theorem Rod.setFlag_mflags (x : Rod) (n v : Nat) : (x.setFlag n v).mflags = x.mflags := rfl
@[simp] theorem Rod.setFlag_agelimit (x : Rod) (n v : Nat) : (x.setFlag n v).agelimit = x.agelimit := rfl
@[simp] theorem Rod.setFlag_compat (x : Rod) (n v : Nat) : (x.setFlag n v).compat = x.compat := rfl
@[simp] theorem Rod.setFlag_holdlimit (x : Rod) (n v : Nat) : (x.setFlag n v).holdlimit = x.holdlimit := rfl
@[simp] theorem Rod.setFlag_flags (x : Rod) (n v : Nat) : (x.setFlag n v).flags = x.flags.set n v 0 := rfl
@[simp] theorem Rod.setFlag_gang (x : Rod) (n v : Nat) : (x.setFlag n v).gang = x.gang := rfl
@[simp] theorem Rod.setFlag_held (x : Rod) (n v : Nat) : (x.setFlag n v).held = x.held := rfl
@[simp] theorem Rod.setFlag_gx (x : Rod) (n v : Nat) : (x.setFlag n v).gx = x.gx := rfl
@[simp] theorem Rod.setFlag_mxIn (x : Rod) (n v : Nat) : (x.setFlag n v).mxIn = x.mxIn := rfl
@[simp] theorem Rod.setFlag_mxOut (x : Rod) (n v : Nat) : (x.setFlag n v).mxOut = x.mxOut := rfl
@[simp] theorem Rod.setFlag_cpIn (x : Rod) (n v : Nat) : (x.setFlag n v).cpIn = x.cpIn := rfl
@[simp] theorem Rod.setFlag_cpOut (x : Rod) (n v : Nat) : (x.setFlag n v).cpOut = x.cpOut := rfl
@[simp] theorem Rod.setFlag_stream (x : Rod) (n v : Nat) : (x.setFlag n v).stream = x.stream := rfl
@[simp] theorem Rod.setFlag_stores (x : Rod) (n v : Nat) : (x.setFlag n v).stores = x.stores := rfl
@[simp] theorem Rod.setFlag_parts (x : Rod) (n v : Nat) : (x.setFlag n v).parts = x.parts := rfl
@[simp] theorem Rod.setFlag_run (x : Rod) (n v : Nat) : (x.setFlag n v).run = x.run := rfl
@[simp] theorem Rod.setFlag_frozen (x : Rod) (n v : Nat) : (x.setFlag n v).frozen = x.frozen := rfl
@[simp] theorem Rod.setFlag_lastSlot (x : Rod) (n v : Nat) : (x.setFlag n v).lastSlot = x.lastSlot := rfl
@[simp] theorem Rod.setFlag_oldStack (x : Rod) (n v : Nat) : (x.setFlag n v).oldStack = x.oldStack := rfl
@[simp] theorem Rod.setFlag_denied (x : Rod) (n v : Nat) : (x.setFlag n v).denied = x.denied := rfl
@[simp] theorem Rod.setFlag_rslot (x : Rod) (n v : Nat) : (x.setFlag n v).rslot = x.rslot := rfl
@[simp] theorem Rod.setFlag_regBad (x : Rod) (n v : Nat) : (x.setFlag n v).regBad = x.regBad := rfl
@[simp] theorem Rod.setFlag_stage (x : Rod) (n v : Nat) : (x.setFlag n v).stage = x.stage := rfl

/-! ### Rod.raise -/

@[simp] theorem Rod.raise_role (x : Rod) (b : Word) : (x.raise b).role = x.role := rfl
@[simp] theorem Rod.raise_window (x : Rod) (b : Word) : (x.raise b).window = x.window := rfl
@[simp] theorem Rod.raise_w (x : Rod) (b : Word) : (x.raise b).w = x.w := rfl
@[simp] theorem Rod.raise_u (x : Rod) (b : Word) : (x.raise b).u = x.u := rfl
@[simp] theorem Rod.raise_q (x : Rod) (b : Word) : (x.raise b).q = x.q := rfl
@[simp] theorem Rod.raise_k (x : Rod) (b : Word) : (x.raise b).k = x.k := rfl
@[simp] theorem Rod.raise_slotA (x : Rod) (b : Word) : (x.raise b).slotA = x.slotA := rfl
@[simp] theorem Rod.raise_slotB (x : Rod) (b : Word) : (x.raise b).slotB = x.slotB := rfl
@[simp] theorem Rod.raise_depth (x : Rod) (b : Word) : (x.raise b).depth = x.depth := rfl
@[simp] theorem Rod.raise_stack (x : Rod) (b : Word) : (x.raise b).stack = x.stack := rfl
@[simp] theorem Rod.raise_shadowA (x : Rod) (b : Word) : (x.raise b).shadowA = x.shadowA := rfl
@[simp] theorem Rod.raise_shadowB (x : Rod) (b : Word) : (x.raise b).shadowB = x.shadowB := rfl
@[simp] theorem Rod.raise_cause (x : Rod) (b : Word) : (x.raise b).cause = x.cause ||| b := rfl
@[simp] theorem Rod.raise_skid (x : Rod) (b : Word) : (x.raise b).skid = x.skid := rfl
@[simp] theorem Rod.raise_iflags (x : Rod) (b : Word) : (x.raise b).iflags = x.iflags := rfl
@[simp] theorem Rod.raise_mflags (x : Rod) (b : Word) : (x.raise b).mflags = x.mflags := rfl
@[simp] theorem Rod.raise_agelimit (x : Rod) (b : Word) : (x.raise b).agelimit = x.agelimit := rfl
@[simp] theorem Rod.raise_compat (x : Rod) (b : Word) : (x.raise b).compat = x.compat := rfl
@[simp] theorem Rod.raise_holdlimit (x : Rod) (b : Word) : (x.raise b).holdlimit = x.holdlimit := rfl
@[simp] theorem Rod.raise_flags (x : Rod) (b : Word) : (x.raise b).flags = x.flags := rfl
@[simp] theorem Rod.raise_gang (x : Rod) (b : Word) : (x.raise b).gang = x.gang := rfl
@[simp] theorem Rod.raise_held (x : Rod) (b : Word) : (x.raise b).held = x.held := rfl
@[simp] theorem Rod.raise_gx (x : Rod) (b : Word) : (x.raise b).gx = x.gx := rfl
@[simp] theorem Rod.raise_mxIn (x : Rod) (b : Word) : (x.raise b).mxIn = x.mxIn := rfl
@[simp] theorem Rod.raise_mxOut (x : Rod) (b : Word) : (x.raise b).mxOut = x.mxOut := rfl
@[simp] theorem Rod.raise_cpIn (x : Rod) (b : Word) : (x.raise b).cpIn = x.cpIn := rfl
@[simp] theorem Rod.raise_cpOut (x : Rod) (b : Word) : (x.raise b).cpOut = x.cpOut := rfl
@[simp] theorem Rod.raise_stream (x : Rod) (b : Word) : (x.raise b).stream = x.stream := rfl
@[simp] theorem Rod.raise_stores (x : Rod) (b : Word) : (x.raise b).stores = x.stores := rfl
@[simp] theorem Rod.raise_parts (x : Rod) (b : Word) : (x.raise b).parts = x.parts := rfl
@[simp] theorem Rod.raise_run (x : Rod) (b : Word) : (x.raise b).run = x.run := rfl
@[simp] theorem Rod.raise_frozen (x : Rod) (b : Word) : (x.raise b).frozen = x.frozen := rfl
@[simp] theorem Rod.raise_lastSlot (x : Rod) (b : Word) : (x.raise b).lastSlot = x.lastSlot := rfl
@[simp] theorem Rod.raise_oldStack (x : Rod) (b : Word) : (x.raise b).oldStack = x.oldStack := rfl
@[simp] theorem Rod.raise_denied (x : Rod) (b : Word) : (x.raise b).denied = x.denied := rfl
@[simp] theorem Rod.raise_rslot (x : Rod) (b : Word) : (x.raise b).rslot = x.rslot := rfl
@[simp] theorem Rod.raise_regBad (x : Rod) (b : Word) : (x.raise b).regBad = x.regBad := rfl
@[simp] theorem Rod.raise_stage (x : Rod) (b : Word) : (x.raise b).stage = x.stage := rfl

/-! ### Rod.setIflags -/

@[simp] theorem Rod.setIflags_role (x : Rod) (b : Word) : (x.setIflags b).role = x.role := rfl
@[simp] theorem Rod.setIflags_window (x : Rod) (b : Word) : (x.setIflags b).window = x.window := rfl
@[simp] theorem Rod.setIflags_w (x : Rod) (b : Word) : (x.setIflags b).w = x.w := rfl
@[simp] theorem Rod.setIflags_u (x : Rod) (b : Word) : (x.setIflags b).u = x.u := rfl
@[simp] theorem Rod.setIflags_q (x : Rod) (b : Word) : (x.setIflags b).q = x.q := rfl
@[simp] theorem Rod.setIflags_k (x : Rod) (b : Word) : (x.setIflags b).k = x.k := rfl
@[simp] theorem Rod.setIflags_slotA (x : Rod) (b : Word) : (x.setIflags b).slotA = x.slotA := rfl
@[simp] theorem Rod.setIflags_slotB (x : Rod) (b : Word) : (x.setIflags b).slotB = x.slotB := rfl
@[simp] theorem Rod.setIflags_depth (x : Rod) (b : Word) : (x.setIflags b).depth = x.depth := rfl
@[simp] theorem Rod.setIflags_stack (x : Rod) (b : Word) : (x.setIflags b).stack = x.stack := rfl
@[simp] theorem Rod.setIflags_shadowA (x : Rod) (b : Word) : (x.setIflags b).shadowA = x.shadowA := rfl
@[simp] theorem Rod.setIflags_shadowB (x : Rod) (b : Word) : (x.setIflags b).shadowB = x.shadowB := rfl
@[simp] theorem Rod.setIflags_cause (x : Rod) (b : Word) : (x.setIflags b).cause = x.cause := rfl
@[simp] theorem Rod.setIflags_skid (x : Rod) (b : Word) : (x.setIflags b).skid = x.skid := rfl
@[simp] theorem Rod.setIflags_iflags (x : Rod) (b : Word) : (x.setIflags b).iflags = x.iflags ||| b := rfl
@[simp] theorem Rod.setIflags_mflags (x : Rod) (b : Word) : (x.setIflags b).mflags = x.mflags := rfl
@[simp] theorem Rod.setIflags_agelimit (x : Rod) (b : Word) : (x.setIflags b).agelimit = x.agelimit := rfl
@[simp] theorem Rod.setIflags_compat (x : Rod) (b : Word) : (x.setIflags b).compat = x.compat := rfl
@[simp] theorem Rod.setIflags_holdlimit (x : Rod) (b : Word) : (x.setIflags b).holdlimit = x.holdlimit := rfl
@[simp] theorem Rod.setIflags_flags (x : Rod) (b : Word) : (x.setIflags b).flags = x.flags := rfl
@[simp] theorem Rod.setIflags_gang (x : Rod) (b : Word) : (x.setIflags b).gang = x.gang := rfl
@[simp] theorem Rod.setIflags_held (x : Rod) (b : Word) : (x.setIflags b).held = x.held := rfl
@[simp] theorem Rod.setIflags_gx (x : Rod) (b : Word) : (x.setIflags b).gx = x.gx := rfl
@[simp] theorem Rod.setIflags_mxIn (x : Rod) (b : Word) : (x.setIflags b).mxIn = x.mxIn := rfl
@[simp] theorem Rod.setIflags_mxOut (x : Rod) (b : Word) : (x.setIflags b).mxOut = x.mxOut := rfl
@[simp] theorem Rod.setIflags_cpIn (x : Rod) (b : Word) : (x.setIflags b).cpIn = x.cpIn := rfl
@[simp] theorem Rod.setIflags_cpOut (x : Rod) (b : Word) : (x.setIflags b).cpOut = x.cpOut := rfl
@[simp] theorem Rod.setIflags_stream (x : Rod) (b : Word) : (x.setIflags b).stream = x.stream := rfl
@[simp] theorem Rod.setIflags_stores (x : Rod) (b : Word) : (x.setIflags b).stores = x.stores := rfl
@[simp] theorem Rod.setIflags_parts (x : Rod) (b : Word) : (x.setIflags b).parts = x.parts := rfl
@[simp] theorem Rod.setIflags_run (x : Rod) (b : Word) : (x.setIflags b).run = x.run := rfl
@[simp] theorem Rod.setIflags_frozen (x : Rod) (b : Word) : (x.setIflags b).frozen = x.frozen := rfl
@[simp] theorem Rod.setIflags_lastSlot (x : Rod) (b : Word) : (x.setIflags b).lastSlot = x.lastSlot := rfl
@[simp] theorem Rod.setIflags_oldStack (x : Rod) (b : Word) : (x.setIflags b).oldStack = x.oldStack := rfl
@[simp] theorem Rod.setIflags_denied (x : Rod) (b : Word) : (x.setIflags b).denied = x.denied := rfl
@[simp] theorem Rod.setIflags_rslot (x : Rod) (b : Word) : (x.setIflags b).rslot = x.rslot := rfl
@[simp] theorem Rod.setIflags_regBad (x : Rod) (b : Word) : (x.setIflags b).regBad = x.regBad := rfl
@[simp] theorem Rod.setIflags_stage (x : Rod) (b : Word) : (x.setIflags b).stage = x.stage := rfl

/-! ### Rod.setEntry -/

@[simp] theorem Rod.setEntry_role (x : Rod) (n : Nat) (e : SEntry) : (x.setEntry n e).role = x.role := rfl
@[simp] theorem Rod.setEntry_window (x : Rod) (n : Nat) (e : SEntry) : (x.setEntry n e).window = x.window := rfl
@[simp] theorem Rod.setEntry_w (x : Rod) (n : Nat) (e : SEntry) : (x.setEntry n e).w = x.w := rfl
@[simp] theorem Rod.setEntry_u (x : Rod) (n : Nat) (e : SEntry) : (x.setEntry n e).u = x.u := rfl
@[simp] theorem Rod.setEntry_q (x : Rod) (n : Nat) (e : SEntry) : (x.setEntry n e).q = x.q := rfl
@[simp] theorem Rod.setEntry_k (x : Rod) (n : Nat) (e : SEntry) : (x.setEntry n e).k = x.k := rfl
@[simp] theorem Rod.setEntry_slotA (x : Rod) (n : Nat) (e : SEntry) : (x.setEntry n e).slotA = x.slotA := rfl
@[simp] theorem Rod.setEntry_slotB (x : Rod) (n : Nat) (e : SEntry) : (x.setEntry n e).slotB = x.slotB := rfl
@[simp] theorem Rod.setEntry_depth (x : Rod) (n : Nat) (e : SEntry) : (x.setEntry n e).depth = x.depth := rfl
@[simp] theorem Rod.setEntry_stack (x : Rod) (n : Nat) (e : SEntry) : (x.setEntry n e).stack = x.stack.set n e .free := rfl
@[simp] theorem Rod.setEntry_shadowA (x : Rod) (n : Nat) (e : SEntry) : (x.setEntry n e).shadowA = x.shadowA := rfl
@[simp] theorem Rod.setEntry_shadowB (x : Rod) (n : Nat) (e : SEntry) : (x.setEntry n e).shadowB = x.shadowB := rfl
@[simp] theorem Rod.setEntry_cause (x : Rod) (n : Nat) (e : SEntry) : (x.setEntry n e).cause = x.cause := rfl
@[simp] theorem Rod.setEntry_skid (x : Rod) (n : Nat) (e : SEntry) : (x.setEntry n e).skid = x.skid := rfl
@[simp] theorem Rod.setEntry_iflags (x : Rod) (n : Nat) (e : SEntry) : (x.setEntry n e).iflags = x.iflags := rfl
@[simp] theorem Rod.setEntry_mflags (x : Rod) (n : Nat) (e : SEntry) : (x.setEntry n e).mflags = x.mflags := rfl
@[simp] theorem Rod.setEntry_agelimit (x : Rod) (n : Nat) (e : SEntry) : (x.setEntry n e).agelimit = x.agelimit := rfl
@[simp] theorem Rod.setEntry_compat (x : Rod) (n : Nat) (e : SEntry) : (x.setEntry n e).compat = x.compat := rfl
@[simp] theorem Rod.setEntry_holdlimit (x : Rod) (n : Nat) (e : SEntry) : (x.setEntry n e).holdlimit = x.holdlimit := rfl
@[simp] theorem Rod.setEntry_flags (x : Rod) (n : Nat) (e : SEntry) : (x.setEntry n e).flags = x.flags := rfl
@[simp] theorem Rod.setEntry_gang (x : Rod) (n : Nat) (e : SEntry) : (x.setEntry n e).gang = x.gang := rfl
@[simp] theorem Rod.setEntry_held (x : Rod) (n : Nat) (e : SEntry) : (x.setEntry n e).held = x.held := rfl
@[simp] theorem Rod.setEntry_gx (x : Rod) (n : Nat) (e : SEntry) : (x.setEntry n e).gx = x.gx := rfl
@[simp] theorem Rod.setEntry_mxIn (x : Rod) (n : Nat) (e : SEntry) : (x.setEntry n e).mxIn = x.mxIn := rfl
@[simp] theorem Rod.setEntry_mxOut (x : Rod) (n : Nat) (e : SEntry) : (x.setEntry n e).mxOut = x.mxOut := rfl
@[simp] theorem Rod.setEntry_cpIn (x : Rod) (n : Nat) (e : SEntry) : (x.setEntry n e).cpIn = x.cpIn := rfl
@[simp] theorem Rod.setEntry_cpOut (x : Rod) (n : Nat) (e : SEntry) : (x.setEntry n e).cpOut = x.cpOut := rfl
@[simp] theorem Rod.setEntry_stream (x : Rod) (n : Nat) (e : SEntry) : (x.setEntry n e).stream = x.stream := rfl
@[simp] theorem Rod.setEntry_stores (x : Rod) (n : Nat) (e : SEntry) : (x.setEntry n e).stores = x.stores := rfl
@[simp] theorem Rod.setEntry_parts (x : Rod) (n : Nat) (e : SEntry) : (x.setEntry n e).parts = x.parts := rfl
@[simp] theorem Rod.setEntry_run (x : Rod) (n : Nat) (e : SEntry) : (x.setEntry n e).run = x.run := rfl
@[simp] theorem Rod.setEntry_frozen (x : Rod) (n : Nat) (e : SEntry) : (x.setEntry n e).frozen = x.frozen := rfl
@[simp] theorem Rod.setEntry_lastSlot (x : Rod) (n : Nat) (e : SEntry) : (x.setEntry n e).lastSlot = x.lastSlot := rfl
@[simp] theorem Rod.setEntry_oldStack (x : Rod) (n : Nat) (e : SEntry) : (x.setEntry n e).oldStack = x.oldStack := rfl
@[simp] theorem Rod.setEntry_denied (x : Rod) (n : Nat) (e : SEntry) : (x.setEntry n e).denied = x.denied := rfl
@[simp] theorem Rod.setEntry_rslot (x : Rod) (n : Nat) (e : SEntry) : (x.setEntry n e).rslot = x.rslot := rfl
@[simp] theorem Rod.setEntry_regBad (x : Rod) (n : Nat) (e : SEntry) : (x.setEntry n e).regBad = x.regBad := rfl
@[simp] theorem Rod.setEntry_stage (x : Rod) (n : Nat) (e : SEntry) : (x.setEntry n e).stage = x.stage := rfl

/-! ### Rod.setPred -/

@[simp] theorem Rod.setPred_role (x : Rod) (n l : Nat) (v : BitVec 2) : (x.setPred n l v).role = x.role := by unfold Rod.setPred; split <;> rfl
@[simp] theorem Rod.setPred_window (x : Rod) (n l : Nat) (v : BitVec 2) : (x.setPred n l v).window = x.window := by unfold Rod.setPred; split <;> rfl
@[simp] theorem Rod.setPred_w (x : Rod) (n l : Nat) (v : BitVec 2) : (x.setPred n l v).w = x.w := by unfold Rod.setPred; split <;> rfl
@[simp] theorem Rod.setPred_u (x : Rod) (n l : Nat) (v : BitVec 2) : (x.setPred n l v).u = x.u := by unfold Rod.setPred; split <;> rfl
@[simp] theorem Rod.setPred_k (x : Rod) (n l : Nat) (v : BitVec 2) : (x.setPred n l v).k = x.k := by unfold Rod.setPred; split <;> rfl
@[simp] theorem Rod.setPred_slotA (x : Rod) (n l : Nat) (v : BitVec 2) : (x.setPred n l v).slotA = x.slotA := by unfold Rod.setPred; split <;> rfl
@[simp] theorem Rod.setPred_slotB (x : Rod) (n l : Nat) (v : BitVec 2) : (x.setPred n l v).slotB = x.slotB := by unfold Rod.setPred; split <;> rfl
@[simp] theorem Rod.setPred_depth (x : Rod) (n l : Nat) (v : BitVec 2) : (x.setPred n l v).depth = x.depth := by unfold Rod.setPred; split <;> rfl
@[simp] theorem Rod.setPred_stack (x : Rod) (n l : Nat) (v : BitVec 2) : (x.setPred n l v).stack = x.stack := by unfold Rod.setPred; split <;> rfl
@[simp] theorem Rod.setPred_shadowA (x : Rod) (n l : Nat) (v : BitVec 2) : (x.setPred n l v).shadowA = x.shadowA := by unfold Rod.setPred; split <;> rfl
@[simp] theorem Rod.setPred_shadowB (x : Rod) (n l : Nat) (v : BitVec 2) : (x.setPred n l v).shadowB = x.shadowB := by unfold Rod.setPred; split <;> rfl
@[simp] theorem Rod.setPred_cause (x : Rod) (n l : Nat) (v : BitVec 2) : (x.setPred n l v).cause = x.cause := by unfold Rod.setPred; split <;> rfl
@[simp] theorem Rod.setPred_skid (x : Rod) (n l : Nat) (v : BitVec 2) : (x.setPred n l v).skid = x.skid := by unfold Rod.setPred; split <;> rfl
@[simp] theorem Rod.setPred_iflags (x : Rod) (n l : Nat) (v : BitVec 2) : (x.setPred n l v).iflags = x.iflags := by unfold Rod.setPred; split <;> rfl
@[simp] theorem Rod.setPred_mflags (x : Rod) (n l : Nat) (v : BitVec 2) : (x.setPred n l v).mflags = x.mflags := by unfold Rod.setPred; split <;> rfl
@[simp] theorem Rod.setPred_agelimit (x : Rod) (n l : Nat) (v : BitVec 2) : (x.setPred n l v).agelimit = x.agelimit := by unfold Rod.setPred; split <;> rfl
@[simp] theorem Rod.setPred_compat (x : Rod) (n l : Nat) (v : BitVec 2) : (x.setPred n l v).compat = x.compat := by unfold Rod.setPred; split <;> rfl
@[simp] theorem Rod.setPred_holdlimit (x : Rod) (n l : Nat) (v : BitVec 2) : (x.setPred n l v).holdlimit = x.holdlimit := by unfold Rod.setPred; split <;> rfl
@[simp] theorem Rod.setPred_flags (x : Rod) (n l : Nat) (v : BitVec 2) : (x.setPred n l v).flags = x.flags := by unfold Rod.setPred; split <;> rfl
@[simp] theorem Rod.setPred_gang (x : Rod) (n l : Nat) (v : BitVec 2) : (x.setPred n l v).gang = x.gang := by unfold Rod.setPred; split <;> rfl
@[simp] theorem Rod.setPred_held (x : Rod) (n l : Nat) (v : BitVec 2) : (x.setPred n l v).held = x.held := by unfold Rod.setPred; split <;> rfl
@[simp] theorem Rod.setPred_gx (x : Rod) (n l : Nat) (v : BitVec 2) : (x.setPred n l v).gx = x.gx := by unfold Rod.setPred; split <;> rfl
@[simp] theorem Rod.setPred_mxIn (x : Rod) (n l : Nat) (v : BitVec 2) : (x.setPred n l v).mxIn = x.mxIn := by unfold Rod.setPred; split <;> rfl
@[simp] theorem Rod.setPred_mxOut (x : Rod) (n l : Nat) (v : BitVec 2) : (x.setPred n l v).mxOut = x.mxOut := by unfold Rod.setPred; split <;> rfl
@[simp] theorem Rod.setPred_cpIn (x : Rod) (n l : Nat) (v : BitVec 2) : (x.setPred n l v).cpIn = x.cpIn := by unfold Rod.setPred; split <;> rfl
@[simp] theorem Rod.setPred_cpOut (x : Rod) (n l : Nat) (v : BitVec 2) : (x.setPred n l v).cpOut = x.cpOut := by unfold Rod.setPred; split <;> rfl
@[simp] theorem Rod.setPred_stream (x : Rod) (n l : Nat) (v : BitVec 2) : (x.setPred n l v).stream = x.stream := by unfold Rod.setPred; split <;> rfl
@[simp] theorem Rod.setPred_stores (x : Rod) (n l : Nat) (v : BitVec 2) : (x.setPred n l v).stores = x.stores := by unfold Rod.setPred; split <;> rfl
@[simp] theorem Rod.setPred_parts (x : Rod) (n l : Nat) (v : BitVec 2) : (x.setPred n l v).parts = x.parts := by unfold Rod.setPred; split <;> rfl
@[simp] theorem Rod.setPred_run (x : Rod) (n l : Nat) (v : BitVec 2) : (x.setPred n l v).run = x.run := by unfold Rod.setPred; split <;> rfl
@[simp] theorem Rod.setPred_frozen (x : Rod) (n l : Nat) (v : BitVec 2) : (x.setPred n l v).frozen = x.frozen := by unfold Rod.setPred; split <;> rfl
@[simp] theorem Rod.setPred_lastSlot (x : Rod) (n l : Nat) (v : BitVec 2) : (x.setPred n l v).lastSlot = x.lastSlot := by unfold Rod.setPred; split <;> rfl
@[simp] theorem Rod.setPred_oldStack (x : Rod) (n l : Nat) (v : BitVec 2) : (x.setPred n l v).oldStack = x.oldStack := by unfold Rod.setPred; split <;> rfl
@[simp] theorem Rod.setPred_denied (x : Rod) (n l : Nat) (v : BitVec 2) : (x.setPred n l v).denied = x.denied := by unfold Rod.setPred; split <;> rfl
@[simp] theorem Rod.setPred_rslot (x : Rod) (n l : Nat) (v : BitVec 2) : (x.setPred n l v).rslot = x.rslot := by unfold Rod.setPred; split <;> rfl
@[simp] theorem Rod.setPred_regBad (x : Rod) (n l : Nat) (v : BitVec 2) : (x.setPred n l v).regBad = x.regBad := by unfold Rod.setPred; split <;> rfl
@[simp] theorem Rod.setPred_stage (x : Rod) (n l : Nat) (v : BitVec 2) : (x.setPred n l v).stage = x.stage := by unfold Rod.setPred; split <;> rfl

/-! ### Rod.setSlot -/

@[simp] theorem Rod.setSlot_role (x : Rod) (sl : SlotId) (y : Option Slot) : (x.setSlot sl y).role = x.role := by cases sl <;> rfl
@[simp] theorem Rod.setSlot_window (x : Rod) (sl : SlotId) (y : Option Slot) : (x.setSlot sl y).window = x.window := by cases sl <;> rfl
@[simp] theorem Rod.setSlot_w (x : Rod) (sl : SlotId) (y : Option Slot) : (x.setSlot sl y).w = x.w := by cases sl <;> rfl
@[simp] theorem Rod.setSlot_u (x : Rod) (sl : SlotId) (y : Option Slot) : (x.setSlot sl y).u = x.u := by cases sl <;> rfl
@[simp] theorem Rod.setSlot_q (x : Rod) (sl : SlotId) (y : Option Slot) : (x.setSlot sl y).q = x.q := by cases sl <;> rfl
@[simp] theorem Rod.setSlot_k (x : Rod) (sl : SlotId) (y : Option Slot) : (x.setSlot sl y).k = x.k := by cases sl <;> rfl
@[simp] theorem Rod.setSlot_depth (x : Rod) (sl : SlotId) (y : Option Slot) : (x.setSlot sl y).depth = x.depth := by cases sl <;> rfl
@[simp] theorem Rod.setSlot_stack (x : Rod) (sl : SlotId) (y : Option Slot) : (x.setSlot sl y).stack = x.stack := by cases sl <;> rfl
@[simp] theorem Rod.setSlot_shadowA (x : Rod) (sl : SlotId) (y : Option Slot) : (x.setSlot sl y).shadowA = x.shadowA := by cases sl <;> rfl
@[simp] theorem Rod.setSlot_shadowB (x : Rod) (sl : SlotId) (y : Option Slot) : (x.setSlot sl y).shadowB = x.shadowB := by cases sl <;> rfl
@[simp] theorem Rod.setSlot_cause (x : Rod) (sl : SlotId) (y : Option Slot) : (x.setSlot sl y).cause = x.cause := by cases sl <;> rfl
@[simp] theorem Rod.setSlot_skid (x : Rod) (sl : SlotId) (y : Option Slot) : (x.setSlot sl y).skid = x.skid := by cases sl <;> rfl
@[simp] theorem Rod.setSlot_iflags (x : Rod) (sl : SlotId) (y : Option Slot) : (x.setSlot sl y).iflags = x.iflags := by cases sl <;> rfl
@[simp] theorem Rod.setSlot_mflags (x : Rod) (sl : SlotId) (y : Option Slot) : (x.setSlot sl y).mflags = x.mflags := by cases sl <;> rfl
@[simp] theorem Rod.setSlot_agelimit (x : Rod) (sl : SlotId) (y : Option Slot) : (x.setSlot sl y).agelimit = x.agelimit := by cases sl <;> rfl
@[simp] theorem Rod.setSlot_compat (x : Rod) (sl : SlotId) (y : Option Slot) : (x.setSlot sl y).compat = x.compat := by cases sl <;> rfl
@[simp] theorem Rod.setSlot_holdlimit (x : Rod) (sl : SlotId) (y : Option Slot) : (x.setSlot sl y).holdlimit = x.holdlimit := by cases sl <;> rfl
@[simp] theorem Rod.setSlot_flags (x : Rod) (sl : SlotId) (y : Option Slot) : (x.setSlot sl y).flags = x.flags := by cases sl <;> rfl
@[simp] theorem Rod.setSlot_gang (x : Rod) (sl : SlotId) (y : Option Slot) : (x.setSlot sl y).gang = x.gang := by cases sl <;> rfl
@[simp] theorem Rod.setSlot_held (x : Rod) (sl : SlotId) (y : Option Slot) : (x.setSlot sl y).held = x.held := by cases sl <;> rfl
@[simp] theorem Rod.setSlot_gx (x : Rod) (sl : SlotId) (y : Option Slot) : (x.setSlot sl y).gx = x.gx := by cases sl <;> rfl
@[simp] theorem Rod.setSlot_mxIn (x : Rod) (sl : SlotId) (y : Option Slot) : (x.setSlot sl y).mxIn = x.mxIn := by cases sl <;> rfl
@[simp] theorem Rod.setSlot_mxOut (x : Rod) (sl : SlotId) (y : Option Slot) : (x.setSlot sl y).mxOut = x.mxOut := by cases sl <;> rfl
@[simp] theorem Rod.setSlot_cpIn (x : Rod) (sl : SlotId) (y : Option Slot) : (x.setSlot sl y).cpIn = x.cpIn := by cases sl <;> rfl
@[simp] theorem Rod.setSlot_cpOut (x : Rod) (sl : SlotId) (y : Option Slot) : (x.setSlot sl y).cpOut = x.cpOut := by cases sl <;> rfl
@[simp] theorem Rod.setSlot_stream (x : Rod) (sl : SlotId) (y : Option Slot) : (x.setSlot sl y).stream = x.stream := by cases sl <;> rfl
@[simp] theorem Rod.setSlot_stores (x : Rod) (sl : SlotId) (y : Option Slot) : (x.setSlot sl y).stores = x.stores := by cases sl <;> rfl
@[simp] theorem Rod.setSlot_parts (x : Rod) (sl : SlotId) (y : Option Slot) : (x.setSlot sl y).parts = x.parts := by cases sl <;> rfl
@[simp] theorem Rod.setSlot_run (x : Rod) (sl : SlotId) (y : Option Slot) : (x.setSlot sl y).run = x.run := by cases sl <;> rfl
@[simp] theorem Rod.setSlot_frozen (x : Rod) (sl : SlotId) (y : Option Slot) : (x.setSlot sl y).frozen = x.frozen := by cases sl <;> rfl
@[simp] theorem Rod.setSlot_lastSlot (x : Rod) (sl : SlotId) (y : Option Slot) : (x.setSlot sl y).lastSlot = x.lastSlot := by cases sl <;> rfl
@[simp] theorem Rod.setSlot_oldStack (x : Rod) (sl : SlotId) (y : Option Slot) : (x.setSlot sl y).oldStack = x.oldStack := by cases sl <;> rfl
@[simp] theorem Rod.setSlot_denied (x : Rod) (sl : SlotId) (y : Option Slot) : (x.setSlot sl y).denied = x.denied := by cases sl <;> rfl
@[simp] theorem Rod.setSlot_rslot (x : Rod) (sl : SlotId) (y : Option Slot) : (x.setSlot sl y).rslot = x.rslot := by cases sl <;> rfl
@[simp] theorem Rod.setSlot_regBad (x : Rod) (sl : SlotId) (y : Option Slot) : (x.setSlot sl y).regBad = x.regBad := by cases sl <;> rfl
@[simp] theorem Rod.setSlot_stage (x : Rod) (sl : SlotId) (y : Option Slot) : (x.setSlot sl y).stage = x.stage := by cases sl <;> rfl

/-! ### Registers read after a write -/

@[simp] theorem Rod.slot_setSlot (x : Rod) (sl : SlotId) (y : Option Slot) : (x.setSlot sl y).slot sl = y := by cases sl <;> rfl

@[simp] theorem Rod.slot_setSlot_other (x : Rod) (sl : SlotId) (y : Option Slot) : (x.setSlot sl y).slot sl.other = x.slot sl.other := by
  cases sl <;> rfl

theorem Rod.lw_setLw (x : Rod) (i l j m : Nat) (v : Word) (hl : l < 32) (hm : m < 32) :
    (x.setLw i l v).lw j m = if j = i ∧ m = l then v else x.lw j m := by
  have hk : (32 * j + m = 32 * i + l) ↔ (j = i ∧ m = l) := by omega
  by_cases h : j = i ∧ m = l
  · obtain ⟨rfl, rfl⟩ := h
    simp [Rod.lw]
  · have h' : 32 * j + m ≠ 32 * i + l := fun e => h (hk.1 e)
    simp [Rod.lw, h, h']

theorem Rod.un_setUn (x : Rod) (n k : Nat) (v : DWord) : (x.setUn n v).un k = if k = n then v else x.un k := by
  by_cases h : k = n
  · simp [Rod.un, h]
  · have h1 : ¬(2 * k = 2 * n) := by omega
    have h2 : ¬(8192 + 2 * k = 8192 + 2 * n + 1) := by omega
    have h3 : ¬(8192 + 2 * k + 1 = 8192 + 2 * n) := by omega
    simp [Rod.un, h, h1, h2, h3]

theorem Rod.kreg_setK (x : Rod) (n l k m : Nat) (v : BitVec 10) (hn : n < 4) (hk : k < 4) :
    (x.setK n l v).kreg k m = if k = n ∧ m = l then v else x.kreg k m := by
  have e : (4 * m + k = 4 * l + n) ↔ (k = n ∧ m = l) := by omega
  simp [Rod.kreg, Tbl.get_set, e]

theorem Rod.pred_setPred (x : Rod) (n l k m : Nat) (v : BitVec 2) (hn : n < 16) (hk : k < 16) :
    (x.setPred n l v).pred k m = if k = n ∧ m = l ∧ n ≠ 0 then v else x.pred k m := by
  have e : (16 * m + k = 16 * l + n) ↔ (k = n ∧ m = l) := by omega
  unfold Rod.pred Rod.setPred
  by_cases h0 : n = 0
  · simp [h0]
  · by_cases hk0 : k = 0
    · have : ¬ (k = n) := by omega
      simp [hk0, h0, Ne.symm h0]
    · simp only [h0, hk0, if_false, Tbl.get_set, e]
      simp [h0]

@[simp] theorem Rod.flagCount_setFlag (x : Rod) (n v : Nat) : (x.setFlag n v).flagCount n = v := by simp [Rod.flagCount]

end Sys2Proof.Laws
end

