-- ==== Sys2Proof/Laws/State.lean ====
section
/-!
SUPPORT. What each named update of the state leaves alone, field by field, and what it writes.
-/
namespace Sys2Proof.Laws

open Sys2Proof.Machine


/-! ### State.setCore -/

@[simp] theorem State.setCore_cycle (s : State) (c : CoreId) (x : Core) : (s.setCore c x).cycle = s.cycle := rfl
@[simp] theorem State.setCore_counted (s : State) (c : CoreId) (x : Core) : (s.setCore c x).counted = s.counted := rfl
@[simp] theorem State.setCore_nextId (s : State) (c : CoreId) (x : Core) : (s.setCore c x).nextId = s.nextId := rfl
@[simp] theorem State.setCore_cur (s : State) (c : CoreId) (x : Core) : (s.setCore c x).cur = s.cur := rfl
@[simp] theorem State.setCore_rr (s : State) (c : CoreId) (x : Core) : (s.setCore c x).rr = s.rr := rfl
@[simp] theorem State.setCore_inputs (s : State) (c : CoreId) (x : Core) : (s.setCore c x).inputs = s.inputs := rfl
@[simp] theorem State.setCore_upsets (s : State) (c : CoreId) (x : Core) : (s.setCore c x).upsets = s.upsets := rfl
@[simp] theorem State.setCore_inflight (s : State) (c : CoreId) (x : Core) : (s.setCore c x).inflight = s.inflight := rfl
@[simp] theorem State.setCore_ring (s : State) (c : CoreId) (x : Core) : (s.setCore c x).ring = s.ring := rfl
@[simp] theorem State.setCore_parked (s : State) (c : CoreId) (x : Core) : (s.setCore c x).parked = s.parked := rfl
@[simp] theorem State.setCore_mem (s : State) (c : CoreId) (x : Core) : (s.setCore c x).mem = s.mem := rfl
@[simp] theorem State.setCore_poison (s : State) (c : CoreId) (x : Core) : (s.setCore c x).poison = s.poison := rfl
@[simp] theorem State.setCore_poisonLost (s : State) (c : CoreId) (x : Core) : (s.setCore c x).poisonLost = s.poisonLost := rfl
@[simp] theorem State.setCore_homeHeld (s : State) (c : CoreId) (x : Core) : (s.setCore c x).homeHeld = s.homeHeld := rfl
@[simp] theorem State.setCore_rawFrames (s : State) (c : CoreId) (x : Core) : (s.setCore c x).rawFrames = s.rawFrames := rfl
@[simp] theorem State.setCore_cores (s : State) (c : CoreId) (x : Core) : (s.setCore c x).cores = s.cores.set (coreKey c) x Core.reset := rfl
@[simp] theorem State.setCore_dies (s : State) (c : CoreId) (x : Core) : (s.setCore c x).dies = s.dies := rfl
@[simp] theorem State.setCore_iods (s : State) (c : CoreId) (x : Core) : (s.setCore c x).iods = s.iods := rfl
@[simp] theorem State.setCore_queues (s : State) (c : CoreId) (x : Core) : (s.setCore c x).queues = s.queues := rfl
@[simp] theorem State.setCore_cmds (s : State) (c : CoreId) (x : Core) : (s.setCore c x).cmds = s.cmds := rfl
@[simp] theorem State.setCore_chains (s : State) (c : CoreId) (x : Core) : (s.setCore c x).chains = s.chains := rfl
@[simp] theorem State.setCore_rods (s : State) (c : CoreId) (x : Core) : (s.setCore c x).rods = s.rods := rfl
@[simp] theorem State.setCore_furlongs (s : State) (c : CoreId) (x : Core) : (s.setCore c x).furlongs = s.furlongs := rfl
@[simp] theorem State.setCore_ops (s : State) (c : CoreId) (x : Core) : (s.setCore c x).ops = s.ops := rfl
@[simp] theorem State.setCore_cancels (s : State) (c : CoreId) (x : Core) : (s.setCore c x).cancels = s.cancels := rfl
@[simp] theorem State.setCore_roundDue (s : State) (c : CoreId) (x : Core) : (s.setCore c x).roundDue = s.roundDue := rfl
@[simp] theorem State.setCore_lastRound (s : State) (c : CoreId) (x : Core) : (s.setCore c x).lastRound = s.lastRound := rfl
@[simp] theorem State.setCore_appended (s : State) (c : CoreId) (x : Core) : (s.setCore c x).appended = s.appended := rfl
@[simp] theorem State.setCore_astb (s : State) (c : CoreId) (x : Core) : (s.setCore c x).astb = s.astb := rfl
@[simp] theorem State.setCore_ast (s : State) (c : CoreId) (x : Core) : (s.setCore c x).ast = s.ast := rfl
@[simp] theorem State.setCore_xlia (s : State) (c : CoreId) (x : Core) : (s.setCore c x).xlia = s.xlia := rfl
@[simp] theorem State.setCore_xlic (s : State) (c : CoreId) (x : Core) : (s.setCore c x).xlic = s.xlic := rfl
@[simp] theorem State.setCore_xlicOps (s : State) (c : CoreId) (x : Core) : (s.setCore c x).xlicOps = s.xlicOps := rfl
@[simp] theorem State.setCore_xlicWords (s : State) (c : CoreId) (x : Core) : (s.setCore c x).xlicWords = s.xlicWords := rfl
@[simp] theorem State.setCore_canc (s : State) (c : CoreId) (x : Core) : (s.setCore c x).canc = s.canc := rfl
@[simp] theorem State.setCore_preq (s : State) (c : CoreId) (x : Core) : (s.setCore c x).preq = s.preq := rfl
@[simp] theorem State.setCore_brkcfg (s : State) (c : CoreId) (x : Core) : (s.setCore c x).brkcfg = s.brkcfg := rfl
@[simp] theorem State.setCore_brkva (s : State) (c : CoreId) (x : Core) : (s.setCore c x).brkva = s.brkva := rfl
@[simp] theorem State.setCore_brkpa (s : State) (c : CoreId) (x : Core) : (s.setCore c x).brkpa = s.brkpa := rfl
@[simp] theorem State.setCore_brklen (s : State) (c : CoreId) (x : Core) : (s.setCore c x).brklen = s.brklen := rfl
@[simp] theorem State.setCore_powered (s : State) (c : CoreId) (x : Core) : (s.setCore c x).powered = s.powered := rfl
@[simp] theorem State.setCore_diest (s : State) (c : CoreId) (x : Core) : (s.setCore c x).diest = s.diest := rfl
@[simp] theorem State.setCore_spdm (s : State) (c : CoreId) (x : Core) : (s.setCore c x).spdm = s.spdm := rfl
@[simp] theorem State.setCore_links (s : State) (c : CoreId) (x : Core) : (s.setCore c x).links = s.links := rfl
@[simp] theorem State.setCore_linkDown (s : State) (c : CoreId) (x : Core) : (s.setCore c x).linkDown = s.linkDown := rfl
@[simp] theorem State.setCore_queuesOpen (s : State) (c : CoreId) (x : Core) : (s.setCore c x).queuesOpen = s.queuesOpen := rfl
@[simp] theorem State.setCore_outbox (s : State) (c : CoreId) (x : Core) : (s.setCore c x).outbox = s.outbox := rfl
@[simp] theorem State.setCore_qps (s : State) (c : CoreId) (x : Core) : (s.setCore c x).qps = s.qps := rfl
@[simp] theorem State.setCore_claimed (s : State) (c : CoreId) (x : Core) : (s.setCore c x).claimed = s.claimed := rfl

/-! ### State.setDie -/

@[simp] theorem State.setDie_cycle (s : State) (d : Nat) (x : Die) : (s.setDie d x).cycle = s.cycle := rfl
@[simp] theorem State.setDie_counted (s : State) (d : Nat) (x : Die) : (s.setDie d x).counted = s.counted := rfl
@[simp] theorem State.setDie_nextId (s : State) (d : Nat) (x : Die) : (s.setDie d x).nextId = s.nextId := rfl
@[simp] theorem State.setDie_cur (s : State) (d : Nat) (x : Die) : (s.setDie d x).cur = s.cur := rfl
@[simp] theorem State.setDie_rr (s : State) (d : Nat) (x : Die) : (s.setDie d x).rr = s.rr := rfl
@[simp] theorem State.setDie_inputs (s : State) (d : Nat) (x : Die) : (s.setDie d x).inputs = s.inputs := rfl
@[simp] theorem State.setDie_upsets (s : State) (d : Nat) (x : Die) : (s.setDie d x).upsets = s.upsets := rfl
@[simp] theorem State.setDie_inflight (s : State) (d : Nat) (x : Die) : (s.setDie d x).inflight = s.inflight := rfl
@[simp] theorem State.setDie_ring (s : State) (d : Nat) (x : Die) : (s.setDie d x).ring = s.ring := rfl
@[simp] theorem State.setDie_parked (s : State) (d : Nat) (x : Die) : (s.setDie d x).parked = s.parked := rfl
@[simp] theorem State.setDie_mem (s : State) (d : Nat) (x : Die) : (s.setDie d x).mem = s.mem := rfl
@[simp] theorem State.setDie_poison (s : State) (d : Nat) (x : Die) : (s.setDie d x).poison = s.poison := rfl
@[simp] theorem State.setDie_poisonLost (s : State) (d : Nat) (x : Die) : (s.setDie d x).poisonLost = s.poisonLost := rfl
@[simp] theorem State.setDie_homeHeld (s : State) (d : Nat) (x : Die) : (s.setDie d x).homeHeld = s.homeHeld := rfl
@[simp] theorem State.setDie_rawFrames (s : State) (d : Nat) (x : Die) : (s.setDie d x).rawFrames = s.rawFrames := rfl
@[simp] theorem State.setDie_cores (s : State) (d : Nat) (x : Die) : (s.setDie d x).cores = s.cores := rfl
@[simp] theorem State.setDie_dies (s : State) (d : Nat) (x : Die) : (s.setDie d x).dies = s.dies.set d x Die.moduleReset := rfl
@[simp] theorem State.setDie_iods (s : State) (d : Nat) (x : Die) : (s.setDie d x).iods = s.iods := rfl
@[simp] theorem State.setDie_queues (s : State) (d : Nat) (x : Die) : (s.setDie d x).queues = s.queues := rfl
@[simp] theorem State.setDie_cmds (s : State) (d : Nat) (x : Die) : (s.setDie d x).cmds = s.cmds := rfl
@[simp] theorem State.setDie_chains (s : State) (d : Nat) (x : Die) : (s.setDie d x).chains = s.chains := rfl
@[simp] theorem State.setDie_rods (s : State) (d : Nat) (x : Die) : (s.setDie d x).rods = s.rods := rfl
@[simp] theorem State.setDie_furlongs (s : State) (d : Nat) (x : Die) : (s.setDie d x).furlongs = s.furlongs := rfl
@[simp] theorem State.setDie_ops (s : State) (d : Nat) (x : Die) : (s.setDie d x).ops = s.ops := rfl
@[simp] theorem State.setDie_cancels (s : State) (d : Nat) (x : Die) : (s.setDie d x).cancels = s.cancels := rfl
@[simp] theorem State.setDie_roundDue (s : State) (d : Nat) (x : Die) : (s.setDie d x).roundDue = s.roundDue := rfl
@[simp] theorem State.setDie_lastRound (s : State) (d : Nat) (x : Die) : (s.setDie d x).lastRound = s.lastRound := rfl
@[simp] theorem State.setDie_appended (s : State) (d : Nat) (x : Die) : (s.setDie d x).appended = s.appended := rfl
@[simp] theorem State.setDie_astb (s : State) (d : Nat) (x : Die) : (s.setDie d x).astb = s.astb := rfl
@[simp] theorem State.setDie_ast (s : State) (d : Nat) (x : Die) : (s.setDie d x).ast = s.ast := rfl
@[simp] theorem State.setDie_xlia (s : State) (d : Nat) (x : Die) : (s.setDie d x).xlia = s.xlia := rfl
@[simp] theorem State.setDie_xlic (s : State) (d : Nat) (x : Die) : (s.setDie d x).xlic = s.xlic := rfl
@[simp] theorem State.setDie_xlicOps (s : State) (d : Nat) (x : Die) : (s.setDie d x).xlicOps = s.xlicOps := rfl
@[simp] theorem State.setDie_xlicWords (s : State) (d : Nat) (x : Die) : (s.setDie d x).xlicWords = s.xlicWords := rfl
@[simp] theorem State.setDie_canc (s : State) (d : Nat) (x : Die) : (s.setDie d x).canc = s.canc := rfl
@[simp] theorem State.setDie_preq (s : State) (d : Nat) (x : Die) : (s.setDie d x).preq = s.preq := rfl
@[simp] theorem State.setDie_brkcfg (s : State) (d : Nat) (x : Die) : (s.setDie d x).brkcfg = s.brkcfg := rfl
@[simp] theorem State.setDie_brkva (s : State) (d : Nat) (x : Die) : (s.setDie d x).brkva = s.brkva := rfl
@[simp] theorem State.setDie_brkpa (s : State) (d : Nat) (x : Die) : (s.setDie d x).brkpa = s.brkpa := rfl
@[simp] theorem State.setDie_brklen (s : State) (d : Nat) (x : Die) : (s.setDie d x).brklen = s.brklen := rfl
@[simp] theorem State.setDie_powered (s : State) (d : Nat) (x : Die) : (s.setDie d x).powered = s.powered := rfl
@[simp] theorem State.setDie_diest (s : State) (d : Nat) (x : Die) : (s.setDie d x).diest = s.diest := rfl
@[simp] theorem State.setDie_spdm (s : State) (d : Nat) (x : Die) : (s.setDie d x).spdm = s.spdm := rfl
@[simp] theorem State.setDie_links (s : State) (d : Nat) (x : Die) : (s.setDie d x).links = s.links := rfl
@[simp] theorem State.setDie_linkDown (s : State) (d : Nat) (x : Die) : (s.setDie d x).linkDown = s.linkDown := rfl
@[simp] theorem State.setDie_queuesOpen (s : State) (d : Nat) (x : Die) : (s.setDie d x).queuesOpen = s.queuesOpen := rfl
@[simp] theorem State.setDie_outbox (s : State) (d : Nat) (x : Die) : (s.setDie d x).outbox = s.outbox := rfl
@[simp] theorem State.setDie_qps (s : State) (d : Nat) (x : Die) : (s.setDie d x).qps = s.qps := rfl
@[simp] theorem State.setDie_claimed (s : State) (d : Nat) (x : Die) : (s.setDie d x).claimed = s.claimed := rfl

/-! ### State.setIod -/

@[simp] theorem State.setIod_cycle (s : State) (i : Nat) (x : IoDie) : (s.setIod i x).cycle = s.cycle := rfl
@[simp] theorem State.setIod_counted (s : State) (i : Nat) (x : IoDie) : (s.setIod i x).counted = s.counted := rfl
@[simp] theorem State.setIod_nextId (s : State) (i : Nat) (x : IoDie) : (s.setIod i x).nextId = s.nextId := rfl
@[simp] theorem State.setIod_cur (s : State) (i : Nat) (x : IoDie) : (s.setIod i x).cur = s.cur := rfl
@[simp] theorem State.setIod_rr (s : State) (i : Nat) (x : IoDie) : (s.setIod i x).rr = s.rr := rfl
@[simp] theorem State.setIod_inputs (s : State) (i : Nat) (x : IoDie) : (s.setIod i x).inputs = s.inputs := rfl
@[simp] theorem State.setIod_upsets (s : State) (i : Nat) (x : IoDie) : (s.setIod i x).upsets = s.upsets := rfl
@[simp] theorem State.setIod_inflight (s : State) (i : Nat) (x : IoDie) : (s.setIod i x).inflight = s.inflight := rfl
@[simp] theorem State.setIod_ring (s : State) (i : Nat) (x : IoDie) : (s.setIod i x).ring = s.ring := rfl
@[simp] theorem State.setIod_parked (s : State) (i : Nat) (x : IoDie) : (s.setIod i x).parked = s.parked := rfl
@[simp] theorem State.setIod_mem (s : State) (i : Nat) (x : IoDie) : (s.setIod i x).mem = s.mem := rfl
@[simp] theorem State.setIod_poison (s : State) (i : Nat) (x : IoDie) : (s.setIod i x).poison = s.poison := rfl
@[simp] theorem State.setIod_poisonLost (s : State) (i : Nat) (x : IoDie) : (s.setIod i x).poisonLost = s.poisonLost := rfl
@[simp] theorem State.setIod_homeHeld (s : State) (i : Nat) (x : IoDie) : (s.setIod i x).homeHeld = s.homeHeld := rfl
@[simp] theorem State.setIod_rawFrames (s : State) (i : Nat) (x : IoDie) : (s.setIod i x).rawFrames = s.rawFrames := rfl
@[simp] theorem State.setIod_cores (s : State) (i : Nat) (x : IoDie) : (s.setIod i x).cores = s.cores := rfl
@[simp] theorem State.setIod_dies (s : State) (i : Nat) (x : IoDie) : (s.setIod i x).dies = s.dies := rfl
@[simp] theorem State.setIod_iods (s : State) (i : Nat) (x : IoDie) : (s.setIod i x).iods = s.iods.set i x IoDie.reset := rfl
@[simp] theorem State.setIod_queues (s : State) (i : Nat) (x : IoDie) : (s.setIod i x).queues = s.queues := rfl
@[simp] theorem State.setIod_cmds (s : State) (i : Nat) (x : IoDie) : (s.setIod i x).cmds = s.cmds := rfl
@[simp] theorem State.setIod_chains (s : State) (i : Nat) (x : IoDie) : (s.setIod i x).chains = s.chains := rfl
@[simp] theorem State.setIod_rods (s : State) (i : Nat) (x : IoDie) : (s.setIod i x).rods = s.rods := rfl
@[simp] theorem State.setIod_furlongs (s : State) (i : Nat) (x : IoDie) : (s.setIod i x).furlongs = s.furlongs := rfl
@[simp] theorem State.setIod_ops (s : State) (i : Nat) (x : IoDie) : (s.setIod i x).ops = s.ops := rfl
@[simp] theorem State.setIod_cancels (s : State) (i : Nat) (x : IoDie) : (s.setIod i x).cancels = s.cancels := rfl
@[simp] theorem State.setIod_roundDue (s : State) (i : Nat) (x : IoDie) : (s.setIod i x).roundDue = s.roundDue := rfl
@[simp] theorem State.setIod_lastRound (s : State) (i : Nat) (x : IoDie) : (s.setIod i x).lastRound = s.lastRound := rfl
@[simp] theorem State.setIod_appended (s : State) (i : Nat) (x : IoDie) : (s.setIod i x).appended = s.appended := rfl
@[simp] theorem State.setIod_astb (s : State) (i : Nat) (x : IoDie) : (s.setIod i x).astb = s.astb := rfl
@[simp] theorem State.setIod_ast (s : State) (i : Nat) (x : IoDie) : (s.setIod i x).ast = s.ast := rfl
@[simp] theorem State.setIod_xlia (s : State) (i : Nat) (x : IoDie) : (s.setIod i x).xlia = s.xlia := rfl
@[simp] theorem State.setIod_xlic (s : State) (i : Nat) (x : IoDie) : (s.setIod i x).xlic = s.xlic := rfl
@[simp] theorem State.setIod_xlicOps (s : State) (i : Nat) (x : IoDie) : (s.setIod i x).xlicOps = s.xlicOps := rfl
@[simp] theorem State.setIod_xlicWords (s : State) (i : Nat) (x : IoDie) : (s.setIod i x).xlicWords = s.xlicWords := rfl
@[simp] theorem State.setIod_canc (s : State) (i : Nat) (x : IoDie) : (s.setIod i x).canc = s.canc := rfl
@[simp] theorem State.setIod_preq (s : State) (i : Nat) (x : IoDie) : (s.setIod i x).preq = s.preq := rfl
@[simp] theorem State.setIod_brkcfg (s : State) (i : Nat) (x : IoDie) : (s.setIod i x).brkcfg = s.brkcfg := rfl
@[simp] theorem State.setIod_brkva (s : State) (i : Nat) (x : IoDie) : (s.setIod i x).brkva = s.brkva := rfl
@[simp] theorem State.setIod_brkpa (s : State) (i : Nat) (x : IoDie) : (s.setIod i x).brkpa = s.brkpa := rfl
@[simp] theorem State.setIod_brklen (s : State) (i : Nat) (x : IoDie) : (s.setIod i x).brklen = s.brklen := rfl
@[simp] theorem State.setIod_powered (s : State) (i : Nat) (x : IoDie) : (s.setIod i x).powered = s.powered := rfl
@[simp] theorem State.setIod_diest (s : State) (i : Nat) (x : IoDie) : (s.setIod i x).diest = s.diest := rfl
@[simp] theorem State.setIod_spdm (s : State) (i : Nat) (x : IoDie) : (s.setIod i x).spdm = s.spdm := rfl
@[simp] theorem State.setIod_links (s : State) (i : Nat) (x : IoDie) : (s.setIod i x).links = s.links := rfl
@[simp] theorem State.setIod_linkDown (s : State) (i : Nat) (x : IoDie) : (s.setIod i x).linkDown = s.linkDown := rfl
@[simp] theorem State.setIod_queuesOpen (s : State) (i : Nat) (x : IoDie) : (s.setIod i x).queuesOpen = s.queuesOpen := rfl
@[simp] theorem State.setIod_outbox (s : State) (i : Nat) (x : IoDie) : (s.setIod i x).outbox = s.outbox := rfl
@[simp] theorem State.setIod_qps (s : State) (i : Nat) (x : IoDie) : (s.setIod i x).qps = s.qps := rfl
@[simp] theorem State.setIod_claimed (s : State) (i : Nat) (x : IoDie) : (s.setIod i x).claimed = s.claimed := rfl

/-! ### State.setQueue -/

@[simp] theorem State.setQueue_cycle (s : State) (q : Nat) (x : Queue) : (s.setQueue q x).cycle = s.cycle := rfl
@[simp] theorem State.setQueue_counted (s : State) (q : Nat) (x : Queue) : (s.setQueue q x).counted = s.counted := rfl
@[simp] theorem State.setQueue_nextId (s : State) (q : Nat) (x : Queue) : (s.setQueue q x).nextId = s.nextId := rfl
@[simp] theorem State.setQueue_cur (s : State) (q : Nat) (x : Queue) : (s.setQueue q x).cur = s.cur := rfl
@[simp] theorem State.setQueue_rr (s : State) (q : Nat) (x : Queue) : (s.setQueue q x).rr = s.rr := rfl
@[simp] theorem State.setQueue_inputs (s : State) (q : Nat) (x : Queue) : (s.setQueue q x).inputs = s.inputs := rfl
@[simp] theorem State.setQueue_upsets (s : State) (q : Nat) (x : Queue) : (s.setQueue q x).upsets = s.upsets := rfl
@[simp] theorem State.setQueue_inflight (s : State) (q : Nat) (x : Queue) : (s.setQueue q x).inflight = s.inflight := rfl
@[simp] theorem State.setQueue_ring (s : State) (q : Nat) (x : Queue) : (s.setQueue q x).ring = s.ring := rfl
@[simp] theorem State.setQueue_parked (s : State) (q : Nat) (x : Queue) : (s.setQueue q x).parked = s.parked := rfl
@[simp] theorem State.setQueue_mem (s : State) (q : Nat) (x : Queue) : (s.setQueue q x).mem = s.mem := rfl
@[simp] theorem State.setQueue_poison (s : State) (q : Nat) (x : Queue) : (s.setQueue q x).poison = s.poison := rfl
@[simp] theorem State.setQueue_poisonLost (s : State) (q : Nat) (x : Queue) : (s.setQueue q x).poisonLost = s.poisonLost := rfl
@[simp] theorem State.setQueue_homeHeld (s : State) (q : Nat) (x : Queue) : (s.setQueue q x).homeHeld = s.homeHeld := rfl
@[simp] theorem State.setQueue_rawFrames (s : State) (q : Nat) (x : Queue) : (s.setQueue q x).rawFrames = s.rawFrames := rfl
@[simp] theorem State.setQueue_cores (s : State) (q : Nat) (x : Queue) : (s.setQueue q x).cores = s.cores := rfl
@[simp] theorem State.setQueue_dies (s : State) (q : Nat) (x : Queue) : (s.setQueue q x).dies = s.dies := rfl
@[simp] theorem State.setQueue_iods (s : State) (q : Nat) (x : Queue) : (s.setQueue q x).iods = s.iods := rfl
@[simp] theorem State.setQueue_queues (s : State) (q : Nat) (x : Queue) : (s.setQueue q x).queues = s.queues.set q x Queue.reset := rfl
@[simp] theorem State.setQueue_cmds (s : State) (q : Nat) (x : Queue) : (s.setQueue q x).cmds = s.cmds := rfl
@[simp] theorem State.setQueue_chains (s : State) (q : Nat) (x : Queue) : (s.setQueue q x).chains = s.chains := rfl
@[simp] theorem State.setQueue_rods (s : State) (q : Nat) (x : Queue) : (s.setQueue q x).rods = s.rods := rfl
@[simp] theorem State.setQueue_furlongs (s : State) (q : Nat) (x : Queue) : (s.setQueue q x).furlongs = s.furlongs := rfl
@[simp] theorem State.setQueue_ops (s : State) (q : Nat) (x : Queue) : (s.setQueue q x).ops = s.ops := rfl
@[simp] theorem State.setQueue_cancels (s : State) (q : Nat) (x : Queue) : (s.setQueue q x).cancels = s.cancels := rfl
@[simp] theorem State.setQueue_roundDue (s : State) (q : Nat) (x : Queue) : (s.setQueue q x).roundDue = s.roundDue := rfl
@[simp] theorem State.setQueue_lastRound (s : State) (q : Nat) (x : Queue) : (s.setQueue q x).lastRound = s.lastRound := rfl
@[simp] theorem State.setQueue_appended (s : State) (q : Nat) (x : Queue) : (s.setQueue q x).appended = s.appended := rfl
@[simp] theorem State.setQueue_astb (s : State) (q : Nat) (x : Queue) : (s.setQueue q x).astb = s.astb := rfl
@[simp] theorem State.setQueue_ast (s : State) (q : Nat) (x : Queue) : (s.setQueue q x).ast = s.ast := rfl
@[simp] theorem State.setQueue_xlia (s : State) (q : Nat) (x : Queue) : (s.setQueue q x).xlia = s.xlia := rfl
@[simp] theorem State.setQueue_xlic (s : State) (q : Nat) (x : Queue) : (s.setQueue q x).xlic = s.xlic := rfl
@[simp] theorem State.setQueue_xlicOps (s : State) (q : Nat) (x : Queue) : (s.setQueue q x).xlicOps = s.xlicOps := rfl
@[simp] theorem State.setQueue_xlicWords (s : State) (q : Nat) (x : Queue) : (s.setQueue q x).xlicWords = s.xlicWords := rfl
@[simp] theorem State.setQueue_canc (s : State) (q : Nat) (x : Queue) : (s.setQueue q x).canc = s.canc := rfl
@[simp] theorem State.setQueue_preq (s : State) (q : Nat) (x : Queue) : (s.setQueue q x).preq = s.preq := rfl
@[simp] theorem State.setQueue_brkcfg (s : State) (q : Nat) (x : Queue) : (s.setQueue q x).brkcfg = s.brkcfg := rfl
@[simp] theorem State.setQueue_brkva (s : State) (q : Nat) (x : Queue) : (s.setQueue q x).brkva = s.brkva := rfl
@[simp] theorem State.setQueue_brkpa (s : State) (q : Nat) (x : Queue) : (s.setQueue q x).brkpa = s.brkpa := rfl
@[simp] theorem State.setQueue_brklen (s : State) (q : Nat) (x : Queue) : (s.setQueue q x).brklen = s.brklen := rfl
@[simp] theorem State.setQueue_powered (s : State) (q : Nat) (x : Queue) : (s.setQueue q x).powered = s.powered := rfl
@[simp] theorem State.setQueue_diest (s : State) (q : Nat) (x : Queue) : (s.setQueue q x).diest = s.diest := rfl
@[simp] theorem State.setQueue_spdm (s : State) (q : Nat) (x : Queue) : (s.setQueue q x).spdm = s.spdm := rfl
@[simp] theorem State.setQueue_links (s : State) (q : Nat) (x : Queue) : (s.setQueue q x).links = s.links := rfl
@[simp] theorem State.setQueue_linkDown (s : State) (q : Nat) (x : Queue) : (s.setQueue q x).linkDown = s.linkDown := rfl
@[simp] theorem State.setQueue_queuesOpen (s : State) (q : Nat) (x : Queue) : (s.setQueue q x).queuesOpen = s.queuesOpen := rfl
@[simp] theorem State.setQueue_outbox (s : State) (q : Nat) (x : Queue) : (s.setQueue q x).outbox = s.outbox := rfl
@[simp] theorem State.setQueue_qps (s : State) (q : Nat) (x : Queue) : (s.setQueue q x).qps = s.qps := rfl
@[simp] theorem State.setQueue_claimed (s : State) (q : Nat) (x : Queue) : (s.setQueue q x).claimed = s.claimed := rfl

/-! ### State.setCmd -/

@[simp] theorem State.setCmd_cycle (s : State) (n : Nat) (x : Cmd) : (s.setCmd n x).cycle = s.cycle := rfl
@[simp] theorem State.setCmd_counted (s : State) (n : Nat) (x : Cmd) : (s.setCmd n x).counted = s.counted := rfl
@[simp] theorem State.setCmd_nextId (s : State) (n : Nat) (x : Cmd) : (s.setCmd n x).nextId = s.nextId := rfl
@[simp] theorem State.setCmd_cur (s : State) (n : Nat) (x : Cmd) : (s.setCmd n x).cur = s.cur := rfl
@[simp] theorem State.setCmd_rr (s : State) (n : Nat) (x : Cmd) : (s.setCmd n x).rr = s.rr := rfl
@[simp] theorem State.setCmd_inputs (s : State) (n : Nat) (x : Cmd) : (s.setCmd n x).inputs = s.inputs := rfl
@[simp] theorem State.setCmd_upsets (s : State) (n : Nat) (x : Cmd) : (s.setCmd n x).upsets = s.upsets := rfl
@[simp] theorem State.setCmd_inflight (s : State) (n : Nat) (x : Cmd) : (s.setCmd n x).inflight = s.inflight := rfl
@[simp] theorem State.setCmd_ring (s : State) (n : Nat) (x : Cmd) : (s.setCmd n x).ring = s.ring := rfl
@[simp] theorem State.setCmd_parked (s : State) (n : Nat) (x : Cmd) : (s.setCmd n x).parked = s.parked := rfl
@[simp] theorem State.setCmd_mem (s : State) (n : Nat) (x : Cmd) : (s.setCmd n x).mem = s.mem := rfl
@[simp] theorem State.setCmd_poison (s : State) (n : Nat) (x : Cmd) : (s.setCmd n x).poison = s.poison := rfl
@[simp] theorem State.setCmd_poisonLost (s : State) (n : Nat) (x : Cmd) : (s.setCmd n x).poisonLost = s.poisonLost := rfl
@[simp] theorem State.setCmd_homeHeld (s : State) (n : Nat) (x : Cmd) : (s.setCmd n x).homeHeld = s.homeHeld := rfl
@[simp] theorem State.setCmd_rawFrames (s : State) (n : Nat) (x : Cmd) : (s.setCmd n x).rawFrames = s.rawFrames := rfl
@[simp] theorem State.setCmd_cores (s : State) (n : Nat) (x : Cmd) : (s.setCmd n x).cores = s.cores := rfl
@[simp] theorem State.setCmd_dies (s : State) (n : Nat) (x : Cmd) : (s.setCmd n x).dies = s.dies := rfl
@[simp] theorem State.setCmd_iods (s : State) (n : Nat) (x : Cmd) : (s.setCmd n x).iods = s.iods := rfl
@[simp] theorem State.setCmd_queues (s : State) (n : Nat) (x : Cmd) : (s.setCmd n x).queues = s.queues := rfl
@[simp] theorem State.setCmd_cmds (s : State) (n : Nat) (x : Cmd) : (s.setCmd n x).cmds = s.cmds.put n x := rfl
@[simp] theorem State.setCmd_chains (s : State) (n : Nat) (x : Cmd) : (s.setCmd n x).chains = s.chains := rfl
@[simp] theorem State.setCmd_rods (s : State) (n : Nat) (x : Cmd) : (s.setCmd n x).rods = s.rods := rfl
@[simp] theorem State.setCmd_furlongs (s : State) (n : Nat) (x : Cmd) : (s.setCmd n x).furlongs = s.furlongs := rfl
@[simp] theorem State.setCmd_ops (s : State) (n : Nat) (x : Cmd) : (s.setCmd n x).ops = s.ops := rfl
@[simp] theorem State.setCmd_cancels (s : State) (n : Nat) (x : Cmd) : (s.setCmd n x).cancels = s.cancels := rfl
@[simp] theorem State.setCmd_roundDue (s : State) (n : Nat) (x : Cmd) : (s.setCmd n x).roundDue = s.roundDue := rfl
@[simp] theorem State.setCmd_lastRound (s : State) (n : Nat) (x : Cmd) : (s.setCmd n x).lastRound = s.lastRound := rfl
@[simp] theorem State.setCmd_appended (s : State) (n : Nat) (x : Cmd) : (s.setCmd n x).appended = s.appended := rfl
@[simp] theorem State.setCmd_astb (s : State) (n : Nat) (x : Cmd) : (s.setCmd n x).astb = s.astb := rfl
@[simp] theorem State.setCmd_ast (s : State) (n : Nat) (x : Cmd) : (s.setCmd n x).ast = s.ast := rfl
@[simp] theorem State.setCmd_xlia (s : State) (n : Nat) (x : Cmd) : (s.setCmd n x).xlia = s.xlia := rfl
@[simp] theorem State.setCmd_xlic (s : State) (n : Nat) (x : Cmd) : (s.setCmd n x).xlic = s.xlic := rfl
@[simp] theorem State.setCmd_xlicOps (s : State) (n : Nat) (x : Cmd) : (s.setCmd n x).xlicOps = s.xlicOps := rfl
@[simp] theorem State.setCmd_xlicWords (s : State) (n : Nat) (x : Cmd) : (s.setCmd n x).xlicWords = s.xlicWords := rfl
@[simp] theorem State.setCmd_canc (s : State) (n : Nat) (x : Cmd) : (s.setCmd n x).canc = s.canc := rfl
@[simp] theorem State.setCmd_preq (s : State) (n : Nat) (x : Cmd) : (s.setCmd n x).preq = s.preq := rfl
@[simp] theorem State.setCmd_brkcfg (s : State) (n : Nat) (x : Cmd) : (s.setCmd n x).brkcfg = s.brkcfg := rfl
@[simp] theorem State.setCmd_brkva (s : State) (n : Nat) (x : Cmd) : (s.setCmd n x).brkva = s.brkva := rfl
@[simp] theorem State.setCmd_brkpa (s : State) (n : Nat) (x : Cmd) : (s.setCmd n x).brkpa = s.brkpa := rfl
@[simp] theorem State.setCmd_brklen (s : State) (n : Nat) (x : Cmd) : (s.setCmd n x).brklen = s.brklen := rfl
@[simp] theorem State.setCmd_powered (s : State) (n : Nat) (x : Cmd) : (s.setCmd n x).powered = s.powered := rfl
@[simp] theorem State.setCmd_diest (s : State) (n : Nat) (x : Cmd) : (s.setCmd n x).diest = s.diest := rfl
@[simp] theorem State.setCmd_spdm (s : State) (n : Nat) (x : Cmd) : (s.setCmd n x).spdm = s.spdm := rfl
@[simp] theorem State.setCmd_links (s : State) (n : Nat) (x : Cmd) : (s.setCmd n x).links = s.links := rfl
@[simp] theorem State.setCmd_linkDown (s : State) (n : Nat) (x : Cmd) : (s.setCmd n x).linkDown = s.linkDown := rfl
@[simp] theorem State.setCmd_queuesOpen (s : State) (n : Nat) (x : Cmd) : (s.setCmd n x).queuesOpen = s.queuesOpen := rfl
@[simp] theorem State.setCmd_outbox (s : State) (n : Nat) (x : Cmd) : (s.setCmd n x).outbox = s.outbox := rfl
@[simp] theorem State.setCmd_qps (s : State) (n : Nat) (x : Cmd) : (s.setCmd n x).qps = s.qps := rfl
@[simp] theorem State.setCmd_claimed (s : State) (n : Nat) (x : Cmd) : (s.setCmd n x).claimed = s.claimed := rfl

/-! ### State.setChain -/

@[simp] theorem State.setChain_cycle (s : State) (n : Nat) (x : Chain) : (s.setChain n x).cycle = s.cycle := rfl
@[simp] theorem State.setChain_counted (s : State) (n : Nat) (x : Chain) : (s.setChain n x).counted = s.counted := rfl
@[simp] theorem State.setChain_nextId (s : State) (n : Nat) (x : Chain) : (s.setChain n x).nextId = s.nextId := rfl
@[simp] theorem State.setChain_cur (s : State) (n : Nat) (x : Chain) : (s.setChain n x).cur = s.cur := rfl
@[simp] theorem State.setChain_rr (s : State) (n : Nat) (x : Chain) : (s.setChain n x).rr = s.rr := rfl
@[simp] theorem State.setChain_inputs (s : State) (n : Nat) (x : Chain) : (s.setChain n x).inputs = s.inputs := rfl
@[simp] theorem State.setChain_upsets (s : State) (n : Nat) (x : Chain) : (s.setChain n x).upsets = s.upsets := rfl
@[simp] theorem State.setChain_inflight (s : State) (n : Nat) (x : Chain) : (s.setChain n x).inflight = s.inflight := rfl
@[simp] theorem State.setChain_ring (s : State) (n : Nat) (x : Chain) : (s.setChain n x).ring = s.ring := rfl
@[simp] theorem State.setChain_parked (s : State) (n : Nat) (x : Chain) : (s.setChain n x).parked = s.parked := rfl
@[simp] theorem State.setChain_mem (s : State) (n : Nat) (x : Chain) : (s.setChain n x).mem = s.mem := rfl
@[simp] theorem State.setChain_poison (s : State) (n : Nat) (x : Chain) : (s.setChain n x).poison = s.poison := rfl
@[simp] theorem State.setChain_poisonLost (s : State) (n : Nat) (x : Chain) : (s.setChain n x).poisonLost = s.poisonLost := rfl
@[simp] theorem State.setChain_homeHeld (s : State) (n : Nat) (x : Chain) : (s.setChain n x).homeHeld = s.homeHeld := rfl
@[simp] theorem State.setChain_rawFrames (s : State) (n : Nat) (x : Chain) : (s.setChain n x).rawFrames = s.rawFrames := rfl
@[simp] theorem State.setChain_cores (s : State) (n : Nat) (x : Chain) : (s.setChain n x).cores = s.cores := rfl
@[simp] theorem State.setChain_dies (s : State) (n : Nat) (x : Chain) : (s.setChain n x).dies = s.dies := rfl
@[simp] theorem State.setChain_iods (s : State) (n : Nat) (x : Chain) : (s.setChain n x).iods = s.iods := rfl
@[simp] theorem State.setChain_queues (s : State) (n : Nat) (x : Chain) : (s.setChain n x).queues = s.queues := rfl
@[simp] theorem State.setChain_cmds (s : State) (n : Nat) (x : Chain) : (s.setChain n x).cmds = s.cmds := rfl
@[simp] theorem State.setChain_chains (s : State) (n : Nat) (x : Chain) : (s.setChain n x).chains = s.chains.put n x := rfl
@[simp] theorem State.setChain_rods (s : State) (n : Nat) (x : Chain) : (s.setChain n x).rods = s.rods := rfl
@[simp] theorem State.setChain_furlongs (s : State) (n : Nat) (x : Chain) : (s.setChain n x).furlongs = s.furlongs := rfl
@[simp] theorem State.setChain_ops (s : State) (n : Nat) (x : Chain) : (s.setChain n x).ops = s.ops := rfl
@[simp] theorem State.setChain_cancels (s : State) (n : Nat) (x : Chain) : (s.setChain n x).cancels = s.cancels := rfl
@[simp] theorem State.setChain_roundDue (s : State) (n : Nat) (x : Chain) : (s.setChain n x).roundDue = s.roundDue := rfl
@[simp] theorem State.setChain_lastRound (s : State) (n : Nat) (x : Chain) : (s.setChain n x).lastRound = s.lastRound := rfl
@[simp] theorem State.setChain_appended (s : State) (n : Nat) (x : Chain) : (s.setChain n x).appended = s.appended := rfl
@[simp] theorem State.setChain_astb (s : State) (n : Nat) (x : Chain) : (s.setChain n x).astb = s.astb := rfl
@[simp] theorem State.setChain_ast (s : State) (n : Nat) (x : Chain) : (s.setChain n x).ast = s.ast := rfl
@[simp] theorem State.setChain_xlia (s : State) (n : Nat) (x : Chain) : (s.setChain n x).xlia = s.xlia := rfl
@[simp] theorem State.setChain_xlic (s : State) (n : Nat) (x : Chain) : (s.setChain n x).xlic = s.xlic := rfl
@[simp] theorem State.setChain_xlicOps (s : State) (n : Nat) (x : Chain) : (s.setChain n x).xlicOps = s.xlicOps := rfl
@[simp] theorem State.setChain_xlicWords (s : State) (n : Nat) (x : Chain) : (s.setChain n x).xlicWords = s.xlicWords := rfl
@[simp] theorem State.setChain_canc (s : State) (n : Nat) (x : Chain) : (s.setChain n x).canc = s.canc := rfl
@[simp] theorem State.setChain_preq (s : State) (n : Nat) (x : Chain) : (s.setChain n x).preq = s.preq := rfl
@[simp] theorem State.setChain_brkcfg (s : State) (n : Nat) (x : Chain) : (s.setChain n x).brkcfg = s.brkcfg := rfl
@[simp] theorem State.setChain_brkva (s : State) (n : Nat) (x : Chain) : (s.setChain n x).brkva = s.brkva := rfl
@[simp] theorem State.setChain_brkpa (s : State) (n : Nat) (x : Chain) : (s.setChain n x).brkpa = s.brkpa := rfl
@[simp] theorem State.setChain_brklen (s : State) (n : Nat) (x : Chain) : (s.setChain n x).brklen = s.brklen := rfl
@[simp] theorem State.setChain_powered (s : State) (n : Nat) (x : Chain) : (s.setChain n x).powered = s.powered := rfl
@[simp] theorem State.setChain_diest (s : State) (n : Nat) (x : Chain) : (s.setChain n x).diest = s.diest := rfl
@[simp] theorem State.setChain_spdm (s : State) (n : Nat) (x : Chain) : (s.setChain n x).spdm = s.spdm := rfl
@[simp] theorem State.setChain_links (s : State) (n : Nat) (x : Chain) : (s.setChain n x).links = s.links := rfl
@[simp] theorem State.setChain_linkDown (s : State) (n : Nat) (x : Chain) : (s.setChain n x).linkDown = s.linkDown := rfl
@[simp] theorem State.setChain_queuesOpen (s : State) (n : Nat) (x : Chain) : (s.setChain n x).queuesOpen = s.queuesOpen := rfl
@[simp] theorem State.setChain_outbox (s : State) (n : Nat) (x : Chain) : (s.setChain n x).outbox = s.outbox := rfl
@[simp] theorem State.setChain_qps (s : State) (n : Nat) (x : Chain) : (s.setChain n x).qps = s.qps := rfl
@[simp] theorem State.setChain_claimed (s : State) (n : Nat) (x : Chain) : (s.setChain n x).claimed = s.claimed := rfl

/-! ### State.setRod -/

@[simp] theorem State.setRod_cycle (s : State) (r : RodId) (x : Rod) : (s.setRod r x).cycle = s.cycle := rfl
@[simp] theorem State.setRod_counted (s : State) (r : RodId) (x : Rod) : (s.setRod r x).counted = s.counted := rfl
@[simp] theorem State.setRod_nextId (s : State) (r : RodId) (x : Rod) : (s.setRod r x).nextId = s.nextId := rfl
@[simp] theorem State.setRod_cur (s : State) (r : RodId) (x : Rod) : (s.setRod r x).cur = s.cur := rfl
@[simp] theorem State.setRod_rr (s : State) (r : RodId) (x : Rod) : (s.setRod r x).rr = s.rr := rfl
@[simp] theorem State.setRod_inputs (s : State) (r : RodId) (x : Rod) : (s.setRod r x).inputs = s.inputs := rfl
@[simp] theorem State.setRod_upsets (s : State) (r : RodId) (x : Rod) : (s.setRod r x).upsets = s.upsets := rfl
@[simp] theorem State.setRod_inflight (s : State) (r : RodId) (x : Rod) : (s.setRod r x).inflight = s.inflight := rfl
@[simp] theorem State.setRod_ring (s : State) (r : RodId) (x : Rod) : (s.setRod r x).ring = s.ring := rfl
@[simp] theorem State.setRod_parked (s : State) (r : RodId) (x : Rod) : (s.setRod r x).parked = s.parked := rfl
@[simp] theorem State.setRod_mem (s : State) (r : RodId) (x : Rod) : (s.setRod r x).mem = s.mem := rfl
@[simp] theorem State.setRod_poison (s : State) (r : RodId) (x : Rod) : (s.setRod r x).poison = s.poison := rfl
@[simp] theorem State.setRod_poisonLost (s : State) (r : RodId) (x : Rod) : (s.setRod r x).poisonLost = s.poisonLost := rfl
@[simp] theorem State.setRod_homeHeld (s : State) (r : RodId) (x : Rod) : (s.setRod r x).homeHeld = s.homeHeld := rfl
@[simp] theorem State.setRod_rawFrames (s : State) (r : RodId) (x : Rod) : (s.setRod r x).rawFrames = s.rawFrames := rfl
@[simp] theorem State.setRod_cores (s : State) (r : RodId) (x : Rod) : (s.setRod r x).cores = s.cores := rfl
@[simp] theorem State.setRod_dies (s : State) (r : RodId) (x : Rod) : (s.setRod r x).dies = s.dies := rfl
@[simp] theorem State.setRod_iods (s : State) (r : RodId) (x : Rod) : (s.setRod r x).iods = s.iods := rfl
@[simp] theorem State.setRod_queues (s : State) (r : RodId) (x : Rod) : (s.setRod r x).queues = s.queues := rfl
@[simp] theorem State.setRod_cmds (s : State) (r : RodId) (x : Rod) : (s.setRod r x).cmds = s.cmds := rfl
@[simp] theorem State.setRod_chains (s : State) (r : RodId) (x : Rod) : (s.setRod r x).chains = s.chains := rfl
@[simp] theorem State.setRod_rods (s : State) (r : RodId) (x : Rod) : (s.setRod r x).rods = s.rods.put (rodKey r) x := rfl
@[simp] theorem State.setRod_furlongs (s : State) (r : RodId) (x : Rod) : (s.setRod r x).furlongs = s.furlongs := rfl
@[simp] theorem State.setRod_ops (s : State) (r : RodId) (x : Rod) : (s.setRod r x).ops = s.ops := rfl
@[simp] theorem State.setRod_cancels (s : State) (r : RodId) (x : Rod) : (s.setRod r x).cancels = s.cancels := rfl
@[simp] theorem State.setRod_roundDue (s : State) (r : RodId) (x : Rod) : (s.setRod r x).roundDue = s.roundDue := rfl
@[simp] theorem State.setRod_lastRound (s : State) (r : RodId) (x : Rod) : (s.setRod r x).lastRound = s.lastRound := rfl
@[simp] theorem State.setRod_appended (s : State) (r : RodId) (x : Rod) : (s.setRod r x).appended = s.appended := rfl
@[simp] theorem State.setRod_astb (s : State) (r : RodId) (x : Rod) : (s.setRod r x).astb = s.astb := rfl
@[simp] theorem State.setRod_ast (s : State) (r : RodId) (x : Rod) : (s.setRod r x).ast = s.ast := rfl
@[simp] theorem State.setRod_xlia (s : State) (r : RodId) (x : Rod) : (s.setRod r x).xlia = s.xlia := rfl
@[simp] theorem State.setRod_xlic (s : State) (r : RodId) (x : Rod) : (s.setRod r x).xlic = s.xlic := rfl
@[simp] theorem State.setRod_xlicOps (s : State) (r : RodId) (x : Rod) : (s.setRod r x).xlicOps = s.xlicOps := rfl
@[simp] theorem State.setRod_xlicWords (s : State) (r : RodId) (x : Rod) : (s.setRod r x).xlicWords = s.xlicWords := rfl
@[simp] theorem State.setRod_canc (s : State) (r : RodId) (x : Rod) : (s.setRod r x).canc = s.canc := rfl
@[simp] theorem State.setRod_preq (s : State) (r : RodId) (x : Rod) : (s.setRod r x).preq = s.preq := rfl
@[simp] theorem State.setRod_brkcfg (s : State) (r : RodId) (x : Rod) : (s.setRod r x).brkcfg = s.brkcfg := rfl
@[simp] theorem State.setRod_brkva (s : State) (r : RodId) (x : Rod) : (s.setRod r x).brkva = s.brkva := rfl
@[simp] theorem State.setRod_brkpa (s : State) (r : RodId) (x : Rod) : (s.setRod r x).brkpa = s.brkpa := rfl
@[simp] theorem State.setRod_brklen (s : State) (r : RodId) (x : Rod) : (s.setRod r x).brklen = s.brklen := rfl
@[simp] theorem State.setRod_powered (s : State) (r : RodId) (x : Rod) : (s.setRod r x).powered = s.powered := rfl
@[simp] theorem State.setRod_diest (s : State) (r : RodId) (x : Rod) : (s.setRod r x).diest = s.diest := rfl
@[simp] theorem State.setRod_spdm (s : State) (r : RodId) (x : Rod) : (s.setRod r x).spdm = s.spdm := rfl
@[simp] theorem State.setRod_links (s : State) (r : RodId) (x : Rod) : (s.setRod r x).links = s.links := rfl
@[simp] theorem State.setRod_linkDown (s : State) (r : RodId) (x : Rod) : (s.setRod r x).linkDown = s.linkDown := rfl
@[simp] theorem State.setRod_queuesOpen (s : State) (r : RodId) (x : Rod) : (s.setRod r x).queuesOpen = s.queuesOpen := rfl
@[simp] theorem State.setRod_outbox (s : State) (r : RodId) (x : Rod) : (s.setRod r x).outbox = s.outbox := rfl
@[simp] theorem State.setRod_qps (s : State) (r : RodId) (x : Rod) : (s.setRod r x).qps = s.qps := rfl
@[simp] theorem State.setRod_claimed (s : State) (r : RodId) (x : Rod) : (s.setRod r x).claimed = s.claimed := rfl

/-! ### State.setOp -/

@[simp] theorem State.setOp_cycle (s : State) (n : Nat) (x : Op) : (s.setOp n x).cycle = s.cycle := rfl
@[simp] theorem State.setOp_counted (s : State) (n : Nat) (x : Op) : (s.setOp n x).counted = s.counted := rfl
@[simp] theorem State.setOp_nextId (s : State) (n : Nat) (x : Op) : (s.setOp n x).nextId = s.nextId := rfl
@[simp] theorem State.setOp_cur (s : State) (n : Nat) (x : Op) : (s.setOp n x).cur = s.cur := rfl
@[simp] theorem State.setOp_rr (s : State) (n : Nat) (x : Op) : (s.setOp n x).rr = s.rr := rfl
@[simp] theorem State.setOp_inputs (s : State) (n : Nat) (x : Op) : (s.setOp n x).inputs = s.inputs := rfl
@[simp] theorem State.setOp_upsets (s : State) (n : Nat) (x : Op) : (s.setOp n x).upsets = s.upsets := rfl
@[simp] theorem State.setOp_inflight (s : State) (n : Nat) (x : Op) : (s.setOp n x).inflight = s.inflight := rfl
@[simp] theorem State.setOp_ring (s : State) (n : Nat) (x : Op) : (s.setOp n x).ring = s.ring := rfl
@[simp] theorem State.setOp_parked (s : State) (n : Nat) (x : Op) : (s.setOp n x).parked = s.parked := rfl
@[simp] theorem State.setOp_mem (s : State) (n : Nat) (x : Op) : (s.setOp n x).mem = s.mem := rfl
@[simp] theorem State.setOp_poison (s : State) (n : Nat) (x : Op) : (s.setOp n x).poison = s.poison := rfl
@[simp] theorem State.setOp_poisonLost (s : State) (n : Nat) (x : Op) : (s.setOp n x).poisonLost = s.poisonLost := rfl
@[simp] theorem State.setOp_homeHeld (s : State) (n : Nat) (x : Op) : (s.setOp n x).homeHeld = s.homeHeld := rfl
@[simp] theorem State.setOp_rawFrames (s : State) (n : Nat) (x : Op) : (s.setOp n x).rawFrames = s.rawFrames := rfl
@[simp] theorem State.setOp_cores (s : State) (n : Nat) (x : Op) : (s.setOp n x).cores = s.cores := rfl
@[simp] theorem State.setOp_dies (s : State) (n : Nat) (x : Op) : (s.setOp n x).dies = s.dies := rfl
@[simp] theorem State.setOp_iods (s : State) (n : Nat) (x : Op) : (s.setOp n x).iods = s.iods := rfl
@[simp] theorem State.setOp_queues (s : State) (n : Nat) (x : Op) : (s.setOp n x).queues = s.queues := rfl
@[simp] theorem State.setOp_cmds (s : State) (n : Nat) (x : Op) : (s.setOp n x).cmds = s.cmds := rfl
@[simp] theorem State.setOp_chains (s : State) (n : Nat) (x : Op) : (s.setOp n x).chains = s.chains := rfl
@[simp] theorem State.setOp_rods (s : State) (n : Nat) (x : Op) : (s.setOp n x).rods = s.rods := rfl
@[simp] theorem State.setOp_furlongs (s : State) (n : Nat) (x : Op) : (s.setOp n x).furlongs = s.furlongs := rfl
@[simp] theorem State.setOp_ops (s : State) (n : Nat) (x : Op) : (s.setOp n x).ops = s.ops.put n x := rfl
@[simp] theorem State.setOp_cancels (s : State) (n : Nat) (x : Op) : (s.setOp n x).cancels = s.cancels := rfl
@[simp] theorem State.setOp_roundDue (s : State) (n : Nat) (x : Op) : (s.setOp n x).roundDue = s.roundDue := rfl
@[simp] theorem State.setOp_lastRound (s : State) (n : Nat) (x : Op) : (s.setOp n x).lastRound = s.lastRound := rfl
@[simp] theorem State.setOp_appended (s : State) (n : Nat) (x : Op) : (s.setOp n x).appended = s.appended := rfl
@[simp] theorem State.setOp_astb (s : State) (n : Nat) (x : Op) : (s.setOp n x).astb = s.astb := rfl
@[simp] theorem State.setOp_ast (s : State) (n : Nat) (x : Op) : (s.setOp n x).ast = s.ast := rfl
@[simp] theorem State.setOp_xlia (s : State) (n : Nat) (x : Op) : (s.setOp n x).xlia = s.xlia := rfl
@[simp] theorem State.setOp_xlic (s : State) (n : Nat) (x : Op) : (s.setOp n x).xlic = s.xlic := rfl
@[simp] theorem State.setOp_xlicOps (s : State) (n : Nat) (x : Op) : (s.setOp n x).xlicOps = s.xlicOps := rfl
@[simp] theorem State.setOp_xlicWords (s : State) (n : Nat) (x : Op) : (s.setOp n x).xlicWords = s.xlicWords := rfl
@[simp] theorem State.setOp_canc (s : State) (n : Nat) (x : Op) : (s.setOp n x).canc = s.canc := rfl
@[simp] theorem State.setOp_preq (s : State) (n : Nat) (x : Op) : (s.setOp n x).preq = s.preq := rfl
@[simp] theorem State.setOp_brkcfg (s : State) (n : Nat) (x : Op) : (s.setOp n x).brkcfg = s.brkcfg := rfl
@[simp] theorem State.setOp_brkva (s : State) (n : Nat) (x : Op) : (s.setOp n x).brkva = s.brkva := rfl
@[simp] theorem State.setOp_brkpa (s : State) (n : Nat) (x : Op) : (s.setOp n x).brkpa = s.brkpa := rfl
@[simp] theorem State.setOp_brklen (s : State) (n : Nat) (x : Op) : (s.setOp n x).brklen = s.brklen := rfl
@[simp] theorem State.setOp_powered (s : State) (n : Nat) (x : Op) : (s.setOp n x).powered = s.powered := rfl
@[simp] theorem State.setOp_diest (s : State) (n : Nat) (x : Op) : (s.setOp n x).diest = s.diest := rfl
@[simp] theorem State.setOp_spdm (s : State) (n : Nat) (x : Op) : (s.setOp n x).spdm = s.spdm := rfl
@[simp] theorem State.setOp_links (s : State) (n : Nat) (x : Op) : (s.setOp n x).links = s.links := rfl
@[simp] theorem State.setOp_linkDown (s : State) (n : Nat) (x : Op) : (s.setOp n x).linkDown = s.linkDown := rfl
@[simp] theorem State.setOp_queuesOpen (s : State) (n : Nat) (x : Op) : (s.setOp n x).queuesOpen = s.queuesOpen := rfl
@[simp] theorem State.setOp_outbox (s : State) (n : Nat) (x : Op) : (s.setOp n x).outbox = s.outbox := rfl
@[simp] theorem State.setOp_qps (s : State) (n : Nat) (x : Op) : (s.setOp n x).qps = s.qps := rfl
@[simp] theorem State.setOp_claimed (s : State) (n : Nat) (x : Op) : (s.setOp n x).claimed = s.claimed := rfl

/-! ### State.send -/

@[simp] theorem State.send_cycle (s : State) (i : Instr) : (s.send i).cycle = s.cycle := rfl
@[simp] theorem State.send_counted (s : State) (i : Instr) : (s.send i).counted = s.counted := rfl
@[simp] theorem State.send_nextId (s : State) (i : Instr) : (s.send i).nextId = s.nextId := rfl
@[simp] theorem State.send_cur (s : State) (i : Instr) : (s.send i).cur = s.cur := rfl
@[simp] theorem State.send_rr (s : State) (i : Instr) : (s.send i).rr = s.rr := rfl
@[simp] theorem State.send_inputs (s : State) (i : Instr) : (s.send i).inputs = s.inputs := rfl
@[simp] theorem State.send_upsets (s : State) (i : Instr) : (s.send i).upsets = s.upsets := rfl
@[simp] theorem State.send_inflight (s : State) (i : Instr) : (s.send i).inflight = s.inflight ++ [i] := rfl
@[simp] theorem State.send_ring (s : State) (i : Instr) : (s.send i).ring = s.ring := rfl
@[simp] theorem State.send_parked (s : State) (i : Instr) : (s.send i).parked = s.parked := rfl
@[simp] theorem State.send_mem (s : State) (i : Instr) : (s.send i).mem = s.mem := rfl
@[simp] theorem State.send_poison (s : State) (i : Instr) : (s.send i).poison = s.poison := rfl
@[simp] theorem State.send_poisonLost (s : State) (i : Instr) : (s.send i).poisonLost = s.poisonLost := rfl
@[simp] theorem State.send_homeHeld (s : State) (i : Instr) : (s.send i).homeHeld = s.homeHeld := rfl
@[simp] theorem State.send_rawFrames (s : State) (i : Instr) : (s.send i).rawFrames = s.rawFrames := rfl
@[simp] theorem State.send_cores (s : State) (i : Instr) : (s.send i).cores = s.cores := rfl
@[simp] theorem State.send_dies (s : State) (i : Instr) : (s.send i).dies = s.dies := rfl
@[simp] theorem State.send_iods (s : State) (i : Instr) : (s.send i).iods = s.iods := rfl
@[simp] theorem State.send_queues (s : State) (i : Instr) : (s.send i).queues = s.queues := rfl
@[simp] theorem State.send_cmds (s : State) (i : Instr) : (s.send i).cmds = s.cmds := rfl
@[simp] theorem State.send_chains (s : State) (i : Instr) : (s.send i).chains = s.chains := rfl
@[simp] theorem State.send_rods (s : State) (i : Instr) : (s.send i).rods = s.rods := rfl
@[simp] theorem State.send_furlongs (s : State) (i : Instr) : (s.send i).furlongs = s.furlongs := rfl
@[simp] theorem State.send_ops (s : State) (i : Instr) : (s.send i).ops = s.ops := rfl
@[simp] theorem State.send_cancels (s : State) (i : Instr) : (s.send i).cancels = s.cancels := rfl
@[simp] theorem State.send_roundDue (s : State) (i : Instr) : (s.send i).roundDue = s.roundDue := rfl
@[simp] theorem State.send_lastRound (s : State) (i : Instr) : (s.send i).lastRound = s.lastRound := rfl
@[simp] theorem State.send_appended (s : State) (i : Instr) : (s.send i).appended = s.appended := rfl
@[simp] theorem State.send_astb (s : State) (i : Instr) : (s.send i).astb = s.astb := rfl
@[simp] theorem State.send_ast (s : State) (i : Instr) : (s.send i).ast = s.ast := rfl
@[simp] theorem State.send_xlia (s : State) (i : Instr) : (s.send i).xlia = s.xlia := rfl
@[simp] theorem State.send_xlic (s : State) (i : Instr) : (s.send i).xlic = s.xlic := rfl
@[simp] theorem State.send_xlicOps (s : State) (i : Instr) : (s.send i).xlicOps = s.xlicOps := rfl
@[simp] theorem State.send_xlicWords (s : State) (i : Instr) : (s.send i).xlicWords = s.xlicWords := rfl
@[simp] theorem State.send_canc (s : State) (i : Instr) : (s.send i).canc = s.canc := rfl
@[simp] theorem State.send_preq (s : State) (i : Instr) : (s.send i).preq = s.preq := rfl
@[simp] theorem State.send_brkcfg (s : State) (i : Instr) : (s.send i).brkcfg = s.brkcfg := rfl
@[simp] theorem State.send_brkva (s : State) (i : Instr) : (s.send i).brkva = s.brkva := rfl
@[simp] theorem State.send_brkpa (s : State) (i : Instr) : (s.send i).brkpa = s.brkpa := rfl
@[simp] theorem State.send_brklen (s : State) (i : Instr) : (s.send i).brklen = s.brklen := rfl
@[simp] theorem State.send_powered (s : State) (i : Instr) : (s.send i).powered = s.powered := rfl
@[simp] theorem State.send_diest (s : State) (i : Instr) : (s.send i).diest = s.diest := rfl
@[simp] theorem State.send_spdm (s : State) (i : Instr) : (s.send i).spdm = s.spdm := rfl
@[simp] theorem State.send_links (s : State) (i : Instr) : (s.send i).links = s.links := rfl
@[simp] theorem State.send_linkDown (s : State) (i : Instr) : (s.send i).linkDown = s.linkDown := rfl
@[simp] theorem State.send_queuesOpen (s : State) (i : Instr) : (s.send i).queuesOpen = s.queuesOpen := rfl
@[simp] theorem State.send_outbox (s : State) (i : Instr) : (s.send i).outbox = s.outbox := rfl
@[simp] theorem State.send_qps (s : State) (i : Instr) : (s.send i).qps = s.qps := rfl
@[simp] theorem State.send_claimed (s : State) (i : Instr) : (s.send i).claimed = s.claimed := rfl

/-! ### State.setByte -/

@[simp] theorem State.setByte_cycle (s : State) (p : Nat) (v : Byte) : (s.setByte p v).cycle = s.cycle := rfl
@[simp] theorem State.setByte_counted (s : State) (p : Nat) (v : Byte) : (s.setByte p v).counted = s.counted := rfl
@[simp] theorem State.setByte_nextId (s : State) (p : Nat) (v : Byte) : (s.setByte p v).nextId = s.nextId := rfl
@[simp] theorem State.setByte_cur (s : State) (p : Nat) (v : Byte) : (s.setByte p v).cur = s.cur := rfl
@[simp] theorem State.setByte_rr (s : State) (p : Nat) (v : Byte) : (s.setByte p v).rr = s.rr := rfl
@[simp] theorem State.setByte_inputs (s : State) (p : Nat) (v : Byte) : (s.setByte p v).inputs = s.inputs := rfl
@[simp] theorem State.setByte_upsets (s : State) (p : Nat) (v : Byte) : (s.setByte p v).upsets = s.upsets := rfl
@[simp] theorem State.setByte_inflight (s : State) (p : Nat) (v : Byte) : (s.setByte p v).inflight = s.inflight := rfl
@[simp] theorem State.setByte_ring (s : State) (p : Nat) (v : Byte) : (s.setByte p v).ring = s.ring := rfl
@[simp] theorem State.setByte_parked (s : State) (p : Nat) (v : Byte) : (s.setByte p v).parked = s.parked := rfl
@[simp] theorem State.setByte_mem (s : State) (p : Nat) (v : Byte) : (s.setByte p v).mem = Tbl.set s.mem p v 0 := rfl
@[simp] theorem State.setByte_poison (s : State) (p : Nat) (v : Byte) : (s.setByte p v).poison = s.poison := rfl
@[simp] theorem State.setByte_poisonLost (s : State) (p : Nat) (v : Byte) : (s.setByte p v).poisonLost = s.poisonLost := rfl
@[simp] theorem State.setByte_homeHeld (s : State) (p : Nat) (v : Byte) : (s.setByte p v).homeHeld = s.homeHeld := rfl
@[simp] theorem State.setByte_rawFrames (s : State) (p : Nat) (v : Byte) : (s.setByte p v).rawFrames = s.rawFrames := rfl
@[simp] theorem State.setByte_cores (s : State) (p : Nat) (v : Byte) : (s.setByte p v).cores = s.cores := rfl
@[simp] theorem State.setByte_dies (s : State) (p : Nat) (v : Byte) : (s.setByte p v).dies = s.dies := rfl
@[simp] theorem State.setByte_iods (s : State) (p : Nat) (v : Byte) : (s.setByte p v).iods = s.iods := rfl
@[simp] theorem State.setByte_queues (s : State) (p : Nat) (v : Byte) : (s.setByte p v).queues = s.queues := rfl
@[simp] theorem State.setByte_cmds (s : State) (p : Nat) (v : Byte) : (s.setByte p v).cmds = s.cmds := rfl
@[simp] theorem State.setByte_chains (s : State) (p : Nat) (v : Byte) : (s.setByte p v).chains = s.chains := rfl
@[simp] theorem State.setByte_rods (s : State) (p : Nat) (v : Byte) : (s.setByte p v).rods = s.rods := rfl
@[simp] theorem State.setByte_furlongs (s : State) (p : Nat) (v : Byte) : (s.setByte p v).furlongs = s.furlongs := rfl
@[simp] theorem State.setByte_ops (s : State) (p : Nat) (v : Byte) : (s.setByte p v).ops = s.ops := rfl
@[simp] theorem State.setByte_cancels (s : State) (p : Nat) (v : Byte) : (s.setByte p v).cancels = s.cancels := rfl
@[simp] theorem State.setByte_roundDue (s : State) (p : Nat) (v : Byte) : (s.setByte p v).roundDue = s.roundDue := rfl
@[simp] theorem State.setByte_lastRound (s : State) (p : Nat) (v : Byte) : (s.setByte p v).lastRound = s.lastRound := rfl
@[simp] theorem State.setByte_appended (s : State) (p : Nat) (v : Byte) : (s.setByte p v).appended = s.appended := rfl
@[simp] theorem State.setByte_astb (s : State) (p : Nat) (v : Byte) : (s.setByte p v).astb = s.astb := rfl
@[simp] theorem State.setByte_ast (s : State) (p : Nat) (v : Byte) : (s.setByte p v).ast = s.ast := rfl
@[simp] theorem State.setByte_xlia (s : State) (p : Nat) (v : Byte) : (s.setByte p v).xlia = s.xlia := rfl
@[simp] theorem State.setByte_xlic (s : State) (p : Nat) (v : Byte) : (s.setByte p v).xlic = s.xlic := rfl
@[simp] theorem State.setByte_xlicOps (s : State) (p : Nat) (v : Byte) : (s.setByte p v).xlicOps = s.xlicOps := rfl
@[simp] theorem State.setByte_xlicWords (s : State) (p : Nat) (v : Byte) : (s.setByte p v).xlicWords = s.xlicWords := rfl
@[simp] theorem State.setByte_canc (s : State) (p : Nat) (v : Byte) : (s.setByte p v).canc = s.canc := rfl
@[simp] theorem State.setByte_preq (s : State) (p : Nat) (v : Byte) : (s.setByte p v).preq = s.preq := rfl
@[simp] theorem State.setByte_brkcfg (s : State) (p : Nat) (v : Byte) : (s.setByte p v).brkcfg = s.brkcfg := rfl
@[simp] theorem State.setByte_brkva (s : State) (p : Nat) (v : Byte) : (s.setByte p v).brkva = s.brkva := rfl
@[simp] theorem State.setByte_brkpa (s : State) (p : Nat) (v : Byte) : (s.setByte p v).brkpa = s.brkpa := rfl
@[simp] theorem State.setByte_brklen (s : State) (p : Nat) (v : Byte) : (s.setByte p v).brklen = s.brklen := rfl
@[simp] theorem State.setByte_powered (s : State) (p : Nat) (v : Byte) : (s.setByte p v).powered = s.powered := rfl
@[simp] theorem State.setByte_diest (s : State) (p : Nat) (v : Byte) : (s.setByte p v).diest = s.diest := rfl
@[simp] theorem State.setByte_spdm (s : State) (p : Nat) (v : Byte) : (s.setByte p v).spdm = s.spdm := rfl
@[simp] theorem State.setByte_links (s : State) (p : Nat) (v : Byte) : (s.setByte p v).links = s.links := rfl
@[simp] theorem State.setByte_linkDown (s : State) (p : Nat) (v : Byte) : (s.setByte p v).linkDown = s.linkDown := rfl
@[simp] theorem State.setByte_queuesOpen (s : State) (p : Nat) (v : Byte) : (s.setByte p v).queuesOpen = s.queuesOpen := rfl
@[simp] theorem State.setByte_outbox (s : State) (p : Nat) (v : Byte) : (s.setByte p v).outbox = s.outbox := rfl
@[simp] theorem State.setByte_qps (s : State) (p : Nat) (v : Byte) : (s.setByte p v).qps = s.qps := rfl
@[simp] theorem State.setByte_claimed (s : State) (p : Nat) (v : Byte) : (s.setByte p v).claimed = s.claimed := rfl

/-! ### State.setDieState -/

@[simp] theorem State.setDieState_cycle (s : State) (k : Nat) (x : DieSt) : (s.setDieState k x).cycle = s.cycle := rfl
@[simp] theorem State.setDieState_counted (s : State) (k : Nat) (x : DieSt) : (s.setDieState k x).counted = s.counted := rfl
@[simp] theorem State.setDieState_nextId (s : State) (k : Nat) (x : DieSt) : (s.setDieState k x).nextId = s.nextId := rfl
@[simp] theorem State.setDieState_cur (s : State) (k : Nat) (x : DieSt) : (s.setDieState k x).cur = s.cur := rfl
@[simp] theorem State.setDieState_rr (s : State) (k : Nat) (x : DieSt) : (s.setDieState k x).rr = s.rr := rfl
@[simp] theorem State.setDieState_inputs (s : State) (k : Nat) (x : DieSt) : (s.setDieState k x).inputs = s.inputs := rfl
@[simp] theorem State.setDieState_upsets (s : State) (k : Nat) (x : DieSt) : (s.setDieState k x).upsets = s.upsets := rfl
@[simp] theorem State.setDieState_inflight (s : State) (k : Nat) (x : DieSt) : (s.setDieState k x).inflight = s.inflight := rfl
@[simp] theorem State.setDieState_ring (s : State) (k : Nat) (x : DieSt) : (s.setDieState k x).ring = s.ring := rfl
@[simp] theorem State.setDieState_parked (s : State) (k : Nat) (x : DieSt) : (s.setDieState k x).parked = s.parked := rfl
@[simp] theorem State.setDieState_mem (s : State) (k : Nat) (x : DieSt) : (s.setDieState k x).mem = s.mem := rfl
@[simp] theorem State.setDieState_poison (s : State) (k : Nat) (x : DieSt) : (s.setDieState k x).poison = s.poison := rfl
@[simp] theorem State.setDieState_poisonLost (s : State) (k : Nat) (x : DieSt) : (s.setDieState k x).poisonLost = s.poisonLost := rfl
@[simp] theorem State.setDieState_homeHeld (s : State) (k : Nat) (x : DieSt) : (s.setDieState k x).homeHeld = s.homeHeld := rfl
@[simp] theorem State.setDieState_rawFrames (s : State) (k : Nat) (x : DieSt) : (s.setDieState k x).rawFrames = s.rawFrames := rfl
@[simp] theorem State.setDieState_cores (s : State) (k : Nat) (x : DieSt) : (s.setDieState k x).cores = s.cores := rfl
@[simp] theorem State.setDieState_dies (s : State) (k : Nat) (x : DieSt) : (s.setDieState k x).dies = s.dies := rfl
@[simp] theorem State.setDieState_iods (s : State) (k : Nat) (x : DieSt) : (s.setDieState k x).iods = s.iods := rfl
@[simp] theorem State.setDieState_queues (s : State) (k : Nat) (x : DieSt) : (s.setDieState k x).queues = s.queues := rfl
@[simp] theorem State.setDieState_cmds (s : State) (k : Nat) (x : DieSt) : (s.setDieState k x).cmds = s.cmds := rfl
@[simp] theorem State.setDieState_chains (s : State) (k : Nat) (x : DieSt) : (s.setDieState k x).chains = s.chains := rfl
@[simp] theorem State.setDieState_rods (s : State) (k : Nat) (x : DieSt) : (s.setDieState k x).rods = s.rods := rfl
@[simp] theorem State.setDieState_furlongs (s : State) (k : Nat) (x : DieSt) : (s.setDieState k x).furlongs = s.furlongs := rfl
@[simp] theorem State.setDieState_ops (s : State) (k : Nat) (x : DieSt) : (s.setDieState k x).ops = s.ops := rfl
@[simp] theorem State.setDieState_cancels (s : State) (k : Nat) (x : DieSt) : (s.setDieState k x).cancels = s.cancels := rfl
@[simp] theorem State.setDieState_roundDue (s : State) (k : Nat) (x : DieSt) : (s.setDieState k x).roundDue = s.roundDue := rfl
@[simp] theorem State.setDieState_lastRound (s : State) (k : Nat) (x : DieSt) : (s.setDieState k x).lastRound = s.lastRound := rfl
@[simp] theorem State.setDieState_appended (s : State) (k : Nat) (x : DieSt) : (s.setDieState k x).appended = s.appended := rfl
@[simp] theorem State.setDieState_astb (s : State) (k : Nat) (x : DieSt) : (s.setDieState k x).astb = s.astb := rfl
@[simp] theorem State.setDieState_ast (s : State) (k : Nat) (x : DieSt) : (s.setDieState k x).ast = s.ast := rfl
@[simp] theorem State.setDieState_xlia (s : State) (k : Nat) (x : DieSt) : (s.setDieState k x).xlia = s.xlia := rfl
@[simp] theorem State.setDieState_xlic (s : State) (k : Nat) (x : DieSt) : (s.setDieState k x).xlic = s.xlic := rfl
@[simp] theorem State.setDieState_xlicOps (s : State) (k : Nat) (x : DieSt) : (s.setDieState k x).xlicOps = s.xlicOps := rfl
@[simp] theorem State.setDieState_xlicWords (s : State) (k : Nat) (x : DieSt) : (s.setDieState k x).xlicWords = s.xlicWords := rfl
@[simp] theorem State.setDieState_canc (s : State) (k : Nat) (x : DieSt) : (s.setDieState k x).canc = s.canc := rfl
@[simp] theorem State.setDieState_preq (s : State) (k : Nat) (x : DieSt) : (s.setDieState k x).preq = s.preq := rfl
@[simp] theorem State.setDieState_brkcfg (s : State) (k : Nat) (x : DieSt) : (s.setDieState k x).brkcfg = s.brkcfg := rfl
@[simp] theorem State.setDieState_brkva (s : State) (k : Nat) (x : DieSt) : (s.setDieState k x).brkva = s.brkva := rfl
@[simp] theorem State.setDieState_brkpa (s : State) (k : Nat) (x : DieSt) : (s.setDieState k x).brkpa = s.brkpa := rfl
@[simp] theorem State.setDieState_brklen (s : State) (k : Nat) (x : DieSt) : (s.setDieState k x).brklen = s.brklen := rfl
@[simp] theorem State.setDieState_powered (s : State) (k : Nat) (x : DieSt) : (s.setDieState k x).powered = s.powered := rfl
@[simp] theorem State.setDieState_diest (s : State) (k : Nat) (x : DieSt) : (s.setDieState k x).diest = s.diest.set k x .off := rfl
@[simp] theorem State.setDieState_spdm (s : State) (k : Nat) (x : DieSt) : (s.setDieState k x).spdm = s.spdm := rfl
@[simp] theorem State.setDieState_links (s : State) (k : Nat) (x : DieSt) : (s.setDieState k x).links = s.links := rfl
@[simp] theorem State.setDieState_linkDown (s : State) (k : Nat) (x : DieSt) : (s.setDieState k x).linkDown = s.linkDown := rfl
@[simp] theorem State.setDieState_queuesOpen (s : State) (k : Nat) (x : DieSt) : (s.setDieState k x).queuesOpen = s.queuesOpen := rfl
@[simp] theorem State.setDieState_outbox (s : State) (k : Nat) (x : DieSt) : (s.setDieState k x).outbox = s.outbox := rfl
@[simp] theorem State.setDieState_qps (s : State) (k : Nat) (x : DieSt) : (s.setDieState k x).qps = s.qps := rfl
@[simp] theorem State.setDieState_claimed (s : State) (k : Nat) (x : DieSt) : (s.setDieState k x).claimed = s.claimed := rfl

/-! ### Reading a part after it was written -/

@[simp] theorem State.cmd_setCmd (s : State) (n : Nat) (x : Cmd) : (s.setCmd n x).cmd n = some x := by simp [State.cmd]

@[simp] theorem State.chain_setChain (s : State) (n : Nat) (x : Chain) : (s.setChain n x).chain n = some x := by simp [State.chain]

@[simp] theorem State.rod_setRod (s : State) (r : RodId) (x : Rod) : (s.setRod r x).rod r = some x := by simp [State.rod]

@[simp] theorem State.op_setOp (s : State) (n : Nat) (x : Op) : (s.setOp n x).op n = some x := by simp [State.op]

@[simp] theorem State.core_setCore (s : State) (c : CoreId) (x : Core) : (s.setCore c x).core c = x := by simp [State.core]

@[simp] theorem State.die_setDie (s : State) (d : Nat) (x : Die) : (s.setDie d x).die d = x := by simp [State.die]

@[simp] theorem State.iod_setIod (s : State) (i : Nat) (x : IoDie) : (s.setIod i x).iod i = x := by simp [State.iod]

@[simp] theorem State.queue_setQueue (s : State) (q : Nat) (x : Queue) : (s.setQueue q x).queue q = x := by simp [State.queue]

@[simp] theorem State.dieState_setDieState (s : State) (k : Nat) (x : DieSt) : (s.setDieState k x).dieState k = x := by
  simp [State.dieState]

@[simp] theorem State.cmd_setCore' (s : State) (c : CoreId) (x : Core) (m : Nat) : (s.setCore c x).cmd m = s.cmd m := rfl
@[simp] theorem State.chain_setCore' (s : State) (c : CoreId) (x : Core) (m : Nat) : (s.setCore c x).chain m = s.chain m := rfl
@[simp] theorem State.rod_setCore' (s : State) (c : CoreId) (x : Core) (a : RodId) : (s.setCore c x).rod a = s.rod a := rfl
@[simp] theorem State.op_setCore' (s : State) (c : CoreId) (x : Core) (m : Nat) : (s.setCore c x).op m = s.op m := rfl
@[simp] theorem State.die_setCore' (s : State) (c : CoreId) (x : Core) (b : Nat) : (s.setCore c x).die b = s.die b := rfl
@[simp] theorem State.iod_setCore' (s : State) (c : CoreId) (x : Core) (b : Nat) : (s.setCore c x).iod b = s.iod b := rfl
@[simp] theorem State.queue_setCore' (s : State) (c : CoreId) (x : Core) (b : Nat) : (s.setCore c x).queue b = s.queue b := rfl
@[simp] theorem State.byte_setCore' (s : State) (c : CoreId) (x : Core) (b : Nat) : (s.setCore c x).byte b = s.byte b := rfl
@[simp] theorem State.dieState_setCore' (s : State) (c : CoreId) (x : Core) (b : Nat) : (s.setCore c x).dieState b = s.dieState b := rfl
@[simp] theorem State.cmd_setDie' (s : State) (d : Nat) (x : Die) (m : Nat) : (s.setDie d x).cmd m = s.cmd m := rfl
@[simp] theorem State.chain_setDie' (s : State) (d : Nat) (x : Die) (m : Nat) : (s.setDie d x).chain m = s.chain m := rfl
@[simp] theorem State.rod_setDie' (s : State) (d : Nat) (x : Die) (a : RodId) : (s.setDie d x).rod a = s.rod a := rfl
@[simp] theorem State.op_setDie' (s : State) (d : Nat) (x : Die) (m : Nat) : (s.setDie d x).op m = s.op m := rfl
@[simp] theorem State.core_setDie' (s : State) (d : Nat) (x : Die) (a : CoreId) : (s.setDie d x).core a = s.core a := rfl
@[simp] theorem State.iod_setDie' (s : State) (d : Nat) (x : Die) (b : Nat) : (s.setDie d x).iod b = s.iod b := rfl
@[simp] theorem State.queue_setDie' (s : State) (d : Nat) (x : Die) (b : Nat) : (s.setDie d x).queue b = s.queue b := rfl
@[simp] theorem State.byte_setDie' (s : State) (d : Nat) (x : Die) (b : Nat) : (s.setDie d x).byte b = s.byte b := rfl
@[simp] theorem State.dieState_setDie' (s : State) (d : Nat) (x : Die) (b : Nat) : (s.setDie d x).dieState b = s.dieState b := rfl
@[simp] theorem State.cmd_setIod' (s : State) (i : Nat) (x : IoDie) (m : Nat) : (s.setIod i x).cmd m = s.cmd m := rfl
@[simp] theorem State.chain_setIod' (s : State) (i : Nat) (x : IoDie) (m : Nat) : (s.setIod i x).chain m = s.chain m := rfl
@[simp] theorem State.rod_setIod' (s : State) (i : Nat) (x : IoDie) (a : RodId) : (s.setIod i x).rod a = s.rod a := rfl
@[simp] theorem State.op_setIod' (s : State) (i : Nat) (x : IoDie) (m : Nat) : (s.setIod i x).op m = s.op m := rfl
@[simp] theorem State.core_setIod' (s : State) (i : Nat) (x : IoDie) (a : CoreId) : (s.setIod i x).core a = s.core a := rfl
@[simp] theorem State.die_setIod' (s : State) (i : Nat) (x : IoDie) (b : Nat) : (s.setIod i x).die b = s.die b := rfl
@[simp] theorem State.queue_setIod' (s : State) (i : Nat) (x : IoDie) (b : Nat) : (s.setIod i x).queue b = s.queue b := rfl
@[simp] theorem State.byte_setIod' (s : State) (i : Nat) (x : IoDie) (b : Nat) : (s.setIod i x).byte b = s.byte b := rfl
@[simp] theorem State.dieState_setIod' (s : State) (i : Nat) (x : IoDie) (b : Nat) : (s.setIod i x).dieState b = s.dieState b := rfl
@[simp] theorem State.cmd_setQueue' (s : State) (q : Nat) (x : Queue) (m : Nat) : (s.setQueue q x).cmd m = s.cmd m := rfl
@[simp] theorem State.chain_setQueue' (s : State) (q : Nat) (x : Queue) (m : Nat) : (s.setQueue q x).chain m = s.chain m := rfl
@[simp] theorem State.rod_setQueue' (s : State) (q : Nat) (x : Queue) (a : RodId) : (s.setQueue q x).rod a = s.rod a := rfl
@[simp] theorem State.op_setQueue' (s : State) (q : Nat) (x : Queue) (m : Nat) : (s.setQueue q x).op m = s.op m := rfl
@[simp] theorem State.core_setQueue' (s : State) (q : Nat) (x : Queue) (a : CoreId) : (s.setQueue q x).core a = s.core a := rfl
@[simp] theorem State.die_setQueue' (s : State) (q : Nat) (x : Queue) (b : Nat) : (s.setQueue q x).die b = s.die b := rfl
@[simp] theorem State.iod_setQueue' (s : State) (q : Nat) (x : Queue) (b : Nat) : (s.setQueue q x).iod b = s.iod b := rfl
@[simp] theorem State.byte_setQueue' (s : State) (q : Nat) (x : Queue) (b : Nat) : (s.setQueue q x).byte b = s.byte b := rfl
@[simp] theorem State.dieState_setQueue' (s : State) (q : Nat) (x : Queue) (b : Nat) : (s.setQueue q x).dieState b = s.dieState b := rfl
@[simp] theorem State.chain_setCmd' (s : State) (n : Nat) (x : Cmd) (m : Nat) : (s.setCmd n x).chain m = s.chain m := rfl
@[simp] theorem State.rod_setCmd' (s : State) (n : Nat) (x : Cmd) (a : RodId) : (s.setCmd n x).rod a = s.rod a := rfl
@[simp] theorem State.op_setCmd' (s : State) (n : Nat) (x : Cmd) (m : Nat) : (s.setCmd n x).op m = s.op m := rfl
@[simp] theorem State.core_setCmd' (s : State) (n : Nat) (x : Cmd) (a : CoreId) : (s.setCmd n x).core a = s.core a := rfl
@[simp] theorem State.die_setCmd' (s : State) (n : Nat) (x : Cmd) (b : Nat) : (s.setCmd n x).die b = s.die b := rfl
@[simp] theorem State.iod_setCmd' (s : State) (n : Nat) (x : Cmd) (b : Nat) : (s.setCmd n x).iod b = s.iod b := rfl
@[simp] theorem State.queue_setCmd' (s : State) (n : Nat) (x : Cmd) (b : Nat) : (s.setCmd n x).queue b = s.queue b := rfl
@[simp] theorem State.byte_setCmd' (s : State) (n : Nat) (x : Cmd) (b : Nat) : (s.setCmd n x).byte b = s.byte b := rfl
@[simp] theorem State.dieState_setCmd' (s : State) (n : Nat) (x : Cmd) (b : Nat) : (s.setCmd n x).dieState b = s.dieState b := rfl
@[simp] theorem State.cmd_setChain' (s : State) (n : Nat) (x : Chain) (m : Nat) : (s.setChain n x).cmd m = s.cmd m := rfl
@[simp] theorem State.rod_setChain' (s : State) (n : Nat) (x : Chain) (a : RodId) : (s.setChain n x).rod a = s.rod a := rfl
@[simp] theorem State.op_setChain' (s : State) (n : Nat) (x : Chain) (m : Nat) : (s.setChain n x).op m = s.op m := rfl
@[simp] theorem State.core_setChain' (s : State) (n : Nat) (x : Chain) (a : CoreId) : (s.setChain n x).core a = s.core a := rfl
@[simp] theorem State.die_setChain' (s : State) (n : Nat) (x : Chain) (b : Nat) : (s.setChain n x).die b = s.die b := rfl
@[simp] theorem State.iod_setChain' (s : State) (n : Nat) (x : Chain) (b : Nat) : (s.setChain n x).iod b = s.iod b := rfl
@[simp] theorem State.queue_setChain' (s : State) (n : Nat) (x : Chain) (b : Nat) : (s.setChain n x).queue b = s.queue b := rfl
@[simp] theorem State.byte_setChain' (s : State) (n : Nat) (x : Chain) (b : Nat) : (s.setChain n x).byte b = s.byte b := rfl
@[simp] theorem State.dieState_setChain' (s : State) (n : Nat) (x : Chain) (b : Nat) : (s.setChain n x).dieState b = s.dieState b := rfl
@[simp] theorem State.cmd_setRod' (s : State) (r : RodId) (x : Rod) (m : Nat) : (s.setRod r x).cmd m = s.cmd m := rfl
@[simp] theorem State.chain_setRod' (s : State) (r : RodId) (x : Rod) (m : Nat) : (s.setRod r x).chain m = s.chain m := rfl
@[simp] theorem State.op_setRod' (s : State) (r : RodId) (x : Rod) (m : Nat) : (s.setRod r x).op m = s.op m := rfl
@[simp] theorem State.core_setRod' (s : State) (r : RodId) (x : Rod) (a : CoreId) : (s.setRod r x).core a = s.core a := rfl
@[simp] theorem State.die_setRod' (s : State) (r : RodId) (x : Rod) (b : Nat) : (s.setRod r x).die b = s.die b := rfl
@[simp] theorem State.iod_setRod' (s : State) (r : RodId) (x : Rod) (b : Nat) : (s.setRod r x).iod b = s.iod b := rfl
@[simp] theorem State.queue_setRod' (s : State) (r : RodId) (x : Rod) (b : Nat) : (s.setRod r x).queue b = s.queue b := rfl
@[simp] theorem State.byte_setRod' (s : State) (r : RodId) (x : Rod) (b : Nat) : (s.setRod r x).byte b = s.byte b := rfl
@[simp] theorem State.dieState_setRod' (s : State) (r : RodId) (x : Rod) (b : Nat) : (s.setRod r x).dieState b = s.dieState b := rfl
@[simp] theorem State.cmd_setOp' (s : State) (n : Nat) (x : Op) (m : Nat) : (s.setOp n x).cmd m = s.cmd m := rfl
@[simp] theorem State.chain_setOp' (s : State) (n : Nat) (x : Op) (m : Nat) : (s.setOp n x).chain m = s.chain m := rfl
@[simp] theorem State.rod_setOp' (s : State) (n : Nat) (x : Op) (a : RodId) : (s.setOp n x).rod a = s.rod a := rfl
@[simp] theorem State.core_setOp' (s : State) (n : Nat) (x : Op) (a : CoreId) : (s.setOp n x).core a = s.core a := rfl
@[simp] theorem State.die_setOp' (s : State) (n : Nat) (x : Op) (b : Nat) : (s.setOp n x).die b = s.die b := rfl
@[simp] theorem State.iod_setOp' (s : State) (n : Nat) (x : Op) (b : Nat) : (s.setOp n x).iod b = s.iod b := rfl
@[simp] theorem State.queue_setOp' (s : State) (n : Nat) (x : Op) (b : Nat) : (s.setOp n x).queue b = s.queue b := rfl
@[simp] theorem State.byte_setOp' (s : State) (n : Nat) (x : Op) (b : Nat) : (s.setOp n x).byte b = s.byte b := rfl
@[simp] theorem State.dieState_setOp' (s : State) (n : Nat) (x : Op) (b : Nat) : (s.setOp n x).dieState b = s.dieState b := rfl
@[simp] theorem State.cmd_send' (s : State) (i : Instr) (m : Nat) : (s.send i).cmd m = s.cmd m := rfl
@[simp] theorem State.chain_send' (s : State) (i : Instr) (m : Nat) : (s.send i).chain m = s.chain m := rfl
@[simp] theorem State.rod_send' (s : State) (i : Instr) (a : RodId) : (s.send i).rod a = s.rod a := rfl
@[simp] theorem State.op_send' (s : State) (i : Instr) (m : Nat) : (s.send i).op m = s.op m := rfl
@[simp] theorem State.core_send' (s : State) (i : Instr) (a : CoreId) : (s.send i).core a = s.core a := rfl
@[simp] theorem State.die_send' (s : State) (i : Instr) (b : Nat) : (s.send i).die b = s.die b := rfl
@[simp] theorem State.iod_send' (s : State) (i : Instr) (b : Nat) : (s.send i).iod b = s.iod b := rfl
@[simp] theorem State.queue_send' (s : State) (i : Instr) (b : Nat) : (s.send i).queue b = s.queue b := rfl
@[simp] theorem State.byte_send' (s : State) (i : Instr) (b : Nat) : (s.send i).byte b = s.byte b := rfl
@[simp] theorem State.dieState_send' (s : State) (i : Instr) (b : Nat) : (s.send i).dieState b = s.dieState b := rfl
@[simp] theorem State.cmd_setByte' (s : State) (p : Nat) (v : Byte) (m : Nat) : (s.setByte p v).cmd m = s.cmd m := rfl
@[simp] theorem State.chain_setByte' (s : State) (p : Nat) (v : Byte) (m : Nat) : (s.setByte p v).chain m = s.chain m := rfl
@[simp] theorem State.rod_setByte' (s : State) (p : Nat) (v : Byte) (a : RodId) : (s.setByte p v).rod a = s.rod a := rfl
@[simp] theorem State.op_setByte' (s : State) (p : Nat) (v : Byte) (m : Nat) : (s.setByte p v).op m = s.op m := rfl
@[simp] theorem State.core_setByte' (s : State) (p : Nat) (v : Byte) (a : CoreId) : (s.setByte p v).core a = s.core a := rfl
@[simp] theorem State.die_setByte' (s : State) (p : Nat) (v : Byte) (b : Nat) : (s.setByte p v).die b = s.die b := rfl
@[simp] theorem State.iod_setByte' (s : State) (p : Nat) (v : Byte) (b : Nat) : (s.setByte p v).iod b = s.iod b := rfl
@[simp] theorem State.queue_setByte' (s : State) (p : Nat) (v : Byte) (b : Nat) : (s.setByte p v).queue b = s.queue b := rfl
@[simp] theorem State.dieState_setByte' (s : State) (p : Nat) (v : Byte) (b : Nat) : (s.setByte p v).dieState b = s.dieState b := rfl
@[simp] theorem State.cmd_setDieState' (s : State) (k : Nat) (x : DieSt) (m : Nat) : (s.setDieState k x).cmd m = s.cmd m := rfl
@[simp] theorem State.chain_setDieState' (s : State) (k : Nat) (x : DieSt) (m : Nat) : (s.setDieState k x).chain m = s.chain m := rfl
@[simp] theorem State.rod_setDieState' (s : State) (k : Nat) (x : DieSt) (a : RodId) : (s.setDieState k x).rod a = s.rod a := rfl
@[simp] theorem State.op_setDieState' (s : State) (k : Nat) (x : DieSt) (m : Nat) : (s.setDieState k x).op m = s.op m := rfl
@[simp] theorem State.core_setDieState' (s : State) (k : Nat) (x : DieSt) (a : CoreId) : (s.setDieState k x).core a = s.core a := rfl
@[simp] theorem State.die_setDieState' (s : State) (k : Nat) (x : DieSt) (b : Nat) : (s.setDieState k x).die b = s.die b := rfl
@[simp] theorem State.iod_setDieState' (s : State) (k : Nat) (x : DieSt) (b : Nat) : (s.setDieState k x).iod b = s.iod b := rfl
@[simp] theorem State.queue_setDieState' (s : State) (k : Nat) (x : DieSt) (b : Nat) : (s.setDieState k x).queue b = s.queue b := rfl
@[simp] theorem State.byte_setDieState' (s : State) (k : Nat) (x : DieSt) (b : Nat) : (s.setDieState k x).byte b = s.byte b := rfl

end Sys2Proof.Laws
end

