-- ==== Sys2Proof/Laws/Issue.lean ====
section
/-!
SUPPORT. What issuing, waiting and completing leave alone: one law for each shared operation of Machine/Ops.lean and
Machine/Paths.lean.
-/
namespace Sys2Proof.Laws

open Sys2Proof.Machine Sys2Proof.Safety

/-! ### RodMoved -/

@[simp] theorem RodMoved.refl (x : Rod) : RodMoved x x := rfl

theorem RodMoved.trans {x y z : Rod} (h : RodMoved x y) (k : RodMoved y z) : RodMoved x z := by
  unfold RodMoved at *
  rw [← h, ← k]

theorem RodMoved.setSlot (x : Rod) (sl : SlotId) (y : Option Slot) : RodMoved x (x.setSlot sl y) := by cases sl <;> rfl

theorem RodMoved.setEntry (x : Rod) (i : Nat) (e : SEntry) : RodMoved x (x.setEntry i e) := rfl

theorem RodMoved.enter (x : Rod) (sl : SlotId) (p : Path) (now : Nat) : RodMoved x (x.enter sl p now) := RodMoved.setSlot ..

theorem RodMoved.refill (x : Rod) (sl : SlotId) (now : Nat) : RodMoved x (x.refill sl now) := by
  unfold Rod.refill
  split
  · exact RodMoved.setSlot ..
  · exact RodMoved.trans (RodMoved.setEntry ..) (RodMoved.enter ..)

theorem RodMoved.leave (x : Rod) (pos : Pos) (now : Nat) : RodMoved x (x.leave pos now) := by
  cases pos
  · exact RodMoved.trans (RodMoved.setSlot ..) (RodMoved.refill ..)
  · exact RodMoved.setEntry ..

theorem RodMoved.putAt (x : Rod) (pos : Pos) (p : Path) (now : Nat) : RodMoved x (x.putAt pos p now) := by
  cases pos
  · exact RodMoved.enter ..
  · exact RodMoved.setEntry ..

theorem RodMoved.arriveAt (x : Rod) (pos : Pos) (now : Nat) : RodMoved x (x.arriveAt pos now) := by
  unfold Rod.arriveAt
  split
  · exact RodMoved.refl x
  · split
    · exact RodMoved.refl x
    · dsimp only
      split
      · exact RodMoved.trans (RodMoved.setEntry ..) (RodMoved.putAt ..)
      · exact RodMoved.trans (RodMoved.setEntry ..) (RodMoved.leave ..)

theorem RodMoved.settle (sl : SlotId) (now n : Nat) : ∀ x : Rod, RodMoved x (x.settle sl now n) := by
  induction n with
  | zero => exact RodMoved.refl
  | succ n ih =>
    intro x
    unfold Rod.settle
    split
    · exact RodMoved.refl x
    · exact RodMoved.trans (RodMoved.arriveAt ..) (ih _)

theorem RodMoved.goto (x : Rod) (sl : SlotId) (pc : DWord) (now : Nat) : RodMoved x (x.goto sl pc now) := by
  unfold Rod.goto
  split
  · exact RodMoved.refl x
  · exact RodMoved.trans (RodMoved.setSlot ..) (RodMoved.settle ..)

theorem RodMoved.clauseEnd (x : Rod) (sl : SlotId) (b : Slot) (now : Nat) : RodMoved x (x.clauseEnd sl b now) := by
  unfold Rod.clauseEnd
  repeat' split
  all_goals first
    | exact RodMoved.refl x
    | exact RodMoved.trans (RodMoved.setEntry ..) (RodMoved.enter ..)
    | exact RodMoved.setSlot ..

theorem RodMoved.issued (x : Rod) (sl : SlotId) : RodMoved x (x.issued sl) := rfl

theorem RodMoved.advance (x : Rod) (sl : SlotId) (now : Nat) : RodMoved x (x.advance sl now) := by
  unfold Rod.advance
  dsimp only
  refine RodMoved.trans (RodMoved.issued x sl) ?_
  repeat' split
  · exact RodMoved.refl _
  · exact RodMoved.refl _
  · exact RodMoved.setSlot ..
  · exact RodMoved.trans (RodMoved.goto ..) (RodMoved.clauseEnd ..)

/-! ### OnlyRod -/

theorem OnlyRod.refl (r : RodId) (s : State) : OnlyRod r s s := ⟨rfl, .inl rfl, fun _ _ => rfl⟩

theorem OnlyRod.setRod (r : RodId) (s : State) (x : Rod) : OnlyRod r s (s.setRod r x) :=
  ⟨rfl, .inl rfl, fun k hk => by simp [State.setRod, hk]⟩

theorem OnlyRod.modRod (r : RodId) (s : State) (f : Rod → Rod) : OnlyRod r s (s.modRod r f) := by
  unfold State.modRod
  split
  · exact OnlyRod.setRod ..
  · exact OnlyRod.refl ..

/-- The rod as halting checks leave it: only the run state and sr.skid may change. -/
theorem State.checkHalt_spec (s : State) (r : RodId) (x : Rod) (h : s.rod r = some x) :
    OnlyRod r s (s.checkHalt r) ∧ ∃ y, (s.checkHalt r).rod r = some y ∧ { y with run := x.run, skid := x.skid } = x := by
  unfold State.checkHalt
  rw [h]
  dsimp only
  split
  · split
    · exact ⟨⟨rfl, .inr rfl, fun k hk => by simp [State.setRod, hk]⟩, _, State.rod_setRod s r _, rfl⟩
    · exact ⟨⟨rfl, .inr rfl, fun k hk => by simp [State.setRod, hk]⟩, _, State.rod_setRod s r _, rfl⟩
    · exact ⟨OnlyRod.refl .., x, h, rfl⟩
  · exact ⟨OnlyRod.refl .., x, h, rfl⟩

/-- A rod updated in place and then checked for a halt. -/
theorem OnlyRod.setRod_checkHalt (r : RodId) (s : State) (x : Rod) :
    OnlyRod r s ((s.setRod r x).checkHalt r) ∧
      ∃ y, ((s.setRod r x).checkHalt r).rod r = some y ∧ { y with run := x.run, skid := x.skid } = x := by
  obtain ⟨⟨h1, h2, h3⟩, hy⟩ := State.checkHalt_spec (s.setRod r x) r x (by simp)
  refine ⟨⟨?_, by simpa using h2, fun k hk => ?_⟩, hy⟩
  · exact congrArg (fun q : State => { q with rods := s.rods }) h1
  · rw [h3 k hk]; simp [State.setRod, hk]

theorem State.modRod_of (s : State) (r : RodId) (f : Rod → Rod) (x : Rod) (h : s.rod r = some x) :
    s.modRod r f = s.setRod r (f x) := by
  unfold State.modRod; rw [h]

@[simp] theorem State.setRod_setRod (s : State) (r : RodId) (x y : Rod) : (s.setRod r x).setRod r y = s.setRod r y := by
  have : ∀ (t : Tbl Rod) (k : Nat), Tbl.put (Tbl.put t k x) k y = Tbl.put t k y := by
    intro t k
    induction t with
    | nil => simp [Tbl.put]
    | cons e t ih =>
      obtain ⟨i, z⟩ := e
      by_cases h1 : i = k
      · simp [Tbl.put, h1]
      · by_cases h2 : k < i
        · simp [Tbl.put, h1, h2]
        · simp [Tbl.put, h1, h2, ih]
  simp [State.setRod, this]

/-- The instruction is done with z as what it makes of the issuing rod. -/
theorem finish_setRod (s : State) (i : Iss) (z : Rod) : Completes (finish (s.setRod i.rid z) i) s i.rid z := by
  have e : (s.setRod i.rid z).advance i.rid i.sl = (s.setRod i.rid (z.advance i.sl s.cycle)).checkHalt i.rid := by
    unfold State.advance
    rw [State.modRod_of _ _ _ z (by simp)]
    simp
  obtain ⟨ho, y, hy, hz⟩ := OnlyRod.setRod_checkHalt i.rid s (z.advance i.sl s.cycle)
  refine ⟨_, y, rfl, e ▸ ho, e ▸ hy, ?_⟩
  refine RodMoved.trans (RodMoved.advance z i.sl s.cycle) ?_
  unfold RodMoved
  rw [← hz]

/-- The instruction is done and changed nothing of the rod. -/
theorem finish_same (s : State) (i : Iss) (h : s.rod i.rid = some i.rod) : Completes (finish s i) s i.rid i.rod := by
  have e : s.advance i.rid i.sl = (s.setRod i.rid i.rod).advance i.rid i.sl := by
    unfold State.advance
    rw [State.modRod_of _ _ _ _ h, State.modRod_of _ _ _ i.rod (by simp)]
    simp
  have := finish_setRod s i i.rod
  unfold finish at this ⊢
  rw [e]; exact this

/-! ### The issuing pair -/

theorem State.issuer_rod {s : State} {i : Iss} (h : s.issuer = some i) : s.rod i.rid = some i.rod := by
  unfold State.issuer at h
  split at h
  · cases h
  · split at h
    · cases h
    · split at h
      · cases h
      · cases h; assumption

theorem State.issuer_slot {s : State} {i : Iss} (h : s.issuer = some i) : i.rod.slot i.sl = some i.slot := by
  unfold State.issuer at h
  split at h
  · cases h
  · split at h
    · cases h
    · split at h
      · cases h
      · cases h; assumption

theorem withIss_of {s : State} {i : Iss} (h : s.issuer = some i) (k : Iss → Res) : withIss s k = k i := by
  unfold withIss; rw [h]

/-- Without an issuing pair an instruction stops. -/
theorem withIss_none {s : State} (h : s.issuer = none) (k : Iss → Res) : withIss s k = .fault .noIssuer := by
  unfold withIss; rw [h]

end Sys2Proof.Laws
end

