-- ==== Sys2Proof/Laws/Memory.lean ====
section
/-!
SUPPORT. Laws of memory: bytes and words read after a write, and the canonical form kept by every operation that changes memory.
-/
namespace Sys2Proof.Laws

open Sys2Proof.Machine

theorem Memory.wf_setByte {s : State} (a : Nat) (v : Byte) (h : Memory.wf s.mem = true) : Memory.wf (s.setByte a v).mem = true :=
  Tbl.wf_set a v h

theorem Memory.wf_setMemWord {s : State} (wd : Nat) (v : Word) (h : Memory.wf s.mem = true) :
    Memory.wf (s.setMemWord wd v).mem = true :=
  Memory.wf_setByte _ _ (Memory.wf_setByte _ _ (Memory.wf_setByte _ _ (Memory.wf_setByte _ _ h)))

/-- Keeping a part of memory keeps the canonical form (a frame cleared by a commit, near memory cleared after a reset). -/
theorem Memory.wf_filter {m : List Host.Cell} (p : Host.Cell → Bool) (h : Memory.wf m = true) : Memory.wf (m.filter p) = true :=
  Tbl.wf_filter p h

theorem State.byte_setByte (s : State) (a b : Nat) (v : Byte) : (s.setByte a v).byte b = if b = a then v else s.byte b :=
  Tbl.get_set s.mem a b v 0

@[simp] theorem State.byte_setByte_self (s : State) (a : Nat) (v : Byte) : (s.setByte a v).byte a = v := by simp [State.byte_setByte]

/-- A word write changes the four bytes of the word, each to the byte of its place, and no other byte. -/
theorem State.byte_setMemWord (s : State) (wd a : Nat) (v : Word) :
    (s.setMemWord wd v).byte a = if a / 4 = wd then Word.byte v (a % 4) else s.byte a := by
  unfold State.setMemWord
  simp only [State.byte_setByte]
  by_cases h : a / 4 = wd
  · have : a % 4 = 0 ∨ a % 4 = 1 ∨ a % 4 = 2 ∨ a % 4 = 3 := by omega
    rcases this with e | e | e | e
    · rw [if_neg (by omega), if_neg (by omega), if_neg (by omega), if_pos (by omega), if_pos h, e]
    · rw [if_neg (by omega), if_neg (by omega), if_pos (by omega), if_pos h, e]
    · rw [if_neg (by omega), if_pos (by omega), if_pos h, e]
    · rw [if_pos (by omega), if_pos h, e]
  · rw [if_neg (by omega), if_neg (by omega), if_neg (by omega), if_neg (by omega), if_neg h]

theorem State.byte_setMemWord_other (s : State) {wd a : Nat} (v : Word) (h : a / 4 ≠ wd) : (s.setMemWord wd v).byte a = s.byte a := by
  simp [State.byte_setMemWord, h]

end Sys2Proof.Laws
end

