-- ==== Sys2Proof/Laws/Operands.lean ====
section
/-!
SUPPORT. What issuing an instruction with its operands does (R154, R220): one law for each outcome of `issue`, and the laws of
operands and register writes that statements about instructions use.
-/
namespace Sys2Proof.Laws

open Sys2Proof.Machine Sys2Proof.Safety

/-- No source is a port. -/
theorem popAll_nil (p : Popped) (g : Mask) : popAll p g [] = .ok p := rfl

/-- An instruction whose operands lie in the window, whose sources are no ports and whose registers have no error goes on with its
sources as they stand. -/
theorem issue_of {s : State} {i : Iss} (h : s.issuer = some i) (g : Guard) (m : Option SrcMod)
    (ds srcs : List (Operand × Nat)) (k : Ctx → Res)
    (hw : (ds ++ srcs).all (fun o => inWindow i.rod o.1 o.2) = true)
    (hc : ds.any (fun o => o.1 == .port .cp) = false ∨ i.rod.role = 0 ∨ i.part g = 0)
    (hp : portsOf (srcs.map Prod.fst) = []) (hb : i.rod.regBad = []) :
    issue s g m ds srcs k = k { s := s.setRod i.rid i.rod, i := i, g := i.part g, m := m, port := fun _ _ => 0, old := s } := by
  unfold issue
  rw [withIss_of h]
  simp only [hw, not_true_eq_false, if_false]
  have hc' : ¬ ((ds.any (fun o => o.1 == .port .cp)) = true ∧ i.rod.role ≠ 0 ∧ i.part g ≠ 0) := by
    rintro ⟨h1, h2, h3⟩
    rcases hc with h | h | h
    · rw [h] at h1; cases h1
    · exact h2 h
    · exact h3 h
  rw [if_neg hc', hp, popAll_nil]
  have : ∀ ls o n, i.rod.badReg ls o n = false := by
    intro ls o n
    simp [Rod.badReg, hb]
  simp [this]

/-- An operand at or above the window: a precise register-index bound (R154). -/
theorem issue_window {s : State} {i : Iss} (h : s.issuer = some i) (g : Guard) (m : Option SrcMod)
    (ds srcs : List (Operand × Nat)) (k : Ctx → Res)
    (hw : (ds ++ srcs).all (fun o => inWindow i.rod o.1 o.2) = false) :
    issue s g m ds srcs k = trap s i Cause.regidx := by
  unfold issue
  rw [withIss_of h]
  simp [hw]

/-- Changing a rod that has just been put in place. -/
theorem modRod_setRod (s : State) (r : RodId) (x : Rod) (f : Rod → Rod) : (s.setRod r x).modRod r f = s.setRod r (f x) := by
  rw [State.modRod_of _ _ _ x (by simp)]
  simp

/-! ### Instructions whose operands are ready -/

theorem noPorts_portsOf (ds os : List (Operand × Nat)) (h : noPorts (ds ++ os) = true) : portsOf (os.map Prod.fst) = [] := by
  have : (os.map Prod.fst).filterMap (fun o : Operand => match o with | .port p => some p | _ => none) = [] := by
    rw [List.filterMap_eq_nil_iff]
    intro o ho
    obtain ⟨e, he, rfl⟩ := List.mem_map.1 ho
    simp only [noPorts, List.all_append, Bool.and_eq_true, List.all_eq_true] at h
    have := h.2 e he
    revert this
    cases e.1 <;> simp
  have e : portsOf (os.map Prod.fst) = ((os.map Prod.fst).filterMap (fun o : Operand => match o with | .port p => some p | _ => none)).eraseDups := by
    unfold portsOf
    congr 2
  rw [e, this]; rfl

theorem noPorts_cp (ds os : List (Operand × Nat)) (h : noPorts (ds ++ os) = true) : ds.any (fun o => o.1 == .port .cp) = false := by
  rw [List.any_eq_false]
  intro e he
  simp only [noPorts, List.all_append, Bool.and_eq_true, List.all_eq_true] at h
  have := h.1 e he
  revert this
  cases e.1 <;> simp

/-- the context -/
def ctx0 (s : State) (i : Iss) (g : Guard) (m : Option SrcMod) : Ctx :=
  { s := s.setRod i.rid i.rod, i := i, g := i.part g, m := m, port := fun _ _ => 0, old := s }

theorem issue_ready {s : State} {i : Iss} {ds os : List (Operand × Nat)} (h : Ready s i ds os) (g : Guard) (m : Option SrcMod) (k : Ctx → Res) :
    issue s g m ds os k = k (ctx0 s i g m) :=
  issue_of h.1 g m ds os k h.2.1 (.inl (noPorts_cp _ _ h.2.2.1)) (noPorts_portsOf _ _ h.2.2.1) h.2.2.2

theorem ctx0_int (s : State) (i : Iss) (g : Guard) (m : Option SrcMod) (src : ModSrc) (o : Operand) (sgn : Bool) (n l : Nat) :
    (ctx0 s i g m).int src o sgn n l = (srcs s i g m).int src o sgn n l := by
  cases o <;> rfl

theorem ctx0_d64 (s : State) (i : Iss) (g : Guard) (m : Option SrcMod) (src : ModSrc) (o : Operand) (l : Nat) :
    (ctx0 s i g m).d64 src o l = (srcs s i g m).d64 src o l := by
  cases o <;> rfl

theorem putInt_ctx0 (s : State) (i : Iss) (g : Guard) (m : Option SrcMod) (d : Operand) (hd : isReg d = true)
    (f : (n : Nat) → Nat → BitVec n) :
    Completes ((ctx0 s i g m).putInt d f) s i.rid (writeInt i.rod (i.part g) d f) := by
  unfold Ctx.putInt
  by_cases h0 : i.part g = 0
  · rw [if_pos (by exact h0)]
    have : writeInt i.rod (i.part g) d f = i.rod := by
      cases d <;> simp [writeInt, h0, Rod.setLws] <;> rfl
    rw [this]; exact finish_setRod s i i.rod
  · rw [if_neg (by exact h0)]
    cases d <;> first | (simp [isReg, Operand.isW, Operand.isS] at hd; done) | skip
    · show Completes (finish ((s.setRod i.rid i.rod).modRod i.rid _) i) _ _ _
      rw [modRod_setRod]; exact finish_setRod ..
    · show Completes (finish ((s.setRod i.rid i.rod).modRod i.rid _) i) _ _ _
      rw [modRod_setRod]
      rename_i n
      have : writeInt i.rod (i.part g) (.s n) f = i.rod.setUn n.toNat (f 64 (lowest (i.part g))) := by
        simp only [writeInt]; rw [if_neg]; exact h0
      rw [this]; exact finish_setRod ..

end Sys2Proof.Laws
end

