-- ==== Sys2Proof/Tests/Slice0.lean ====
section
/-!
SUPPORT. The model's own tests: ill-formed terms refused, words of the manual's examples decoded, single steps on small states, and for
each statement states and operands that meet its hypotheses. Expected values come from the manual's tables and worked examples.
-/
namespace Sys2Proof.Tests

open Sys2Proof Sys2Proof.Machine Sys2Proof.Safety Sys2Proof.Claims

/-- The unguarded form. -/
def al : Guard := ⟨0, .always⟩

/-! ### Ill-formed terms are refused -/

theorem test_wf_guard : (Instr.nop ⟨1, .always⟩).wf = false := by decide
theorem test_wf_destination : (Instr.add al (.sr .lane) (.w 0) (.w 1) none).wf = false := by decide
theorem test_wf_source : (Instr.add al (.w 0) (.ic .pi) (.w 1) none).wf = false := by decide
theorem test_wf_modifier : (Instr.add al (.w 0) (.s 1) (.w 1) (some ⟨.rot, 3, 1, .a⟩)).wf = false := by decide
theorem test_wf_segment : (Instr.add al (.w 0) (.w 1) (.w 1) (some ⟨.rot, 6, 1, .a⟩)).wf = false := by decide
theorem test_wf_pair_port : (Instr.add al (.s 0) (.port .nb) (.w 1) none).wf = false := by decide
theorem test_wf_one_source : (Instr.not al (.w 0) (.ic .e) none).wf = false := by decide
theorem test_wf_three_sources : (Instr.mad al (.w 0) (.w 1) (.w 2) (.ic .e) none).wf = false := by decide
theorem test_wf_ldi_hi : (Instr.ldi al .hi (.w 0) 1).wf = false := by decide
theorem test_wf_cvt_wide : (Instr.cvt al .i64 .i32 false (.w 0) (.w 1) none).wf = false := by decide
theorem test_wf_lea_odd : (Instr.lea al (.w 1) (.w 2) (.w 4) (.int 3) none).wf = false := by decide
theorem test_wf_perm_uniform : (Instr.perm al (.s 0) (.w 1) (.w 2) none).wf = false := by decide
theorem test_wf_rdx_align : (Instr.rdx al 3 0 1 .n2).wf = false := by decide
theorem test_wf_wrx_align : (Instr.wrx al 0 1 6 .n4).wf = false := by decide
theorem test_wf_cmp_type : (Instr.cmp al .f .lt 1 (.w 0) (.w 1) none).wf = false := by decide
theorem test_wf_qmask_word : (Instr.qmask al .word (.s 0) 0).wf = false := by decide
theorem test_wf_qfrom_word : (Instr.qfrom al .word 3 (.w 0) none).wf = false := by decide
theorem test_wf_jmpi : (Instr.jmpi al (.w 3)).wf = false := by decide
theorem test_wf_rgive : (Instr.rgive al (.w 3)).wf = false := by decide
theorem test_wf_split_view : (Instr.split al .f 9 2 12 4).wf = false := by decide
theorem test_wf_split_words : (Instr.split al .f 8 2 12 13).wf = false := by decide
theorem test_wf_fork_words : (Instr.fork al 2 250 6).wf = false := by decide
theorem test_wf_take : (Instr.take al 6 1).wf = false := by decide
theorem test_wf_interval_odd : (Instr.iadd al .f (.w 5) (.w 8) (.w 10) none).wf = false := by decide
theorem test_wf_interval_uniform_y : (Instr.iadd al .y (.w 4) (.s 8) (.w 12) none).wf = false := by decide
theorem test_wf_interval_port : (Instr.isqr al .f (.w 4) (.port .gx) none).wf = false := by decide
theorem test_wf_iscl : (Instr.iscl al .f (.w 4) (.w 6) (.ic .pi) none).wf = false := by decide
theorem test_wf_icvt_pair : (Instr.icvt al .i32 .i32 false (.w 4) (.w 6) none).wf = false := by decide
theorem test_wf_imr_h : (Instr.imr al .h none (.w 4) (.w 6) none).wf = false := by decide
theorem test_wf_tblq : (Instr.tblq al (.s 4) 3).wf = false := by decide
theorem test_wf_row_segment : (Instr.segmax al .f 0 (.w 4) (.w 6) none none).wf = false := by decide
theorem test_wf_row_mode : (Instr.segmax al .f 3 (.w 4) (.s 6) (some (.s 7)) none).wf = false := by decide
theorem test_wf_ld_pair : (Instr.ld al .x8 (.w 3) ⟨.s 0, .int 0, 0⟩ .lane .plain .normal).wf = false := by decide
theorem test_wf_ld_base : (Instr.ld al .x4 (.w 3) ⟨.w 1, .int 0, 0⟩ .lane .plain .normal).wf = false := by decide
theorem test_wf_ldtk_half : (Instr.ldtk al .x2 (.w 3) ⟨.s 0, .int 0, 0⟩ .lane .plain .normal).wf = false := by decide
theorem test_wf_red_cas : (Instr.red al .cas .b32 (.w 3) ⟨.s 0, .int 0, 0⟩ .lane .plain .normal).wf = false := by decide
theorem test_wf_atom_hull : (Instr.atom al .ihull .b32 (.w 3) ⟨.s 0, .int 0, 0⟩ .lane .plain .normal).wf = false := by decide
theorem test_wf_atom_offset : (Instr.atom al .add .b32 (.w 3) ⟨.s 0, .int 0, 1⟩ .lane .plain .normal).wf = false := by decide
theorem test_wf_dalloc : (Instr.dalloc al (.w 3) (.w 5) .normal).wf = false := by decide
theorem test_wf_barrier : (Instr.barv al (.w 3) .chain).wf = false := by decide
theorem test_wf_seqwt : (Instr.seqwt al (.w 4) ⟨.s 0, .int 0, 0⟩ .lane .plain .normal).wf = false := by decide
theorem test_wf_mxmm_radius : (Instr.mxmm al ⟨2, .hf, .hf, true, false, .sp, .sp⟩ (.s 4) (.int 0) (.int 2)).wf = false := by decide
theorem test_wf_nbgrid : (Instr.nbgrid al 0 (.int 1)).wf = false := by decide
theorem test_wf_syswr : (Instr.syswr al .cause (.port .nb)).wf = false := by decide
theorem test_wf_smpl : (Instr.smpl al 8 9).wf = false := by decide
theorem test_wf_event : (Instr.widxWrite 1024 0).wf = false := by decide

/-! ### Words of the manual's examples -/

theorem test_decode_words : Obligations.WordsDecode := by unfold Obligations.WordsDecode; decide
theorem test_decode_iadd : decodeTableWord 64 0x4011030180D206FD = some (.iadd ⟨2, .isT⟩ .f (.w 6) (.w 6) (.w 6) (some ⟨.rot, 5, 31, .b⟩)) := by decide
theorem test_decode_trap : decodeTableWord 64 0xE000000000000005 = some (.trap al 5) := by decide
theorem test_decode_tclr : decodeTableWord 64 0xE100000000000002 = some (.tclr al 2) := by decide
theorem test_decode_hold : decodeTableWord 64 0xE180000000000000 = some (.hold al) := by decide
theorem test_decode_prmark : decodeTableWord 64 0xE38000000000002A = some (.prmark al 42) := by decide
theorem test_decode_unassigned : decodeTableWord 64 0xFF80000000000000 = none := by decide
theorem test_decode_reserved_guard : decodeTableWord 64 0x0008810080600000 = none := by decide
theorem test_header_bad_class : decodeHeader 0x9000000000000000 = none := by decide
theorem test_header_reserved : decodeHeader 0x1300000000000001 = none := by decide

/-! ### Small states -/

/-- The rod of a package of one launch of one rod, at its only instruction. -/
def rid : RodId := ⟨3, 0⟩

/-- Every die in service and every ring link keyed (R5). -/
def serving (s : State) : State := { s with
  diest := (List.range 10).map (fun k => (k, .inService)), links := (List.range 20).map (fun k => (k, { LinkDir.reset with keyed := true })) }

/-- That package, every die of it in service, with the rod changed by f and its slot A the issuing pair. -/
def st (f : Rod → Rod) : State := { (serving (State.reset.place1 0)).modRod rid f with cur := some (rid, .a) }

def issOf (s : State) : Iss :=
  match s.issuer with
  | some i => i
  | none => { rid := rid, sl := .a, rod := Rod.start Packet.probe 0 0 0, slot := Slot.fresh ⟨0, 0, 0, none, 0, 0, false⟩ 0 }

/-- The rod as it is dispatched, and the pair. -/
def s0 : State := st (fun x => x)
def i0 : Iss := issOf s0

/-- The rod's slot A at instruction k of a clause of n. -/
def inClause (k n : Nat) (x : Rod) : Rod :=
  { x with slotA := x.slotA.map (fun y => { y with
      path := { y.path with idx := k }, started := some { count := n, a := none, b := none, body := List.replicate n 0, brk := List.replicate n false } }) }

theorem small_pair : s0.issuer = some i0 ∧ i0.rod.window = 256 ∧ i0.slot.path.mask = 0xFFFFFFFF := by decide

/-! ### Single steps -/

/-- The rod after an instruction. -/
def after (o : Host.Outcome State Fault Refusal) (f : Rod → Nat) : Option Nat :=
  match o with
  | .next t => (t.rod rid).map f
  | _ => none

theorem test_add_wraps : after (exec (.add al (.w 1) (.w 2) (.w 2) none) (st (·.setLw 2 5 0xFFFFFFFF))) (fun x => (x.lw 1 5).toNat) = some 0xFFFFFFFE := by decide
theorem test_add_uniform_sign : after (exec (.add al (.s 1) (.w 2) (.int 0) none) (st (·.setLw 2 0 0xFFFFFFFF))) (fun x => (x.un 1).toNat) = some 0xFFFFFFFFFFFFFFFF := by decide
theorem test_sub_constant : after (exec (.sub al (.w 1) (.int 3) (.int 5) none) s0) (fun x => (x.lw 1 31).toNat) = some 0xFFFFFFFE := by decide
theorem test_div_zero : after (exec (.div al (.w 1) (.int 7) (.int 0) none) s0) (fun x => (x.lw 1 0).toNat) = some 0xFFFFFFFF := by decide
theorem test_rem_sign : after (exec (.rem al (.w 1) (.int (-7)) (.int 2) none) s0) (fun x => (x.lw 1 0).toNat) = some 0xFFFFFFFF := by decide
theorem test_cvt_saturates : after (exec (.cvt al .i8 .i32 true (.w 3) (.w 2) none) (st (·.setLw 2 0 300))) (fun x => (x.lw 3 0).toNat) = some 127 := by decide
theorem test_cvt_wraps : after (exec (.cvt al .i8 .i32 false (.w 3) (.w 2) none) (st (·.setLw 2 0 300))) (fun x => (x.lw 3 0).toNat) = some 44 := by decide
theorem test_kadd_wraps : after (exec (.kadd al 0 (.k 0) (.int 1) none) (st (·.setK 0 4 511))) (fun x => (x.kreg 0 4).toInt.natAbs) = some 512 := by decide
theorem test_mad_source_is_destination : after (exec (.mad al (.w 2) (.w 2) (.w 2) (.w 2) none) (st (·.setLw 2 7 3))) (fun x => (x.lw 2 7).toNat) = some 12 := by decide
theorem test_perm_reads_before : after (exec (.perm al (.w 2) (.w 2) (.int 1) none) (st (fun x => (x.setLw 2 0 10).setLw 2 1 20))) (fun x => (x.lw 2 0).toNat + 100 * (x.lw 2 1).toNat) = some 2020 := by decide
theorem test_qand_unknown : after (exec (.qand al 3 1 2) (st (fun x => (x.setPred 1 0 2).setPred 2 0 1))) (fun x => (x.pred 3 0).toNat) = some 2 := by decide
theorem test_q0_is_true : after (exec (.qnot al 0 0) s0) (fun x => (x.pred 0 0).toNat) = some 1 := by decide
theorem test_guard_off : after (exec (.mov ⟨1, .isT⟩ (.w 1) (.int 5) none) s0) (fun x => (x.lw 1 0).toNat) = some 0 := by decide
theorem test_window_traps : after (exec (.mov al (.w 9) (.int 5) none) (st (fun x => { x with window := 8 }))) (fun x => x.cause.toNat) = some 2 := by decide
theorem test_rdx_trap : after (exec (.rdx al 1 0 0 .n1) (st (·.setK 0 0 (-1)))) (fun x => x.cause.toNat) = some 2 := by decide
/-- 1 + 2^-30 rounds outward to 1 and its neighbour (the example of R184). -/
theorem test_iadd_example : after (exec (.iadd al .f (.w 4) (.w 6) (.w 8) none)
    (st (fun x => (((x.setLw 6 0 0x3F800000).setLw 7 0 0x3F800000).setLw 8 0 0x30800000).setLw 9 0 0x30800000)))
    (fun x => (x.lw 4 0).toNat * 2 ^ 32 + (x.lw 5 0).toNat) = some 0x3F8000003F800001 := by decide +kernel
/-- [1, 3] < [3, 5] is U (the example of R282). -/
theorem test_icmp_example : after (exec (.icmp al .f .lt 3 (.w 4) (.w 6) none)
    (st (fun x => (((x.setLw 4 0 0x3F800000).setLw 5 0 0x40400000).setLw 6 0 0x40400000).setLw 7 0 0x40A00000)))
    (fun x => (x.pred 3 0).toNat) = some 2 := by decide +kernel

/-! ### Witnesses: groups 0 and 1 -/

theorem witness_IntegerResults : Ready s0 i0 [(.w 255, 1)] [(.w 0, 1), (.s 63, 1)] ∧ isReg (.w 255) = true ∧
    Ready s0 i0 [(.s 0, 1)] [(.w 255, 1)] ∧ isReg (.s 0) = true ∧ Ready s0 i0 [(.w 1, 1)] [(.w 1, 1), (.w 1, 1), (.k 3, 1)] := by decide

theorem witness_IntegerRules : isWidth 32 ∧ isWidth 64 ∧ (0 : BitVec 32) = 0 ∧ (5 : BitVec 32) ≠ 0 ∧
    ((0x80000000 : BitVec 32).toInt = -2 ^ 31 ∧ (0xFFFFFFFF : BitVec 32).toInt = -1) ∧ 32 ≤ (0xFF : BitVec 32).toNat % 256 := by decide

theorem witness_SelectConvertAddressPermuteResults : Ready s0 i0 [(.w 0, 1)] [(.w 1, 1), (.w 2, 1)] ∧ Ready s0 i0 [(.w 0, 1)] [] ∧
    Ready s0 i0 [] [] ∧ Ready s0 i0 [(.s 1, 1)] [(.w 1, 1)] ∧ Ready s0 i0 [] [(.w 254, 2), (.w 1, 1), (.int 3, 1)] ∧
    Ready s0 i0 [(.w 254, 2)] [(.s 0, 2), (.w 1, 1), (.int 3, 1)] ∧ (Operand.w 0).isW = true ∧ Ty.i8.isInteger = true := by decide

def k0 : State := st (fun x => x.setK 1 3 255)
theorem witness_IndexRegisterResults : Ready k0 (issOf k0) [(.w 252, 4)] [(.w 0, 1)] ∧
    (lanes ((issOf k0).part al)).all (fun l => !relOut (issOf k0).rod 0 1 1 l) = true ∧
    (lanes ((issOf k0).part al)).all (fun l => !relOut (issOf k0).rod 0 1 2 l) = false := by decide

theorem witness_PredicateAndVoteResults : Ready s0 i0 [] [(.w 0, 1), (.int 1, 1)] ∧ Ty.n64.isInteger = true ∧ Ready s0 i0 [] [] ∧
    Ready s0 i0 [(.w 255, 1)] [] ∧ isReg (.w 255) = true ∧ Ready s0 i0 [] [(.s 3, 1)] := by decide

/-- The rod inside a clause of two instructions, with room for 32 paths. -/
def c0 : State := st (fun x => { inClause 0 2 x with depth := 32 })
/-- The rod on a full stack of four. -/
def full : State := st (fun x => { x with depth := 4, stack := (List.range 4).map (fun k => (k, .path ⟨8, 0, 1, none, 0, 0, false⟩)), slotB := some (Slot.fresh ⟨8, 0, 1, none, 0, 0, false⟩ 0) })
/-- The rod on a path of a frame that waits for all its lanes. -/
def framed : State := st (fun x => { x with stack := [(0, .frame 64 0xFFFFFFFF 0 none)], slotA := x.slotA.map (fun y => { y with path := { y.path with frame := some 0 } }) })

theorem witness_ControlInstructions : c0.issuer = some (issOf c0) ∧ Lone (issOf c0) ∧ 32 ≤ (issOf c0).rod.depth ∧ 2 ≤ (issOf c0).rod.freeEntries ∧
    (Ready c0 (issOf c0) [] [(.s 0, 2)] ∧ (lanes ((issOf c0).part al)).length ≤ (issOf c0).rod.freeEntries ∧
      ∀ l ∈ lanes ((issOf c0).part al), ((srcs c0 (issOf c0) al none).d64 .a (.s 0) l).bits 2 0 = 0 ∧ ((srcs c0 (issOf c0) al none).d64 .a (.s 0) l).bits 63 56 = 0) ∧
    (∃ l ∈ lanes ((issOf c0).part al), ((srcs c0 (issOf c0) al none).d64 .a (.int 1) l).bits 2 0 ≠ 0) ∧
    (full.issuer = some (issOf full) ∧ (issOf full).rod.freeEntry = none ∧ (issOf full).part al ≠ 0 ∧ ((issOf full).rod.slot (issOf full).sl.other).isSome = true) :=
  ⟨by decide, ⟨by decide, by decide, by decide, by decide, by decide, by decide⟩, by decide, by decide, by decide, by decide, by decide⟩

theorem witness_FrameInstructions : (c0.issuer = some (issOf c0) ∧ (issOf c0).rod.freeEntry = some 0 ∧ (issOf c0).slot.started.isSome = true) ∧
    (framed.issuer = some (issOf framed) ∧ (issOf framed).rod.stack = [(0, .frame 64 0xFFFFFFFF 0 none)] ∧ (issOf framed).slot.path.frame = some 0 ∧
      (issOf framed).rod.slot (issOf framed).sl.other = none ∧ (issOf framed).part al = (issOf framed).slot.path.mask ∧
      0 ||| (issOf framed).slot.path.mask = 0xFFFFFFFF) ∧
    ((issOf c0).slot.path.frame = none ∧ (issOf c0).part al ≠ 0) := by decide

theorem witness_ClauseAdvanceAndExit : (∃ c, (issOf c0).slot.started = some c ∧ (issOf c0).slot.path.idx + 1 < c.count) ∧
    (∃ c, i0.slot.started = some c ∧ i0.slot.path.idx + 1 = c.count) ∧ s0.rodOps i0.rid = [] ∧ i0.rod.lateCauses = 0 ∧ i0.part al ≠ 0 ∧
    i0.part ⟨1, .isT⟩ = 0 ∧ i0.rod.stack = [] ∧
    (let s := st (fun x => { x with slotB := some (Slot.fresh ⟨8, 0, 1, none, 0, 0, false⟩ 0), slotA := x.slotA.map (fun y => { y with path := { y.path with mask := 0xFFFFFFFE } }) });
      (issOf s).part al = (issOf s).slot.path.mask ∧ (issOf s).rod.stack = []) ∧
    (let s := st (fun x => x.raise Cause.accv); (issOf s).rod.lateCauses ≠ 0 ∧ (issOf s).rod.inHandler = false) :=
  ⟨⟨_, rfl, by decide⟩, ⟨_, rfl, by decide⟩, by decide, by decide, by decide, by decide, by decide, by decide, by decide⟩

/-! ### Witnesses: register claim and the work pool -/

def seg0 (n : Nat) : Segment := { entries := List.replicate n (List.replicate 16 1), spill := false, steal := false, recv := none, units := [] }

theorem witness_RegisterClaim : Ready s0 i0 [] [(.int 8, 1)] ∧ i0.part al ≠ 0 ∧ onceOf s0 i0 al (.int 8) = 8 ∧ (s0.chain i0.rid.chain).isSome = true ∧
    8 + 8 ≤ i0.rod.window ∧ s0.rodOps i0.rid = [] ∧ onceOf s0 i0 al (.int 7) % 8 ≠ 0 ∧ (s0.packet 1).isSome = true ∧
    (let s := (st (fun x => { x with window := 248 })).modChain 3 (fun c => { c with pool := [(0, 8)] });
      ∃ ch p, s.chain 3 = some ch ∧ s.packet ch.launch = some p ∧ Ready s (issOf s) [] [(.int 8, 1)] ∧
        (issOf s).rod.window + 8 + 8 * (matesOf ch (issOf s).rid - 1) ≤ p.window * matesOf ch (issOf s).rid ∧ 8 ≤ ch.pool.get (quadOf (issOf s).rid) 0 ∧ ch.rtakeQ = []) :=
  ⟨by decide, by decide, by decide, by decide, by decide, by decide, by decide, by decide, _, _, rfl, rfl, by decide, by decide, by decide, by decide⟩

/-- The rod in a launch whose segment on the core holds n entries. -/
def pooled (n : Nat) (f : Packet → Packet) : State :=
  let s := s0.modCmd 1 (fun c => { c with segs := [(coreKey (s0.coreOf rid), seg0 n)], outstanding := n + 1, kind := match c.kind with | .launch p => .launch (f p) | k => k })
  s.modRod rid (fun x => { x with held := 0xFFFFFFFF })
def p0 (s : State) : Packet := (s.packet 1).getD Packet.probe
def cmd0 (s : State) : Cmd := (s.cmd 1).getD (Cmd.fresh 0 0 0 0 0 .none false)
def big (p : Packet) : Packet := { p with poolK := 6 }

theorem witness_PoolInstructions (s t : State) (hs : s = pooled 0 big) (ht : t = pooled 32 big) :
    PoolReady s (issOf s) (p0 s) (cmd0 s) (seg0 0) ∧ (issOf s).part al &&& ~~~ (issOf s).rod.held = 0 ∧
    (seg0 0).entries.length + (lanes ((issOf s).part al)).length ≤ (p0 s).poolE ∧ Ready s (issOf s) [] [(.w 240, 16)] ∧
    PoolReady t (issOf t) (p0 t) (cmd0 t) (seg0 32) ∧ Ready t (issOf t) [(.w 240, 16)] [] ∧ (seg0 32).recv = none ∧
    (lanes ((issOf t).part al)).length ≤ (seg0 32).entries.length ∧ (p0 s).spCap = 0 ∧ (seg0 0).steal = false := by
  subst hs ht
  exact ⟨⟨rfl, rfl, by decide, rfl, by decide⟩, by decide, by decide, by decide, ⟨rfl, rfl, by decide, rfl, by decide⟩, by decide, by decide, by decide, by decide, by decide⟩

theorem witness_PoolConfigStatus (s t : State) (hs : s = pooled 0 (fun p => { p with poolK := 0 })) (ht : t = pooled 0 big) :
    s.packet (s.launchOf (issOf s).rid) = some (p0 s) ∧ (p0 s).poolK = 0 ∧ Ready s (issOf s) [(.w 0, 2)] [(.w 0, 2), (.w 12, 4)] ∧
    Ready t (issOf t) [] [(.int 3, 1)] ∧ Ready t (issOf t) [(.w 7, 1)] [] ∧ (seg0 0).entries.length < 2048 := by
  subst hs ht
  exact ⟨rfl, by decide, by decide, by decide, by decide, by decide⟩

/-! ### Witnesses: intervals, functions and tables -/

theorem witness_IntervalArithmeticResults : Ready s0 i0 [(.w 252, 4)] [(.w 0, 4), (.w 4, 4)] ∧ Ready s0 i0 [(.w 0, 2)] [(.s 1, 2), (.ic .pi, 2), (.w 254, 2)] ∧
    Ready s0 i0 [(.w 0, 1)] [(.w 3, 1)] ∧ Ready s0 i0 [(.w 0, 2)] [(.w 4, 2), (.int (-5), 1)] ∧ Ready s0 i0 [(.w 248, 8)] [(.w 0, 4), (.w 4, 4)] ∧
    Ready s0 i0 [(.w 0, 4)] [(.w 254, 2)] := by decide

theorem witness_IntervalRelationsAndConversions : Ready s0 i0 [] [(.w 252, 4), (.w 0, 4)] ∧ (Ty.h.isView = true ∧ Ready s0 i0 [(.w 0, Ty.h.view.words)] [(.w 4, 4)]) ∧
    (Ty.y.isView = true ∧ Ty.i8.isView = false ∧ Ty.i8.isInteger = true ∧ Ty.i8.is64 = false ∧ Ready s0 i0 [(.w 0, 4)] [(.w 5, 1)]) ∧
    (Ty.i64.isInteger = true ∧ Ty.i64.is64 = true ∧ Ready s0 i0 [(.w 0, 2)] [(.w 254, 2)]) ∧
    (Ty.bf.isView = false ∧ Ty.bf.isInteger = false ∧ Ty.bf.is64 = false) ∧ Ready s0 i0 [(.w 0, 2)] [(.w 4, 4)] ∧
    Ready s0 i0 [(.w 0, 1)] [(.w 4, 2)] ∧ View.f ≠ View.y ∧ Ready s0 i0 [(.w 0, 2)] [(.w 4, 2), (.s 9, 1)] := by decide

/-- [1, 2] and [1, 2] in binary32. -/
def p12 : Pair := ⟨0x3F800000, 0x40000000⟩
theorem witness_EnclosureSoundness : isViewFmt fp32 ∧ IV.mem 1 (p12.iv fp32) ∧ IV.mem 2 (p12.iv fp32) ∧ (2 : Rat) ≠ 0 := by
  have h : p12.iv fp32 = .mk (.fin 1) (.fin 2) := by decide +kernel
  rw [h]
  exact ⟨Or.inr (Or.inl rfl), ⟨by decide, by decide⟩, ⟨by decide, by decide⟩, by decide⟩

theorem witness_RowStatistics : Ready s0 i0 [(.w 252, 2 * 2)] [(.w 0, 2)] ∧ Ready s0 i0 [(.w 0, 2)] [(.int 0, 1), (.s 3, 1)] ∧
    (∃ ch, s0.chain i0.rid.chain = some ch ∧ ch.scrBad = [] ∧ (∀ n, ch.full n = true) ∧ ch.scrSize % 8 = 0 ∧
      (∀ l ∈ lanes (i0.part al), rowOf s0 i0 al .f (.int 0) (.int 3) none ch l = some (0, 3) ∧ rowOf s0 i0 al .f (.int 4) (.int 3) none ch l = none ∧
        rowOf s0 i0 al .f (.int (-8)) (.int 1) none ch l = none ∧ rowOf s0 i0 al .f (.int 0) (.int (-1)) none ch l = none)) ∧ i0.part al ≠ 0 ∧
    ([IV.mk (.fin 1) (.fin 2), .empty, .mk (.fin 3) (.fin 4)] : List IV)[0]? = some (.mk (.fin 1) (.fin 2)) ∧
    unmasked ([IV.mk (.fin 1) (.fin 2), .empty, .mk (.fin 3) (.fin 4)].eraseIdx 0) = [(3, 4)].map (fun e => (.fin e.1, .fin e.2)) ∧
    (1 + [4].sum ≠ (0 : Rat) ∧ 2 + [3].sum ≠ (0 : Rat)) ∧ unmasked ([IV.mk (.fin 1) (.fin 2)].eraseIdx 0) = [] ∧
    [IV.entire].Perm [IV.entire] ∧ isViewFmt fp16 :=
  ⟨by decide, by decide, ⟨_, rfl, rfl, fun _ => rfl, by decide, by decide⟩, by decide, rfl, by decide +kernel, by decide +kernel, rfl, .refl _, Or.inl rfl⟩

def tab0 : TabEntry := { owner := 1, slot := 0, nseg := 0, domlo := 0, domhi := 0, glo := 0, ghi := 0 }
/-- The core of the rod with a table of its launch in the active bank. -/
def tabled : State := s0.setCore ⟨0, 0⟩ { Core.reset with bank0 := { segs := [], entries := [(15, tab0)] } }
/-- A table load of the rod from scratchpad bytes of zeros, a table of one segment. -/
def tabling (va : DWord) : State := ({ s0 with nextId := 5 } : State).setOp 4 { rod := rid, flags := [], kind := .table va 15 255 [], susp := false, denied := [] }

/-- What that load reads: the records of the table, or nothing where one cannot be read. -/
def tableRead (va : DWord) : Option (Option (List Nat)) :=
  match (tabling va).tableReads 4 ⟨rid, [], .table va 15 255 [], false, [], []⟩ va 15 255 [] 0 257 with
  | .ok ((r, _), _) => some r
  | .error _ => none

set_option maxRecDepth 8000 in
theorem witness_FunctionTables : Ready s0 i0 [] [(.s 0, 2)] ∧ i0.flagFull = false ∧ i0.part al ≠ 0 ∧ s0.tableBefore (s0.coreOf i0.rid) s0.nextId = false ∧
    (let s := tabling 1; s.tableBefore (s.coreOf rid) s.nextId = true ∧ (s.op 4).isSome = true ∧ s.tableBefore (s.coreOf rid) 4 = false) ∧
    Ready s0 i0 [(.w 255, 1)] [] ∧ Ready tabled (issOf tabled) [(.w 0, 4)] [(.w 252, 4)] ∧ (tabled.tableOf rid 15).isSome = true ∧
    s0.tableOf rid 15 = none ∧ i0.rod.compat.getLsbD 0 = false ∧ (issOf (st (fun x => { x with compat := 3 }))).rod.compat.getLsbD 0 = true ∧
    tableRead 0x00FF000000000000 = some (some [0, 0]) ∧ tableRead 0x00FF000001000000 = some none ∧
    tableOk (TabEntry.ofNat' 1 255 0) [Seg.ofNat' 0] = true ∧ (TabEntry.ofNat' 1 255 0).nseg + 2 = 2 ∧ tableOk (TabEntry.ofNat' 1 256 0) [Seg.ofNat' 0] = false :=
  ⟨by decide, by decide, by decide, by decide, by decide, by decide, by decide, by decide, by decide, by decide, by decide, by decide +kernel⟩

/-! ### Witnesses: loads, stores and requests to home -/

def oneLane (x : Rod) : Rod := { x with slotA := x.slotA.map (fun y => { y with path := { y.path with mask := 1 } }) }
/-- A rod of one lane, with page 0 of its address space mapped to frame 0, and the first four words of it in G in the L1 of its core. -/
def mapped : State := (st oneLane).setCore ⟨0, 0⟩ { Core.reset with
  dtlb := [{ asid := 0, vpn := 0, span := 1, ent := 0x813, zero := false }], l1 := (List.range 4).map (fun k => (k, { L1Word.reset with st := .g, val := 7, known := 15 })) }
def iM : Iss := issOf mapped
def at0 : MAddr := ⟨.s 0, .int 0, 0⟩
def got (x : Spotted) : State × List (Nat × Spot) := match x with | .ready s l => (s, l) | _ => (s0, [])
def placesM (kind : XKind) (z : Nat) : State × List (Nat × Spot) := got ((mapped.setRod rid iM.rod).spotAll iM kind z (addrsOf mapped iM al at0 z [0]))

theorem mapped_places (kind : XKind) (z : Nat) (h : (kind, z) ∈ [(XKind.read, 4), (.read, 16), (.write, 4), (.write, 128), (.read, 128)]) :
    Places mapped iM kind z (addrsOf mapped iM al at0 z [0]) (placesM kind z).1 (placesM kind z).2 ∧ (placesM kind z).2 = [(0, .mem 0 0x813)] := by
  simp only [List.mem_cons, Prod.mk.injEq, List.not_mem_nil, or_false] at h
  rcases h with ⟨rfl, rfl⟩ | ⟨rfl, rfl⟩ | ⟨rfl, rfl⟩ | ⟨rfl, rfl⟩ | ⟨rfl, rfl⟩ <;> exact ⟨rfl, by decide⟩

theorem witness_Loads : (iM.flagFull = false ∧ mapped.mayLoad iM .lane .plain = true ∧ allCached (placesM .read 16).1 (placesM .read 16).2 = true ∧
      ((placesM .read 16).1.l1Hits ((placesM .read 16).1.coreOf iM.rid) 0 16 (unionMask 16 [(0, .mem 0 0x813)])).isSome = true ∧
      Ready mapped iM [(.w 252, Size.x16.words)] at0.regs ∧ actorsOf iM al (.w 252) = [0] ∧ Ready mapped iM [(.w 254, View.f.words)] at0.regs ∧
      (placesM .read 16).1.awaits iM.rid ((placesM .read 16).1.cachedWords 16 (placesM .read 16).2) = false ∧
      (Operand.s 3).isS = true ∧ iM.part ⟨1, .isT⟩ = 0 ∧ Ready mapped iM [(.s 3, 1)] at0.regs) ∧
    (let s := s0.setOp 4 { rod := rid, flags := [(0, 11)], kind := .load { kind := .plain .x4, dst := .w 255, lanes := 1, offs := [], need := [], got := [(0, 9)], sc := .lane, ord := .plain, hint := .normal }, susp := false, denied := [] };
      (s.op 4).isSome = true ∧ (s.rod rid).isSome = true) ∧
    (let s := s0; Ready s (issOf s) [(.w 252, 4)] at0.regs ∧ (issOf s).flagFull = false ∧ s.acquiring rid = false ∧
      (issOf s).part al ≠ 0) := by decide

/-- The rod's lanes at offset 0 of its chain's scratchpad. -/
def inScr (off : DWord) : State := st (fun x => x.setUn 0 (off))
theorem witness_Stores : mapped.mayStore iM .lane .plain = true ∧ allCached (placesM .write 4).1 (placesM .write 4).2 = true ∧ ((placesM .write 4).1.rod rid).isSome = true ∧
    Ready mapped iM [] ((.w 255, 1) :: at0.regs) ∧ View.f ≠ View.y ∧ Ready mapped iM [] ((.w 254, View.f.words) :: at0.regs) ∧
    ((placesM .write 4).1.core ⟨0, 0⟩).pending + newWords (placesM .write 4).1 ⟨0, 0⟩ 4 (placesM .write 4).2 ≤ Config.pendingRegs ∧
    (∀ wd ∈ wordsOf 0 16, ((mapped.core ⟨0, 0⟩).l1Word wd).bad = false) ∧ ((mapped.core ⟨0, 0⟩).l1Word 4).st.owned = false ∧
    (let s := inScr 0; Ready s (issOf s) [] ((.w 252, 4) :: at0.regs) ∧ s.acquiring rid = false ∧ (issOf s).part al ≠ 0) := by decide

theorem witness_scratch_places : ∃ ch, InScratch (inScr (BitVec.ofNat 64 (Config.scrUnit - 16))) (issOf (inScr (BitVec.ofNat 64 (Config.scrUnit - 16)))) al at0 16
    (actorsOf (issOf (inScr 0)) al (.w 252)) ch (fun _ => Config.scrUnit - 16) ∧ ch.scrBad = [] ∧ (∀ k, ch.full k = true) ∧
    (∀ m ∈ actorsOf (issOf (inScr 0)) al (.w 252), lastAt (fun _ => Config.scrUnit - 16) 16 0 [m]) ∧ (inScr 0).lineRelease rid = true ∧
    ({ ch with fe := [(0, false)] } : Chain).full 0 = false :=
  ⟨_, ⟨rfl, by decide⟩, rfl, fun _ => rfl, by unfold lastAt; decide, by decide, by decide⟩

theorem witness_HomePerformedInstructions : mapped.mayStore iM .lane .ar = true ∧ iM.flagFull = false ∧ (placesM .write 4).2 ≠ [] ∧
    Pte.cnt 0x813 = false ∧ Pte.pageClass 0x813 = .cached ∧ Ready mapped iM [(.w 3, 1)] ((.w 3, 2) :: at0.regs) ∧ Ready mapped iM [] ((.w 3, 1) :: at0.regs) ∧
    Ready mapped iM [(.w 252, View.y.words)] at0.regs ∧ Ready mapped iM [] ((.w 254, 2) :: at0.regs) ∧
    (placesM .write 4).1.homeReady ((placesM .write 4).1.coreOf rid) [0] = true ∧
    (placesM .write 128).1.homeReady ((placesM .write 128).1.coreOf rid) (wordsOf 0 128) = true := by decide

theorem witness_FullEmptyAndGather : (let s := inScr 0; Ready s (issOf s) [] at0.regs ∧ Ready s (issOf s) [(.w 255, 1)] at0.regs ∧ s.engineReady rid = true ∧
      (issOf s).flagFull = false ∧ (issOf s).rod.gx.length + 4 ≤ Config.gatherWords ∧ (issOf s).part ⟨1, .isT⟩ = 0) ∧
    (let s := st (fun x => { x with slotA := x.slotA.map (fun y => { y with wait := some (.fullEmpty [⟨3, 0, true⟩] []) }) });
      ∃ x y, s.rod rid = some x ∧ x.slot .a = some y ∧ y.wait = some (.fullEmpty [⟨3, 0, true⟩] []) ∧ y.word.isSome = true ∧ [LineWait.mk 3 0 true].all s.lineMet = true ∧
        s.partMet [⟨3, 0, false⟩] = false ∧ s.lineRelease rid = true) :=
  ⟨by decide, _, _, rfl, rfl, by decide, by decide, by decide, by decide, by decide⟩

theorem witness_CacheInstructions : Ready mapped iM [] at0.regs ∧ lanes (iM.part al) = [0] ∧ Ready mapped iM [] ((.int 4, 1) :: at0.regs) ∧
    ((mapped.setRod rid iM.rod).cachedFrame iM 0).1 = some (some 0) ∧ ((mapped.setRod rid iM.rod).cachedFrame iM 16).1 = some (some 16) ∧ iM.part al ≠ 0 ∧
    Tbl.sorted (mapped.core ⟨0, 0⟩).l1 = true ∧ ((mapped.core ⟨0, 0⟩).l1Word 4).st.owned = false ∧ (mapped.core ⟨0, 0⟩).pending < Config.pendingRegs := by decide

/-! ### Witnesses: pages, fences, waits, barriers, counters -/

/-- The slot of the rod waiting at a word. -/
def waiting (w : Wait) (word : DWord) : State := 
  ({ s0 with cur := none } : State).modRod rid (fun x => { x with slotA := x.slotA.map (fun y => { y with wait := some w, started := some { count := 1, a := none, b := none, body := [word], brk := [false] } }) })

/-- The package with the table entry of address space 0 in use, its allocator off. -/
def noAlloc (f : Rod → Rod) : State := { st f with ast := [(0, { astb := 0, lo := 0, hi := 0 })] }

theorem witness_PageInstructionsAndWaits : Ready mapped iM [(.w 255, 1)] at0.regs ∧ iM.flagFull = false ∧ lanes (iM.part al) = [0] ∧
    vaKind 0x00FF000000000000 ≠ .translated ∧
    (let s := waiting .translation 0; ((s.rod rid).bind (·.slot .a)).bind (·.wait) = some .translation) ∧ ((s0.rod rid).bind (·.slot .a)).bind (·.wait) = none ∧
    (let s := s0.setDie 7 { Die.reset with reqs := [⟨5, 0, 0, 1⟩] }; (s.die 7).reqs.find? (fun q => q.tag == 5) = some ⟨5, 0, 0, 1⟩ ∧
      (s.die 7).reqs.any (fun q => q.tag == 6) = false) ∧ s0.upsets = [] := by decide

theorem witness_AllocatorAndTranslation : (let s := noAlloc oneLane; Ready s (issOf s) [(.w 254, 2)] [(.int 0, 1)] ∧ s.mayStore (issOf s) .rod .plain = true ∧
      s.mayStore (issOf s) .package .rel = true ∧ Ready s (issOf s) [] ((.int 0, 1) :: at0.regs) ∧ (issOf s).part al ≠ 0 ∧
      (∃ e, s.astEntry (.core (s.coreOf rid)) (s.asidOf rid) = .ok (e, s) ∧ e.aen = false)) ∧
    (∀ r, Operand.int 0 ≠ .s r) ∧ s0.xlic.getLsbD 63 = false ∧ ({ s0 with xlic := 0x8000000000000000 } : State).xlic.getLsbD 63 = true ∧
    s0.accessesOpen = false ∧ (s0.die 0).ppdb.getLsbD 0 = false ∧ pushOk 0 1 0x0010000000000 = true ∧
    ((s0.setDie 0 { Die.moduleReset with ppdb := 1 }).die 0).ppdb.getLsbD 0 = true :=
  ⟨⟨by decide, by decide, by decide, by decide, by decide, _, rfl, by decide⟩, (fun _ h => by cases h), by decide, by decide, by decide, by decide, by decide, by decide⟩

/-- Page 0 of the rod's address space holds a block allocator whose list of its class and die leads to block 0x400 (R47, R48). -/
def blocked (f : Rod → Rod) : State :=
  { (st f).setCore ⟨0, 0⟩ { Core.reset with dtlb := [{ asid := 0, vpn := 0, span := 1, ent := 0x913, zero := false }] } with
    ast := [(0, { astb := 0, lo := 0, hi := 0x101 })], mem := [(0x101, 4), (0x109, 8), (0x141, 4), (0x400, 0x40), (0x401, 4)],
    dies := [(0, { Die.moduleReset with resident := [(2, 0), (8, 0)] })] }

def blocks : State := blocked (fun x => oneLane ((x.setUn 2 64).setUn 0 0x400))
/-- What WholeWord asks of a word of near memory, as one test. -/
def wholeTest (s : State) (wd : Nat) : Bool :=
  s.homeOf wd == none && !s.poison.contains wd && !s.poisonLost.contains wd && (s.die (s.homeDie (4 * wd))).resident.any (fun x => x.1 == lineOf wd) &&
    decide (((s.die (s.homeDie (4 * wd))).resident.filter (fun e => sliceOf e.1 == sliceOf (lineOf wd) && e.1 != lineOf wd)).length < 16384) &&
    decide (((s.die (s.homeDie (4 * wd))).resident.filter (fun e => sliceOf e.1 == sliceOf (lineOf wd) && lineSet e.1 == lineSet (lineOf wd) && e.1 != lineOf wd)).length < 16) &&
    region (4 * wd) == .near 0
theorem blocks_whole : ∀ va ∈ [0x140, 0x100, 0x108, 0x400], ∀ wd ∈ wordsOf va 8, wholeTest blocks wd = true := by decide
theorem blocked_data : DataAt blocks (issOf blocks) id [0x140, 0x100, 0x108, 0x400] := by
  refine ⟨fun va h kind k => ?_, by decide, fun va h wd hw => ?_, by decide⟩
  · simp only [List.mem_cons, List.not_mem_nil, or_false] at h
    rcases h with rfl | rfl | rfl | rfl <;> rcases k with rfl | rfl <;> rfl
  · have t := blocks_whole va h wd hw
    simp only [wholeTest, Bool.and_eq_true, beq_iff_eq, Bool.not_eq_true', decide_eq_true_eq] at t
    obtain ⟨⟨⟨⟨⟨⟨h1, h2⟩, h3⟩, h4⟩, h5⟩, h7⟩, h6⟩ := t
    exact ⟨h1, ⟨h2, h3⟩, h4, ⟨h5, h7⟩, fun io => by rw [h6]; exact fun e => by cases e⟩

theorem witness_allocator_blocks (s : State) (hs : s = blocked (fun x => oneLane ((x.setUn 2 64).setUn 0 0x400))) :
    (∃ e, s.ast.find (s.asidOf (issOf s).rid) = some e ∧ e.aen = true ∧ e.adesc = 0x100) ∧ (s.coreOf (issOf s).rid).die < 8 ∧
    headAt 0x100 (sizeClass 64) (s.coreOf (issOf s).rid).die = 0x140 ∧ s.curNat 0x140 8 = 0x400 ∧ s.curNat 0x400 8 = 0x440 ∧
    blockOk (s.curNat 0x100 8) (s.curNat 0x108 8) (sizeClass 64) 0x440 = true ∧ blockOk (s.curNat 0x100 8) (s.curNat 0x108 8) (sizeClass 64) 0x400 = true ∧
    Ready s (issOf s) [(.w 3, 2)] [(.s 2, 1)] ∧ Ready s (issOf s) [] ((.s 2, 1) :: at0.regs) ∧ lanes ((issOf s).part al) = [0] ∧
    ((issOf s).rod.un 2).toNat = 64 ∧ s.mayStore (issOf s) .package .acq = true ∧ s.acquiring (issOf s).rid = false ∧ s.rods = (s.setRod (issOf s).rid (issOf s).rod).rods ∧
    ((srcs s (issOf s) al none).addr at0 1 0).toNat = 0x400 := by
  subst hs
  exact ⟨⟨_, rfl, by decide, by decide⟩, by decide⟩

theorem witness_allocator_lanes : ∃ out b t, allocLanes (fun t _ => t.allocLane (issOf (noAlloc oneLane)) 0) (2 ^ 64 - 1, false) [0]
    ((noAlloc oneLane).setRod rid (issOf (noAlloc oneLane)).rod) [] 0 = .ok (out, b, t) ∧ out = [(0, 0, true)] ∧ (t.rod rid).isSome = true :=
  ⟨_, _, _, rfl, by decide, by decide⟩

theorem witness_FencesAndPromotions : s0.issuer = some i0 ∧ i0.part al ≠ 0 ∧ FenceReady s0 i0 .package ∧ s0.posting i0.rid = false ∧
    (let s := s0.modRod rid (fun x => { x with stores := [9] }); let t := s.setCore ⟨0, 0⟩ { Core.reset with l1 := [(9, { L1Word.reset with st := .gp, known := 15 })] };
      t.released rid .package = false) ∧
    (let s := s0.setOp 4 { rod := rid, flags := [], kind := .posted, susp := false, denied := [] }; s.posting rid = true ∧ s.rodOps rid ≠ []) ∧
    s0.rodOps i0.rid = [] ∧ i0.rod.lateCauses = 0 ∧ (let s := st (fun x => inClause 0 2 (x.raise Cause.bover)); (issOf s).rod.lateCauses ≠ 0 ∧
      (issOf s).rod.inHandler = false ∧ (issOf s).rod.run = .running) ∧ Ready s0 i0 [] [(.int 8, 1)] ∧
    s0.acquiring i0.rid = false ∧ s0.unbound i0.rid = false ∧ (0x072F : Word).bits 15 8 ≤ 7 ∧ (0x072F : Word).bits 7 0 ≤ 47 ∧
    47 < (0x0030 : Word).bits 7 0 ∧ (let s := waiting .promotion 0; s.inService 0 = true ∧ (s.setDieState 0 .failed).inService 0 = false ∧ (s.core (s.coreOf rid)).isHeld = false ∧
      s.mayAcquire rid .package = true ∧ s.grantedAt ⟨0, 0⟩ (s.acqrClass rid 0 .package) (s.core ⟨0, 0⟩).l1.keys = true) ∧
    (let s := (waiting (.promoted [9] true) 0).setCore ⟨0, 0⟩ { Core.reset with l1 := [(9, { L1Word.reset with st := .gd, known := 15 })] };
      s.grantedAt ⟨0, 0⟩ (s.acqrClass rid 0 .package) [9] = false) ∧ s0.mayAcquire rid .package = true ∧ s0.forked rid = true ∧
    (let s := s0.modRod rid (fun x => { x with mxIn := [] }); s.forked rid = true) := by
  refine ⟨by decide, by decide, ⟨by decide, by decide, by decide⟩, ?_⟩
  decide

/-- The page of the rod's counters. -/
def counted (f : Rod → Rod) : State := (st (fun x => f (oneLane x))).setCore ⟨0, 0⟩ { Core.reset with
  dtlb := [{ asid := 0, vpn := 0, span := 1, ent := 0x853, zero := false }] }
theorem witness_WaitanyAndSequence : (let s := counted (fun x => x); Ready s (issOf s) [(.w 255, 1)] ((.w 255, 1) :: at0.regs) ∧ s.mayLoad (issOf s) .rod .plain = true ∧
      lanes ((issOf s).part al) = [0] ∧ Ready s (issOf s) [] ((.s 2, 2) :: at0.regs) ∧ s.mayStore (issOf s) .package .plain = true ∧ Pte.cnt 0x853 = true ∧
      Pte.cnt 0x813 = false ∧ (got ((s.setRod rid (issOf s).rod).spotAll (issOf s) .write 8 (addrsOf s (issOf s) al at0 0 [0]))).2 = [(0, .mem 0 0x853)] ∧
      (got ((s.setRod rid (issOf s).rod).spotAll (issOf s) .read 8 (addrsOf s (issOf s) al at0 0 [0]))).2 = [(0, .mem 0 0x853)] ∧
      Ready s (issOf s) [(.s 63, 1)] ((.s 63, 1) :: at0.regs) ∧ ((issOf s).rod.un 63).toNat ≤ s.curNat 0 8) ∧
    (let s := counted (fun x => x.setUn 63 1); s.curNat 0 8 < ((issOf s).rod.un 63).toNat) ∧
    ((placesM .read 4).1.armValue ⟨0, 0⟩ (.mem 0 0x813)).seen ≠ iM.rod.lw 255 0 ∧ (placesM .read 4).1.armReady ⟨0, 0⟩ (.mem 0 0x813) = true ∧
    (encode (.waitany al (.w 3) at0 .normal)).isSome = true ∧ (encode (.seqwt al (.s 63) at0 .package .plain .normal)).isSome = true := by decide

theorem witness_waits : (let s := waiting (.waitany [⟨8, 3⟩] (some 0)) ((encode (.waitany al (.w 3) at0 .normal)).getD 0);
      ((s.rod rid).bind (·.slot .a)).bind (·.instr) = some (.waitany al (.w 3) at0 .normal) ∧ [Armed.mk 8 3].find? (fun e => e.word == 8) = some ⟨8, 3⟩ ∧ 0 ≤ s.cycle ∧
      [Armed.mk 8 3].all (fun e => lineOf e.word != lineOf 64) = true) ∧
    (let s := waiting (.seqwt 0 1) ((encode (.seqwt al (.s 63) at0 .package .plain .normal)).getD 0);
      ((s.rod rid).bind (·.slot .a)).bind (·.instr) = some (.seqwt al (.s 63) at0 .package .plain .normal) ∧ s.curNat 0 8 < 1) ∧
    (let s := waiting .rtake ((encode (.rtake al (.int 8))).getD 0); ((s.rod rid).bind (·.slot .a)).bind (·.instr) = some (.rtake al (.int 8))) := by decide

/-- The rod's chain barrier 15 with a change. -/
def barred (f : Bar → Bar) : State := s0.setBar (.chain 3 15) (f Bar.reset)
theorem witness_Barriers : Ready s0 i0 [] [(.int 15, 1)] ∧
    (let s := (st (fun x => x.setUn 4 15)).modCmd 1 (fun c => { c with kind := match c.kind with | .launch p => .launch { p with cbar := List.replicate 16 1 } | k => k });
      Ready s (issOf s) [] [(.s 4, 1), (.int 1, 1)] ∧ ((issOf s).part al ≠ 0 ∧ s.barOf rid .chain ((srcs s (issOf s) al none).d64 .a (.s 4) 0).toNat = some (.chain 3 15)) ∧
      (s.chain 3).isSome = true ∧ (s.bar (.chain 3 15)).arrived.contains (rodKey rid) = false ∧ s.released rid (barScope .chain) = true ∧
      (s.bar (.chain 3 15)).mid.find (2 ^ 32 * rodKey rid + (issOf s).slot.path.mask.toNat) = none ∧ s.rodOps rid = [] ∧ (issOf s).rod.lateCauses = 0 ∧
      0 ≤ (s.bar (.chain 3 15)).bytes ∧ s.barDue (.chain 3 15) = false ∧
      (let t := s.setBar (.chain 3 15) { Bar.reset with arrived := [rodKey rid], last := [(rodKey rid, 0)], open' := 1 }; t.barDue (.chain 3 15) = true ∧
        (t.bar (.chain 3 15)).arrived.contains (rodKey rid) = true ∧ (t.bar (.chain 3 15)).last.find (rodKey rid) = some 0 ∧ t.twoDies (.chain 3 15) = false ∧
        (t.bar (.chain 3 15)).open' = 1)) := by decide

/-! ### Witnesses: exceptions, holds, images, clauses -/

/-- The rod in its handler, entered from a path at word 8. -/
def handling (f : Rod → Rod) : State := st (fun x => f { x with cause := Cause.inh, shadowA := some ⟨64, 0, 0xFFFFFFFF, none, 0, 0, false⟩, skid := 64 <<< 8 })
/-- The rod halted, with its launch's handler at h and page 0 of its address space readable as code. -/
def halted (h : DWord) : State :=
  let s := (st (fun x => { x with run := .halted })).modCmd 1 (fun c => { c with kind := match c.kind with | .launch p => .launch { p with handler := h } | k => k })
  s.setCore ⟨0, 0⟩ { Core.reset with itlb := [{ asid := 0, vpn := 0, span := 1, ent := 0x23, zero := false }] }
/-- A clause can be fetched at an address. -/
def fetches (s : State) (pc : DWord) : Bool :=
  match s.fetchClause (s.coreOf rid) (s.asidOf rid) [] pc with
  | .ok ((h, body), t) => h.count == 0 && body.length == 1 && (t.rod rid).isSome
  | .error _ => false

theorem witness_ExceptionEntry : s0.issuer = some i0 ∧ i0.rod.inHandler = false ∧ i0.rod.run = .running ∧ slotStopped (i0.rod.slot i0.sl.other) = true ∧
    (∃ x, s0.rod rid = some x ∧ x.live ≠ 0 ∧ x.inHandler = false) ∧
    (∃ x p, (halted 64).rod rid = some x ∧ (halted 64).packet ((halted 64).launchOf rid) = some p ∧ x.run = .halted ∧ x.frozen = false ∧ x.live ≠ 0 ∧ x.inHandler = false ∧
      p.handler ≠ 0 ∧ (halted 64).cancelledFor rid = false ∧ (halted 64).savingFor rid = false) ∧ fetches (halted 64) 64 = true ∧ (((halted 0).packet 1).map (·.handler)) = some 0 ∧ ((halted 0).core ⟨0, 0⟩).isHeld = false ∧
    (issOf (handling (fun x => x))).rod.inHandler = true ∧ (handling (fun x => x)).issuer = some (issOf (handling (fun x => x))) :=
  ⟨by decide, by decide, by decide, by decide, ⟨_, rfl, by decide⟩, ⟨_, _, rfl, rfl, by decide⟩, by decide, by decide, by decide, by decide, by decide⟩

theorem witness_ExceptionReturnAndSystem : (let s := handling (fun x => x); let i := issOf s; s.issuer = some i ∧ i.part al ≠ 0 ∧ i.rod.inHandler = true ∧
      i.rod.cause &&& 0x27FFF = 0 ∧ i.rod.run = .running ∧ i.rod.stack = [] ∧ i.rod.shadowA = some ⟨64, 0, 0xFFFFFFFF, none, 0, 0, false⟩ ∧ i.rod.shadowB = none ∧
      i.rod.skid.getLsbD 10 = false) ∧ (let s := handling (fun x => x.raise Cause.haltp); (issOf s).rod.cause &&& 0x27FFF ≠ 0) ∧
    (∃ c, (issOf c0).slot.started = some c ∧ (issOf c0).slot.path.idx + 1 < c.count) ∧ i0.slot.started.isSome = true ∧ (c0.die 0).dbgctl.getLsbD 1 = false ∧
    Ready s0 i0 [(.s 5, 1)] [] ∧ isReg (.s 5) = true ∧ Ready s0 i0 [] [(.w 5, 1)] ∧
    (∃ ch cmd p, s0.chain rid.chain = some ch ∧ s0.cmd ch.launch = some cmd ∧ cmd.kind = .launch p) :=
  ⟨by decide, by decide, ⟨_, rfl, by decide⟩, by decide, by decide, by decide, by decide, by decide, _, _, _, rfl, rfl, rfl⟩

/-- The rod inside a clause of two instructions, on a die with a sample buffer of 256 words at frame 1 and software records on (R446). -/
def recording : State := c0.setDie 0 { c0.die 0 with smpctl := 0x4000000000000800, smpbase := 0x10000 }
theorem recording_room : SampleReady recording 0 19 :=
  ⟨by decide, by decide, by decide, by decide, by decide, by decide +kernel, by decide⟩
theorem witness_records : recording.issuer = some (issOf recording) ∧ (issOf recording).part al ≠ 0 ∧ heldRods recording ⟨0, 0⟩ = [rid] ∧ MidClause (issOf recording) ∧
    (∀ r ∈ heldRods recording ⟨0, 0⟩, (recording.rod r).isSome = true ∧ (recording.coreOf r).die = (recording.coreOf rid).die) ∧
    SampleRoom recording 0 8 ∧ Ready recording (issOf recording) [] [(.w 241, 15)] :=
  ⟨by decide, by decide, by decide, ⟨_, rfl, by decide⟩, by decide, ⟨by decide, by decide, by decide, by decide, by decide +kernel, by decide⟩, by decide⟩

theorem witness_HoldAndRecordInstructions : s0.issuer = some i0 ∧ i0.part al ≠ 0 ∧ (s0.core (s0.coreOf i0.rid)).isHeld = false ∧
    ((s0.setDie 0 { Die.moduleReset with dbgctl := 2 }).die 0).dbgctl.getLsbD 1 = true ∧ (s0.die 0).smpctl.getLsbD 62 = false ∧
    i0.part ⟨1, .isT⟩ = 0 ∧ Ready s0 i0 [] [(.w 248, 8)] := by decide

/-- A rod of the least window, in whose mapped page an image fits. -/
def imaging : State := mapped.modRod rid (fun x => { x with window := 8 })
def imageOk (kind : XKind) (n : Nat) : Option Nat :=
  match (imaging.setRod rid (issOf imaging).rod).imageBlocks (issOf imaging) 0 kind (blocksOf n) [] with
  | .ok (ws, _) => if ws.contains .zero then none else some ws.length
  | .error _ => none
set_option maxRecDepth 8000 in
theorem witness_RegisterImages : Ready imaging (issOf imaging) [] [(.s 0, 2)] ∧ (issOf imaging).part al ≠ 0 ∧ (issOf imaging).flagFull = false ∧
    ((srcs imaging (issOf imaging) al none).d64 .a (.s 0) 0).toNat % 64 = 0 ∧ vaKind ((srcs imaging (issOf imaging) al none).d64 .a (.s 0) 0) = .translated ∧
    imaging.mayStore (issOf imaging) .rod .plain = true ∧ imaging.mayLoad (issOf imaging) .rod .plain = true ∧
    imageOk .write (960 + 128 * 8) = some 31 ∧ imageOk .read 64 = some 1 := by decide

theorem witness_ClausesSlotsAndAgeing : (let s := (halted 64).modRod rid (fun x => { x with run := .running, slotA := some (Slot.fresh ⟨64, 0, 0xFFFFFFFF, none, 0, 0, false⟩ 0) });
      fetches s 64 = true ∧ ∃ x y, MayStart s rid .a x y ∧ y.path.idx ≤ 0 ∧ x.flagsClear 0 = true) ∧
    (let s := s0.modRod rid (fun x => { x with flags := [(11, 1)] }); ∃ x, s.rod rid = some x ∧ x.flagsClear 0x800 = false) ∧
    (match s0.fetchClause ⟨0, 0⟩ 0 [⟨0, .fetch, .a⟩] 64 with | .error (.rejected _ _, _) => true | _ => false) = true ∧
    (match ({ halted 64 with inflight := [.homeWriteBack (.core ⟨0, 0⟩) 16 0] } : State).fetchClause ⟨0, 0⟩ 0 [] 64 with | .error (.busy, _) => true | _ => false) = true ∧
    (let s := s0.modRod rid (fun x => { x with slotA := x.slotA.map (fun y => { y with started := some { count := 1, a := none, b := none, body := [0], brk := [true] } }) });
      ∃ x y, s.rod rid = some x ∧ x.slot .a = some y ∧ y.brk = true ∧ y.path.broke = false) ∧
    (let s := waiting (.sleep 3) 0; ((s.rod rid).bind (·.slot .a)).bind (·.wait) = some (.sleep 3) ∧ 3 ≤ s.cycle) ∧
    (let s := ({ s0 with cycle := 5000 } : State).modRod rid (fun x => { x with stack := [(0, .path ⟨8, 0, 1, none, 0, 0, false⟩)], slotA := some (Slot.fresh ⟨64, 0, 2, none, 0, 0, false⟩ 0) });
      ∃ x, s.rod rid = some x ∧ x.overdue s.cycle = some (0, ⟨8, 0, 1, none, 0, 0, false⟩) ∧ (x.swapSlot).isSome = true) :=
  ⟨⟨by decide, _, _, ⟨rfl, rfl, rfl, rfl, rfl⟩, by decide, by decide⟩, ⟨_, rfl, by decide⟩, by decide, by decide, ⟨_, _, rfl, rfl, by decide⟩, by decide, _, rfl, by decide, by decide⟩

/-! ### Witnesses: commands and the scheduler -/

/-- Queue 0 with one slot of value v, and a page of its address space mapped for the I/O die. -/
def queued (v : Byte) : State :=
  let s : State := { serving State.reset with mem := [(0x10000, v)], queuesOpen := true }
  (s.setIod 0 { IoDie.reset with tlb := [{ asid := 0, vpn := 0, span := 1, ent := 0x813, zero := false }] }).setQueue 0
    { Queue.reset with qbase := 0x10004, qcfg := 0x8000000000000000, widx := 1, seqs := [0] }

/-- The slot that the queue's next fetch reads. -/
def slotWord (s : State) : Option Nat := ((s.readPhys (.io 0) ((s.queue 0).slotAt (s.queue 0).ridx) 8).toOption).map Prod.fst

set_option maxRecDepth 20000 in
theorem witness_QueuesAndFetch : (queued 0x82).canFetch 0 = true ∧ State.reset.canFetch 0 = false ∧ slotWord (queued 0x82) = some 0x82 ∧
    slotWord (queued 0) = some 0 ∧ slotWord (queued 0x0F) = some 0x0F ∧
    ((queued 0).queue 0).dev = false ∧ (1 - ((queued 0).queue 0).ridx).toNat ≤ 2 ^ ((queued 0).queue 0).log2 ∧
    (let s := State.reset.setQueue 9 { Queue.reset with qbase := 4, qcfg := 0x4000000000000000 }; (s.queue 9).dev = true ∧ (s.queue 9).holds < 2 ^ (s.queue 9).log2 ∧
      (s.reach ((s.queue 9).slotAt (s.queue 9).widx) ≠ .memory ∨ s.canPut (ioStop 0) ((s.queue 9).slotAt (s.queue 9).widx) 8 = true) ∧ s.upsets = []) ∧
    (match (queued 0x82).packetParts 0 0 128 4 [] with
      | .ok (some bs, t) => decide ((t.queue 0 = (queued 0x82).queue 0) ∧ t.cancels = [] ∧ t.countersBusy (Cmd.fresh 0 0 0 0 t.appended (cmdKindOf 2 bs) false) = false ∧ (afterFetch t 0).refusal 0 0 (cmdKindOf 2 bs)
          ((Cmd.fresh 0 0 0 0 t.appended (cmdKindOf 2 bs) false).levels.map (fun l => (l, (Cmd.fresh 0 0 0 0 t.appended (cmdKindOf 2 bs) false).counter l))) = 0)
      | _ => false) = true := by decide

def nb0 : NbPkt := { desc := 0, die := 7, done := 0, ids := 0 }
def commanded (k : CmdKind) (f : Cmd → Cmd) : State := State.reset.setCmd 1 (f (Cmd.fresh 0 0 0 0 1 k false))
theorem witness_ReadinessAndCompletion : (let s := commanded (.launch Packet.probe) (fun c => c); ∃ c, s.cmd 1 = some c ∧ s.launchable c = true) ∧
    (let s := commanded (.launch Packet.probe) (fun c => { c with state := .complete }); ∃ c, s.cmd 1 = some c ∧ c.state = .complete ∧ s.inOrder c = true ∧ s.owing 1 c = false ∧
      s.launchable c = false) ∧
    (let s := commanded (.launch { Packet.probe with ids := 0x8000000000000000 }) (fun c => { c with state := .published }); s.levelReady 1 .graph = false) ∧
    (let s := (commanded (.neighbour nb0) (fun c => c)).setDieState 8 .inService; ∃ c, s.cmd 1 = some c ∧ c.kind = .neighbour nb0 ∧ s.cmdTurn c = true ∧ c.susp = false ∧
      s.inService 7 = true ∧ s.grid 7 0 = none) ∧
    (let s := commanded (.neighbour nb0) (fun c => c); s.inService 7 = false) :=
  ⟨⟨_, rfl, by decide⟩, ⟨_, rfl, by decide⟩, by decide, ⟨_, rfl, rfl, by decide⟩, by decide⟩

theorem witness_Cancellation : s0.issuer = some i0 ∧ i0.part al ≠ 0 ∧ (s0.cmd (s0.launchOf i0.rid)).isSome = true ∧ s0.canc.getLsbD 63 = false ∧
    ({ s0 with canc := 0x8000000000000000 } : State).canc.getLsbD 63 = true := by decide

theorem witness_SchedulingRegisters : State.reset.preq.getLsbD 63 = false ∧ 0 < (0x700000030 : DWord).bits 5 0 ∧ (0x700000030 : DWord).bits 5 0 ≤ 48 ∧ State.reset.chains = [] ∧
    State.reset.cmds = [] ∧ (let s := State.reset.setQueue 1023 { Queue.reset with dlwait := true }; (s.queue 1023).dlwait = true ∧ 1023 / 512 = 1) ∧
    ({ State.reset with cycle := 4096 } : State).lastRound + 4096 ≤ ({ State.reset with cycle := 4096 } : State).cycle ∧ State.reset.cycle < State.reset.lastRound + 4096 := by decide

theorem witness_RodStart : (31 : Nat) < 32 ∧ ({ Packet.probe with nrod := 32 } : Packet).nrod ≤ 32 ∧ Packet.probe.args.length = 8 := by decide

set_option maxRecDepth 20000 in
theorem witness_DeviceLaunch : (let s := (mapped.setQueue 0 { Queue.reset with qbase := 0x10004, qcfg := 0x4000000000000000 }); let i := issOf s;
      Ready s i [(.w 9, 1)] [(.s 0, 2), (.int (-1), 1)] ∧ isReg (.w 9) = true ∧ i.part al ≠ 0 ∧ s.engineReady i.rid = true ∧ s.released rid .package = true ∧ s.unbound rid = false ∧
      (s.queueOf rid).1 = 0 ∧ (s.queue 0).qcfg.bits 47 32 = s.asidOf rid ∧ (s.queue 0).dev = true ∧ 4 ≤ (s.queue 0).log2 ∧ (s.queue 0).log2 ≤ 16 ∧
      (match (s.setRod rid i.rod).slotFrames (.core ⟨0, 0⟩) 0 [] 0 .read (blocksOf 512) [] with
        | .ok (some fs, t) => decide (fs = ((List.range 8).map (fun k => some (64 * k))) ∧ (t.reach ((t.queue 0).slotAt (t.queue 0).widx) = .memory ∧ t.canPut (stopOf 0) ((t.queue 0).slotAt (t.queue 0).widx) 8 = true) ∧ causesOf (packetWords t ((List.range 8).map (64 * ·))) = 0 ∧
            (t.queue 0).holds < 2 ^ (t.queue 0).log2)
        | _ => false) = true) ∧ (State.reset.queue 0).dev = false := by decide

/-! ### Witnesses: the matrix engine and copies -/

def chain0 : Chain := (s0.chain 3).get (by decide)
/-- The rod's chain with 1 KiB of scratchpad, one unit of accumulators and tile 0 valid, 16 by 16; the lines named are empty. -/
def tiledChain (es : List Nat) : Chain :=
  { chain0 with scrSize := 1024, accUnits := 1, tiles := [(0, { Tile.reset with valid := true })], fe := es.map (fun l => (l, false)) }
def tiled : State := s0.setChain 3 (tiledChain [])
/-- An operation of the matrix engine in that state. -/
def mxOf (k : MxKind) : MxOp := { tile := 0, kind := k, gang := [0], word := 0, aval := 0, bval := 0, cval := 0, snap := [], shape := Tile.reset, prog := 0, raw := false, caused := false }
def opOf (k : OpKind) : Op := { rod := rid, flags := [], kind := k, susp := false, denied := [] }
def engaged (k : MxKind) : State := tiled.setOp 5 (opOf (.mx (mxOf k)))
/-- A record of 16 by 16 bytes at offset 0. -/
def rec16 : Layout := { Layout.ofNat' 0 with base := 0, dim := [16, 16, 1], str1 := 16, str2 := 256, box := [16, 1, 1] }
def fields0 : MxFields := ⟨0, .e4m3, .e4m3, false, false, .sp, .sp⟩

theorem witness_TileInstructionsIssue : TileReady tiled (issOf tiled) al (tiledChain []) ∧ (issOf tiled).flagFull = false ∧
    Ready tiled (issOf tiled) [] [(.w 9, 1), (.int 0, 1), (.s 5, 1)] ∧ Ready tiled (issOf tiled) [] [(.s 5, 2)] ∧ Ready tiled (issOf tiled) [(.w 254, View.f.words)] [(.w 9, 1), (.w 7, 1)] ∧
    (tiledChain []).mxIllegal (.mxclr al 0 (.int 0)) 0x1000 = true ∧ (tiledChain []).mxIllegal (.mxclr al 0 (.int 0)) 0 = false ∧
    (tiledChain []).mxIllegal (.mxwin al 0 (.int 511)) 511 = false ∧ (tiledChain []).mxIllegal (.mxwin al 0 (.int 512)) 512 = true ∧
    (tiledChain []).mxIllegal (.mxsp al 0 (.int 0)) 0 = false ∧ (1 : Word).getLsbD rid.rod = true ∧ count (1 : Word) ≤ 6 ∧ (1 : Word).toNat < 2 ^ chain0.nrod ∧
    (2 : Word).getLsbD rid.rod = false :=
  ⟨⟨by decide, rfl, by decide, by decide, by decide, by decide⟩, by decide⟩

theorem witness_TileTable : Tbl.sorted (tiledChain []).tiles = true ∧ ((tiledChain []).tile 0).valid = true ∧
    ((tiledChain []).mxFront (.mxclr al 1 (.int 0)) 0).tile 0 = { Tile.reset with valid := false } := by decide

theorem engaged_turn (k : MxKind) : MxTurn (engaged k) 5 (opOf (.mx (mxOf k))) (mxOf k) (tiledChain []) := ⟨rfl, rfl, rfl, rfl, rfl⟩

/-- Both operands of the first step of that product are fetched. -/
def fetched (n : Nat) : Bool :=
  let k := MxKind.prod fields0 none 0 n rec16 rec16 none none
  let t : Tile := { Tile.reset with valid := true }
  let ks := (mxOf k).ks (kStep .e4m3 .e4m3) n
  match (engaged k).mxElems (fun s e => s.mxElemA 5 (opOf (.mx (mxOf k))) t fields0 none 0 rec16 none e) (mxGrid t.m ks) [] 0 with
  | .ok (_, s1) =>
    match s1.mxElems (fun s e => s.mxElemB 5 (opOf (.mx (mxOf k))) t fields0 0 rec16 none e) (mxGrid t.n ks) [] 0 with
    | .ok (_, s2) => (s2.chain 3).isSome && (s2.op 5).isSome
    | .error _ => false
  | .error _ => false
theorem witness_MatrixEngineSteps_product : fetched 1 = true ∧ ∀ x ∈ [1, 64], (mxOf .bad).prog * kStep fields0.af fields0.bf < x := by decide +kernel

/-- 1.0 · 1.0 at window 0 counts 2^123 in the element, which reads as [1, 1] (R194, R195). -/
theorem test_accumulator_one : (Acc.reset.add 0 (some (.fin 1)) (some (.fin 1))).val = 2 ^ 123 ∧
    (((Acc.reset.add 0 (some (.fin 1)) (some (.fin 1))).read { Tile.reset with valid := true } fp32).pair.words .f) = [0x3F800000, 0x3F800000] := by decide +kernel

theorem witness_MatrixEngineSteps_completion : (0 : Nat) ≤ (mxOf (.prod fields0 none 0 0 rec16 rec16 none none)).prog * kStep .e4m3 .e4m3 ∧
    ((engaged (.rd .f (.w 254) 1 [] [])).rod rid).isSome = true ∧ 15 < ({ Tile.reset with valid := true } : Tile).m ∧
    (match (engaged (.st .f .sp { rec16 with dim := [1, 1, 1], esz := 3 })).mxStore 5 (opOf (.mx (mxOf (.st .f .sp rec16)))) .f .sp { rec16 with dim := [1, 1, 1], esz := 3 } (tiledChain [])
        { Tile.reset with valid := true } (mxStoreElems { Tile.reset with valid := true } { rec16 with dim := [1, 1, 1], esz := 3 }) 0 with
      | .ok (k, _) => k == 0
      | .error _ => false) = true := by decide +kernel

/-- The engine's core reads and writes page 0, where a saved image of tile 0 stands, valid and 16 by 16. -/
def imaged (k : MxKind) : State := ((engaged k).setCore ⟨0, 0⟩ (mapped.core ⟨0, 0⟩))
set_option maxRecDepth 20000 in
theorem witness_MatrixEngineSteps_image : (match (imaged (.sv 0)).rangeOf 5 (opOf (.mx (mxOf (.sv 0)))) 0 .write (blocksOf ({ Tile.reset with valid := true } : Tile).imageLen) [] with
      | .ok (ws, _) => ws.length == 113 && ws.all (fun w => match w with | .mem _ _ => true | _ => false)
      | .error _ => false) = true ∧
    (match (imaged (.rs 0)).rangeOf 5 (opOf (.mx (mxOf (.rs 0)))) 0 .read (blocksOf ({ Tile.reset with valid := true } : Tile).imageLen) [] with
      | .ok (ws, _) => ws.length == 113
      | .error _ => false) = true ∧
    (let s := (imaged (.rs 0)).putWord 0 0x1000 15; (s.readImage ⟨0, 0⟩ [.mem 0 0x813]).2.2.2.1 = false) ∧ (Tile.ofHeader 0x1000).valid = true ∧ (Tile.ofHeader 0x1000).mq = 0 := by decide +kernel

/-- A line of 128 bytes copied in. -/
def lay1 : Layout := { Layout.ofNat' 0 with dim := [128, 1, 1], box := [128, 1, 1], spitch := 128 }
def copyOf (out : Bool) (ls : List Nat) (seq : Option DWord) : CopyOp := { out := out, lay := lay1, b := 0, c := 0, bar := none, seq := seq, raw := false, lines := ls, caused := false, hint := .normal }
def copying (out : Bool) (ls : List Nat) (seq : Option DWord) (es : List Nat) : State :=
  (mapped.setChain 3 (tiledChain es)).setOp 5 (opOf (.copy (copyOf out ls seq)))
/-- The bytes of the line land from memory or leave for it. -/
def lands (out : Bool) (es : List Nat) : Bool :=
  let c := copyOf out [0] none
  match (copying out [0] none es).copyPlaces 5 (opOf (.copy c)) (if out then .write else .read) ((c.elemsOn 0).filter (fun e => e.inb || !c.out)) [] with
  | .ok (ps, s1) =>
    let core := s1.coreOf rid
    if out then
      let z := ps.foldl (fun (acc : Landing × State) p => acc.2.landOut rid c 0 p.1 p.2 acc.1) (⟨[], [], 0, 0, false⟩, s1)
      decide (ps.length = 128 ∧ s1.engineMay core (copyAccesses c 0 ps) = true ∧ z.2.op 5 = some (opOf (.copy c)))
    else
      let z := s1.readParts core (copyAccesses c 0 ps) c.hint
      decide (ps.length = 128 ∧ s1.engineCan core (copyAccesses c 0 ps) = true ∧ (z.2.chain 3).isSome = true ∧ z.2.op 5 = some (opOf (.copy c)))
  | .error _ => false

theorem witness_Copies_land : LandReady (copying false [0] none [0]) 5 0 (opOf (.copy (copyOf false [0] none))) (copyOf false [0] none) (tiledChain [0]) ∧
    LandReady (copying true [0] none []) 5 0 (opOf (.copy (copyOf true [0] none))) (copyOf true [0] none) (tiledChain []) ∧ lands false [0] = true ∧ lands true [] = true :=
  ⟨⟨rfl, rfl, rfl, rfl, rfl, rfl⟩, ⟨rfl, rfl, rfl, rfl, rfl, rfl⟩, by decide +kernel, by decide +kernel⟩

/-- Page 0 is a counter page. -/
def counting (s : State) : State := s.setCore ⟨0, 0⟩ { mapped.core ⟨0, 0⟩ with dtlb := [{ asid := 0, vpn := 0, span := 1, ent := 0x853, zero := false }], l1 := [] }
theorem witness_Copies : Ready s0 i0 [] [(.w 9, 1), (.s 5, 2), (.int 7, 1)] ∧ i0.part al ≠ 0 ∧ i0.rod.role = 0 ∧
    ((issOf (st (fun x => { x with role := 1 }))).rod.role = 1) ∧ s0.copyBar rid 0 0 = some none ∧ i0.flagFull = false ∧ s0.engineReady i0.rid = true ∧
    s0.copiesOn (s0.coreOf rid) < Config.copyOps ∧
    (let s := counting (copying true [] (some 8) []); s.op 5 = some (opOf (.copy (copyOf true [] (some 8)))) ∧ (s.chain 3).isSome = true ∧
      (match s.resolve (.core (s.coreOf rid)) (s.asidOf rid) [] 8 .write with
        | (.mem pa ent, s1) => decide (pa = 8 ∧ Pte.cnt ent = true ∧ s1.reach pa = .memory ∧ s1.counterQueues pa = [] ∧ s1.watchesOn pa = [] ∧ s1.seqWaits pa = false)
        | _ => false) = true) ∧ ((4 : DWord).toNat % 8 ≠ 0) := by decide

/-! ### Witnesses: the neighbour engine -/

/-- Two particles at the origin of a box of one cell. -/
def desc0 : GridDesc := GridDesc.ofNat' (0x200 + 0x280 * 2 ^ 64 + 2 * 2 ^ 320 + 16 * 2 ^ 384 + 4 * 2 ^ 416 +
  0x3F800000 * (2 ^ 544 + 2 ^ 576 + 2 ^ 608 + 2 ^ 704) + 0x3F000000 * 2 ^ 640)
/-- The engine of die 0 reads page 0, where a descriptor stands at 0x100. -/
def neighbourly (f : Rod → Rod) : State :=
  let s := (st f).setDie 0 { Die.moduleReset with l2tlb := [{ asid := 0, vpn := 0, span := 1, ent := 0x813, zero := false }] }
  [(64, 0x200), (66, 0x280), (74, 2), (76, 16), (77, 4), (81, 0x3F800000), (82, 0x3F800000), (83, 0x3F800000), (84, 0x3F000000), (86, 0x3F800000)].foldl
    (fun (s : State) e => s.putWord e.1 (BitVec.ofNat 32 e.2) 15) s
def grid0 (s : State) : Grid := { owner := s.launchOf rid, asid := s.asidOf rid, desc := desc0, cells := [(0, [0, 1])], status := 1 }
def gridded (k : NbKind) : State :=
  let s := neighbourly (fun x => x)
  (s.setGrid 0 0 (some (grid0 s))).setOp 5 (opOf (.nb 0 0 k))
/-- The slot is bound from a descriptor, or freed by an invalid one. -/
def binds (va : Nat) : Option Bool :=
  let s := neighbourly (fun x => x)
  match (s.setRod rid (issOf s).rod).nbBind (nbUser s (issOf s)) (s.launchOf rid) 0 va with
  | .ok (x, s') => if (s'.rod rid).isSome then some x.isSome else none
  | .error _ => none

set_option maxRecDepth 20000 in
theorem witness_NeighbourInstructions : (let s := neighbourly (fun x => x); NbReady s (issOf s) al ∧ Ready s (issOf s) [(.w 9, 1)] [(.w 9, 1), (.int 3, 1)] ∧
      Ready s (issOf s) [] [(.s 3, 2)] ∧ s.slotOps (s.coreOf rid).die 0 = [] ∧ s.grid (s.coreOf rid).die 0 = none) ∧ (issOf s0).rod.stream.opened = false ∧
    (let s := neighbourly (fun x => x); let t := s.setGrid 0 0 (some { grid0 s with owner := 99 }); ∃ x, t.grid 0 0 = some x ∧ x.owner ≠ t.launchOf rid) ∧
    binds 0x100 = some true ∧ binds 0x140 = some false ∧ binds 0x104 = some false :=
  ⟨⟨⟨by decide, by decide, by decide, by decide⟩, by decide⟩, by decide, ⟨_, rfl, by decide⟩, by decide +kernel, by decide +kernel, by decide +kernel⟩

set_option maxRecDepth 20000 in
theorem gridded_turn (k : NbKind) : NbTurn (gridded k) 5 (opOf (.nb 0 0 k)) 0 0 k := ⟨rfl, rfl, rfl, rfl⟩

/-- Each operation on the slot runs to its end. -/
def nbRuns (k : NbKind) : Bool :=
  let s := gridded k
  let u := s.nbFor (opOf (.nb 0 0 k)) 0
  match s.gridFor 0 0 (s.launchOf rid) with
  | none => false
  | some g =>
    let ended := fun (x : NbRun) (s1 : State) => match s1.nbStatus u x with
      | .ok (y, s') => (match s'.nbDone u y with | .ok (_, s2) => (s2.rod rid).isSome | .error _ => false)
      | .error _ => false
    match k with
    | .bin f n => (match s.nbBin u ⟨g, 0⟩ f n with | .ok (x, s1) => ended x s1 | .error _ => false)
    | .move f n _ _ => (match s.nbMoved u ⟨g, 0⟩ (g.binned f n) 0 with | .ok ((x, _), s1) => ended x s1 | .error _ => false)
    | .clr => ended ⟨{ g with cells := [], status := g.status &&& 1 }, 0⟩ s
    | _ => ended ⟨g, 0⟩ s
theorem witness_NeighbourOperations : nbRuns (.bin 0 2) = true ∧ nbRuns (.bin 1 5) = true ∧ nbRuns (.move 0 2 (.w 3) 1) = true ∧ nbRuns .clr = true ∧ nbRuns (.stat (.s 3) 1) = true ∧
    (neighbourly (fun x => x)).grid 0 0 = none ∧ (neighbourly (fun x => x)).gridFor 0 0 1 = none := by decide +kernel

def streaming (g : Bool) (f : Stream → Stream) : State :=
  let s := gridded (.pair [])
  (if g then s else s.setGrid 0 0 none).modRod rid (fun x => { x with stream := f { x.stream with opened := true, ended := false, last := 1, op := some 5 } })
/-- The search of a stream finds a pair, or nothing. -/
def scans (f : Stream → Stream) : Option Bool :=
  let s := streaming true f
  match s.rod rid with
  | none => none
  | some y =>
    match s.scanStream (s.nbFor (opOf (.nb 0 0 (.pair []))) 0) (grid0 s) y.stream [] with
    | .ok ((x, r), s') => (match s'.nbStatus (s.nbFor (opOf (.nb 0 0 (.pair []))) 0) x.run with
      | .ok (u, s1) => (match s1.nbDone (s.nbFor (opOf (.nb 0 0 (.pair []))) 0) u with | .ok _ => some r.isSome | .error _ => none)
      | .error _ => none)
    | .error _ => none
/-- The stream of the rod is at its turn, with its grid or without one. -/
def streams (g : Bool) : Bool :=
  match (streaming g (fun x => x)).streamOf rid with
  | some (n, o, die, _, x) => decide (n = 5 ∧ o = opOf (.nb 0 0 (.pair [])) ∧ die = 0 ∧ x = if g then some (grid0 (streaming g (fun x => x))) else none)
  | none => false
theorem witness_PairStreams : (∃ p, finPos [0, 0x3F800000, 0x3F800000] = some p) ∧
    streams true = true ∧ streams false = true ∧
    scans (fun x => x) = some true ∧ scans (fun x => { x with cell := 1 }) = some false ∧ (1 : Nat) ≤ desc0.ncell :=
  ⟨⟨_, rfl⟩, by decide +kernel, by decide +kernel, by decide +kernel, by decide +kernel, by decide +kernel⟩

/-! ### Witnesses: coherence -/

/-- A package whose word 0 is in a state at home and in the L1 of core 0 of die 0. -/
def coherent (h : Option HomeSt) (x : L1Word) : State :=
  ((serving State.reset).setDie 0 { Die.moduleReset with home := match h with | some y => [(0, y)] | none => [] }).setCore ⟨0, 0⟩ { Core.reset with l1 := if x = L1Word.reset then [] else [(0, x)] }
def l1w (st : L1St) : L1Word := { L1Word.reset with st := st, val := 7, known := 15 }
def rd0 : Reader := ⟨⟨0, 1⟩, false⟩

/-- The slice with the line of word 0 in it. -/
def home0 (s : State) (m : HomeMsg) : State := (s.placed 0 m).2
/-- The request finds room for the line there. -/
def came0 (s : State) (m : HomeMsg) : Bool := s.reach 0 == .memory && s.homeDie 0 == 0 && (s.placed 0 m).1

theorem witness_HomeSlice : (∀ m ∈ [HomeMsg.read rd0, .reg (.core ⟨0, 0⟩) false, .reg (.core ⟨0, 0⟩) true], came0 (coherent none L1Word.reset) m = true ∧
      came0 (coherent (some (.waiting (.core ⟨0, 0⟩))) (l1w .g)) m = true) ∧
    (let u := home0 (coherent none L1Word.reset) (.read rd0); Served u 0 (.read rd0) ∧ Served u 0 (.reg (.core ⟨0, 0⟩) false) ∧
      Served u 0 (.reg (.core ⟨0, 0⟩) true) ∧ u.homeOf 0 = none ∧ (u.curWord 0).lost = false) ∧
    (let u := home0 (coherent (some (.owned (.core ⟨0, 0⟩))) (l1w .g)) (.read rd0); Served u 0 (.read rd0) ∧ u.homeOf 0 = some (.owned (.core ⟨0, 0⟩)) ∧
      Owner.core ⟨0, 0⟩ ≠ ownerOf (.core ⟨0, 1⟩) ∧ Owner.core ⟨0, 0⟩ = ownerOf (.core ⟨0, 0⟩)) ∧
    (let u := home0 (coherent (some (.owned (.die 3))) L1Word.reset) (.read rd0); Served u 0 (.read rd0) ∧ u.homeOf 0 = some (.owned (.die 3))) ∧
    (let s := coherent (some (.waiting (.core ⟨0, 0⟩))) (l1w .g); ¬ Served (home0 s (.read rd0)) 0 (.read rd0) ∧ s.homeOf 0 = some (.waiting (ownerOf (.core ⟨0, 0⟩))) ∧ s.homeQ 0 = []) := by
  simp only [Served]; decide

def storing (v : Nat) : HomeReq := { op := 4, accs := [{ lane := 0, pa := 0, size := 4, act := .write v }] }
def adding : HomeReq := { op := 4, accs := [{ lane := 0, pa := 0, size := 4, act := .amo .add 1 0 }] }
def accessing (k : OpKind) (h : Option HomeSt) : State := (coherent h L1Word.reset).setOp 4 { rod := rid, flags := [], kind := k, susp := false, denied := [] }
def atomOp : LoadOp := { kind := .atom .b32, dst := .w 3, lanes := 1, offs := [], need := [], got := [], sc := .lane, ord := .plain, hint := .normal }
/-- The state in which a request is performed, its line in the slice. -/
def held0 (s : State) (r : HomeReq) : State := (s.resideReq r).2

theorem witness_HomePerformedAccesses : (let s := accessing .posted none; let u := held0 s (storing 9); (s.resideReq (storing 9)).1 = true ∧ (s.op 4).isSome = true ∧
      u.op 4 = s.op 4 ∧ Served u 0 (.perform (storing 9)) ∧ u.homeOf 0 = none ∧ u.reach 0 = .memory ∧ Unwatched (u.hostLine 0 .owned) 0) ∧
    (let u := held0 (accessing (.load atomOp) none) adding; Served u 0 (.perform adding) ∧ (u.curWord 0).bad = false ∧ (u.curWord 0).lost = false) ∧
    (let u := held0 (accessing .posted (some (.owned (.die 3)))) (storing 9); Served u 0 (.perform (storing 9)) ∧ u.homeOf 0 = some (.owned (.die 3))) ∧
    (held0 (accessing .posted (some (.waiting (.die 3)))) (storing 9)).blocked 0 (.perform (storing 9)) = true := by
  simp only [Served, Unwatched]; decide

theorem witness_L1Protocol : (l1Of (coherent none (l1w .gp)) ⟨0, 0⟩ 0).st = .gp ∧ (l1Of (coherent none (l1w .gd)) ⟨0, 0⟩ 0).st = .gd ∧ (l1Of (coherent none (l1w .g)) ⟨0, 0⟩ 0).st = .g ∧
    (l1Of (coherent none (l1w .v)) ⟨0, 0⟩ 0).st = .v ∧ (l1Of (coherent none (l1w .v)) ⟨0, 0⟩ 1).st = .i ∧ (coherent none (l1w .gp)).homeDie 0 = 0 ∧
    (coherent none (l1w .gp)).homeDie (4 * (2 ^ 33 / 4)) ≠ 0 ∧ (coherent none (l1w .gp)).poison.contains 0 = false ∧ (∀ e ∈ (coherent none (l1w .gp)).ops, ∀ ws gone, e.2.kind = .wbk ws gone → 0 ∉ ws ∧ 0 ∉ gone) ∧
    ((coherent none (l1w .gp)).core ⟨0, 0⟩).isHeld = false ∧ (∃ wd ∈ lineWords 0, (l1Of (coherent none (l1w .gp)) ⟨0, 0⟩ wd).st = .gp) ∧
    (∀ wd ∈ lineWords 0, (l1Of (coherent none (l1w .g)) ⟨0, 0⟩ wd).st ≠ .gp) := by
  refine ⟨by decide, by decide, by decide, by decide, by decide, by decide, by decide, by decide, ?_, by decide, by decide, by decide⟩
  intro e h; simp [coherent, serving, l1w, L1Word.reset, State.setCore, State.setDie, State.reset] at h

def sliced (y : L2St) : State := (serving State.reset).setDie 3 { Die.moduleReset with l2 := [(0, { L2Word.reset with st := y, val := 7, own := 5 })] }
theorem witness_NonHomeSlice : ((sliced .v).die 3).l2State 0 = .v ∧ ((sliced .x).die 3).l2State 0 = .x ∧ ((sliced .xp).die 3).l2State 0 = .xp ∧ ((sliced .x).die 3).l2State 1 = .i ∧
    (l2Of (sliced .xp) 3 0).st = .xp ∧ (l2Of (sliced .xp) 3 0).own = 5 ∧ (l2Of (sliced .xp) 3 0).own ≠ 6 ∧ (l2Of (sliced .x) 3 0).st = .x := by decide

def farPa : Nat := 0x0010000000000
def hostClaimed : State := { serving State.reset with claimed := [⟨0, 127, true, 0⟩] }
theorem witness_LossAndHostCoherence : hostClaimed.claim 0 = some true ∧ hostClaimed.claim 128 ≠ some true ∧ (∀ wd ∈ lineWords 0, State.reset.homeQ wd = []) ∧
    hostClaimed.readable 0 128 = true ∧ hostClaimed.farBytes farPa 4 = true ∧ hostClaimed.farBytes 0 4 = false ∧ State.reset.farBytes farPa 4 = false ∧
    Unwatched State.reset farPa ∧ ((serving State.reset).setDieState (stopOf 0) .failed).inService 0 = false ∧ (serving State.reset).inService 7 = true := by
  refine ⟨by decide, by decide, by decide, by decide, by decide, by decide, by decide, ⟨by decide, by decide, by decide⟩, by decide, by decide⟩

/-! ### Witnesses: DMA, links, the outside -/

def dma0 (op : Nat) : DmaPkt := { src := 0, dst := 0x100, len := 20, op := op, qp := 3, arg := 0x01020304, done := 0, ids := 0, rst := false }
/-- A DMA command of an operation, with the I/O die reading and writing page 0. -/
def dmaing (op : Nat) : State :=
  let s := (serving State.reset).setIod 0 { IoDie.reset with tlb := [{ asid := 0, vpn := 0, span := 1, ent := 0x813, zero := false }] }
  s.setCmd 1 (Cmd.fresh 0 0 0 0 1 (.dma (dma0 op)) false)
def dmaCmd (op : Nat) : Cmd := Cmd.fresh 0 0 0 0 1 (.dma (dma0 op)) false
def dmaStart : DmaRun := { moved := 0, fouls := 0, out := [], at' := none }
def served (op : Nat) : Cmd := { dmaCmd op with engine := some 0 }
theorem dmaing_turn : ∀ op < 5, (dmaing op).cmd 1 = some (dmaCmd op) ∧ (dmaCmd op).state = .fetched ∧ (dmaing op).cmdTurn (dmaCmd op) = true ∧
    (dmaing op).engineFor (dmaCmd op) = some 0 := by decide
theorem witness_DmaCommands : DmaTurn (dmaing 0) 1 0 (dmaCmd 0) (served 0) (dma0 0) ∧
    (dmaing 2).pairLive (dmaCmd 2) (dma0 2) = false ∧ ({ dmaing 2 with qps := [3] } : State).pairLive (dmaCmd 2) (dma0 2) = true ∧ (dmaCmd 3).asked = false ∧
    (∀ e ∈ [(0, false), (1, true)], let x := ((dmaing e.1).setCmd 1 (served e.1)).dmaLoop (dmaCmd e.1).dmaFor (dma0 e.1) e.2 40 dmaStart; x.1.at'.isNone = true ∧ x.1.moved = 20 ∧ x.2.cmd 1 = some (served e.1)) ∧
    (∀ op ∈ [2, 4], let x := ((dmaing op).setCmd 1 (served op)).gatherLoop (dmaCmd op).dmaFor (dma0 op) 20 dmaStart; x.1.at'.isNone = true ∧ x.1.fouls &&& Cause.accv = 0 ∧ x.2.cmd 1 = some (served op)) ∧
    (let x := ((dmaing 3).setCmd 1 (served 3)).landLoop (dmaCmd 3).dmaFor (dma0 3) 20 { dmaStart with out := List.replicate 20 (7, false) }; x.1.at'.isNone = true ∧ x.2.cmd 1 = some (served 3)) ∧
    ((dmaing 0).setCmd 1 { dmaCmd 0 with state := .running }).cmd 1 = some { dmaCmd 0 with state := .running } :=
  ⟨⟨rfl, rfl, rfl, by decide, by decide, by decide, by decide, rfl⟩, by decide, by decide, by decide, by decide +kernel, by decide +kernel, by decide +kernel, by decide⟩

/-- Every die keyed, every link keyed. -/
def keyed : State := { State.reset with diest := (List.range 10).map (fun k => (k, .keyed)), links := (List.range 20).map (fun k => (k, { LinkDir.reset with keyed := true })) }
theorem witness_DieAndLinkLife : keyed.dieState 9 = .keyed ∧ keyed.attested 9 = true ∧ keyed.attested 0 = true ∧ keyed.rootUp = true ∧ keyed.stopKeyed (stopOf 7) = true ∧
    (keyed.link 9 true).keyed = true ∧ State.reset.attested 4 = false ∧ (State.reset.link 0 true).keyed = false ∧
    (keyed.setDieState 8 .quarantined).dieState 8 = .quarantined ∧ (8 : Nat) ≠ keyed.rootStop ∧ (keyed.setDieState 4 .failed).rootStop = 9 := by decide

/-- The package once power is good, before anything is attested. -/
def powered : State := { State.reset with powered := true, diest := (List.range 10).map (fun k => (k, .quarantined)) }
theorem witness_bring_up : powered.dieState 4 ≠ .failed ∧ powered.dieState 9 = .quarantined ∧ powered.dieState 0 = .quarantined ∧ powered.attestDue 0 = false ∧
    powered.attestDue 4 = true ∧ (let s := powered.setDieState 4 .attesting; s.attestDue 4 = true ∧ s.dieState 4 = .attesting ∧ 4 = s.rootStop) ∧
    (let s := (powered.setDieState 4 .keyed).setDieState 9 .attesting; s.attestDue 9 = true ∧ s.dieState 9 = .attesting ∧ 9 ≠ s.rootStop) ∧
    (let s := powered.setDieState 4 .keyed; s.attestDue 9 = true ∧ s.dieState 9 = .quarantined) := by decide
theorem witness_keys : (let s := { keyed with links := [] }; s.installDue 9 true = true ∧ (s.link 9 true).stage = .none) ∧
    (∀ st ∈ [KeyStage.delivered, .confirmed, .switched], (({ keyed with links := [] } : State).setLink 9 true { LinkDir.reset with stage := st }).installDue 9 true = true) ∧
    State.reset.installDue 9 true = false ∧ State.reset.rollDue 9 true = false ∧
    (let x : LinkDir := { LinkDir.reset with keyed := true, ph0 := ⟨some ⟨5, 7⟩, 2 ^ 32⟩ }; x.keyed = true ∧ x.stage = .none ∧ 2 ^ 32 ≤ (x.phase x.kp).count) ∧
    (let s : State := { keyed with cycle := 7560000000000 }; (s.link 9 true).keyed = true ∧ (s.link 9 true).stage = .none ∧ (s.link 9 true).since + 7560000000000 ≤ s.cycle) ∧
    (∀ st ∈ [KeyStage.delivered, .confirmed, .switched], ((keyed.setLink 9 true { LinkDir.reset with keyed := true, stage := st }).link 9 true).keyed = true) := by decide

/-- The key of the link from stop 9, and the first flit of message 2 under it, to a stop. -/
def lk : LinkKey := { key := 5, salt := 7 }
def msgTo (dst : Nat) : RingMsg := { src := 9, dst := dst, msg := .lossNotice 3 }
def flit (dst : Nat) : Flit := (msgTo dst).flit lk false 0 2

theorem header_nat (x : BitVec 12) (f : BitVec 52) : (x ++ f).toNat = x.toNat * 2 ^ 52 + f.toNat := by
  rw [BitVec.toNat_append, ← Nat.shiftLeft_add_eq_or_of_lt f.isLt, Nat.shiftLeft_eq]
theorem flit_header : ∀ dst ∈ [0, 4], ∃ f : BitVec 52, (flit dst).hdr.toNat = (dst * 256 + 0x90) * 2 ^ 52 + f.toNat := by
  intro dst h
  simp only [List.mem_cons, List.not_mem_nil, or_false] at h
  rcases h with rfl | rfl
  · exact ⟨Config.flitInfo 2, header_nat 0x090#12 _⟩
  · exact ⟨Config.flitInfo 2, header_nat 0x490#12 _⟩
theorem flit_fields : ∀ dst ∈ [0, 4], (flit dst).kp = false ∧ (flit dst).dest = dst ∧ (flit dst).cls = 0 ∧ (flit dst).dl = false := by
  intro dst h
  obtain ⟨f, hf⟩ := flit_header dst h
  have hl := f.isLt
  simp only [List.mem_cons, List.not_mem_nil, or_false] at h
  have c : (flit dst).hdr.bits 55 54 = 0 := by simp only [DWord.bits, bitsOf, Nat.shiftRight_eq_div_pow, hf]; omega
  simp only [Flit.kp, Flit.dest, Flit.cls, Flit.dl, BitVec.getLsbD, Nat.testBit_eq_decide_div_mod_eq, decide_eq_false_iff_not, c]
  simp only [DWord.bits, bitsOf, Nat.shiftRight_eq_div_pow, hf]
  refine ⟨by omega, by omega, rfl, by omega⟩
theorem flit_accepted (dst : Nat) (x : LinkDir) (hk : (flit dst).kp = false) (h : x.ph0 = ⟨some lk, 0⟩) (hr : (x.resends false).getD 0 = 0) :
    x.accepts (flit dst) = true := by
  simp only [LinkDir.accepts, hk, LinkDir.phase, h]
  simp [flit, msgTo, RingMsg.flit, Flit.crcOk, flitTagOk, Flit.hdrBytes, hr]
/-- Every die in service, with message 2 to a stop next on the link from stop 9, whose key is the first. -/
def ringing (dst : Nat) (f : LinkDir → LinkDir) : State :=
  { ((serving State.reset).setLink 9 true (f { (serving State.reset).link 9 true with ph0 := ⟨some lk, 0⟩, waiting := [[2], [], [], [], [], [], [], []] })) with
    ring := [(2, msgTo dst)] }
def linkOf (f : LinkDir → LinkDir) : LinkDir := (ringing 0 f).link 9 true
theorem forward_credit : ((ringing 4 id).withHeader (flit 4)).credit 9 true 2 = true := by
  obtain ⟨-, h2, h3, h4⟩ := flit_fields 4 (by simp)
  have e : (ringing 4 id).withHeader (flit 4) = { ringing 4 id with
      ring := (ringing 4 id).ring.put 2 { msgTo 4 with dst := (flit 4).dest, src := (flit 4).src, cls := (flit 4).cls, dl := (flit 4).dl } } := rfl
  rw [e, h2, h3, h4]
  generalize (flit 4).src = k
  rfl
theorem bad_crc : ({ flit 0 with crc := (flit 0).crc + 1 } : Flit).crcOk = false := by
  simp [flit, msgTo, RingMsg.flit, Flit.crcOk, Flit.hdrBytes]
theorem witness_RingLinks : (let s := ringing 0 id; (linkOf id).keyed = true ∧ s.linkDown.contains 9 = false ∧ (linkOf id).retry = none ∧ (linkOf id).retries = 0 ∧
      (linkOf id).held = [] ∧ (flit 0).msg = some 2 ∧ s.ring.find 2 = some (msgTo 0) ∧ ((linkOf id).queue 0).head? = some 2 ∧ s.linkUp 9 = true ∧ linkEnd 9 true = 0) ∧
    ((flit 0).dest = 0 ∧ (flit 4).dest ≠ 0 ∧ (flit 0).kp = (linkOf id).kp ∧ (∀ dst ∈ [0, 4], channel (flit dst).cls (flit dst).dl = 0)) ∧
    (∀ dst ∈ [0, 4], (linkOf id).accepts (flit dst) = true ∧ (linkOf id).accepts { flit dst with msg := none } = true ∧
      (linkOf (fun x => { x with retry := some (false, 0), retries := 2 })).accepts (flit dst) = true ∧
      (linkOf (fun x => { x with retry := some (true, 0) })).accepts (flit dst) = true ∧ some (true, 0) = some (!(flit dst).kp, 0)) ∧
    (∀ n ∈ [3, 4], (linkOf (fun x => { x with retries := n })).retries = n ∧
      (linkOf (fun x => { x with retries := n })).accepts { flit 0 with crc := (flit 0).crc + 1 } = false) ∧
    (msgTo 4).dst < 16 ∧ (msgTo 4).src < 16 ∧ (linkOf id).phase false = ⟨some lk, 0⟩ ∧
    (let s := { keyed with linkDown := [9] }; s.linkDown.contains 9 = true ∧ s.linkKeyed 9 = true) ∧ keyed.linkDown.contains 9 = false := by
  have k0 := flit_fields 0 (by simp)
  have k4 := flit_fields 4 (by simp)
  refine ⟨by decide, ⟨k0.2.1, by rw [k4.2.1]; decide, k0.1, fun d h => ?_⟩, fun d h => ?_, fun n h => ?_, by decide⟩
  · obtain ⟨-, -, h3, h4⟩ := flit_fields d h
    rw [h3, h4]; decide
  · have hk := (flit_fields d h).1
    have a := flit_accepted d (linkOf id) hk rfl rfl
    exact ⟨a, a, flit_accepted d _ hk rfl rfl, flit_accepted d _ hk rfl rfl, by rw [hk]; rfl⟩
  · simp only [LinkDir.accepts, bad_crc, Bool.false_and]
    simp only [List.mem_cons, List.not_mem_nil, or_false] at h
    rcases h with rfl | rfl <;> decide

/-- A watch of the counter at 8, whose value is v, with the threshold 5. -/
def watched (v : Byte) : State :=
  ({ serving State.reset with mem := if v = 0 then [] else [(8, v)] } : State).setIod 0 { IoDie.reset with
    tlb := [{ asid := 0, vpn := 0, span := 1, ent := 0x853, zero := false }], watches := [(63, { Watch.reset with va := 8, thr := 5 })] }
set_option maxRecDepth 20000 in
theorem witness_MemoryFromOutside : (let s := State.reset.setDie 0 { Die.moduleReset with nmctl := 0, nearLost := true }; (s.die 0).nearLost = true ∧ (s.die 0).nmctl.getLsbD 0 = false) ∧
    region 0x1FFFFFFFF = .near 0 ∧ region 0x200000000 ≠ .near 0 ∧ (serving State.reset).farBytes farPa 4 = true ∧ farPa % 4 = 0 ∧ State.reset.farBytes 0 4 = false ∧ (serving State.reset).ioUp 1 = true ∧
    (serving State.reset).readable farPa 4 = true ∧ (serving State.reset).writable farPa 4 = true ∧ State.reset.ioUp 1 = false ∧
    (∀ v ∈ [(4, false), (5, true)], let u := watched v.1; u.counterAt (.io 0) 0 8 .read = some 8 ∧ decide (5 ≤ u.curNat 8 8) = v.2) ∧
    inMemory (serving State.reset) 0 8 = true ∧ inMemory State.reset 0xFF0000000000 8 = false ∧ (State.reset.curWord 0).bad = false ∧ (State.reset.curWord 1).lost = false ∧
    Unwatched State.reset 0 ∧ (State.reset.die 0).nmctl.getLsbD 0 = true := by
  simp only [Unwatched]; decide

/-- Core 0 of die 0, whose launch has a segment there, asks for an item of it, or of none; die 3 is not in service. -/
def stealing (asks : Option Nat) : State :=
  let s := s0.setSeg 1 ⟨0, 0⟩ (some Segment.reset)
  (s.setCore ⟨0, 0⟩ { s.core ⟨0, 0⟩ with stealFor := asks }).setDieState (stopOf 3) .failed
theorem witness_Stealing : ((stealing (some 1)).core ⟨0, 0⟩).stealFor = some 1 ∧ ((stealing none).core ⟨0, 0⟩).stealFor ≠ some 1 ∧
    (stealing (some 1)).inService 0 = true ∧ (stealing (some 1)).inService 3 = false ∧
    (∃ e ∈ (stealing (some 1)).chains, e.2.launch = 1 ∧ e.2.core.die = 0 ∧ e.2.here = true) ∧
    ((stealing (some 1)).die 0).mailbox.length < 96 ∧ ((stealing none).packet 1).isSome = true ∧ (stealing none).cmdSusp 1 = false ∧
    (stealing none).coreReleased ⟨0, 0⟩ = true ∧ ((stealing none).seg 1 ⟨0, 0⟩).isSome = true ∧
    (match (stealing none).spillAll ((stealing none).poolFor 1 ⟨0, 0⟩) Packet.probe [[1, 2]] with | .ok (r, _) => r != .stored | .error _ => false) = true := by
  decide

def heldCore (f : Core → Core) : State := s0.setCore ⟨0, 0⟩ (f ({ s0.core ⟨0, 0⟩ with isHeld := true } : Core))
theorem witness_DebuggerAndCounters : (s0.core ⟨0, 0⟩).isHeld = false ∧ (0x2F : DWord).bits 5 0 < 48 ∧ 48 ≤ (0x30 : DWord).bits 5 0 ∧ s0.heldChains ⟨0, 0⟩ ≠ [] ∧
    ((heldCore (fun x => x)).core ⟨0, 0⟩).isHeld = true ∧ (heldCore (fun x => x)).residents ⟨0, 0⟩ ≠ [] ∧
    s0.expired = none ∧ (heldCore (fun x => { x with holdRod := some rid, holdEnd := some 0 })).expired = some ⟨0, 0⟩ ∧
    (s0.cmd (s0.launchOf rid)).isSome = true ∧ (s0.rod rid).isSome = true ∧ (heldCore (fun x => x)).windowRod 0 = some rid ∧ s0.windowRod 1 = none ∧
    (∀ d < 8, State.reset.sampleDue d = false) ∧ (heldCore (fun x => x)).coreOf rid = ⟨0, 0⟩ ∧ i0.rod.regBad = [] := by decide

/-- Die 0 takes a sample at this cycle, in a buffer of 256 words (R447). -/
def sampled : State := s0.setDie 0 { s0.die 0 with smpctl := 0x800000000000080A, resetAt := s0.cycle }
theorem witness_sample : (∀ d < 8, sampled.sampleDue d = decide (d = 0)) ∧ (sampled.quadNext ⟨0, 0⟩ (quadOf rid)).isSome = true ∧ quadOf rid < 4 ∧
    (∀ k < 48, ∀ p < 4, (k, p) ≠ (0, quadOf rid) → sampled.quadNext ⟨0, k⟩ p = none) ∧ SampleRoom sampled 0 7 :=
  ⟨by decide, by decide, by decide, by decide +kernel, ⟨by decide, by decide, by decide, by decide, by decide +kernel, by decide⟩⟩

/-! ### Witnesses: the step, the encodings, the memory -/

/-- The package at the last cycle before the pairs have the first call, its rod at a started clause of one word 0, `add w0, w0, w0`. -/
def stepping : State :=
  let s := s0.modRod rid (fun x => { x with slotA := x.slotA.map (fun y => { y with started := some { count := 1, a := none, b := none, body := [0], brk := [false] } }) })
  { s with cycle := 4095, cur := none, lastRound := 4095 }
theorem witness_StepRunsTheDecodedInstruction : (let u := stepping.tick; u.pickUrgent = none ∧ u.cycle % 4 = 0 ∧ u.order = [(rid, .a), (rid, .b)] ∧
      ∃ x y c ch, u.rod rid = some x ∧ x.slot .a = some y ∧ y.started = some c ∧ c.body[y.path.idx]? = some 0 ∧ y.wait = none ∧ y.stopped = false ∧ x.suspended = false ∧ x.frozen = false ∧
        x.run = .running ∧ u.chain rid.chain = some ch ∧ ch.here = true ∧ ch.state = .resident ∧ (∀ cmd, u.cmd ch.launch = some cmd → cmd.cancelled = false) ∧
        x.overdue u.cycle = none ∧ y.brk = false) ∧ (decodeTableWord 64 0).isSome = true := by
  refine ⟨⟨by decide, by decide, by decide, ?_⟩, by decide⟩
  refine ⟨_, _, _, _, rfl, rfl, rfl, by decide, by decide, by decide, by decide, by decide, by decide, rfl, by decide, by decide, ?_, by decide, by decide⟩
  intro cmd h
  have e : (stepping.tick.cmd 1).map (·.cancelled) = some false := by decide
  change stepping.tick.cmd 1 = some cmd at h
  rw [h] at e; exact Option.some.inj e

theorem witness_EncodedInstructionsDecode : Instr.wf (.kadd al 0 (.k 0) (.int 511) none) = true ∧ (encode (.kadd al 0 (.k 0) (.int 511) none)).isSome = true ∧
    ((Header.mk .memory 11 15 (some 11) (some 0)).a.isSome = true) ∧ (decodeTableWord 64 0x81800140000C8002).isSome = true ∧
    (decodeHeader 0x1300084400000000).isSome = true := by decide
theorem witness_DecodedWordsEncode : (decodeTableWord 64 0xA180003100000000).isSome = true ∧ (decodeHeader 0x1200300000000000).isSome = true := by decide

/-- A step that changes memory: the store of a word at home. -/
theorem witness_MemoryKeepsItsForm : Memory.wf s0.mem = true ∧ (match step s0 with | .next t => Memory.wf t.mem | _ => false) = true ∧
    Memory.wf ((State.reset.putWord 0 7 15).mem) = true ∧ (State.reset.putWord 0 7 15).mem ≠ [] := by decide

theorem witness_WordsReadBack : (State.reset.curWord 3).bad = false ∧ (State.reset.curWord 3).lost = false ∧ (15 : Nat) / 4 = 3 ∧ (16 : Nat) / 4 ≠ 3 := by decide

theorem witness_PortsAndOperandChecks : (let s := st (fun x => { x with mxOut := [7], cpOut := [8], gx := [{ vals := [9], op := none }] }); (issOf s).part al ≠ 0 ∧
      s.issuer = some (issOf s) ∧ inWindow (issOf s).rod (.w 255) 1 = true ∧ (issOf s).rod.regBad = [] ∧ (issOf s).rod.mxOut = [7] ∧ (issOf s).rod.gx.length = 1) ∧
    i0.rod.mxOut = [] ∧ i0.rod.gx = [] ∧ i0.rod.stream.opened = false ∧
    (let s := st (fun x => { x with stream := { x.stream with opened := true, ended := true } }); ((issOf s).rod.stream.deal (lanes ((issOf s).part al))).isSome = true) ∧
    (let s := st (fun x => { x with stream := { x.stream with opened := true, ended := false } }); ((issOf s).rod.stream.deal (lanes ((issOf s).part al))).isNone = true) ∧
    noPorts [(.w 3, 1)] = true ∧ (s0.chain rid.chain).isSome = true ∧ i0.rod.mxIn.length < 4 ∧ i0.rod.role = 0 ∧
    (match decode (dword 0xFFFFFFFF 0xFFFFFFFF) with | .error _ => true | .ok _ => false) = true ∧
    (let s := st (fun x => { x with window := 8 }); (inWindow (issOf s).rod (.w 8) 1 && inWindow (issOf s).rod (.w 0) 1 && inWindow (issOf s).rod (.w 0) 1) = false ∧
      inWindow (issOf s).rod (.w 7) 1 = true) ∧
    (let s := st (fun x => { x with regBad := [32 * 3 + 31] }); (issOf s).rod.regBad.contains (32 * 3 + 31) = true ∧ ((issOf s).part al).has 31 = true) := by decide

/-- Page 0 of the rod's address space is mapped to the device registers. -/
def devices : State := (st oneLane).setCore ⟨0, 0⟩ { Core.reset with dtlb := [{ asid := 0, vpn := 0, span := 1, ent := 0x0FF0000000813, zero := false }] }
theorem witness_WhereTheModelStops : State.reset.issuer = none ∧ (decodeTableWord 64 0).isSome = true ∧
    (let s := devices; let i := issOf s; Ready s i [(.w 252, Size.x4.words)] at0.regs ∧ i.flagFull = false ∧ s.mayLoad i .lane .plain = true ∧ actorsOf i al (.w 252) = [0] ∧
      vaKind 0 = .translated ∧
      (match (s.setRod i.rid i.rod).resolve (.core (s.coreOf i.rid)) (s.asidOf i.rid) i.rod.denied 0 .read with
        | (.mem pa _, _) => decide (region pa = .registers)
        | _ => false) = true) := by decide

/-! ### Witnesses of further clauses -/

/-- A gather of one word of the chain's scratchpad. -/
def gath0 : GatherOp := { words := 1, reads := [(0, 0, 0x00FF000000000000)], hint := .normal }
def gathering : State := (s0.setOp 5 (opOf (.gather gath0))).modRod rid (fun x => { x with gx := [{ op := some 5, vals := List.replicate 32 0 }] })
theorem witness_GatherRow : (gathering.op 5).isSome = true ∧ (gathering.rod rid).isSome = true ∧ (gathering.chain 3).isSome = true ∧
    (match gathering.spotAll (gatherIss (opOf (.gather gath0)) ((gathering.rod rid).getD i0.rod)) .read 4
        (gath0.reads.zipIdx.map (fun e => (e.2, e.1.2.2))) with
      | .ready s sp => decide (sp = [(0, .scr 3 0)] ∧ (s.op 5).isSome = true ∧ (s.rod rid).isSome = true)
      | _ => false) = true ∧
    ((gathering.chain 3).map (fun c => c.scrBad == [] && c.full 0)) = some true ∧
    (∀ e ∈ (gath0.reads.zip [(0, Spot.scr 3 0)]), e.2.2 = Spot.scr 3 0) ∧ gath0.got = [] ∧ gath0.bad = [] ∧
    gath0.reads.map (fun e => (e.1, e.2.1)) = [0].flatMap (fun l => (List.range gath0.words).map (fun j => (l, j))) ∧
    (((gathering.rod rid).map (·.gx)).getD []).countP (fun e => e.op == some 5) = gath0.words ∧
    ((gathering.chain 3).map (fun c => (c.nat 0 4))) = some 0 := by decide

/-- The tables of address space 0 lead to a sparse entry of page 0, or to none; die 0 has a page pool of one 64 KiB frame, or none (R23, R42). -/
def paging (leaf : Byte) (pool : Bool) : State :=
  let s := st oneLane
  { s.setDie 0 { Die.moduleReset with ppdb := if pool then 0x8001 else 0 } with
    ast := [(0, { astb := 1, lo := 0x1001, hi := 0 })],
    mem := [(0x1000, 1), (0x1001, 0x20), (0x2000, 1), (0x2001, 0x30), (0x3000, 1), (0x3001, 0x40)] ++
      (if leaf = 0 then [] else [(0x4000, leaf)]) ++ [(0x8001, 0x90), (0x8008, 1), (0x9002, 0x10)] }
/-- What a commit of page 0 comes to. -/
def committed (s : State) : Option CommitOut := match s.commit 0 0 0 with | .ok (r, _) => some r | .error _ => none
theorem witness_Commits : committed (paging 0x90 true) = some .installed ∧ committed (paging 0x90 false) = some .poolEmpty ∧
    committed (paging 0 true) = some .absent ∧ committed (paging 0x80 true) = some .readOnly ∧ committed (paging 0x93 true) = some .won ∧
    committed (paging 0x13 true) = some .mapped ∧
    committed { paging 0x90 true with inflight := [.homeWriteBack (.core ⟨0, 0⟩) 0x1000 0] } = none := by decide +kernel

theorem witness_fetch_missing : (match (paging 0 true).fetchClause ⟨0, 0⟩ 0 [] 64 with | .error (.missing _, _) => true | _ => false) = true := by
  decide +kernel

def waitsFor (io : Bool) : State :=
  let s := s0.setDie 0 { s0.die 0 with reqs := [⟨5, 0, 9, 2⟩] }
  if io then s.setIod 1 { s.iod 1 with reqs := [⟨6, 0, 9, 2⟩] } else s
theorem witness_PageWaits : ((waitsFor true).iod 1).reqs.find? (fun q => q.tag == 6) = some ⟨6, 0, 9, 2⟩ ∧ (1 : Nat) < 2 ∧ reqKind 2 = .write ∧
    (let s := (waitsFor false).modRod rid (fun x => { x with slotA := x.slotA.map (fun y => { y with wait := some .translation }) });
      (rid, SlotId.a) ∈ s.translationWaits (fun c => c.die == 0) ∧ s.asidOf rid = 0 ∧ (s.rod rid).isSome = true) := by decide

theorem witness_L1Further : (let s := { coherent none { l1w .gp with known := 3 } with poison := [0] }; s.poison.contains 0 = true ∧ (l1Of s ⟨0, 0⟩ 0).whole = false) ∧
    (coherent none (l1w .g)).backing ⟨0, 0⟩ 0 = false ∧
    ({ coherent none (l1w .v) with inflight := [.nonhomeWriteBack ⟨0, 0⟩ 0 7] } : State).backing ⟨0, 0⟩ 0 = true ∧
    ((coherent none (l1w .g)).core ⟨0, 0⟩).ownsIn 0 = true ∧ ((coherent none (l1w .g)).core ⟨0, 0⟩).ownsIn 1 = false ∧
    ((coherent none (l1w .g)).core ⟨0, 0⟩).isHeld = false ∧ ((sliced .i).reside 3 0 (l1Of (sliced .i) ⟨3, 5⟩ 0).ret).1 = true ∧
    (sliced .i).homeDie 0 = 0 := by decide

theorem witness_DieLife : keyed.rootUp = true ∧ keyed.mayHandBack 7 = true ∧ ({ keyed with diest := [] } : State).stopKeyed 0 = true ∧
    (State.reset.setDieState 0 .quarantined).dieState 0 = .quarantined ∧ State.reset.dieState 3 = .off ∧ State.reset.stopKeyed 0 = false := by decide

theorem witness_DmaCompletes : (let s := State.reset.setCmd 1 { dmaCmd 0 with state := .running }; ∃ c, s.cmd 1 = some c ∧ c.state = .running ∧ c.susp = false ∧
      c.kind = .dma (dma0 0) ∧ (dma0 0).op ≠ 3) ∧
    (let s := State.reset.setCmd 1 { dmaCmd 0 with state := .running, susp := true }; ∃ c, s.cmd 1 = some c ∧ c.susp = true) :=
  ⟨⟨_, rfl, by decide⟩, ⟨_, rfl, by decide⟩⟩

/-! ### Witnesses: what ends a wait, barriers, evictions, the outside -/

/-- The rod's slot waiting at an instruction, in a rod that a hold has frozen. -/
def frozenAt (w : Wait) : State := (waiting w 0).modRod rid (fun x => { x with frozen := true })
theorem witness_stopped_waits : (∀ w ∈ [Wait.promotion, .take, .promoted [9] false, .waitany [⟨8, 3⟩ ] none], ∃ x y, (frozenAt w).rod rid = some x ∧ x.slot .a = some y ∧
      y.wait = some w ∧ (x.frozen || (frozenAt w).windingUp rid x) = true) ∧
    (∃ x, (waiting .take 0).rod rid = some x ∧ (x.frozen || (waiting .take 0).windingUp rid x) = false ∧ (waiting .take 0).canIssue rid x = true) ∧
    (∃ x, (waiting .translation 0).rod rid = some x ∧ (waiting .translation 0).canIssue rid x = false) ∧
    s0.opsDone rid = true ∧ s0.released rid .core = true ∧
    (let s := (s0.modRod rid (fun x => { x with stores := [9] })).setCore ⟨0, 0⟩ { Core.reset with l1 := [(9, { L1Word.reset with st := .gp, known := 15 })] };
      s.opsDone rid = false ∧ s.coreReleased ⟨0, 0⟩ = false) ∧
    (let s := counted (fun x => x); s.canPut (stopOf 0) 0 8 = true ∧ s.canGet (stopOf 0) 0 8 = true ∧ s.wordCauses (wordsOf 0 8) = 0 ∧ s.upsets = [] ∧
      s.seqReached 0 1 = false ∧ s.seqReached 0 0 = true ∧ s.counterQueues 0 = []) := by
  refine ⟨fun w h => ?_, ⟨_, rfl, by decide⟩, ⟨_, rfl, by decide⟩, by decide⟩
  simp only [List.mem_cons, List.not_mem_nil, or_false] at h
  rcases h with rfl | rfl | rfl | rfl <;> exact ⟨_, _, rfl, rfl, rfl, by decide⟩

/-- The chain barrier 15 and a furlong barrier that spans two dies, in states of a phase. -/
def phased (due : Bool) (n : Nat) : State :=
  (barred (fun x => { x with arrived := if due then [rodKey rid] else [], open' := n })).modCmd 1 (fun c => { c with
    kind := match c.kind with | .launch p => .launch { p with cbar := List.replicate 16 1 } | k => k })
def furlongs : State := { s0 with furlongs := [(4, { launch := 1, first := 3, size := 1, dieLo := 0, dieHi := 1, bars := [] })] }
theorem witness_barrier_phases : BarKept (phased true 0) (.chain 3 15) ∧ ((phased true 0).bar (.chain 3 15)).open' = 0 ∧ (phased true 0).barDue (.chain 3 15) = true ∧
    (phased false 0).barDue (.chain 3 15) = false ∧ 0 < ((phased true 2).bar (.chain 3 15)).open' ∧ (phased true 2).twoDies (.chain 3 15) = false ∧
    (let s := furlongs.setBar (.furlong 4 7) { Bar.reset with open' := 1 }; BarKept s (.furlong 4 7) ∧ s.twoDies (.furlong 4 7) = true ∧ 0 < (s.bar (.furlong 4 7)).open') ∧
    (furlongs.bar (.furlong 4 7)).open' = 0 := by
  simp only [BarKept]; decide

/-- A core whose L1 holds nine lines of set 0, the lines named in G or Gp. -/
def crowded (st : L1St) (held : Bool) : State := State.reset.setCore ⟨0, 0⟩ { Core.reset with
  lru := (List.range 9).map (256 * ·), isHeld := held, l1 := (List.range 9).map (fun k => (8192 * k, { L1Word.reset with st := st, known := 15 })) }
theorem witness_evictions : ((crowded .g false).core ⟨0, 0⟩).victim 2048 = some 0 ∧ (∀ wd ∈ lineWords 0, (l1Of (crowded .g false) ⟨0, 0⟩ wd).st ≠ .gp ∧
      (l1Of (crowded .g false) ⟨0, 0⟩ wd).st ≠ .gd) ∧ ((crowded .g true).core ⟨0, 0⟩).victim 2048 = some 0 ∧ ((crowded .g true).core ⟨0, 0⟩).isHeld = true ∧
    ((crowded .gp false).core ⟨0, 0⟩).victim 2048 = some 0 ∧ (∃ wd ∈ lineWords 0, (l1Of (crowded .gp false) ⟨0, 0⟩ wd).st = .gp) ∧
    ((((coherent none (l1w .g)).core ⟨0, 0⟩).lru.filter (fun x => x % 256 == 0)).length ≤ 8) ∧
    ({ sliced .x with inflight := [.l1Revoke ⟨3, 5⟩ 0 (.toLocal 3 6 false)] } : State).revoking 3 0 = true ∧ (sliced .x).revoking 3 0 = false ∧ (sliced .x).upsets = [] := by decide

/-- The host's and a peer's ways into far memory and CXL memory behind I/O die 0, and their end. -/
theorem witness_ways_in : (let s := serving State.reset; s.inBar2 ⟨0, 0⟩ 4 = true ∧ s.inBar2 ⟨0, (2 ^ 30 - 4)⟩ 4 = true ∧ s.inBar2 ⟨0, (2 ^ 30 - 3)⟩ 4 = false ∧ s.canGet (ioStop 0) (2 ^ 40) 4 = true ∧
      s.canPut (ioStop 0) (2 ^ 40) 4 = true ∧ s.canGet (ioStop 1) (7 * 2 ^ 38) 4 = true ∧ Unwatched s (8 * (2 ^ 40 / 8)) ∧ s.canGet (ioStop 0) farPa 4 = true ∧
      s.ioOf farPa = some 0) ∧
    State.reset.inBar2 ⟨0, 0⟩ 4 = false ∧ (let s := { serving State.reset with qps := [3, 16384] }; (3 : Nat) < 32768 ∧ s.ioUp (3 / 16384) = true ∧ s.qps.contains 3 = true ∧
      s.qps.contains 4 = false ∧ inMemory s 0 8 = true ∧ s.canPut (ioStop 0) 0 8 = true ∧ s.canGet (ioStop 0) 0 8 = true) ∧
    (region 0 = .near 0 ∧ ((serving State.reset).die 0).nmctl.getLsbD 0 = true) ∧
    (serving State.reset).under.contains (.lossNotice 3) = false ∧ ((serving State.reset).setDieState (stopOf 3) .off).inService 3 = false ∧
    ({ serving State.reset with inflight := [.lossNotice 3] } : State).under.contains (.lossNotice 3) = true := by
  simp only [Unwatched]; decide +kernel

/-- A watch's counter is in memory, on an uncommitted page, or where a table word is under way (R38, R428). -/
def watchPlace (ent : DWord) (zero : Bool) (under : List Instr) : CounterPlace :=
  let s := (watched 4).setIod 0 { (watched 4).iod 0 with tlb := [{ asid := 0, vpn := 0, span := 1, ent := ent, zero := zero }] }
  ({ s with inflight := under } : State).counterPlace (.io 0) 0 8 .read
theorem witness_watch_places : watchPlace 0x853 false [] = .at' 8 ∧ watchPlace 0x853 true [] = .zero := by decide +kernel

/-- A launch that ends its graph and is published, and then one that also ends its phase (R391). -/
def ended (ids : DWord) : State := (commanded (.launch { Packet.probe with ids := ids }) (fun c => { c with state := .published }))
theorem witness_levels : (∀ e ∈ [(Level.graph, (1 : DWord)), (.phase, 2), (.job, 4)], (ended e.2).levelReady 1 e.1 = true ∧ (ended e.2).levelTurn 1 e.1 = true) ∧
    (ended 7).levelReady 1 .phase = true ∧ (ended 7).levelTurn 1 .phase = false ∧
    (match State.reset.publish 0 0 0 0 0 with | .ok _ => true | .error _ => false) = true := by decide



end Sys2Proof.Tests
end

section
/-! SUPPORT. Memory keeps its canonical form (log 2), the invariant behind O56.

Memory is written by a byte (`State.setByte`) and by a filter (a zeroed frame, a near memory that is cleared), and `Tbl.wf_set` and
`Tbl.wf_filter` say that both keep the form. Every other function of the model leaves memory alone or calls these. So there is one
lemma for each function of the model that yields a state, in the model's own order; each cites the lemmas of the functions it calls, and
`grind` looks them up by the pattern that stands under each. What a function answers besides the state is passed over by the
predicates `Canon2` to `Canon4`, `Ends`, `CanonRes`, `CanonPush`, `CanonStop`, `CanonSpotted` and `CanonPick`. -/

namespace Sys2Proof.MemoryForm
open Sys2Proof.Machine

/-! ### States, and the states inside an answer -/

/-- Memory is in its canonical form (log 2). -/
abbrev Canon (s : State) : Prop := Memory.wf s.mem = true

/-- The last part of a tuple is a state with canonical memory. -/
abbrev Canon2 {α : Type} (x : α × State) : Prop := Canon x.2
abbrev Canon3 {α β : Type} (x : α × β × State) : Prop := Canon x.2.2
abbrev Canon4 {α β γ : Type} (x : α × β × γ × State) : Prop := Canon x.2.2.2

/-- Nothing is asked of an answer that holds no state. -/
abbrev Free {α : Type} (_ : α) : Prop := True

/-- What an action may leave: P of an error, Q of an answer. -/
def Ends {ε α : Type} (P : ε → Prop) (Q : α → Prop) : Except ε α → Prop
  | .error e => P e
  | .ok a => Q a

section
variable {ε α β : Type} {P : ε → Prop} {Q : α → Prop} {R : β → Prop}

theorem ends_error {e : ε} : Ends P Q (.error e) ↔ P e := Iff.rfl
theorem ends_ok {a : α} : Ends P Q (.ok a) ↔ Q a := Iff.rfl

theorem ends_bind {x : Except ε α} {f : α → Except ε β} (hx : Ends P Q x) (hf : ∀ a, Q a → Ends P R (f a)) : Ends P R (x >>= f) := by
  cases x with
  | error e => exact hx
  | ok a => exact hf a hx
end

scoped grind_pattern ends_error => Ends P Q (.error e)
scoped grind_pattern ends_ok => Ends P Q (.ok a)

/-- A step that goes on leaves canonical memory. -/
def CanonRes : Res → Prop
  | .next t => Canon t
  | .fault _ | .refused _ => True

theorem canonRes_next {t : State} : CanonRes (.next t) ↔ Canon t := Iff.rfl
theorem canonRes_fault {f : Fault} : CanonRes (.fault f) := trivial
theorem canonRes_refused {r : Refusal} : CanonRes (.refused r) := trivial

scoped grind_pattern canonRes_next => CanonRes (.next t)
scoped grind_pattern canonRes_fault => CanonRes (.fault f)
scoped grind_pattern canonRes_refused => CanonRes (.refused r)

/-- A push of a raw command that is made leaves canonical memory. -/
def CanonPush : Push → Prop
  | .done t => Canon t
  | .waits _ | .traps _ => True

theorem canonPush_done {t : State} : CanonPush (.done t) ↔ Canon t := Iff.rfl
theorem canonPush_waits {w : Wait} : CanonPush (.waits w) := trivial
theorem canonPush_traps {b : Word} : CanonPush (.traps b) := trivial

scoped grind_pattern canonPush_done => CanonPush (.done t)
scoped grind_pattern canonPush_waits => CanonPush (.waits w)
scoped grind_pattern canonPush_traps => CanonPush (.traps b)

/-- The state in which a pool action stops for a page has canonical memory. -/
def CanonStop : PStop → Prop
  | .page _ _ _ t => Canon t
  | .memory => True

theorem canonStop_page {va : DWord} {kind : XKind} {x : XOut} {t : State} : CanonStop (.page va kind x t) ↔ Canon t := Iff.rfl
theorem canonStop_memory : CanonStop .memory := trivial

scoped grind_pattern canonStop_page => CanonStop (.page va kind x t)
scoped grind_pattern canonStop_memory => CanonStop .memory

/-- The state with the places of an instruction's addresses has canonical memory. -/
def CanonSpotted : Spotted → Prop
  | .ready t _ | .waits t _ => Canon t
  | .device => True

theorem canonSpotted_ready {t : State} {l : List (Nat × Spot)} : CanonSpotted (.ready t l) ↔ Canon t := Iff.rfl
theorem canonSpotted_waits {t : State} {w : Wait} : CanonSpotted (.waits t w) ↔ Canon t := Iff.rfl
theorem canonSpotted_device : CanonSpotted .device := trivial

scoped grind_pattern canonSpotted_ready => CanonSpotted (.ready t l)
scoped grind_pattern canonSpotted_waits => CanonSpotted (.waits t w)
scoped grind_pattern canonSpotted_device => CanonSpotted .device

/-- A step taken up has canonical memory. -/
def CanonPick (p : Option Pick) : Prop := ∀ x ∈ p, Canon x.state

/-! ### Folds -/

section
variable {α β γ ε : Type}

theorem foldl_canon {f : State → α → State} (hf : ∀ s x, Canon s → Canon (f s x)) {s : State} (h : Canon s) (l : List α) :
    Canon (l.foldl f s) := by
  induction l generalizing s with
  | nil => exact h
  | cons a r ih => exact ih (hf _ _ h)

theorem foldl_canon2 {f : β × State → α → β × State} (hf : ∀ s x, Canon s.2 → Canon (f s x).2) {s : β × State} (h :
    Canon s.2) (l : List α) :
    Canon (l.foldl f s).2 := by
  induction l generalizing s with
  | nil => exact h
  | cons a r ih => exact ih (hf _ _ h)

theorem foldl_canon3 {f : β × γ × State → α → β × γ × State} (hf : ∀ s x, Canon s.2.2 → Canon (f s x).2.2) {s : β × γ × State}
    (h : Canon s.2.2) (l : List α) : Canon (l.foldl f s).2.2 := by
  induction l generalizing s with
  | nil => exact h
  | cons a r ih => exact ih (hf _ _ h)

theorem foldlM_canon {f : State → α → Except ε State} (hf : ∀ s x, Canon s → Ends Free Canon (f s x)) {s : State} (h : Canon s)
    (l : List α) : Ends Free Canon (l.foldlM f s) := by
  induction l generalizing s with
  | nil => exact h
  | cons a r ih => exact ends_bind (hf s a h) fun t ht => ih ht
end

scoped grind_pattern foldl_canon => List.foldl f s l
scoped grind_pattern foldl_canon2 => List.foldl f s l
scoped grind_pattern foldl_canon3 => List.foldl f s l
scoped grind_pattern foldlM_canon => List.foldlM f s l

end Sys2Proof.MemoryForm
end

section
/-! SUPPORT. Canonical memory, function by function: the state, the ring, words and records. -/

namespace Sys2Proof.MemoryForm
open Sys2Proof.Machine

/-! ### State: Values at creation -/

theorem reset_canon : Canon State.reset := rfl

/-! ### Access: Dies and stops (R2, R3) -/

theorem setDieState_canon {s : State} (h : Canon s) (stop x) : Canon (s.setDieState stop x) := h
scoped grind_pattern setDieState_canon => s.setDieState stop x

/-! ### Access: Parts of the state -/

theorem setCore_canon {s : State} (h : Canon s) (c x) : Canon (s.setCore c x) := h
scoped grind_pattern setCore_canon => s.setCore c x

theorem setDie_canon {s : State} (h : Canon s) (d x) : Canon (s.setDie d x) := h
scoped grind_pattern setDie_canon => s.setDie d x

theorem setIod_canon {s : State} (h : Canon s) (i x) : Canon (s.setIod i x) := h
scoped grind_pattern setIod_canon => s.setIod i x

theorem setQueue_canon {s : State} (h : Canon s) (q x) : Canon (s.setQueue q x) := h
scoped grind_pattern setQueue_canon => s.setQueue q x

theorem setCmd_canon {s : State} (h : Canon s) (n x) : Canon (s.setCmd n x) := h
scoped grind_pattern setCmd_canon => s.setCmd n x

theorem modCmd_canon {s : State} (h : Canon s) (n f) : Canon (s.modCmd n f) := by
  unfold State.modCmd
  grind -ring -lia -linarith
scoped grind_pattern modCmd_canon => s.modCmd n f

theorem setChain_canon {s : State} (h : Canon s) (n x) : Canon (s.setChain n x) := h
scoped grind_pattern setChain_canon => s.setChain n x

theorem modChain_canon {s : State} (h : Canon s) (n f) : Canon (s.modChain n f) := by
  unfold State.modChain
  grind -ring -lia -linarith
scoped grind_pattern modChain_canon => s.modChain n f

theorem setRod_canon {s : State} (h : Canon s) (r x) : Canon (s.setRod r x) := h
scoped grind_pattern setRod_canon => s.setRod r x

theorem modRod_canon {s : State} (h : Canon s) (r f) : Canon (s.modRod r f) := by
  unfold State.modRod
  grind -ring -lia -linarith
scoped grind_pattern modRod_canon => s.modRod r f

theorem setOp_canon {s : State} (h : Canon s) (n x) : Canon (s.setOp n x) := h
scoped grind_pattern setOp_canon => s.setOp n x

theorem fresh_canon {s : State} (h : Canon s) : Canon (s.fresh).2 := by
  unfold State.fresh
  grind -ring -lia -linarith
scoped grind_pattern fresh_canon => s.fresh

theorem send_canon {s : State} (h : Canon s) (i) : Canon (s.send i) := h
scoped grind_pattern send_canon => s.send i

/-! ### Access: Registers of a rod -/

theorem raise_canon {s : State} (h : Canon s) (r bits) : Canon (s.raise r bits) := by
  unfold State.raise
  grind -ring -lia -linarith
scoped grind_pattern raise_canon => s.raise r bits

theorem mflag_canon {s : State} (h : Canon s) (r bits) : Canon (s.mflag r bits) := by
  unfold State.mflag
  grind -ring -lia -linarith
scoped grind_pattern mflag_canon => s.mflag r bits

/-! ### Access: Bytes of memory (R7) -/

theorem setByte_canon {s : State} (h : Canon s) (pa v) : Canon (s.setByte pa v) := Laws.Tbl.wf_set pa v h
scoped grind_pattern setByte_canon => s.setByte pa v

theorem setMemWord_canon {s : State} (h : Canon s) (wd v) : Canon (s.setMemWord wd v) := by
  unfold State.setMemWord
  grind -ring -lia -linarith
scoped grind_pattern setMemWord_canon => s.setMemWord wd v

/-! ### Ring: Errors that a die finds (R73, R74, R79) -/

theorem vector_canon {s : State} (h : Canon s) (io v) : Canon (s.vector io v) := by
  unfold State.vector
  grind -ring -lia -linarith
scoped grind_pattern vector_canon => s.vector io v

theorem maskVector_canon {s : State} (h : Canon s) (io v mask) : Canon (s.maskVector io v mask) := by
  unfold State.maskVector
  grind -ring -lia -linarith
scoped grind_pattern maskVector_canon => s.maskVector io v mask

theorem vectorAll_canon {s : State} (h : Canon s) (v) : Canon (s.vectorAll v) := by
  unfold State.vectorAll
  grind -ring -lia -linarith
scoped grind_pattern vectorAll_canon => s.vectorAll v

theorem recordDie_canon {s : State} (h : Canon s) (d dom core addr) : Canon (s.recordDie d dom core addr) := by
  unfold State.recordDie
  grind -ring -lia -linarith
scoped grind_pattern recordDie_canon => s.recordDie d dom core addr

theorem recordIo_canon {s : State} (h : Canon s) (io dom addr) : Canon (s.recordIo io dom addr) := by
  unfold State.recordIo
  grind -ring -lia -linarith
scoped grind_pattern recordIo_canon => s.recordIo io dom addr

theorem countFixed_canon {s : State} (h : Canon s) (stop) : Canon (s.countFixed stop) := by
  unfold State.countFixed
  grind -ring -lia -linarith
scoped grind_pattern countFixed_canon => s.countFixed stop

theorem recordAt_canon {s : State} (h : Canon s) (stop dom core addr) : Canon (s.recordAt stop dom core addr) := by
  unfold State.recordAt
  grind -ring -lia -linarith
scoped grind_pattern recordAt_canon => s.recordAt stop dom core addr

theorem flawed_canon {s : State} (h : Canon s) (link k ws) : Canon (s.flawed link k ws).2 := by
  unfold State.flawed
  grind -ring -lia -linarith
scoped grind_pattern flawed_canon => s.flawed link k ws

/-! ### Ring: Links (R3, R415, R419) -/

theorem setLink_canon {s : State} (h : Canon s) (k up x) : Canon (s.setLink k up x) := h
scoped grind_pattern setLink_canon => s.setLink k up x

/-! ### Ring: Sending (R412, R415) -/

theorem inject_canon {s : State} (h : Canon s) (n m up) : Canon (s.inject n m up) := by
  unfold State.inject
  grind -ring -lia -linarith
scoped grind_pattern inject_canon => s.inject n m up

theorem start_canon {s : State} (h : Canon s) (n m) : Canon (s.start n m) := by
  unfold State.start
  grind -ring -lia -linarith
scoped grind_pattern start_canon => s.start n m

theorem release_canon {s : State} (h : Canon s) : Canon (s.release) := by
  unfold State.release
  grind -ring -lia -linarith
scoped grind_pattern release_canon => s.release

theorem toStop_canon {s : State} (h : Canon s) (src dst cls m) : Canon (s.toStop src dst cls m) := by
  unfold State.toStop
  grind -ring -lia -linarith
scoped grind_pattern toStop_canon => s.toStop src dst cls m

theorem carry_canon {s : State} (h : Canon s) (src dst cls m) : Canon (s.carry src dst cls m) := by
  unfold State.carry
  grind -ring -lia -linarith
scoped grind_pattern carry_canon => s.carry src dst cls m

theorem toDie_canon {s : State} (h : Canon s) (src dst m) : Canon (s.toDie src dst m) := by
  unfold State.toDie
  grind -ring -lia -linarith
scoped grind_pattern toDie_canon => s.toDie src dst m

theorem unqueue_canon {s : State} (h : Canon s) (gone) : Canon (s.unqueue gone) := by
  unfold State.unqueue
  grind -ring -lia -linarith
scoped grind_pattern unqueue_canon => s.unqueue gone

theorem unflit_canon {s : State} (h : Canon s) (gone) : Canon (s.unflit gone) := by
  unfold State.unflit
  grind -ring -lia -linarith
scoped grind_pattern unflit_canon => s.unflit gone

theorem dropMessages_canon {s : State} (h : Canon s) (p) : Canon (s.dropMessages p) := by
  unfold State.dropMessages
  grind -ring -lia -linarith
scoped grind_pattern dropMessages_canon => s.dropMessages p

/-! ### Ring: Crossing a link (R412, R413) -/

theorem arrive_canon {s : State} (h : Canon s) (link up n) : Canon (s.arrive link up n) := by
  unfold State.arrive
  grind -ring -lia -linarith
scoped grind_pattern arrive_canon => s.arrive link up n

theorem reroute_canon {s : State} (h : Canon s) : Canon (s.reroute) := by
  unfold State.reroute
  grind -ring -lia -linarith
scoped grind_pattern reroute_canon => s.reroute

/-! ### Words: Poison (R75, R108) -/

theorem setPoison_canon {s : State} (h : Canon s) (wd bad) : Canon (s.setPoison wd bad) := h
scoped grind_pattern setPoison_canon => s.setPoison wd bad

/-! ### Words: L1 words -/

theorem evictFor_canon {s : State} (h : Canon s) (c line) : Canon (s.evictFor c line) := by
  unfold State.evictFor
  grind -ring -lia -linarith
scoped grind_pattern evictFor_canon => s.evictFor c line

theorem fillL1_canon {s : State} (h : Canon s) (c wd w ret time) : Canon (s.fillL1 c wd w ret time) := by
  unfold State.fillL1
  grind -ring -lia -linarith
scoped grind_pattern fillL1_canon => s.fillL1 c wd w ret time

theorem renewL1_canon {s : State} (h : Canon s) (c wd w) : Canon (s.renewL1 c wd w) := by
  unfold State.renewL1
  grind -ring -lia -linarith
scoped grind_pattern renewL1_canon => s.renewL1 c wd w

/-! ### Words: Lost words and the home-held bit (R108, R109) -/

theorem spillLost_canon {s : State} (h : Canon s) (d line) : Canon (s.spillLost d line) := by
  unfold State.spillLost
  grind -ring -lia -linarith
scoped grind_pattern spillLost_canon => s.spillLost d line

theorem restoreLost_canon {s : State} (h : Canon s) (d line) : Canon (s.restoreLost d line) := by
  unfold State.restoreLost
  grind -ring -lia -linarith
scoped grind_pattern restoreLost_canon => s.restoreLost d line

theorem markHeld_canon {s : State} (h : Canon s) (wd) : Canon (s.markHeld wd) := by
  unfold State.markHeld
  grind -ring -lia -linarith
scoped grind_pattern markHeld_canon => s.markHeld wd

theorem clearHeld_canon {s : State} (h : Canon s) (line) : Canon (s.clearHeld line) := h
scoped grind_pattern clearHeld_canon => s.clearHeld line

theorem setHome_canon {s : State} (h : Canon s) (wd x) : Canon (s.setHome wd x) := by
  unfold State.setHome
  grind -ring -lia -linarith
scoped grind_pattern setHome_canon => s.setHome wd x

/-! ### Words: The queue of a word at home, and what waits on it (R91, R112) -/

theorem setHomeQ_canon {s : State} (h : Canon s) (wd l) : Canon (s.setHomeQ wd l) := by
  unfold State.setHomeQ
  grind -ring -lia -linarith
scoped grind_pattern setHomeQ_canon => s.setHomeQ wd l

theorem snoopHost_canon {s : State} (h : Canon s) (line) : Canon (s.snoopHost line) := by
  unfold State.snoopHost
  grind -ring -lia -linarith
scoped grind_pattern snoopHost_canon => s.snoopHost line

theorem clearWay_canon {s : State} (h : Canon s) (pa n) : Canon (s.clearWay pa n) := by
  unfold State.clearWay
  grind -ring -lia -linarith
scoped grind_pattern clearWay_canon => s.clearWay pa n

/-! ### Words: Room in a slice (R62, R98) -/

theorem hostLeave_canon {s : State} (h : Canon s) (d line) : Canon (s.hostLeave d line) := by
  unfold State.hostLeave
  grind -ring -lia -linarith
scoped grind_pattern hostLeave_canon => s.hostLeave d line

theorem dropLine_canon {s : State} (h : Canon s) (d line) : Canon (s.dropLine d line) := by
  unfold State.dropLine
  grind -ring -lia -linarith
scoped grind_pattern dropLine_canon => s.dropLine d line

theorem startRevoke_canon {s : State} (h : Canon s) (wd o m) : Canon (s.startRevoke wd o m) := by
  unfold State.startRevoke
  grind -ring -lia -linarith
scoped grind_pattern startRevoke_canon => s.startRevoke wd o m

theorem callIn_canon {s : State} (h : Canon s) (d line) : Canon (s.callIn d line) := by
  unfold State.callIn
  grind -ring -lia -linarith
scoped grind_pattern callIn_canon => s.callIn d line

theorem makeRoom_canon {s : State} (h : Canon s) (d line after fuel) : Canon (s.makeRoom d line after fuel).2 := by
  fun_induction State.makeRoom s d line after fuel <;> grind -ring -lia -linarith
scoped grind_pattern makeRoom_canon => s.makeRoom d line after fuel

theorem fetched_canon {s : State} (h : Canon s) (d line) : Canon (s.fetched d line) := by
  unfold State.fetched
  grind -ring -lia -linarith
scoped grind_pattern fetched_canon => s.fetched d line

theorem joinSlice_canon {s : State} (h : Canon s) (d line ret) : Canon (s.joinSlice d line ret) := by
  unfold State.joinSlice
  grind -ring -lia -linarith
scoped grind_pattern joinSlice_canon => s.joinSlice d line ret

theorem reside_canon {s : State} (h : Canon s) (d line ret after) : Canon (s.reside d line ret after).2 := by
  unfold State.reside
  grind -ring -lia -linarith
scoped grind_pattern reside_canon => s.reside d line ret after

theorem useLine_canon {s : State} (h : Canon s) (c line hint) : Canon (s.useLine c line hint) := by
  unfold State.useLine
  grind -ring -lia -linarith
scoped grind_pattern useLine_canon => s.useLine c line hint

/-! ### Words: The current value of a word -/

theorem arrived_canon {s : State} (h : Canon s) (stop ws) : Canon (s.arrived stop ws) := by
  unfold State.arrived
  grind -ring -lia -linarith
scoped grind_pattern arrived_canon => s.arrived stop ws

theorem recall_canon {s : State} (h : Canon s) (wd) : Canon (s.recall wd) := by
  unfold State.recall
  grind -ring -lia -linarith
scoped grind_pattern recall_canon => s.recall wd

theorem roomNow_canon {s : State} (h : Canon s) (d line after fuel) : Canon (s.roomNow d line after fuel) := by
  fun_induction State.roomNow s d line after fuel <;> grind -ring -lia -linarith +splitImp
scoped grind_pattern roomNow_canon => s.roomNow d line after fuel

theorem resideNow_canon {s : State} (h : Canon s) (d line ret after) : Canon (s.resideNow d line ret after) := by
  unfold State.resideNow
  grind -ring -lia -linarith
scoped grind_pattern resideNow_canon => s.resideNow d line ret after

theorem callHome_canon {s : State} (h : Canon s) (ws) : Canon (s.callHome ws) := by
  unfold State.callHome
  grind -ring -lia -linarith
scoped grind_pattern callHome_canon => s.callHome ws

theorem hostLine_canon {s : State} (h : Canon s) (wd x whole) : Canon (s.hostLine wd x whole) := by
  unfold State.hostLine
  grind -ring -lia -linarith
scoped grind_pattern hostLine_canon => s.hostLine wd x whole

theorem noteWriteOn_canon {s : State} (h : Canon s) (p wd) : Canon (s.noteWriteOn p wd) := by
  refine foldl_canon (fun s e h => ?_) h _
  split
  · exact h
  · exact foldl_canon (fun s sl h => by grind -ring -lia -linarith) h _
scoped grind_pattern noteWriteOn_canon => s.noteWriteOn p wd

theorem noteWrite_canon {s : State} (h : Canon s) (wd) : Canon (s.noteWrite wd) := by
  unfold State.noteWrite
  grind -ring -lia -linarith
scoped grind_pattern noteWrite_canon => s.noteWrite wd

theorem putWord_canon {s : State} (h : Canon s) (wd v mask) : Canon (s.putWord wd v mask) := by
  unfold State.putWord
  grind -ring -lia -linarith
scoped grind_pattern putWord_canon => s.putWord wd v mask

theorem findLost_canon {s : State} (h : Canon s) (wd) : Canon (s.findLost wd) := by
  unfold State.findLost
  grind -ring -lia -linarith
scoped grind_pattern findLost_canon => s.findLost wd

theorem homeSide_canon {s : State} (h : Canon s) (wd ret) : Canon (s.homeSide wd ret) := by
  unfold State.homeSide
  grind -ring -lia -linarith
scoped grind_pattern homeSide_canon => s.homeSide wd ret

theorem homeReads_canon {s : State} (h : Canon s) (ws ret stop) : Canon (s.homeReads ws ret stop).2 := by
  unfold State.homeReads
  grind -ring -lia -linarith
scoped grind_pattern homeReads_canon => s.homeReads ws ret stop

theorem homeNat_canon {s : State} (h : Canon s) (stop pa n ret) : Canon (s.homeNat stop pa n ret).2.2 := by
  unfold State.homeNat
  grind -ring -lia -linarith
scoped grind_pattern homeNat_canon => s.homeNat stop pa n ret

/-! ### Words: Bytes at a physical address, as one step -/

theorem putBytes_canon {s : State} (h : Canon s) (pa bs) : Canon (s.putBytes pa bs) := by
  unfold State.putBytes
  grind -ring -lia -linarith
scoped grind_pattern putBytes_canon => s.putBytes pa bs

theorem putNat_canon {s : State} (h : Canon s) (pa n v) : Canon (s.putNat pa n v) := by
  unfold State.putNat
  grind -ring -lia -linarith
scoped grind_pattern putNat_canon => s.putNat pa n v

theorem writeHome_canon {s : State} (h : Canon s) (stop pa bs ret) : Canon (s.writeHome stop pa bs ret) := by
  unfold State.writeHome
  grind -ring -lia -linarith
scoped grind_pattern writeHome_canon => s.writeHome stop pa bs ret

/-! ### Words: Reads and writes of an engine through its core's L1 (R101, R118) -/

theorem fillL2_canon {s : State} (h : Canon s) (d wd w ret time) : Canon (s.fillL2 d wd w ret time) := by
  unfold State.fillL2
  grind -ring -lia -linarith
scoped grind_pattern fillL2_canon => s.fillL2 d wd w ret time

theorem coreMiss_canon {s : State} (h : Canon s) (c wd alone hint) : Canon (s.coreMiss c wd alone hint).2 := by
  unfold State.coreMiss
  grind -ring -lia -linarith
scoped grind_pattern coreMiss_canon => s.coreMiss c wd alone hint

theorem coreReads_canon {s : State} (h : Canon s) (c ws hint) : Canon (s.coreReads c ws hint).2 := by
  unfold State.coreReads
  grind -ring -lia -linarith
scoped grind_pattern coreReads_canon => s.coreReads c ws hint

theorem takeOwner_canon {s : State} (h : Canon s) (c wd ret) : Canon (s.takeOwner c wd ret) := by
  unfold State.takeOwner
  grind -ring -lia -linarith
scoped grind_pattern takeOwner_canon => s.takeOwner c wd ret

theorem coreWrite_canon {s : State} (h : Canon s) (c wd v mask hint) : Canon (s.coreWrite c wd v mask hint) := by
  unfold State.coreWrite
  grind -ring -lia -linarith
scoped grind_pattern coreWrite_canon => s.coreWrite c wd v mask hint

/-! ### Records: Events (R386) -/

theorem evAdvance_canon {s : State} (h : Canon s) (q) : Canon (s.evAdvance q) := by
  unfold State.evAdvance
  grind -ring -lia -linarith
scoped grind_pattern evAdvance_canon => s.evAdvance q

theorem event_canon {s : State} (h : Canon s) (q record) : Canon (s.event q record) := by
  unfold State.event
  grind -ring -lia -linarith
scoped grind_pattern event_canon => s.event q record

/-! ### Records: Memory errors (R78, R79) -/

theorem recordMem_canon {s : State} (h : Canon s) (pa) : Canon (s.recordMem pa) := by
  unfold State.recordMem
  grind -ring -lia -linarith
scoped grind_pattern recordMem_canon => s.recordMem pa

/-! ### Records: The sample buffer (R446 to R449) -/

theorem smpSettle_canon {s : State} (h : Canon s) (d) : Canon (s.smpSettle d) := by
  unfold State.smpSettle
  grind -ring -lia -linarith
scoped grind_pattern smpSettle_canon => s.smpSettle d

theorem smpWord_canon {s : State} (h : Canon s) (d pa w) : Canon (s.smpWord d pa w) := by
  unfold State.smpWord
  grind -ring -lia -linarith
scoped grind_pattern smpWord_canon => s.smpWord d pa w

theorem smpPut_canon {s : State} (h : Canon s) (d ws) : Canon (s.smpPut d ws) := by
  unfold State.smpPut
  grind -ring -lia -linarith
scoped grind_pattern smpPut_canon => s.smpPut d ws

theorem emit_canon {s : State} (h : Canon s) (d type aux body) : Canon (s.emit d type aux body) := by
  unfold State.emit
  grind -ring -lia -linarith
scoped grind_pattern emit_canon => s.emit d type aux body

end Sys2Proof.MemoryForm
end

section
/-! SUPPORT. Canonical memory, function by function: translation and counters. -/

namespace Sys2Proof.MemoryForm
open Sys2Proof.Machine

/-! ### Xlat: Words of tables and descriptors, at their home (R5, R19, R100) -/

theorem readPhys_canon {s : State} (h : Canon s) (u pa n) : Ends Free Canon2 (s.readPhys u pa n) := by
  unfold State.readPhys
  grind -ring -lia -linarith
scoped grind_pattern readPhys_canon => s.readPhys u pa n

theorem writePhys_canon {s : State} (h : Canon s) (u pa n v) : Ends Free Canon (s.writePhys u pa n v) := by
  unfold State.writePhys
  grind -ring -lia -linarith
scoped grind_pattern writePhys_canon => s.writePhys u pa n v

/-! ### Xlat: The address-space table (R20 to R22) -/

theorem astEntry_canon {s : State} (h : Canon s) (u asid) : Ends Free Canon2 (s.astEntry u asid) := by
  unfold State.astEntry
  split
  · exact h
  · exact ends_bind (readPhys_canon h _ _ _) fun (lo, s) h => ends_bind (readPhys_canon h _ _ _) fun (hi, s) h => h
scoped grind_pattern astEntry_canon => s.astEntry u asid

/-! ### Xlat: Walks (R23, R26) -/

theorem setWalkCache_canon {s : State} (h : Canon s) (u l) : Canon (s.setWalkCache u l) := by
  unfold State.setWalkCache
  grind -ring -lia -linarith
scoped grind_pattern setWalkCache_canon => s.setWalkCache u l

theorem tableEntry_canon {s : State} (h : Canon s) (u asid level va pa) : Ends Free Canon2 (s.tableEntry u asid level va pa) := by
  unfold State.tableEntry
  grind -ring -lia -linarith
scoped grind_pattern tableEntry_canon => s.tableEntry u asid level va pa

theorem walkFrom_canon {s : State} (h : Canon s) (u asid va kind span t level fuel) :
    Canon (s.walkFrom u asid va kind span t level fuel).2.2 := by
  fun_induction State.walkFrom s u asid va kind span t level fuel <;> grind -ring -lia -linarith
scoped grind_pattern walkFrom_canon => s.walkFrom u asid va kind span t level fuel

theorem walk_canon {s : State} (h : Canon s) (u asid va kind) : Canon (s.walk u asid va kind).2.2 := by
  unfold State.walk
  grind -ring -lia -linarith
scoped grind_pattern walk_canon => s.walk u asid va kind

/-! ### Xlat: TLBs (R33) -/

theorem tlbFill_canon {s : State} (h : Canon s) (u kind x) : Canon (s.tlbFill u kind x) := by
  unfold State.tlbFill
  grind -ring -lia -linarith
scoped grind_pattern tlbFill_canon => s.tlbFill u kind x

theorem notePage_canon {s : State} (h : Canon s) (pa p) : Canon (s.notePage pa p) := by
  unfold State.notePage
  grind -ring -lia -linarith
scoped grind_pattern notePage_canon => s.notePage pa p

theorem translate_canon {s : State} (h : Canon s) (u asid va kind) : Canon (s.translate u asid va kind).2 := by
  unfold State.translate
  grind -ring -lia -linarith
scoped grind_pattern translate_canon => s.translate u asid va kind

/-! ### Xlat: Page requests (R29, R387) -/

theorem request_canon {s : State} (h : Canon s) (u asid vpn kind q) : Canon (s.request u asid vpn kind q) := by
  unfold State.request
  grind -ring -lia -linarith
scoped grind_pattern request_canon => s.request u asid vpn kind q

/-! ### Xlat: Invalidation (R35, R36) -/

theorem discardXlat_canon {s : State} (h : Canon s) (p w a) : Canon (s.discardXlat p w a) := by
  unfold State.discardXlat
  grind -ring -lia -linarith
scoped grind_pattern discardXlat_canon => s.discardXlat p w a

theorem discardPage_canon {s : State} (h : Canon s) (asid vpn) : Canon (s.discardPage asid vpn) := by
  unfold State.discardPage
  grind -ring -lia -linarith
scoped grind_pattern discardPage_canon => s.discardPage asid vpn

/-! ### Xlat: The device page pool (R42, R43) -/

theorem poolLow_canon {s : State} (h : Canon s) (d l n low fell) : Canon (s.poolLow d l n low fell) := by
  unfold State.poolLow
  grind -ring -lia -linarith
scoped grind_pattern poolLow_canon => s.poolLow d l n low fell

theorem poolPop_canon {s : State} (h : Canon s) (d l) : Ends Free Canon2 (s.poolPop d l) := by
  unfold State.poolPop
  dsimp only
  split
  · exact h
  · refine ends_bind (readPhys_canon h _ _ _) fun (n, s) h => ?_
    dsimp only
    split
    · exact h
    · exact ends_bind (readPhys_canon h _ _ _) fun (stk, s) h => ends_bind (readPhys_canon h _ _ _) fun (low, s) h =>
        ends_bind (readPhys_canon h _ _ _) fun (f, s) h => ends_bind (writePhys_canon h _ _ _ _) fun s h => poolLow_canon h _ _ _ _ _
scoped grind_pattern poolPop_canon => s.poolPop d l

theorem poolPush_canon {s : State} (h : Canon s) (d l f) : Ends Free Canon2 (s.poolPush d l f) := by
  unfold State.poolPush
  dsimp only
  split
  · exact h
  · refine ends_bind (readPhys_canon h _ _ _) fun (n, s) h => ends_bind (readPhys_canon h _ _ _) fun (cap, s) h => ?_
    dsimp only
    split
    · exact h
    · exact ends_bind (readPhys_canon h _ _ _) fun (stk, s) h => ends_bind (readPhys_canon h _ _ _) fun (low, s) h =>
        ends_bind (writePhys_canon h _ _ _ _) fun s h => ends_bind (writePhys_canon h _ _ _ _) fun s h => poolLow_canon h _ _ _ _ _
scoped grind_pattern poolPush_canon => s.poolPush d l f

theorem poolCount_canon {s : State} (h : Canon s) (d off) : Ends Free Canon (s.poolCount d off) :=
  ends_bind (readPhys_canon h _ _ _) fun (_, _) h => writePhys_canon h _ _ _ _
scoped grind_pattern poolCount_canon => s.poolCount d off

/-! ### Xlat: Commit (R40) -/

theorem entryFrom_canon {s : State} (h : Canon s) (u va span t level fuel) : Ends Free Canon2 (s.entryFrom u va span t level fuel) := by
  induction fuel generalizing s t level with
  | zero => exact h
  | succ fuel ih => simp only [State.entryFrom, Bind.bind, Except.bind]; grind -ring -lia -linarith
scoped grind_pattern entryFrom_canon => s.entryFrom u va span t level fuel

theorem entryOf_canon {s : State} (h : Canon s) (u asid va) : Ends Free Canon2 (s.entryOf u asid va) := by
  refine ends_bind (astEntry_canon h _ _) fun (e, s) h => ?_
  grind -ring -lia -linarith
scoped grind_pattern entryOf_canon => s.entryOf u asid va

theorem commitTables_canon {s : State} (h : Canon s) (asid va die fuel) : Ends Free Canon2 (s.commitTables asid va die fuel) := by
  induction fuel generalizing s with
  | zero => exact h
  | succ fuel ih =>
    unfold State.commitTables
    generalize List.range 512 = l
    refine ends_bind (entryOf_canon h _ _ _) fun (x, s) h => ?_
    match x with
    | none => exact h
    | some (p, level, pa) =>
      dsimp only
      split
      · refine ends_bind (poolPop_canon h _ _) fun (g, s) h => ?_
        match g with
        | none => exact h
        | some g =>
          exact ends_bind (foldlM_canon (fun s i h => writePhys_canon h _ _ _ _) h l) fun s h =>
            ends_bind (writePhys_canon h _ _ _ _) fun s h => ih h
      · exact h
scoped grind_pattern commitTables_canon => s.commitTables asid va die fuel

theorem zeroFrame_canon {s : State} (h : Canon s) (f) : Canon (s.zeroFrame f) := Laws.Tbl.wf_filter _ h
scoped grind_pattern zeroFrame_canon => s.zeroFrame f

theorem fillFrame_canon {s : State} (h : Canon s) (u f) : Ends Free Canon (s.fillFrame u f) := by
  unfold State.fillFrame
  grind -ring -lia -linarith
scoped grind_pattern fillFrame_canon => s.fillFrame u f

theorem commit_canon {s : State} (h : Canon s) (asid vpn die) : Ends Free Canon2 (s.commit asid vpn die) := by
  refine ends_bind (entryOf_canon h _ _ _) fun (x, s) h => ?_
  match x with
  | none => exact h
  | some (p, _, _) =>
    dsimp only
    split
    · exact h
    split
    · exact h
    split
    · exact h
    refine ends_bind (commitTables_canon h _ _ _ _) fun (room, s) h => ?_
    dsimp only
    split
    · exact h
    refine ends_bind (entryOf_canon h _ _ _) fun (x, s) h => ?_
    dsimp only
    split
    · refine ends_bind (Q := Canon2) (ends_bind (poolPop_canon h _ _) fun (f, s) h => ?_) fun (f, s) h => ?_
      · grind -ring -lia -linarith
      · dsimp only
        split
        · exact h
        · exact ends_bind (fillFrame_canon h _ _) fun s h => ends_bind (writePhys_canon h _ _ _ _) fun s h => discardPage_canon h _ _
    · exact h
scoped grind_pattern commit_canon => s.commit asid vpn die

/-! ### Counters -/

theorem setWatch_canon {s : State} (h : Canon s) (io i w) : Canon (s.setWatch io i w) := by
  unfold State.setWatch
  grind -ring -lia -linarith
scoped grind_pattern setWatch_canon => s.setWatch io i w

theorem checkWatch_canon {s : State} (h : Canon s) (io i) : Canon (s.checkWatch io i) := by
  unfold State.checkWatch
  grind -ring -lia -linarith
scoped grind_pattern checkWatch_canon => s.checkWatch io i

theorem checkLate_canon {s : State} (h : Canon s) : Canon (s.checkLate) := by
  unfold State.checkLate
  grind -ring -lia -linarith
scoped grind_pattern checkLate_canon => s.checkLate

theorem noteCounters_canon {s : State} (h : Canon s) (before r pa n cnt) :
    Canon (s.noteCounters before r pa n cnt) := by
  unfold State.noteCounters
  grind -ring -lia -linarith
scoped grind_pattern noteCounters_canon => s.noteCounters before r pa n cnt

end Sys2Proof.MemoryForm
end

section
/-! SUPPORT. Canonical memory, function by function: issue, coherence and the engines. -/

namespace Sys2Proof.MemoryForm
open Sys2Proof.Machine

/-! ### Ops: The issuing pair (R155, R212) -/

theorem withIss_canon {s : State} {k : Iss → Res} (hk : ∀ i, CanonRes (k i)) : CanonRes (withIss s k) := by
  unfold withIss
  split
  · exact hk _
  · trivial
scoped grind_pattern withIss_canon => withIss s k

/-! ### Ops: Stops and handler entry (R401 to R403) -/

theorem checkHalt_canon {s : State} (h : Canon s) (r) : Canon (s.checkHalt r) := by
  unfold State.checkHalt
  grind -ring -lia -linarith
scoped grind_pattern checkHalt_canon => s.checkHalt r

theorem waitOn_canon {s : State} (h : Canon s) (r sl w) : Canon (s.waitOn r sl w) := by
  unfold State.waitOn
  grind -ring -lia -linarith
scoped grind_pattern waitOn_canon => s.waitOn r sl w

theorem endWait_canon {s : State} (h : Canon s) (r sl) : Canon (s.endWait r sl) := by
  unfold State.endWait
  grind -ring -lia -linarith
scoped grind_pattern endWait_canon => s.endWait r sl

theorem advance_canon {s : State} (h : Canon s) (r sl) : Canon (s.advance r sl) := by
  unfold State.advance
  grind -ring -lia -linarith
scoped grind_pattern advance_canon => s.advance r sl

theorem advanceIssued_canon {s : State} (h : Canon s) (r sl) : Canon (s.advanceIssued r sl) := by
  unfold State.advanceIssued
  grind -ring -lia -linarith
scoped grind_pattern advanceIssued_canon => s.advanceIssued r sl

theorem finish_canon {s : State} (h : Canon s) (i) : CanonRes (finish s i) := by
  unfold finish
  grind -ring -lia -linarith
scoped grind_pattern finish_canon => finish s i

theorem wait_canon {s : State} (h : Canon s) (i w) : CanonRes (wait s i w) := by
  unfold wait
  grind -ring -lia -linarith
scoped grind_pattern wait_canon => wait s i w

/-! ### Ops: Holding a core (R434, R440, R442, R447) -/

theorem stopRecord_canon {s : State} (h : Canon s) (r reason n point) : Canon (s.stopRecord r reason n point) := by
  unfold State.stopRecord
  grind -ring -lia -linarith
scoped grind_pattern stopRecord_canon => s.stopRecord r reason n point

theorem holdCore_canon {s : State} (h : Canon s) (c reason cause n point) : Canon (s.holdCore c reason cause n point) := by
  unfold State.holdCore
  grind -ring -lia -linarith
scoped grind_pattern holdCore_canon => s.holdCore c reason cause n point

theorem freeze_canon {s : State} (h : Canon s) (r kind point) : Canon (s.freeze r kind point) := by
  unfold State.freeze
  grind -ring -lia -linarith
scoped grind_pattern freeze_canon => s.freeze r kind point

/-! ### Ops: Taking an exception (R399 to R403) -/

theorem haltSiblings_canon {s : State} (h : Canon s) (r) : Canon (s.haltSiblings r) := by
  unfold State.haltSiblings
  grind -ring -lia -linarith
scoped grind_pattern haltSiblings_canon => s.haltSiblings r

theorem takeTrap_canon {s : State} (h : Canon s) (r sl bits pc idx) : Canon (s.takeTrap r sl bits pc idx) := by
  unfold State.takeTrap
  grind -ring -lia -linarith
scoped grind_pattern takeTrap_canon => s.takeTrap r sl bits pc idx

theorem trap_canon {s : State} (h : Canon s) (i bits) : CanonRes (trap s i bits) := by
  unfold trap
  grind -ring -lia -linarith
scoped grind_pattern trap_canon => trap s i bits

theorem trapAfter_canon {s : State} (h : Canon s) (i bits) : Canon (s.trapAfter i bits) := by
  unfold State.trapAfter
  grind -ring -lia -linarith
scoped grind_pattern trapAfter_canon => s.trapAfter i bits

theorem leaveLatches_canon {s : State} (h : Canon s) (r) : Canon (s.leaveLatches r) := by
  unfold State.leaveLatches
  grind -ring -lia -linarith
scoped grind_pattern leaveLatches_canon => s.leaveLatches r

theorem receiveHalt_canon {s : State} (h : Canon s) (r) : Canon (s.receiveHalt r) := by
  unfold State.receiveHalt
  grind -ring -lia -linarith
scoped grind_pattern receiveHalt_canon => s.receiveHalt r

theorem fetchWord_canon {s : State} (h : Canon s) (c asid va) : Canon (s.fetchWord c asid va).2 := by
  unfold State.fetchWord
  grind -ring -lia -linarith
scoped grind_pattern fetchWord_canon => s.fetchWord c asid va

/-! ### Ops: Outstanding operations (R134, R207, R208) -/

theorem addOp_canon {s : State} (h : Canon s) (i kind) : Canon (s.addOp i kind).2 := by
  unfold State.addOp
  grind -ring -lia -linarith
scoped grind_pattern addOp_canon => s.addOp i kind

theorem addOpNoFlag_canon {s : State} (h : Canon s) (r kind) : Canon (s.addOpNoFlag r kind).2 := by
  unfold State.addOpNoFlag
  grind -ring -lia -linarith
scoped grind_pattern addOpNoFlag_canon => s.addOpNoFlag r kind

theorem setOpKind_canon {s : State} (h : Canon s) (n k) : Canon (s.setOpKind n k) := by
  unfold State.setOpKind
  grind -ring -lia -linarith
scoped grind_pattern setOpKind_canon => s.setOpKind n k

theorem endOp_canon {s : State} (h : Canon s) (n) : Canon (s.endOp n) := by
  unfold State.endOp
  grind -ring -lia -linarith
scoped grind_pattern endOp_canon => s.endOp n

/-! ### Coherence: Rods of a core and words they wait for -/

theorem raiseStorers_canon {s : State} (h : Canon s) (c wd bits) : Canon (s.raiseStorers c wd bits) := by
  unfold State.raiseStorers
  grind -ring -lia -linarith
scoped grind_pattern raiseStorers_canon => s.raiseStorers c wd bits

theorem writeBack_canon {s : State} (h : Canon s) (c wd v) : Canon (s.writeBack c wd v) := by
  unfold State.writeBack
  grind -ring -lia -linarith
scoped grind_pattern writeBack_canon => s.writeBack c wd v

theorem writeBackV_canon {s : State} (h : Canon s) (c wd) : Canon (s.writeBackV c wd) := by
  unfold State.writeBackV
  grind -ring -lia -linarith
scoped grind_pattern writeBackV_canon => s.writeBackV c wd

theorem settleWord_canon {s : State} (h : Canon s) (c wd) : Canon (s.settleWord c wd) := by
  unfold State.settleWord
  grind -ring -lia -linarith
scoped grind_pattern settleWord_canon => s.settleWord c wd

theorem wordGranted_canon {s : State} (h : Canon s) (c wd) : Canon (s.wordGranted c wd) := by
  unfold State.wordGranted
  grind -ring -lia -linarith
scoped grind_pattern wordGranted_canon => s.wordGranted c wd

theorem dieGranted_canon {s : State} (h : Canon s) (d wd) : Canon (s.dieGranted d wd) := by
  unfold State.dieGranted
  grind -ring -lia -linarith
scoped grind_pattern dieGranted_canon => s.dieGranted d wd

theorem backHome_canon {s : State} (h : Canon s) (p wd) : Canon (s.backHome p wd) := by
  unfold State.backHome
  grind -ring -lia -linarith
scoped grind_pattern backHome_canon => s.backHome p wd

/-! ### Coherence: Words reach the loads that wait for them (R83, R118, R209, R312) -/

theorem readWord_canon {s : State} (h : Canon s) (c wd) : Canon (s.readWord c wd) := by
  unfold State.readWord
  grind -ring -lia -linarith
scoped grind_pattern readWord_canon => s.readWord c wd

theorem askWord_canon {s : State} (h : Canon s) (c wd) : Canon (s.askWord c wd) := by
  unfold State.askWord
  grind -ring -lia -linarith
scoped grind_pattern askWord_canon => s.askWord c wd

theorem loadDone_canon {s : State} (h : Canon s) (src op r l) : Canon (s.loadDone src op r l) := by
  unfold State.loadDone
  grind -ring -lia -linarith
scoped grind_pattern loadDone_canon => s.loadDone src op r l

theorem bindParts_canon {s : State} (h : Canon s) (src op ps ws) : Canon (s.bindParts src op ps ws) := by
  unfold State.bindParts
  grind -ring -lia -linarith
scoped grind_pattern bindParts_canon => s.bindParts src op ps ws

theorem readPending_canon {s : State} (h : Canon s) (r ws) : Canon (s.readPending r ws) := by
  unfold State.readPending
  grind -ring -lia -linarith
scoped grind_pattern readPending_canon => s.readPending r ws

theorem bindGroup_canon {s : State} (h : Canon s) (src c op lane hint viol) : Canon (s.bindGroup src c op lane hint viol) := by
  unfold State.bindGroup
  grind -ring -lia -linarith
scoped grind_pattern bindGroup_canon => s.bindGroup src c op lane hint viol

theorem bindWord_canon {s : State} (h : Canon s) (src c wd w) : Canon (s.bindWord src c wd w) := by
  unfold State.bindWord
  grind -ring -lia -linarith
scoped grind_pattern bindWord_canon => s.bindWord src c wd w

theorem deliver_canon {s : State} (h : Canon s) (src rd wd w time) : Canon (s.deliver src rd wd w time) := by
  unfold State.deliver
  grind -ring -lia -linarith
scoped grind_pattern deliver_canon => s.deliver src rd wd w time

/-! ### Coherence: The acquire and the release (R85, R86, R88) -/

theorem acquireAt_canon {s : State} (h : Canon s) (c k) : Canon (s.acquireAt c k) := by
  unfold State.acquireAt
  grind -ring -lia -linarith
scoped grind_pattern acquireAt_canon => s.acquireAt c k

theorem inherit_canon {s : State} (h : Canon s) (r) : Canon (s.inherit r) := by
  unfold State.inherit
  grind -ring -lia -linarith
scoped grind_pattern inherit_canon => s.inherit r

theorem acquire_canon {s : State} (h : Canon s) (r sc) : Canon (s.acquire r sc) := by
  unfold State.acquire
  grind -ring -lia -linarith
scoped grind_pattern acquire_canon => s.acquire r sc

/-! ### Coherence: The home slice (R89 to R91, R98) -/

theorem queueAt_canon {s : State} (h : Canon s) (wd m) : Canon (s.queueAt wd m) := by
  unfold State.queueAt
  grind -ring -lia -linarith
scoped grind_pattern queueAt_canon => s.queueAt wd m

theorem grant_canon {s : State} (h : Canon s) (p wd val) : Canon (s.grant p wd val) := by
  unfold State.grant
  grind -ring -lia -linarith
scoped grind_pattern grant_canon => s.grant p wd val

/-! ### Coherence: Home-performed accesses (R76, R100, R107) -/

theorem runAcc_canon {s : State} (h : Canon s) (a) : Canon (runAcc a s).2.2 := by
  unfold runAcc
  grind -ring -lia -linarith
scoped grind_pattern runAcc_canon => runAcc a s

theorem counterAdd_canon {s : State} (h : Canon s) (r pa v) : Canon (s.counterAdd r pa v) := by
  unfold State.counterAdd
  grind -ring -lia -linarith
scoped grind_pattern counterAdd_canon => s.counterAdd r pa v

theorem dropCopies_canon {s : State} (h : Canon s) (c ws) : Canon (s.dropCopies c ws) := by
  unfold State.dropCopies
  grind -ring -lia -linarith
scoped grind_pattern dropCopies_canon => s.dropCopies c ws

theorem noteAccs_canon {s : State} (h : Canon s) (before r as) : Canon (s.noteAccs before r as) := by
  unfold State.noteAccs
  grind -ring -lia -linarith
scoped grind_pattern noteAccs_canon => s.noteAccs before r as

theorem answerAcc_canon {s : State} (h : Canon s) (op a v k) : Canon (s.answerAcc op a v k) := by
  unfold State.answerAcc
  grind -ring -lia -linarith
scoped grind_pattern answerAcc_canon => s.answerAcc op a v k

theorem answerReq_canon {s : State} (h : Canon s) (r) : Canon (s.answerReq r) := by
  unfold State.answerReq
  grind -ring -lia -linarith
scoped grind_pattern answerReq_canon => s.answerReq r

theorem over_canon {x : AccOut} (h : Canon x.2.2) (stop a) : Canon (x.over stop a).2.2 := by
  unfold AccOut.over
  grind -ring -lia -linarith
scoped grind_pattern over_canon => x.over stop a

theorem applyReq_canon {s : State} (h : Canon s) (r) : Canon (s.applyReq r) := by
  unfold State.applyReq
  grind -ring -lia -linarith +splitImp
scoped grind_pattern applyReq_canon => s.applyReq r

theorem resideReq_canon {s : State} (h : Canon s) (r) : Canon (s.resideReq r).2 := by
  unfold State.resideReq
  grind -ring -lia -linarith
scoped grind_pattern resideReq_canon => s.resideReq r

theorem performReq_canon {s : State} (h : Canon s) (r self) : Canon (s.performReq r self) := by
  unfold State.performReq
  grind -ring -lia -linarith
scoped grind_pattern performReq_canon => s.performReq r self

/-! ### Coherence: Serving requests (R91) -/

theorem noteRegistered_canon {s : State} (h : Canon s) (c wd) : Canon (s.noteRegistered c wd) := by
  unfold State.noteRegistered
  grind -ring -lia -linarith
scoped grind_pattern noteRegistered_canon => s.noteRegistered c wd

theorem homeDo_canon {s : State} (h : Canon s) (wd m) : Canon (s.homeDo wd m) := by
  unfold State.homeDo
  grind -ring -lia -linarith
scoped grind_pattern homeDo_canon => s.homeDo wd m

theorem homeDrain_canon {s : State} (h : Canon s) (wd fuel) : Canon (s.homeDrain wd fuel) := by
  fun_induction State.homeDrain s wd fuel <;> grind -ring -lia -linarith
scoped grind_pattern homeDrain_canon => s.homeDrain wd fuel

theorem homeServe_canon {s : State} (h : Canon s) (wd) : Canon (s.homeServe wd) := by
  unfold State.homeServe
  grind -ring -lia -linarith
scoped grind_pattern homeServe_canon => s.homeServe wd

theorem abandon_canon {s : State} (h : Canon s) (p wd) : Canon (s.abandon p wd) := by
  unfold State.abandon
  grind -ring -lia -linarith
scoped grind_pattern abandon_canon => s.abandon p wd

theorem refuse_canon {s : State} (h : Canon s) (wd m) : Canon (s.refuse wd m) := by
  unfold State.refuse
  grind -ring -lia -linarith
scoped grind_pattern refuse_canon => s.refuse wd m

theorem placed_canon {s : State} (h : Canon s) (wd m) : Canon (s.placed wd m).2 := by
  unfold State.placed
  grind -ring -lia -linarith
scoped grind_pattern placed_canon => s.placed wd m

theorem homeArrive_canon {s : State} (h : Canon s) (wd m i) : Canon (s.homeArrive wd m i) := by
  unfold State.homeArrive
  grind -ring -lia -linarith
scoped grind_pattern homeArrive_canon => s.homeArrive wd m i

theorem execHomeRead_canon {s : State} (h : Canon s) (rd wd) : CanonRes (execHomeRead rd wd s) := by
  unfold execHomeRead
  grind -ring -lia -linarith
scoped grind_pattern execHomeRead_canon => execHomeRead rd wd s

theorem execHomeRegister_canon {s : State} (h : Canon s) (p wd) : CanonRes (execHomeRegister p wd s) := by
  unfold execHomeRegister
  grind -ring -lia -linarith
scoped grind_pattern execHomeRegister_canon => execHomeRegister p wd s

theorem execHomeRegisterFetch_canon {s : State} (h : Canon s) (p wd) : CanonRes (execHomeRegisterFetch p wd s) := by
  unfold execHomeRegisterFetch
  grind -ring -lia -linarith
scoped grind_pattern execHomeRegisterFetch_canon => execHomeRegisterFetch p wd s

theorem execHomeWriteBack_canon {s : State} (h : Canon s) (p wd val) : CanonRes (execHomeWriteBack p wd val s) := by
  unfold execHomeWriteBack
  grind -ring -lia -linarith
scoped grind_pattern execHomeWriteBack_canon => execHomeWriteBack p wd val s

theorem execHomeOwnerAnswer_canon {s : State} (h : Canon s) (p wd val) : CanonRes (execHomeOwnerAnswer p wd val s) := by
  unfold execHomeOwnerAnswer
  grind -ring -lia -linarith
scoped grind_pattern execHomeOwnerAnswer_canon => execHomeOwnerAnswer p wd val s

theorem freed_canon {s : State} (h : Canon s) (n) : Canon (s.freed n) := by
  unfold State.freed
  grind -ring -lia -linarith
scoped grind_pattern freed_canon => s.freed n

theorem execHomePerformedAccess_canon {s : State} (h : Canon s) (req) : CanonRes (execHomePerformedAccess req s) := by
  unfold execHomePerformedAccess
  grind -ring -lia -linarith
scoped grind_pattern execHomePerformedAccess_canon => execHomePerformedAccess req s

/-! ### Coherence: The L1 (R83, R84, R94, R97) -/

theorem setL1Word_canon {s : State} (h : Canon s) (c wd x) : Canon (s.setL1Word c wd x) := h
scoped grind_pattern setL1Word_canon => s.setL1Word c wd x

theorem execL1DieGrant_canon {s : State} (h : Canon s) (c wd) : CanonRes (execL1DieGrant c wd s) := by
  unfold execL1DieGrant
  grind -ring -lia -linarith
scoped grind_pattern execL1DieGrant_canon => execL1DieGrant c wd s

theorem execL1PackageGrant_canon {s : State} (h : Canon s) (c wd val) : CanonRes (execL1PackageGrant c wd val s) := by
  unfold execL1PackageGrant
  grind -ring -lia -linarith
scoped grind_pattern execL1PackageGrant_canon => execL1PackageGrant c wd val s

theorem askAgain_canon {s : State} (h : Canon s) (from' rd wd) : Canon (s.askAgain from' rd wd) := by
  unfold State.askAgain
  grind -ring -lia -linarith
scoped grind_pattern askAgain_canon => s.askAgain from' rd wd

theorem execL1Forward_canon {s : State} (h : Canon s) (c wd dest) : CanonRes (execL1Forward c wd dest s) := by
  unfold execL1Forward
  grind -ring -lia -linarith
scoped grind_pattern execL1Forward_canon => execL1Forward c wd dest s

theorem execL1Revoke_canon {s : State} (h : Canon s) (c wd dest) : CanonRes (execL1Revoke c wd dest s) := by
  unfold execL1Revoke
  grind -ring -lia -linarith
scoped grind_pattern execL1Revoke_canon => execL1Revoke c wd dest s

theorem execL1Eviction_canon {s : State} (h : Canon s) (c line) : CanonRes (execL1Eviction c line s) := by
  unfold execL1Eviction
  grind -ring -lia -linarith
scoped grind_pattern execL1Eviction_canon => execL1Eviction c line s

/-! ### Coherence: The non-home slice (R95, R96) -/

theorem execNonhomeRead_canon {s : State} (h : Canon s) (c wd) : CanonRes (execNonhomeRead c wd s) := by
  unfold execNonhomeRead
  grind -ring -lia -linarith
scoped grind_pattern execNonhomeRead_canon => execNonhomeRead c wd s

theorem execNonhomeRegistration_canon {s : State} (h : Canon s) (c wd fetch) : CanonRes (execNonhomeRegistration c wd fetch s) := by
  unfold execNonhomeRegistration
  grind -ring -lia -linarith
scoped grind_pattern execNonhomeRegistration_canon => execNonhomeRegistration c wd fetch s

theorem execNonhomePackageGrant_canon {s : State} (h : Canon s) (die wd val) : CanonRes (execNonhomePackageGrant die wd val s) := by
  unfold execNonhomePackageGrant
  grind -ring -lia -linarith
scoped grind_pattern execNonhomePackageGrant_canon => execNonhomePackageGrant die wd val s

theorem execNonhomeForward_canon {s : State} (h : Canon s) (die wd dest) : CanonRes (execNonhomeForward die wd dest s) := by
  unfold execNonhomeForward
  grind -ring -lia -linarith
scoped grind_pattern execNonhomeForward_canon => execNonhomeForward die wd dest s

theorem execNonhomeRevoke_canon {s : State} (h : Canon s) (die wd) : CanonRes (execNonhomeRevoke die wd s) := by
  unfold execNonhomeRevoke
  grind -ring -lia -linarith
scoped grind_pattern execNonhomeRevoke_canon => execNonhomeRevoke die wd s

theorem execNonhomeWriteBack_canon {s : State} (h : Canon s) (c wd val) : CanonRes (execNonhomeWriteBack c wd val s) := by
  unfold execNonhomeWriteBack
  grind -ring -lia -linarith
scoped grind_pattern execNonhomeWriteBack_canon => execNonhomeWriteBack c wd val s

/-! ### Coherence: Stamps (R88) -/

theorem execStampScrubber_canon {s : State} (h : Canon s) (l2 c line) : CanonRes (execStampScrubber l2 c line s) := by
  unfold execStampScrubber
  grind -ring -lia -linarith
scoped grind_pattern execStampScrubber_canon => execStampScrubber l2 c line s

/-! ### Coherence: Promotions (R104) -/

theorem promoted_canon {s : State} (h : Canon s) (r sl k take) : Canon (s.promoted r sl k take) := by
  unfold State.promoted
  grind -ring -lia -linarith
scoped grind_pattern promoted_canon => s.promoted r sl k take

theorem execPromotion_canon {s : State} (h : Canon s) (c r sl sc) : CanonRes (execPromotion c r sl sc s) := by
  unfold execPromotion
  grind -ring -lia -linarith
scoped grind_pattern execPromotion_canon => execPromotion c r sl sc s

/-! ### Coherence: The loss of a die, the standby home (R106 to R110) -/

theorem loseOwner_canon {s : State} (h : Canon s) (x) : Canon (s.loseOwner x) := by
  unfold State.loseOwner
  grind -ring -lia -linarith
scoped grind_pattern loseOwner_canon => s.loseOwner x

theorem unring_canon {s : State} (h : Canon s) (stop) : Canon (s.unring stop) := by
  unfold State.unring
  grind -ring -lia -linarith
scoped grind_pattern unring_canon => s.unring stop

theorem landAtStandby_canon {s : State} (h : Canon s) (wd v bad) : Canon (s.landAtStandby wd v bad) := by
  unfold State.landAtStandby
  grind -ring -lia -linarith
scoped grind_pattern landAtStandby_canon => s.landAtStandby wd v bad

theorem surrender_canon {s : State} (h : Canon s) (c wd recalled) : Canon (s.surrender c wd recalled) := by
  unfold State.surrender
  grind -ring -lia -linarith
scoped grind_pattern surrender_canon => s.surrender c wd recalled

theorem clearSlices_canon {s : State} (h : Canon s) (x) : Canon (s.clearSlices x) := by
  unfold State.clearSlices
  grind -ring -lia -linarith
scoped grind_pattern clearSlices_canon => s.clearSlices x

theorem execLossNotice_canon {s : State} (h : Canon s) (die) : CanonRes (execLossNotice die s) := by
  unfold execLossNotice
  grind -ring -lia -linarith
scoped grind_pattern execLossNotice_canon => execLossNotice die s

theorem handBack_canon {s : State} (h : Canon s) (x) : Canon (s.handBack x) := by
  unfold State.handBack
  grind -ring -lia -linarith
scoped grind_pattern handBack_canon => s.handBack x

/-! ### Coherence: The host's caches (R111, R112) -/

theorem sendData_canon {s : State} (h : Canon s) (pa n) : Canon (s.sendData pa n) := by
  unfold State.sendData
  grind -ring -lia -linarith
scoped grind_pattern sendData_canon => s.sendData pa n

theorem execHostSnoop_canon {s : State} (h : Canon s) (line k) : CanonRes (execHostSnoop line k s) := by
  unfold execHostSnoop
  grind -ring -lia -linarith
scoped grind_pattern execHostSnoop_canon => execHostSnoop line k s

theorem execBackInvalidateResponse_canon {s : State} (h : Canon s) (line) : CanonRes (execBackInvalidateResponse line s) := by
  unfold execBackInvalidateResponse
  grind -ring -lia -linarith
scoped grind_pattern execBackInvalidateResponse_canon => execBackInvalidateResponse line s

theorem putLinkBytes_canon {s : State} (h : Canon s) (io pa bs bad) : Canon (s.putLinkBytes io pa bs bad) := by
  unfold State.putLinkBytes
  grind -ring -lia -linarith
scoped grind_pattern putLinkBytes_canon => s.putLinkBytes io pa bs bad

theorem execHostCxlMemAccess_canon {s : State} (h : Canon s) (req) : CanonRes (execHostCxlMemAccess req s) := by
  unfold execHostCxlMemAccess
  grind -ring -lia -linarith
scoped grind_pattern execHostCxlMemAccess_canon => execHostCxlMemAccess req s

/-! ### Engine: Where an address leads on behalf of a rod or an engine operation (R27, R30, R32) -/

theorem resolve_canon {s : State} (h : Canon s) (u asid denied va kind) : Canon (s.resolve u asid denied va kind).2 := by
  unfold State.resolve
  grind -ring -lia -linarith
scoped grind_pattern resolve_canon => s.resolve u asid denied va kind

theorem askPage_canon {s : State} (h : Canon s) (u asid va kind x q) : Canon (s.askPage u asid va kind x q) := by
  unfold State.askPage
  grind -ring -lia -linarith
scoped grind_pattern askPage_canon => s.askPage u asid va kind x q

theorem suspendOp_canon {s : State} (h : Canon s) (n va kind x) : Canon (s.suspendOp n va kind x) := by
  unfold State.suspendOp
  grind -ring -lia -linarith
scoped grind_pattern suspendOp_canon => s.suspendOp n va kind x

/-! ### Engine: Memory through a core's engines (R69, R76, R77, R101) -/

theorem clearWays_canon {s : State} (h : Canon s) (l) : Canon (s.clearWays l) := by
  unfold State.clearWays
  grind -ring -lia -linarith
scoped grind_pattern clearWays_canon => s.clearWays l

theorem readParts_canon {s : State} (h : Canon s) (c l hint) : Canon (s.readParts c l hint).2 := by
  unfold State.readParts
  grind -ring -lia -linarith
scoped grind_pattern readParts_canon => s.readParts c l hint

theorem engineRead_canon {s : State} (h : Canon s) (c pa n ent hint) : Canon (s.engineRead c pa n ent hint).2 := by
  unfold State.engineRead
  grind -ring -lia -linarith
scoped grind_pattern engineRead_canon => s.engineRead c pa n ent hint

theorem engineWrite_canon {s : State} (h : Canon s) (c pa bs ent bad hint) : Canon (s.engineWrite c pa bs ent bad hint).2 := by
  unfold State.engineWrite
  grind -ring -lia -linarith
scoped grind_pattern engineWrite_canon => s.engineWrite c pa bs ent bad hint

/-! ### Engine: Barriers (R323, R324) -/

theorem setBar_canon {s : State} (h : Canon s) (b x) : Canon (s.setBar b x) := by
  unfold State.setBar
  grind -ring -lia -linarith
scoped grind_pattern setBar_canon => s.setBar b x

theorem checkBar_canon {s : State} (h : Canon s) (b) : Canon (s.checkBar b) := by
  unfold State.checkBar
  grind -ring -lia -linarith
scoped grind_pattern checkBar_canon => s.checkBar b

theorem landBytes_canon {s : State} (h : Canon s) (r tag n) : Canon (s.landBytes r tag n) := by
  unfold State.landBytes
  grind -ring -lia -linarith
scoped grind_pattern landBytes_canon => s.landBytes r tag n

/-! ### Engine: Copies (R329 to R333) -/

theorem issueCopy_canon {s : State} (h : Canon s) (r op n k) : Canon (s.issueCopy r op n k) := by
  unfold State.issueCopy
  grind -ring -lia -linarith
scoped grind_pattern issueCopy_canon => s.issueCopy r op n k

/-! ### MxCore: Issue (R336, R337, R342, R348, R351, R352) -/

theorem raiseGang_canon {s : State} (h : Canon s) (cid gang bits) : Canon (s.raiseGang cid gang bits) := by
  unfold State.raiseGang
  grind -ring -lia -linarith
scoped grind_pattern raiseGang_canon => s.raiseGang cid gang bits

theorem mxIssue_canon {s : State} (h : Canon s) (r gang ins word a b k raw) : Canon (s.mxIssue r gang ins word a b k raw).2 := by
  unfold State.mxIssue
  grind -ring -lia -linarith
scoped grind_pattern mxIssue_canon => s.mxIssue r gang ins word a b k raw

/-! ### MxCore: Fetching operands (R341, R343, R356) -/

theorem modMx_canon {s : State} (h : Canon s) (opn f) : Canon (s.modMx opn f) := by
  unfold State.modMx
  grind -ring -lia -linarith
scoped grind_pattern modMx_canon => s.modMx opn f

theorem holdLines_canon {s : State} (h : Canon s) (opn cid lines acc) : Ends Canon Canon2 (s.holdLines opn cid lines acc) := by
  fun_induction State.holdLines s opn cid lines acc <;> grind -ring -lia -linarith
scoped grind_pattern holdLines_canon => s.holdLines opn cid lines acc

theorem mxRead_canon {s : State} (h : Canon s) (opn o spc addr n) : Ends Canon Canon2 (s.mxRead opn o spc addr n) := by
  unfold State.mxRead
  grind -ring -lia -linarith
scoped grind_pattern mxRead_canon => s.mxRead opn o spc addr n

theorem mxElem_canon {s : State} (h : Canon s) (opn o spc f l rl x0 x1 x2) : Ends Canon Canon2 (s.mxElem opn o spc f l rl x0 x1 x2) := by
  unfold State.mxElem
  grind -ring -lia -linarith
scoped grind_pattern mxElem_canon => s.mxElem opn o spc f l rl x0 x1 x2

theorem mxElems_canon {s : State} (h :
    Canon s) {f : State → Nat × Nat → Try (MxEl × Word)} (hf : ∀ s e, Canon s → Ends Canon Canon2 (f s e))
    (l acc c) : Ends Canon Canon2 (s.mxElems f l acc c) := by
  fun_induction State.mxElems s f l acc c <;> grind -ring -lia -linarith
scoped grind_pattern mxElems_canon => s.mxElems f l acc c

theorem mxElemA_canon {s : State} (h :
    Canon s) (opn o t x conv k0 ra rra e) : Ends Canon Canon2 (s.mxElemA opn o t x conv k0 ra rra e) := by
  unfold State.mxElemA
  grind -ring -lia -linarith
scoped grind_pattern mxElemA_canon => s.mxElemA opn o t x conv k0 ra rra e

theorem mxElemB_canon {s : State} (h : Canon s) (opn o t x k0 rb rrb e) : Ends Canon Canon2 (s.mxElemB opn o t x k0 rb rrb e) := by
  unfold State.mxElemB
  grind -ring -lia -linarith
scoped grind_pattern mxElemB_canon => s.mxElemB opn o t x k0 rb rrb e

theorem mxProductStep_canon {s : State} (h : Canon s) (opn o m x conv k0 klen ra rb rra rrb) :
    Canon (s.mxProductStep opn o m x conv k0 klen ra rb rra rrb) := by
  unfold State.mxProductStep
  grind -ring -lia -linarith
scoped grind_pattern mxProductStep_canon => s.mxProductStep opn o m x conv k0 klen ra rb rra rrb

/-! ### MxCore: Completion of the other operations -/

theorem rangeOf_canon {s : State} (h : Canon s) (opn o va kind l acc) : Ends Canon Canon2 (s.rangeOf opn o va kind l acc) := by
  fun_induction State.rangeOf s opn o va kind l acc <;> grind -ring -lia -linarith
scoped grind_pattern rangeOf_canon => s.rangeOf opn o va kind l acc

theorem writeImage_canon {s : State} (h : Canon s) (r l) : Canon (s.writeImage r l).2.2 := by
  fun_induction State.writeImage s r l <;> grind -ring -lia -linarith
scoped grind_pattern writeImage_canon => s.writeImage r l

theorem readImage_canon {s : State} (h : Canon s) (c l) : Canon (s.readImage c l).2.2.2.2 := by
  fun_induction State.readImage s c l <;> grind -ring -lia -linarith
scoped grind_pattern readImage_canon => s.readImage c l

theorem mxWrite_canon {s : State} (h : Canon s) (opn o spc addr bs) : Ends Canon Canon2 (s.mxWrite opn o spc addr bs) := by
  unfold State.mxWrite
  grind -ring -lia -linarith
scoped grind_pattern mxWrite_canon => s.mxWrite opn o spc addr bs

theorem mxStore_canon {s : State} (h : Canon s) (opn o v spc l c t es k) :
    Ends (fun e => Canon e.1) Canon2 (s.mxStore opn o v spc l c t es k) := by
  fun_induction State.mxStore s opn o v spc l c t es k <;> grind -ring -lia -linarith
scoped grind_pattern mxStore_canon => s.mxStore opn o v spc l c t es k

theorem mxEnd_canon {s : State} (h : Canon s) (opn o m k) : Canon (s.mxEnd opn o m k) := by
  unfold State.mxEnd
  grind -ring -lia -linarith
scoped grind_pattern mxEnd_canon => s.mxEnd opn o m k

theorem mxFinish_canon {s : State} (h : Canon s) (opn o m) : Canon (s.mxFinish opn o m) := by
  unfold State.mxFinish
  grind -ring -lia -linarith
scoped grind_pattern mxFinish_canon => s.mxFinish opn o m

end Sys2Proof.MemoryForm
end

section
/-! SUPPORT. Canonical memory, function by function: operands, control, memory, pages and synchronisation. -/

namespace Sys2Proof.MemoryForm
open Sys2Proof.Machine

/-! ### Operands: An instruction with its operands read -/

theorem issue_canon {s : State} (h : Canon s) {g m ds srcs} {k : Ctx → Res} (hk : ∀ c, Canon c.s → Canon c.old → CanonRes (k c)) :
    CanonRes (issue s g m ds srcs k) := by
  refine withIss_canon fun i => ?_
  grind -ring -lia -linarith
scoped grind_pattern issue_canon => issue s g m ds srcs k

theorem mark_canon {c : Ctx} (h : Canon c.s) (bad) : Canon (c.mark bad).s := by
  unfold Ctx.mark
  grind -ring -lia -linarith
theorem mark_old (c : Ctx) (bad) : (c.mark bad).old = c.old := by
  unfold Ctx.mark
  grind -ring -lia -linarith
scoped grind_pattern mark_canon => c.mark bad
scoped grind_pattern mark_old => c.mark bad

/-! ### Operands: Interval sources and destinations (R222, R270) -/

theorem putWords_canon {c : Ctx} (h : Canon c.s) (d f fl) : CanonRes (c.putWords d f fl) := by
  unfold Ctx.putWords
  grind -ring -lia -linarith
scoped grind_pattern putWords_canon => c.putWords d f fl

theorem putIv_canon {c : Ctx} (h : Canon c.s) (v d f) : CanonRes (c.putIv v d f) := putWords_canon h _ _ _
scoped grind_pattern putIv_canon => c.putIv v d f

theorem putPred_canon {c : Ctx} (h : Canon c.s) (q f) : CanonRes (c.putPred q f) := by
  unfold Ctx.putPred
  grind -ring -lia -linarith
scoped grind_pattern putPred_canon => c.putPred q f

/-! ### Operands: Raw commands of port.mx (R359) -/

theorem pushMx_canon {s : State} (h : Canon s) (r v) : CanonPush (s.pushMx r v) := by
  unfold State.pushMx
  split
  · split
    · dsimp only
      split <;> grind -ring -lia -linarith
    · grind -ring -lia -linarith
  · exact h
scoped grind_pattern pushMx_canon => s.pushMx r v

/-! ### Operands: Raw commands of port.cp (R333) -/

theorem pushCp_canon {s : State} (h : Canon s) (r v) : CanonPush (s.pushCp r v) := by
  unfold State.pushCp
  grind -ring -lia -linarith
scoped grind_pattern pushCp_canon => s.pushCp r v

/-! ### Operands: Writing integer results (R216, R219, R220, R231) -/

theorem afterPush_canon {c : Ctx} (ho : Canon c.old) {p : Push} (h : CanonPush p) : CanonRes (c.afterPush p) := by
  unfold Ctx.afterPush
  grind -ring -lia -linarith
scoped grind_pattern afterPush_canon => c.afterPush p

theorem putInt_canon {c : Ctx} (h : Canon c.s) (ho : Canon c.old) (d) (f : (n : Nat) → Nat → BitVec n) : CanonRes (c.putInt d f) := by
  unfold Ctx.putInt
  grind -ring -lia -linarith
scoped grind_pattern putInt_canon => c.putInt d f

/-! ### Control -/

theorem transfer_canon {s : State} (h : Canon s) (i o) : CanonRes (transfer s i o) := by
  unfold transfer
  grind -ring -lia -linarith
scoped grind_pattern transfer_canon => transfer s i o

theorem branchTo_canon {s : State} (h : Canon s) (i sets) : CanonRes (branchTo s i sets) := by
  unfold branchTo
  grind -ring -lia -linarith
scoped grind_pattern branchTo_canon => branchTo s i sets

theorem execBr_canon {s : State} (h : Canon s) (g off) : CanonRes (execBr g off s) := by
  refine withIss_canon fun i => ?_
  grind -ring -lia -linarith
scoped grind_pattern execBr_canon => execBr g off s

theorem execBr3_canon {s : State} (h : Canon s) (q offT offF offU) : CanonRes (execBr3 q offT offF offU s) := by
  refine withIss_canon fun i => ?_
  grind -ring -lia -linarith
scoped grind_pattern execBr3_canon => execBr3 q offT offF offU s

theorem execJoin_canon {s : State} (h : Canon s) (off) : CanonRes (execJoin off s) := by
  refine withIss_canon fun i => ?_
  grind -ring -lia -linarith
scoped grind_pattern execJoin_canon => execJoin off s

theorem execCall_canon {s : State} (h : Canon s) (g off) : CanonRes (execCall g off s) := by
  refine withIss_canon fun i => ?_
  grind -ring -lia -linarith
scoped grind_pattern execCall_canon => execCall g off s

theorem execRet_canon {s : State} (h : Canon s) (g) : CanonRes (execRet g s) := by
  refine withIss_canon fun i => ?_
  grind -ring -lia -linarith
scoped grind_pattern execRet_canon => execRet g s

theorem execJmpi_canon {s : State} (h : Canon s) (g a) : CanonRes (execJmpi g a s) := by
  refine issue_canon h fun c h ho => ?_
  grind -ring -lia -linarith
scoped grind_pattern execJmpi_canon => execJmpi g a s

theorem execYield_canon {s : State} (h : Canon s) (g) : CanonRes (execYield g s) := by
  refine withIss_canon fun i => ?_
  grind -ring -lia -linarith
scoped grind_pattern execYield_canon => execYield g s

theorem execSleep_canon {s : State} (h : Canon s) (g a) : CanonRes (execSleep g a s) := by
  refine issue_canon h fun c h ho => ?_
  grind -ring -lia -linarith
scoped grind_pattern execSleep_canon => execSleep g a s

theorem execNop_canon {s : State} (h : Canon s) (g) : CanonRes (execNop g s) := by
  refine withIss_canon fun i => ?_
  grind -ring -lia -linarith
scoped grind_pattern execNop_canon => execNop g s

/-! ### Mem: Addresses and where they lead (R305 to R307) -/

theorem spot_canon {s : State} (h : Canon s) (i kind z a) : Canon (s.spot i kind z a).2.2 := by
  unfold State.spot
  grind -ring -lia -linarith
scoped grind_pattern spot_canon => s.spot i kind z a

theorem spotAll_canon {s : State} (h : Canon s) (i kind z as) : CanonSpotted (s.spotAll i kind z as) := by
  unfold State.spotAll
  extract_lets step
  have hstep : ∀ (acc : State × List (Nat × Spot) × List (DWord × XOut) × Bool) e, Canon acc.1 → Canon (step acc e).1 := by
    grind -ring -lia -linarith
  have hall : Canon (as.foldl step (s, [], [], false)).1 :=
    List.foldlRecOn (motive := fun acc => Canon acc.1) as step h fun acc h e _ => hstep acc e h
  grind -ring -lia -linarith +splitImp
scoped grind_pattern spotAll_canon => s.spotAll i kind z as

theorem spots_canon {c : Ctx} (h : Canon c.s) {kind z as} {k : State → List (Nat × Spot) → Res} (hk : ∀ s l, Canon s → CanonRes (k s l)) :
    CanonRes (c.spots kind z as k) := by
  unfold Ctx.spots
  have hs := spotAll_canon h c.i kind z as
  grind -ring -lia -linarith
scoped grind_pattern spots_canon => c.spots kind z as k

/-! ### Mem: Loads (R207 to R209, R308) -/

theorem sparseRead_canon {s : State} (h : Canon s) (r b) : Canon (s.sparseRead r b) := by
  unfold State.sparseRead
  grind -ring -lia -linarith
scoped grind_pattern sparseRead_canon => s.sparseRead r b

theorem startLoad_canon {s : State} (h : Canon s) (i z kind d ls sc o hint got sp) :
    Canon (startLoad s i z kind d ls sc o hint got sp) := by
  unfold startLoad
  grind -ring -lia -linarith
scoped grind_pattern startLoad_canon => startLoad s i z kind d ls sc o hint got sp

theorem loadForm_canon {s : State} (h : Canon s) (g z regs kind d ad sc o hint) : CanonRes (loadForm s g z regs kind d ad sc o hint) := by
  refine issue_canon h fun c h ho => ?_
  grind -ring -lia -linarith
scoped grind_pattern loadForm_canon => loadForm s g z regs kind d ad sc o hint

theorem execLd_canon {s : State} (h : Canon s) (g sz d ad sc o hint) : CanonRes (execLd g sz d ad sc o hint s) := by
  unfold execLd
  grind -ring -lia -linarith
scoped grind_pattern execLd_canon => execLd g sz d ad sc o hint s

theorem execLdmr_canon {s : State} (h : Canon s) (g v d ad sc o hint) : CanonRes (execLdmr g v d ad sc o hint s) := by
  unfold execLdmr
  grind -ring -lia -linarith
scoped grind_pattern execLdmr_canon => execLdmr g v d ad sc o hint s

theorem execLoadComplete_canon {s : State} (h : Canon s) (op) : CanonRes (execLoadComplete op s) := by
  unfold execLoadComplete
  grind -ring -lia -linarith
scoped grind_pattern execLoadComplete_canon => execLoadComplete op s

/-! ### Mem: Stores (R83, R84, R308) -/

theorem storeWord_canon {s : State} (h : Canon s) (c wd v mask hint) : Canon (s.storeWord c wd v mask hint).2.2.2 := by
  unfold State.storeWord
  grind -ring -lia -linarith
scoped grind_pattern storeWord_canon => s.storeWord c wd v mask hint

theorem storeBytes_canon {s : State} (h : Canon s) (c r pa bs hint) : Canon (s.storeBytes c r pa bs hint) := by
  unfold State.storeBytes
  grind -ring -lia -linarith
scoped grind_pattern storeBytes_canon => s.storeBytes c r pa bs hint

theorem storeScr_canon {s : State} (h : Canon s) (r cid off bs full) : Canon (s.storeScr r cid off bs full) := by
  unfold State.storeScr
  grind -ring -lia -linarith
scoped grind_pattern storeScr_canon => s.storeScr r cid off bs full

theorem storeLanes_canon {s : State} (h : Canon s) (i sp f full hint) : Canon (storeLanes s i sp f full hint) := by
  unfold storeLanes
  grind -ring -lia -linarith
scoped grind_pattern storeLanes_canon => storeLanes s i sp f full hint

theorem storeForm_canon {s : State} (h : Canon s) (g z regs a ad sc o hint f) : CanonRes (storeForm s g z regs a ad sc o hint f) := by
  refine issue_canon h fun c h ho => ?_
  grind -ring -lia -linarith
scoped grind_pattern storeForm_canon => storeForm s g z regs a ad sc o hint f

theorem execStmr_canon {s : State} (h : Canon s) (g v a ad sc o hint) : CanonRes (execStmr g v a ad sc o hint s) := by
  unfold execStmr
  grind -ring -lia -linarith
scoped grind_pattern execStmr_canon => execStmr g v a ad sc o hint s

/-! ### Mem: Exact sums (R198, R199, R318) -/

theorem execLdXs_canon {s : State} (h : Canon s) (g v d ad sc o) : CanonRes (execLdXs g v d ad sc o s) := by
  refine issue_canon h fun c h ho => ?_
  grind -ring -lia -linarith
scoped grind_pattern execLdXs_canon => execLdXs g v d ad sc o s

theorem execRedXs_canon {s : State} (h : Canon s) (g a ad sc o) : CanonRes (execRedXs g a ad sc o s) := by
  refine issue_canon h fun c h ho => ?_
  grind -ring -lia -linarith
scoped grind_pattern execRedXs_canon => execRedXs g a ad sc o s

/-! ### Mem: Scratchpad forms (R57, R58, R310, R311) -/

theorem setLines_canon {s : State} (h : Canon s) (z sp full) : Canon (s.setLines z sp full) := by
  unfold State.setLines
  grind -ring -lia -linarith
scoped grind_pattern setLines_canon => s.setLines z sp full

theorem scrLoad_canon {s : State} (h : Canon s) (g sz d ad sc o take) : CanonRes (scrLoad s g sz d ad sc o take) := by
  refine issue_canon h fun c h ho => ?_
  grind -ring -lia -linarith
scoped grind_pattern scrLoad_canon => scrLoad s g sz d ad sc o take

theorem execLds_canon {s : State} (h : Canon s) (g sz d ad sc o hint) : CanonRes (execLds g sz d ad sc o hint s) := by
  unfold execLds
  grind -ring -lia -linarith
scoped grind_pattern execLds_canon => execLds g sz d ad sc o hint s

theorem execLdtk_canon {s : State} (h : Canon s) (g sz d ad sc o hint) : CanonRes (execLdtk g sz d ad sc o hint s) := by
  unfold execLdtk
  grind -ring -lia -linarith
scoped grind_pattern execLdtk_canon => execLdtk g sz d ad sc o hint s

theorem scrStore_canon {s : State} (h : Canon s) (g sz a ad sc o empty) : CanonRes (scrStore s g sz a ad sc o empty) := by
  refine issue_canon h fun c h ho => ?_
  grind -ring -lia -linarith
scoped grind_pattern scrStore_canon => scrStore s g sz a ad sc o empty

theorem execStfl_canon {s : State} (h : Canon s) (g sz a ad sc o hint) : CanonRes (execStfl g sz a ad sc o hint s) := by
  unfold execStfl
  grind -ring -lia -linarith
scoped grind_pattern execStfl_canon => execStfl g sz a ad sc o hint s

theorem execFullEmptyRelease_canon {s : State} (h : Canon s) (r sl) : CanonRes (execFullEmptyRelease r sl s) := by
  unfold execFullEmptyRelease
  split
  · exact h
  split
  · split
    · exact h
    · grind -ring -lia -linarith
  · exact h
scoped grind_pattern execFullEmptyRelease_canon => execFullEmptyRelease r sl s

theorem execFest_canon {s : State} (h : Canon s) (g full ad hint) : CanonRes (execFest g full ad hint s) := by
  refine issue_canon h fun c h ho => ?_
  grind -ring -lia -linarith
scoped grind_pattern execFest_canon => execFest g full ad hint s

theorem execFeq_canon {s : State} (h : Canon s) (g d ad hint) : CanonRes (execFeq g d ad hint s) := by
  refine issue_canon h fun c h ho => ?_
  grind -ring -lia -linarith
scoped grind_pattern execFeq_canon => execFeq g d ad hint s

/-! ### Mem: Gather and prefetch (R312 to R314) -/

theorem execGth_canon {s : State} (h : Canon s) (g sz ad hint) : CanonRes (execGth g sz ad hint s) := by
  refine issue_canon h fun c h ho => ?_
  grind -ring -lia -linarith
scoped grind_pattern execGth_canon => execGth g sz ad hint s

theorem gatherStep_canon {s : State} (h : Canon s) (o g sp) : Canon (s.gatherStep o g sp).2.2.2 := by
  unfold State.gatherStep
  grind -ring -lia -linarith
scoped grind_pattern gatherStep_canon => s.gatherStep o g sp

theorem execGatherRowArrive_canon {s : State} (h : Canon s) (op) : CanonRes (execGatherRowArrive op s) := by
  unfold execGatherRowArrive
  split
  · exact h
  split
  · split
    · exact h
    split
    · exact h
    · dsimp only
      split <;> grind -ring -lia -linarith
  · exact h
scoped grind_pattern execGatherRowArrive_canon => execGatherRowArrive op s

theorem cachedFrame_canon {s : State} (h : Canon s) (i a) : Canon (s.cachedFrame i a).2 := by
  unfold State.cachedFrame
  grind -ring -lia -linarith
scoped grind_pattern cachedFrame_canon => s.cachedFrame i a

theorem prefetch_canon {s : State} (h : Canon s) (c line hint) : Canon (s.prefetch c line hint) := by
  unfold State.prefetch
  grind -ring -lia -linarith
scoped grind_pattern prefetch_canon => s.prefetch c line hint

theorem execPrf_canon {s : State} (h : Canon s) (g ad hint) : CanonRes (execPrf g ad hint s) := by
  refine issue_canon h fun c h ho => ?_
  grind -ring -lia -linarith
scoped grind_pattern execPrf_canon => execPrf g ad hint s

/-! ### Mem: Ranges and blocks (R102, R103, R315) -/

theorem rangeWords_canon {s : State} (h : Canon s) (i first n) : Canon (s.rangeWords i first n).2 := by
  unfold State.rangeWords
  grind -ring -lia -linarith
scoped grind_pattern rangeWords_canon => s.rangeWords i first n

theorem range_canon {c : Ctx} (h : Canon c.s) (n ad) : Canon (c.range n ad).2 := by
  unfold Ctx.range
  grind -ring -lia -linarith
scoped grind_pattern range_canon => c.range n ad

theorem execInv_canon {s : State} (h : Canon s) (g n ad hint) : CanonRes (execInv g n ad hint s) := by
  refine issue_canon h fun c h ho => ?_
  grind -ring -lia -linarith
scoped grind_pattern execInv_canon => execInv g n ad hint s

theorem execWbk_canon {s : State} (h : Canon s) (g n ad hint) : CanonRes (execWbk g n ad hint s) := by
  refine issue_canon h fun c h ho => ?_
  grind -ring -lia -linarith
scoped grind_pattern execWbk_canon => execWbk g n ad hint s

theorem ownWord_canon {s : State} (h : Canon s) (c r wd hint) : Canon (s.ownWord c r wd hint) := by
  unfold State.ownWord
  grind -ring -lia -linarith
scoped grind_pattern ownWord_canon => s.ownWord c r wd hint

theorem namedWords_canon {s : State} (h : Canon s) (i as) : Canon (s.namedWords i as).2 := by
  unfold State.namedWords
  grind -ring -lia -linarith
scoped grind_pattern namedWords_canon => s.namedWords i as

theorem execOwn_canon {s : State} (h : Canon s) (g ad hint) : CanonRes (execOwn g ad hint s) := by
  refine issue_canon h fun c h ho => ?_
  grind -ring -lia -linarith
scoped grind_pattern execOwn_canon => execOwn g ad hint s

/-! ### Copies -/

theorem copyForm_canon {s : State} (h : Canon s) (g out a b k bar seq hint) : CanonRes (copyForm s g out a b k bar seq hint) := by
  refine issue_canon h fun c h ho => ?_
  grind -ring -lia -linarith
scoped grind_pattern copyForm_canon => copyForm s g out a b k bar seq hint

theorem copyPlaces_canon {s : State} (h : Canon s) (opn o kind l acc) : Ends Canon Canon2 (s.copyPlaces opn o kind l acc) := by
  fun_induction State.copyPlaces s opn o kind l acc <;> grind -ring -lia -linarith
scoped grind_pattern copyPlaces_canon => s.copyPlaces opn o kind l acc

theorem landOut_canon {s : State} (h : Canon s) (r c line e w x) : Canon (s.landOut r c line e w x).2 := by
  unfold State.landOut
  grind -ring -lia -linarith
scoped grind_pattern landOut_canon => s.landOut r c line e w x

theorem execCopyLineLand_canon {s : State} (h : Canon s) (op line) : CanonRes (execCopyLineLand op line s) := by
  unfold execCopyLineLand
  grind -ring -lia -linarith
scoped grind_pattern execCopyLineLand_canon => execCopyLineLand op line s

theorem copyEnd_canon {s : State} (h : Canon s) (op o c k) : Canon (s.copyEnd op o c k) := by
  unfold State.copyEnd
  grind -ring -lia -linarith
scoped grind_pattern copyEnd_canon => s.copyEnd op o c k

theorem execCopyComplete_canon {s : State} (h : Canon s) (op) : CanonRes (execCopyComplete op s) := by
  unfold execCopyComplete
  split
  · exact h
  split
  · split
    · exact h
    split <;> grind -ring -lia -linarith
  · exact h
scoped grind_pattern execCopyComplete_canon => execCopyComplete op s

/-! ### Pages: Waits on pages (R28, R30, R32) -/

theorem replay_canon {s : State} (h : Canon s) (p io) : Canon (s.replay p io) := by
  unfold State.replay
  grind -ring -lia -linarith
scoped grind_pattern replay_canon => s.replay p io

theorem cmdWait_canon {s : State} (h : Canon s) (n u va kind x) : Canon (s.cmdWait n u va kind x) := by
  unfold State.cmdWait
  grind -ring -lia -linarith
scoped grind_pattern cmdWait_canon => s.cmdWait n u va kind x

theorem cmdDone_canon {s : State} (h : Canon s) (n) : Canon (s.cmdDone n) := by
  unfold State.cmdDone
  grind -ring -lia -linarith
scoped grind_pattern cmdDone_canon => s.cmdDone n

theorem execTranslationReplay_canon {s : State} (h : Canon s) (r sl) : CanonRes (execTranslationReplay r sl s) := by
  unfold execTranslationReplay
  grind -ring -lia -linarith
scoped grind_pattern execTranslationReplay_canon => execTranslationReplay r sl s

theorem execWalkComplete_canon {s : State} (h : Canon s) (die asid vpn k) : CanonRes (execWalkComplete die asid vpn k s) := by
  unfold execWalkComplete
  grind -ring -lia -linarith
scoped grind_pattern execWalkComplete_canon => execWalkComplete die asid vpn k s

theorem rearm_canon {s : State} (h : Canon s) (a v) : Canon (s.rearm a v) := by
  unfold State.rearm
  grind -ring -lia -linarith
scoped grind_pattern rearm_canon => s.rearm a v

theorem pageInstalled_canon {s : State} (h : Canon s) (asid vpn) : Canon (s.pageInstalled asid vpn) := by
  unfold State.pageInstalled
  grind -ring -lia -linarith
scoped grind_pattern pageInstalled_canon => s.pageInstalled asid vpn

theorem execCommit_canon {s : State} (h : Canon s) (die asid vpn q) : CanonRes (execCommit die asid vpn s q) := by
  unfold execCommit
  grind -ring -lia -linarith
scoped grind_pattern execCommit_canon => execCommit die asid vpn s q

/-! ### Pages: The host's answers (R30, R35, R36, R43) -/

theorem execPgrspRetry_canon {s : State} (h : Canon s) (iod die tag) : CanonRes (execPgrspRetry iod die tag s) := by
  unfold execPgrspRetry
  grind -ring -lia -linarith
scoped grind_pattern execPgrspRetry_canon => execPgrspRetry iod die tag s

theorem denyCmds_canon {s : State} (h : Canon s) (p d) : Canon (s.denyCmds p d) := h
scoped grind_pattern denyCmds_canon => s.denyCmds p d

theorem execPgrspDeny_canon {s : State} (h : Canon s) (iod die tag) : CanonRes (execPgrspDeny iod die tag s) := by
  unfold execPgrspDeny
  grind -ring -lia -linarith
scoped grind_pattern execPgrspDeny_canon => execPgrspDeny iod die tag s

theorem invalidate_canon {s : State} (h : Canon s) (xlic p w a) : Canon (s.invalidate xlic p w a) := by
  unfold State.invalidate
  grind -ring -lia -linarith
scoped grind_pattern invalidate_canon => s.invalidate xlic p w a

theorem execXlicInvalidatePages_canon {s : State} (h : Canon s) (count) : CanonRes (execXlicInvalidatePages count s) := by
  unfold execXlicInvalidatePages
  grind -ring -lia -linarith
scoped grind_pattern execXlicInvalidatePages_canon => execXlicInvalidatePages count s

theorem execXlicInvalidateAsid_canon {s : State} (h : Canon s) (count) : CanonRes (execXlicInvalidateAsid s count) := by
  unfold execXlicInvalidateAsid
  grind -ring -lia -linarith
scoped grind_pattern execXlicInvalidateAsid_canon => execXlicInvalidateAsid s count

theorem execXlicInvalidateAll_canon {s : State} (h : Canon s) (count) : CanonRes (execXlicInvalidateAll s count) := by
  unfold execXlicInvalidateAll
  grind -ring -lia -linarith
scoped grind_pattern execXlicInvalidateAll_canon => execXlicInvalidateAll s count

theorem execInvalidationComplete_canon {s : State} (h : Canon s) : CanonRes (execInvalidationComplete s) := by
  unfold execInvalidationComplete
  grind -ring -lia -linarith
scoped grind_pattern execInvalidationComplete_canon => execInvalidationComplete s

theorem poolTake_canon {s : State} (h : Canon s) (die v) : Ends Free Canon (s.poolTake die v) := by
  unfold State.poolTake
  dsimp only
  split
  · exact h
  · split
    · refine ends_bind (poolPush_canon h _ _ _) fun (b, t) h => ?_
      grind -ring -lia -linarith
    · exact poolCount_canon h _ _
scoped grind_pattern poolTake_canon => s.poolTake die v

theorem execPoolpush_canon {s : State} (h : Canon s) (die v) : CanonRes (execPoolpush die v s) := by
  unfold execPoolpush
  grind -ring -lia -linarith
scoped grind_pattern execPoolpush_canon => execPoolpush die v s

/-! ### Pages: Commit, decommit, query (R44 to R46, R315) -/

theorem pageLanes_canon {f : State → DWord → Except (Nat × Nat) (Word × State)} (hf : ∀ s a, Canon s → Ends Free Canon2 (f s a)) (addr l)
    {s : State} (h : Canon s) (out) : Ends Free Canon2 (pageLanes f addr l s out) := by
  fun_induction pageLanes f addr l s out <;> grind -ring -lia -linarith
scoped grind_pattern pageLanes_canon => pageLanes f addr l s out

theorem pageForm_canon {s : State} (h : Canon s) {g d ad} {f : State → Iss → DWord → Except (Nat × Nat) (Word × State)}
    (hf : ∀ s i a, Canon s → Ends Free Canon2 (f s i a)) : CanonRes (pageForm s g d ad f) := by
  refine issue_canon h fun c h ho => ?_
  have hl := pageLanes_canon (fun s a h => hf s c.i a h) (c.addr ad 1) (lanes c.g) h []
  grind -ring -lia -linarith
scoped grind_pattern pageForm_canon => pageForm s g d ad f

theorem pageCommit_canon {s : State} (h : Canon s) (i a) : Ends Free Canon2 (s.pageCommit i a) := by
  unfold State.pageCommit
  grind -ring -lia -linarith
scoped grind_pattern pageCommit_canon => s.pageCommit i a

theorem execPgcm_canon {s : State} (h : Canon s) (g d ad hint) : CanonRes (execPgcm g d ad hint s) := by
  unfold execPgcm
  grind -ring -lia -linarith
scoped grind_pattern execPgcm_canon => execPgcm g d ad hint s

theorem dropFrame_canon {s : State} (h : Canon s) (f) : Canon (s.dropFrame f) := by
  unfold State.dropFrame
  grind -ring -lia -linarith
scoped grind_pattern dropFrame_canon => s.dropFrame f

theorem dropPage_canon {s : State} (h : Canon s) (asid vpn die p pte) : Ends Free Canon2 (s.dropPage asid vpn die p pte) := by
  unfold State.dropPage
  extract_lets f
  split
  next d l hd =>
  clear hd
  refine ends_bind (readPhys_canon h _ _ _) fun (cap, s) h => ends_bind (readPhys_canon h _ _ _) fun (n, s) h => ?_
  dsimp only
  split
  · exact h
  split
  · trivial
  refine ends_bind (writePhys_canon h _ _ _ _) fun s h => ?_
  refine ends_bind (poolPush_canon (dropFrame_canon (discardPage_canon h _ _) _) _ _ _) fun (_, s) h => ?_
  exact rearm_canon h _ _
scoped grind_pattern dropPage_canon => s.dropPage asid vpn die p pte

theorem pageDecommit_canon {s : State} (h : Canon s) (i a) : Ends Free Canon2 (s.pageDecommit i a) := by
  unfold State.pageDecommit
  grind -ring -lia -linarith
scoped grind_pattern pageDecommit_canon => s.pageDecommit i a

theorem execPgdc_canon {s : State} (h : Canon s) (g d ad hint) : CanonRes (execPgdc g d ad hint s) := by
  unfold execPgdc
  grind -ring -lia -linarith
scoped grind_pattern execPgdc_canon => execPgdc g d ad hint s

theorem pageQuery_canon {s : State} (h : Canon s) (i a) : Ends Free Canon2 (s.pageQuery i a) := by
  unfold State.pageQuery
  grind -ring -lia -linarith
scoped grind_pattern pageQuery_canon => s.pageQuery i a

theorem execPgq_canon {s : State} (h : Canon s) (g d ad hint) : CanonRes (execPgq g d ad hint s) := by
  unfold execPgq
  grind -ring -lia -linarith
scoped grind_pattern execPgq_canon => execPgq g d ad hint s

/-! ### Pages: The device allocator (R47 to R52) -/

theorem allocPlace_canon {s : State} (h : Canon s) (i va kind) : Ends Canon2 Canon2 (s.allocPlace i va kind) := by
  unfold State.allocPlace
  grind -ring -lia -linarith
scoped grind_pattern allocPlace_canon => s.allocPlace i va kind

theorem allocRead_canon {s : State} (h : Canon s) (i va) : Ends Canon2 Canon2 (s.allocRead i va) := by
  unfold State.allocRead
  grind -ring -lia -linarith
scoped grind_pattern allocRead_canon => s.allocRead i va

theorem allocWrite_canon {s : State} (h : Canon s) (i va v) : Ends Canon2 Canon2 (s.allocWrite i va v) := by
  unfold State.allocWrite
  grind -ring -lia -linarith
scoped grind_pattern allocWrite_canon => s.allocWrite i va v

theorem allocCount_canon {s : State} (h : Canon s) (i va) : Ends Canon2 Canon2 (s.allocCount i va) := by
  unfold State.allocCount
  grind -ring -lia -linarith
scoped grind_pattern allocCount_canon => s.allocCount i va

theorem popBlock_canon {s : State} (h : Canon s) (i desc cls d) : Ends Canon2 Canon2 (s.popBlock i desc cls d) := by
  unfold State.popBlock
  split
  · grind -ring -lia -linarith
  · grind -ring -lia -linarith
  · split
    · dsimp only
      split <;> grind -ring -lia -linarith
    all_goals grind -ring -lia -linarith
scoped grind_pattern popBlock_canon => s.popBlock i desc cls d

theorem popAny_canon {s : State} (h : Canon s) (i desc cls own fuel) : Ends Canon2 Canon2 (s.popAny i desc cls own fuel) := by
  fun_induction State.popAny s i desc cls own fuel <;> grind -ring -lia -linarith
scoped grind_pattern popAny_canon => s.popAny i desc cls own fuel

theorem allocLane_canon {s : State} (h : Canon s) (i n) : Ends Canon2 Canon2 (s.allocLane i n) := by
  unfold State.allocLane
  grind -ring -lia -linarith
scoped grind_pattern allocLane_canon => s.allocLane i n

theorem allocLanes_canon {α : Type} {f : State → Nat → ATry α} (hf : ∀ s n, Canon s → Ends Canon2 Canon2 (f s n)) (bad l) {s : State}
    (h : Canon s) (out k) : Ends Canon4 Canon3 (allocLanes f bad l s out k) := by
  fun_induction allocLanes f bad l s out k <;> grind -ring -lia -linarith
scoped grind_pattern allocLanes_canon => allocLanes f bad l s out k

theorem pageWait_canon {c : Ctx} (h : Canon c.s) (va kind x) : CanonRes (c.pageWait va kind x) := by
  unfold Ctx.pageWait
  grind -ring -lia -linarith
scoped grind_pattern pageWait_canon => c.pageWait va kind x

theorem execDalloc_canon {s : State} (h : Canon s) (g d n hint) : CanonRes (execDalloc g d n hint s) := by
  refine issue_canon h fun c h ho => ?_
  grind -ring -lia -linarith
scoped grind_pattern execDalloc_canon => execDalloc g d n hint s

theorem freeLane_canon {s : State} (h : Canon s) (i lane a n) : Ends Canon2 Canon2 (s.freeLane i lane a n) := by
  unfold State.freeLane
  split
  · exact h
  next e s1 he =>
    have h1 := astEntry_canon h (.core (s.coreOf i.rid)) (s.asidOf i.rid)
    rw [he] at h1
    split
    · exact h1
    split
    · exact h1
    dsimp only
    split
    · grind -ring -lia -linarith
    split <;> grind -ring -lia -linarith
scoped grind_pattern freeLane_canon => s.freeLane i lane a n

theorem execDfree_canon {s : State} (h : Canon s) (g n ad hint) : CanonRes (execDfree g n ad hint s) := by
  refine issue_canon h fun c h ho => ?_
  grind -ring -lia -linarith
scoped grind_pattern execDfree_canon => execDfree g n ad hint s

/-! ### Sync: Atomics and reductions -/

theorem scrAmo_canon {s : State} (h : Canon s) (cid off n op v v2) : Canon (scrAmo s cid off n op v v2).2.2 := by
  unfold scrAmo
  grind -ring -lia -linarith
scoped grind_pattern scrAmo_canon => scrAmo s cid off n op v v2

theorem scrAmos_canon {s : State} (h : Canon s) (c op sz a sp) : Canon (scrAmos s c op sz a sp).2.2 := by
  unfold scrAmos
  grind -ring -lia -linarith +splitImp
scoped grind_pattern scrAmos_canon => scrAmos s c op sz a sp

theorem execAtom_canon {s : State} (h : Canon s) (g op sz d ad sc o hint) : CanonRes (execAtom g op sz d ad sc o hint s) := by
  unfold execAtom
  grind -ring -lia -linarith
scoped grind_pattern execAtom_canon => execAtom g op sz d ad sc o hint s

theorem execRed_canon {s : State} (h : Canon s) (g op sz a ad sc o hint) : CanonRes (execRed g op sz a ad sc o hint s) := by
  refine issue_canon h fun c h ho => ?_
  grind -ring -lia -linarith
scoped grind_pattern execRed_canon => execRed g op sz a ad sc o hint s

/-! ### Sync: Fences (R132 to R134, R319, R320) -/

theorem fenceForm_canon {s : State} (h : Canon s) (g sc rel acq) : CanonRes (fenceForm s g sc rel acq) := by
  refine withIss_canon fun i => ?_
  grind -ring -lia -linarith
scoped grind_pattern fenceForm_canon => fenceForm s g sc rel acq

theorem execFenceEngine_canon {s : State} (h : Canon s) (g sc) : CanonRes (execFenceEngine g sc s) := by
  refine withIss_canon fun i => ?_
  grind -ring -lia -linarith
scoped grind_pattern execFenceEngine_canon => execFenceEngine g sc s

theorem execXfence_canon {s : State} (h : Canon s) (g) : CanonRes (execXfence g s) := by
  refine withIss_canon fun i => ?_
  grind -ring -lia -linarith
scoped grind_pattern execXfence_canon => execXfence g s

theorem execAcqr_canon {s : State} (h : Canon s) (g sc a) : CanonRes (execAcqr g sc a s) := by
  refine issue_canon h fun c h ho => ?_
  grind -ring -lia -linarith
scoped grind_pattern execAcqr_canon => execAcqr g sc a s

/-! ### Sync: `waitany` (R144, R322) -/

theorem execWaitany_canon {s : State} (h : Canon s) (g d ad hint) : CanonRes (execWaitany g d ad hint s) := by
  refine issue_canon h fun c h ho => ?_
  grind -ring -lia -linarith
scoped grind_pattern execWaitany_canon => execWaitany g d ad hint s

theorem waitanyReturn_canon {s : State} (h : Canon s) (r sl arm res) : Canon (s.waitanyReturn r sl arm res) := by
  unfold State.waitanyReturn
  grind -ring -lia -linarith
scoped grind_pattern waitanyReturn_canon => s.waitanyReturn r sl arm res

theorem execWaitanyWake_canon {s : State} (h : Canon s) (r sl wd) : CanonRes (execWaitanyWake r sl wd s) := by
  unfold execWaitanyWake
  grind -ring -lia -linarith
scoped grind_pattern execWaitanyWake_canon => execWaitanyWake r sl wd s

theorem execWaitanyTimeout_canon {s : State} (h : Canon s) (r sl) : CanonRes (execWaitanyTimeout r sl s) := by
  unfold execWaitanyTimeout
  grind -ring -lia -linarith
scoped grind_pattern execWaitanyTimeout_canon => execWaitanyTimeout r sl s

/-! ### Sync: Barriers (R141, R323, R324, R166) -/

theorem joinBar_canon {s : State} (h : Canon s) (b r) : Canon (s.joinBar b r) := by
  unfold State.joinBar
  grind -ring -lia -linarith
scoped grind_pattern joinBar_canon => s.joinBar b r

theorem barForm_canon {s : State} (h : Canon s) {g n lvl srcs} {k : Ctx → BarId → Res}
    (hk : ∀ c b, Canon c.s → Canon c.old → CanonRes (k c b)) : CanonRes (barForm s g n lvl srcs k) := by
  refine issue_canon h fun c h ho => ?_
  grind -ring -lia -linarith
scoped grind_pattern barForm_canon => barForm s g n lvl srcs k

theorem execBarv_canon {s : State} (h : Canon s) (g n lvl) : CanonRes (execBarv g n lvl s) := by
  unfold execBarv
  grind -ring -lia -linarith
scoped grind_pattern execBarv_canon => execBarv g n lvl s

theorem barAwait_canon {s : State} (h : Canon s) (i b lvl p done) : CanonRes (barAwait s i b lvl p done) := by
  unfold barAwait
  grind -ring -lia -linarith
scoped grind_pattern barAwait_canon => barAwait s i b lvl p done

theorem execBarw_canon {s : State} (h : Canon s) (g n lvl) : CanonRes (execBarw g n lvl s) := by
  unfold execBarw
  grind -ring -lia -linarith
scoped grind_pattern execBarw_canon => execBarw g n lvl s

theorem execBars_canon {s : State} (h : Canon s) (g n lvl) : CanonRes (execBars g n lvl s) := by
  unfold execBars
  grind -ring -lia -linarith
scoped grind_pattern execBars_canon => execBars g n lvl s

theorem execBarb_canon {s : State} (h : Canon s) (g n bytes lvl) : CanonRes (execBarb g n bytes lvl s) := by
  unfold execBarb
  grind -ring -lia -linarith
scoped grind_pattern execBarb_canon => execBarb g n bytes lvl s

theorem releaseBar_canon {s : State} (h : Canon s) (b) : Canon (s.releaseBar b) := by
  unfold State.releaseBar
  grind -ring -lia -linarith
scoped grind_pattern releaseBar_canon => s.releaseBar b

theorem execBarrierPhaseComplete_canon {s : State} (h : Canon s) (b) : CanonRes (execBarrierPhaseComplete b s) := by
  unfold execBarrierPhaseComplete
  grind -ring -lia -linarith
scoped grind_pattern execBarrierPhaseComplete_canon => execBarrierPhaseComplete b s

theorem execFurlongRemotePhase_canon {s : State} (h : Canon s) (b) : CanonRes (execFurlongRemotePhase b s) := by
  unfold execFurlongRemotePhase
  grind -ring -lia -linarith
scoped grind_pattern execFurlongRemotePhase_canon => execFurlongRemotePhase b s

/-! ### Sync: Sequence counters (R143, R325, R326) -/

theorem seqAdd_canon {s : State} (h : Canon s) (r pa v) : Canon (s.seqAdd r pa v) := by
  unfold State.seqAdd
  grind -ring -lia -linarith
scoped grind_pattern seqAdd_canon => s.seqAdd r pa v

theorem execSeqinc_canon {s : State} (h : Canon s) (g a ad sc o hint) : CanonRes (execSeqinc g a ad sc o hint s) := by
  refine issue_canon h fun c h ho => ?_
  grind -ring -lia -linarith
scoped grind_pattern execSeqinc_canon => execSeqinc g a ad sc o hint s

theorem execSeqwt_canon {s : State} (h : Canon s) (g d ad sc o hint) : CanonRes (execSeqwt g d ad sc o hint s) := by
  refine issue_canon h fun c h ho => ?_
  grind -ring -lia -linarith
scoped grind_pattern execSeqwt_canon => execSeqwt g d ad sc o hint s

theorem execSeqwtWake_canon {s : State} (h : Canon s) (r sl) : CanonRes (execSeqwtWake r sl s) := by
  unfold execSeqwtWake
  grind -ring -lia -linarith
scoped grind_pattern execSeqwtWake_canon => execSeqwtWake r sl s

end Sys2Proof.MemoryForm
end

section
/-! SUPPORT. Canonical memory, function by function: pools, launches, neighbours and the scheduler. -/

namespace Sys2Proof.MemoryForm
open Sys2Proof.Machine

/-! ### Pool: Register claim -/

theorem execRgive_canon {s : State} (h : Canon s) (g a) : CanonRes (execRgive g a s) := by
  refine issue_canon h fun c h ho => ?_
  grind -ring -lia -linarith
scoped grind_pattern execRgive_canon => execRgive g a s

theorem execRtake_canon {s : State} (h : Canon s) (g a) : CanonRes (execRtake g a s) := by
  refine issue_canon h fun c h ho => ?_
  grind -ring -lia -linarith
scoped grind_pattern execRtake_canon => execRtake g a s

theorem execRtakeGrant_canon {s : State} (h : Canon s) (r sl) : CanonRes (execRtakeGrant r sl s) := by
  unfold execRtakeGrant
  grind -ring -lia -linarith
scoped grind_pattern execRtakeGrant_canon => execRtakeGrant r sl s

/-! ### Pool: Segments and spill areas (R150, R168, R170, R171, R471) -/

theorem setSeg_canon {s : State} (h : Canon s) (lid c g) : Canon (s.setSeg lid c g) := by
  unfold State.setSeg
  grind -ring -lia -linarith
scoped grind_pattern setSeg_canon => s.setSeg lid c g

theorem areaMark_canon {s : State} (h : Canon s) (u bits sparse) : Canon (s.areaMark u bits sparse) := by
  unfold State.areaMark
  grind -ring -lia -linarith
scoped grind_pattern areaMark_canon => s.areaMark u bits sparse

theorem areaRead_canon {s : State} (h : Canon s) (u va n) : Ends CanonStop Canon2 (s.areaRead u va n) := by
  unfold State.areaRead
  grind -ring -lia -linarith
scoped grind_pattern areaRead_canon => s.areaRead u va n

theorem areaWrite_canon {s : State} (h : Canon s) (u va n v) : Ends CanonStop Canon2 (s.areaWrite u va n v) := by
  unfold State.areaWrite
  grind -ring -lia -linarith
scoped grind_pattern areaWrite_canon => s.areaWrite u va n v

theorem areaEntry_canon {s : State} (h : Canon s) (u va ws) : Ends CanonStop Canon2 (s.areaEntry u va ws) := by
  fun_induction State.areaEntry s u va ws <;> grind -ring -lia -linarith
scoped grind_pattern areaEntry_canon => s.areaEntry u va ws

theorem areaWords_canon {s : State} (h : Canon s) (u va n ws) : Ends CanonStop Canon2 (s.areaWords u va n ws) := by
  fun_induction State.areaWords s u va n ws <;> grind -ring -lia -linarith
scoped grind_pattern areaWords_canon => s.areaWords u va n ws

theorem spillAll_canon {s : State} (h : Canon s) (u p items) : Ends CanonStop Canon2 (s.spillAll u p items) := by
  unfold State.spillAll
  dsimp only
  split
  · exact h
  split
  · grind -ring -lia -linarith
  · grind -ring -lia -linarith
  split
  · grind -ring -lia -linarith
  split
  · grind -ring -lia -linarith
  · grind -ring -lia -linarith
  split <;> grind -ring -lia -linarith
scoped grind_pattern spillAll_canon => s.spillAll u p items

theorem spillDrop_canon {s : State} (h : Canon s) (u p) : Ends CanonStop Canon2 (s.spillDrop u p) := by
  unfold State.spillDrop
  grind -ring -lia -linarith
scoped grind_pattern spillDrop_canon => s.spillDrop u p

theorem withdrawSteals_canon {s : State} (h : Canon s) (p) : Canon (s.withdrawSteals p) := by
  unfold State.withdrawSteals
  grind -ring -lia -linarith
scoped grind_pattern withdrawSteals_canon => s.withdrawSteals p

theorem outstand_canon {s : State} (h : Canon s) (lid n) : Canon (s.outstand lid n) := by
  unfold State.outstand
  grind -ring -lia -linarith
scoped grind_pattern outstand_canon => s.outstand lid n

theorem stealEnds_canon {s : State} (h : Canon s) (lid c) : Canon (s.stealEnds lid c) := by
  unfold State.stealEnds
  grind -ring -lia -linarith
scoped grind_pattern stealEnds_canon => s.stealEnds lid c

theorem poolPushItem_canon {s : State} (h : Canon s) (u p released item) : Ends CanonStop Canon2 (s.poolPushItem u p released item) := by
  unfold State.poolPushItem
  grind -ring -lia -linarith
scoped grind_pattern poolPushItem_canon => s.poolPushItem u p released item

theorem poolPopItem_canon {s : State} (h : Canon s) (u p) : Ends CanonStop Canon2 (s.poolPopItem u p) := by
  unfold State.poolPopItem
  split
  · exact h
  split
  · exact setSeg_canon h _ _ _
  · exact setSeg_canon h _ _ _
  · split
    · exact h
    dsimp only
    split <;> grind -ring -lia -linarith
scoped grind_pattern poolPopItem_canon => s.poolPopItem u p

/-! ### Pool: Stealing (R172, R173) -/

theorem postSteal_canon {s : State} (h : Canon s) (u) : Canon (s.postSteal u) := by
  unfold State.postSteal
  grind -ring -lia -linarith
scoped grind_pattern postSteal_canon => s.postSteal u

theorem execStealRequest_canon {s : State} (h : Canon s) (lid victim thief) : CanonRes (execStealRequest lid victim thief s) := by
  unfold execStealRequest
  grind -ring -lia -linarith
scoped grind_pattern execStealRequest_canon => execStealRequest lid victim thief s

theorem placeReturned_canon {s : State} (h : Canon s) (u p item) : Ends CanonStop Canon2 (s.placeReturned u p item) := by
  unfold State.placeReturned
  grind -ring -lia -linarith
scoped grind_pattern placeReturned_canon => s.placeReturned u p item

theorem execStolenItemReturn_canon {s : State} (h : Canon s) (lid pusher item) : CanonRes (execStolenItemReturn lid pusher item s) := by
  unfold execStolenItemReturn
  grind -ring -lia -linarith
scoped grind_pattern execStolenItemReturn_canon => execStolenItemReturn lid pusher item s

theorem drainSegment_canon {s : State} (h : Canon s) (u p l) : Ends CanonStop Canon2 (s.drainSegment u p l) := by
  fun_induction State.drainSegment s u p l <;> grind -ring -lia -linarith
scoped grind_pattern drainSegment_canon => s.drainSegment u p l

theorem releaseSegment_canon {s : State} (h : Canon s) (u p) : Ends CanonStop Canon2 (s.releaseSegment u p) := by
  unfold State.releaseSegment
  grind -ring -lia -linarith
scoped grind_pattern releaseSegment_canon => s.releaseSegment u p

/-! ### Pool: The instructions (R263 to R269) -/

theorem poolForm_canon {s : State} (h : Canon s) {g ds srcs} {k : Ctx → Packet → PoolFor → Res}
    (hk : ∀ c p u, Canon c.s → Canon c.old → CanonRes (k c p u)) : CanonRes (poolForm s g ds srcs k) := by
  refine issue_canon h fun c h ho => ?_
  grind -ring -lia -linarith
scoped grind_pattern poolForm_canon => poolForm s g ds srcs k

theorem poolWait_canon {c : Ctx} (h : Canon c.s) (ho : Canon c.old) (e) : CanonRes (c.poolWait e) := by
  unfold Ctx.poolWait
  grind -ring -lia -linarith
scoped grind_pattern poolWait_canon => c.poolWait e

theorem pushLanes_canon (u p released l) {s : State} (h : Canon s) (k) : Ends CanonStop Canon2 (pushLanes u p released l s k) := by
  fun_induction pushLanes u p released l s k <;> grind -ring -lia -linarith
scoped grind_pattern pushLanes_canon => pushLanes u p released l s k

theorem pushForm_canon {c : Ctx} (h : Canon c.s) (ho : Canon c.old) (p u items q put) : CanonRes (pushForm c p u items q put) := by
  unfold pushForm
  grind -ring -lia -linarith
scoped grind_pattern pushForm_canon => pushForm c p u items q put

theorem execSplit_canon {s : State} (h : Canon s) (g v x q b n) : CanonRes (execSplit g v x q b n s) := by
  unfold execSplit
  grind -ring -lia -linarith
scoped grind_pattern execSplit_canon => execSplit g v x q b n s

theorem execFork_canon {s : State} (h : Canon s) (g q b n) : CanonRes (execFork g q b n s) := by
  unfold execFork
  grind -ring -lia -linarith
scoped grind_pattern execFork_canon => execFork g q b n s

theorem popLanes_canon (u p l) {s : State} (h : Canon s) (t) : Ends CanonStop Canon2 (popLanes u p l s t) := by
  fun_induction popLanes u p l s t <;> grind -ring -lia -linarith
scoped grind_pattern popLanes_canon => popLanes u p l s t

theorem execTake_canon {s : State} (h : Canon s) (g d q) : CanonRes (execTake g d q s) := by
  unfold execTake
  grind -ring -lia -linarith
scoped grind_pattern execTake_canon => execTake g d q s

theorem execPoolcfg_canon {s : State} (h : Canon s) (g a) : CanonRes (execPoolcfg g a s) := by
  unfold execPoolcfg
  grind -ring -lia -linarith
scoped grind_pattern execPoolcfg_canon => execPoolcfg g a s

theorem execPoolst_canon {s : State} (h : Canon s) (g d) : CanonRes (execPoolst g d s) := by
  unfold execPoolst
  grind -ring -lia -linarith
scoped grind_pattern execPoolst_canon => execPoolst g d s

/-! ### Launch: The start of a chain (R145, R151, R152, R174) -/

theorem startDiscards_canon {s : State} (h : Canon s) (asid core p whole) : Canon (s.startDiscards asid core p whole) := by
  unfold State.startDiscards
  grind -ring -lia -linarith
scoped grind_pattern startDiscards_canon => s.startDiscards asid core p whole

theorem receiveLaunch_canon {s : State} (h : Canon s) (core lid) : Canon (s.receiveLaunch core lid) := by
  unfold State.receiveLaunch
  grind -ring -lia -linarith
scoped grind_pattern receiveLaunch_canon => s.receiveLaunch core lid

theorem openSegment_canon {s : State} (h : Canon s) (lid core r) : Canon (s.openSegment lid core r) := by
  unfold State.openSegment
  grind -ring -lia -linarith
scoped grind_pattern openSegment_canon => s.openSegment lid core r

theorem startChain_canon {s : State} (h : Canon s) (lid cmd p num fid fchn core r) :
    Canon (s.startChain lid cmd p num fid fchn core r) := by
  unfold State.startChain
  grind -ring -lia -linarith
scoped grind_pattern startChain_canon => s.startChain lid cmd p num fid fchn core r

/-! ### Neighbour: The engine's accesses (R374, R379) -/

theorem nbRead_canon {s : State} (h : Canon s) (u va n) : Ends Canon4 Canon2 (s.nbRead u va n) := by
  unfold State.nbRead
  grind -ring -lia -linarith
scoped grind_pattern nbRead_canon => s.nbRead u va n

theorem dropSlice_canon {s : State} (h : Canon s) (d ws) : Canon (s.dropSlice d ws) := by
  unfold State.dropSlice
  grind -ring -lia -linarith
scoped grind_pattern dropSlice_canon => s.dropSlice d ws

theorem nbWrite_canon {s : State} (h : Canon s) (u va ws) : Ends Canon4 Canon2 (s.nbWrite u va ws) := by
  unfold State.nbWrite
  grind -ring -lia -linarith
scoped grind_pattern nbWrite_canon => s.nbWrite u va ws

theorem nbPut_canon {s : State} (h : Canon s) (u x va ws) : Ends Canon4 Canon2 (s.nbPut u x va ws) := by
  unfold State.nbPut
  grind -ring -lia -linarith
scoped grind_pattern nbPut_canon => s.nbPut u x va ws

theorem nbSpill_canon {s : State} (h : Canon s) (u x i pos) : Ends Canon4 Canon2 (s.nbSpill u x i pos) := by
  unfold State.nbSpill
  grind -ring -lia -linarith
scoped grind_pattern nbSpill_canon => s.nbSpill u x i pos

theorem nbBinOne_canon {s : State} (h : Canon s) (u x i) : Ends Canon4 Canon2 (s.nbBinOne u x i) := by
  unfold State.nbBinOne
  dsimp only
  split
  · grind -ring -lia -linarith
  · grind -ring -lia -linarith
  split
  · grind -ring -lia -linarith
  split
  · grind -ring -lia -linarith
  split <;> grind -ring -lia -linarith
scoped grind_pattern nbBinOne_canon => s.nbBinOne u x i

theorem nbFold_canon {f : State → NbRun → Nat → NbTry NbRun} (hf : ∀ s x i, Canon s → Ends Canon4 Canon2 (f s x i)) (first n) {s : State}
    (h : Canon s) (x) : Ends Canon4 Canon2 (nbFold f first n s x) := by
  fun_induction nbFold f first n s x <;> grind -ring -lia -linarith
scoped grind_pattern nbFold_canon => nbFold f first n s x

theorem nbBin_canon {s : State} (h : Canon s) (u x first count) : Ends Canon4 Canon2 (s.nbBin u x first count) := by
  unfold State.nbBin
  grind -ring -lia -linarith
scoped grind_pattern nbBin_canon => s.nbBin u x first count

theorem nbParticle_canon {s : State} (h : Canon s) (u x i) : Ends Canon4 Canon2 (s.nbParticle u x i) := by
  unfold State.nbParticle
  dsimp only
  split
  · grind -ring -lia -linarith
  · grind -ring -lia -linarith
  split
  · grind -ring -lia -linarith
  split <;> grind -ring -lia -linarith
scoped grind_pattern nbParticle_canon => s.nbParticle u x i

theorem nbMoved_canon {s : State} (h : Canon s) (u x l n) : Ends Canon4 Canon2 (s.nbMoved u x l n) := by
  fun_induction State.nbMoved s u x l n <;> grind -ring -lia -linarith
scoped grind_pattern nbMoved_canon => s.nbMoved u x l n

/-! ### Neighbour: Slots (R361, R366, R373, R377, R378) -/

theorem setGrid_canon {s : State} (h : Canon s) (die gid g) : Canon (s.setGrid die gid g) := by
  unfold State.setGrid
  grind -ring -lia -linarith
scoped grind_pattern setGrid_canon => s.setGrid die gid g

theorem nbStatus_canon {s : State} (h : Canon s) (u x) : Ends Canon4 Canon2 (s.nbStatus u x) := by
  unfold State.nbStatus
  grind -ring -lia -linarith
scoped grind_pattern nbStatus_canon => s.nbStatus u x

theorem nbDone_canon {s : State} (h : Canon s) (u x) : Ends Canon4 Canon2 (s.nbDone u x) := by
  unfold State.nbDone
  grind -ring -lia -linarith
scoped grind_pattern nbDone_canon => s.nbDone u x

theorem nbDesc_parts_canon (u va n) {s : State} (h : Canon s) (ws) : Ends Canon4 Canon2 (State.nbDesc.parts u va n s ws) := by
  fun_induction State.nbDesc.parts u va n s ws <;> grind -ring -lia -linarith
theorem nbDesc_canon {s : State} (h : Canon s) (u va) : Ends Canon4 Canon2 (s.nbDesc u va) := by
  have hp := nbDesc_parts_canon u va 8 h []
  unfold State.nbDesc
  grind -ring -lia -linarith
scoped grind_pattern nbDesc_canon => s.nbDesc u va

theorem nbCheck_canon {s : State} (h : Canon s) (u gid va) : Ends Canon4 Canon2 (s.nbCheck u gid va) := by
  unfold State.nbCheck
  grind -ring -lia -linarith
scoped grind_pattern nbCheck_canon => s.nbCheck u gid va

theorem nbBind_canon {s : State} (h : Canon s) (u owner gid va) : Ends Canon4 Canon2 (s.nbBind u owner gid va) := by
  unfold State.nbBind
  grind -ring -lia -linarith
scoped grind_pattern nbBind_canon => s.nbBind u owner gid va

/-! ### Neighbour: The instructions (R372 to R378) -/

theorem nbForm_canon {s : State} (h : Canon s) {g long ds srcs} {k : Ctx → Res}
    (hk : ∀ c, Canon c.s → Canon c.old → CanonRes (k c)) : CanonRes (nbForm s g long ds srcs k) := by
  refine issue_canon h fun c h ho => ?_
  grind -ring -lia -linarith
scoped grind_pattern nbForm_canon => nbForm s g long ds srcs k

theorem execNbgrid_canon {s : State} (h : Canon s) (g gid a) : CanonRes (execNbgrid g gid a s) := by
  unfold execNbgrid
  grind -ring -lia -linarith
scoped grind_pattern execNbgrid_canon => execNbgrid g gid a s

theorem nbIssue_canon {c : Ctx} (h : Canon c.s) (gid k) : CanonRes (nbIssue c gid k) := by
  unfold nbIssue
  grind -ring -lia -linarith
scoped grind_pattern nbIssue_canon => nbIssue c gid k

theorem execNbbin_canon {s : State} (h : Canon s) (g gid a b) : CanonRes (execNbbin g gid a b s) := by
  unfold execNbbin
  grind -ring -lia -linarith
scoped grind_pattern execNbbin_canon => execNbbin g gid a b s

theorem execNbpair_canon {s : State} (h : Canon s) (g gid a b) : CanonRes (execNbpair g gid a b s) := by
  unfold execNbpair
  grind -ring -lia -linarith
scoped grind_pattern execNbpair_canon => execNbpair g gid a b s

theorem execNbstat_canon {s : State} (h : Canon s) (g gid d) : CanonRes (execNbstat g gid d s) := by
  unfold execNbstat
  grind -ring -lia -linarith
scoped grind_pattern execNbstat_canon => execNbstat g gid d s

theorem execNbmove_canon {s : State} (h : Canon s) (g gid d b k) : CanonRes (execNbmove g gid d b k s) := by
  unfold execNbmove
  grind -ring -lia -linarith
scoped grind_pattern execNbmove_canon => execNbmove g gid d b k s

theorem execNbclr_canon {s : State} (h : Canon s) (g gid) : CanonRes (execNbclr g gid s) := by
  unfold execNbclr
  grind -ring -lia -linarith
scoped grind_pattern execNbclr_canon => execNbclr g gid s

/-! ### Neighbour: The operations at their turn (R380) -/

theorem nbLeave_canon {s : State} (h : Canon s) (op o die gid x) : Canon (s.nbLeave op o die gid x) := by
  unfold State.nbLeave
  grind -ring -lia -linarith
scoped grind_pattern nbLeave_canon => s.nbLeave op o die gid x

theorem nbFinish_canon {s s0 : State} (h : Canon s) (h0 : Canon s0) (op o die gid done x put) :
    Canon (s.nbFinish s0 op o die gid done x put) := by
  unfold State.nbFinish
  grind -ring -lia -linarith
scoped grind_pattern nbFinish_canon => s.nbFinish s0 op o die gid done x put

theorem execNbOpComplete_canon {s : State} (h : Canon s) (op) : CanonRes (execNbOpComplete op s) := by
  unfold execNbOpComplete
  split
  · exact h
  split
  · split
    · exact h
    dsimp only
    split <;> grind -ring -lia -linarith
  · exact h
scoped grind_pattern execNbOpComplete_canon => execNbOpComplete op s

/-! ### Neighbour: The pair stream (R367 to R371, R375) -/

theorem scanOne_canon {s : State} (h : Canon s) (u x i) : Ends Canon4 Canon2 (s.scanOne u x i) := by
  unfold State.scanOne
  grind -ring -lia -linarith
scoped grind_pattern scanOne_canon => s.scanOne u x i

theorem scanJ_canon {s : State} (h : Canon s) (u x i pi l jpos) : Ends Canon4 Canon2 (s.scanJ u x i pi l jpos) := by
  fun_induction State.scanJ s u x i pi l jpos <;> grind -ring -lia -linarith
scoped grind_pattern scanJ_canon => s.scanJ u x i pi l jpos

theorem scanI_canon {s : State} (h : Canon s) (u x c l ipos jpos) : Ends Canon4 Canon2 (s.scanI u x c l ipos jpos) := by
  fun_induction State.scanI s u x c l ipos jpos <;> grind -ring -lia -linarith
scoped grind_pattern scanI_canon => s.scanI u x c l ipos jpos

theorem scanC_canon {s : State} (h : Canon s) (u x l p) : Ends Canon4 Canon2 (s.scanC u x l p) := by
  fun_induction State.scanC s u x l p <;> grind -ring -lia -linarith
scoped grind_pattern scanC_canon => s.scanC u x l p

theorem scanStream_canon {s : State} (h : Canon s) (u g t seen) : Ends Canon4 Canon2 (s.scanStream u g t seen) := by
  unfold State.scanStream
  grind -ring -lia -linarith
scoped grind_pattern scanStream_canon => s.scanStream u g t seen

theorem keepScan_canon {s : State} (h : Canon s) (n r die gid x f) : Canon (s.keepScan n r die gid x f) := by
  unfold State.keepScan
  grind -ring -lia -linarith
scoped grind_pattern keepScan_canon => s.keepScan n r die gid x f

theorem execNbPairRecord_canon {s : State} (h : Canon s) (r) : CanonRes (execNbPairRecord r s) := by
  unfold execNbPairRecord
  grind -ring -lia -linarith
scoped grind_pattern execNbPairRecord_canon => execNbPairRecord r s

theorem streamEnd_canon {s : State} (h : Canon s) (r n stat) : Canon (s.streamEnd r n stat) := by
  unfold State.streamEnd
  grind -ring -lia -linarith
scoped grind_pattern streamEnd_canon => s.streamEnd r n stat

theorem execNbStreamEnd_canon {s : State} (h : Canon s) (r) : CanonRes (execNbStreamEnd r s) := by
  unfold execNbStreamEnd
  split
  · grind -ring -lia -linarith
  · dsimp only
    split
    · grind -ring -lia -linarith
    · exact h
    split <;> grind -ring -lia -linarith
  · exact h
scoped grind_pattern execNbStreamEnd_canon => execNbStreamEnd r s

/-! ### IntAlu: Forms -/

theorem int2_canon {s : State} (h : Canon s) (g d a b m sgn f) : CanonRes (int2 s g d a b m sgn f) := by
  refine issue_canon h fun c h ho => ?_
  grind -ring -lia -linarith
scoped grind_pattern int2_canon => int2 s g d a b m sgn f

theorem int1_canon {s : State} (h : Canon s) (g d a m sgn f) : CanonRes (int1 s g d a m sgn f) := by
  refine issue_canon h fun c h ho => ?_
  grind -ring -lia -linarith
scoped grind_pattern int1_canon => int1 s g d a m sgn f

theorem int3_canon {s : State} (h : Canon s) (g d a b c m sgn f) : CanonRes (int3 s g d a b c m sgn f) := by
  refine issue_canon h fun c h ho => ?_
  grind -ring -lia -linarith
scoped grind_pattern int3_canon => int3 s g d a b c m sgn f

theorem execSel_canon {s : State} (h : Canon s) (g d a b q m) : CanonRes (execSel g d a b q m s) := by
  refine issue_canon h fun c h ho => ?_
  grind -ring -lia -linarith
scoped grind_pattern execSel_canon => execSel g d a b q m s

theorem execLdi_canon {s : State} (h : Canon s) (g mode d imm) : CanonRes (execLdi g mode d imm s) := by
  refine issue_canon h fun c h ho => ?_
  grind -ring -lia -linarith
scoped grind_pattern execLdi_canon => execLdi g mode d imm s

theorem execCvt_canon {s : State} (h : Canon s) (g dt st sat d a m) : CanonRes (execCvt g dt st sat d a m s) := by
  refine issue_canon h fun c h ho => ?_
  grind -ring -lia -linarith
scoped grind_pattern execCvt_canon => execCvt g dt st sat d a m s

theorem execLea_canon {s : State} (h : Canon s) (g d a b c m) : CanonRes (execLea g d a b c m s) := by
  refine issue_canon h fun c h ho => ?_
  grind -ring -lia -linarith
scoped grind_pattern execLea_canon => execLea g d a b c m s

theorem execPerm_canon {s : State} (h : Canon s) (g d a b m) : CanonRes (execPerm g d a b m s) := by
  refine issue_canon h fun c h ho => ?_
  grind -ring -lia -linarith
scoped grind_pattern execPerm_canon => execPerm g d a b m s

theorem execKset_canon {s : State} (h : Canon s) (g k imm) : CanonRes (execKset g k imm s) := by
  refine issue_canon h fun c h ho => ?_
  grind -ring -lia -linarith
scoped grind_pattern execKset_canon => execKset g k imm s

theorem execKadd_canon {s : State} (h : Canon s) (g k a b m) : CanonRes (execKadd g k a b m s) := by
  refine issue_canon h fun c h ho => ?_
  grind -ring -lia -linarith
scoped grind_pattern execKadd_canon => execKadd g k a b m s

theorem execRdx_canon {s : State} (h : Canon s) (g d base k n) : CanonRes (execRdx g d base k n s) := by
  refine issue_canon h fun c h ho => ?_
  grind -ring -lia -linarith
scoped grind_pattern execRdx_canon => execRdx g d base k n s

theorem execWrx_canon {s : State} (h : Canon s) (g base k b n) : CanonRes (execWrx g base k b n s) := by
  refine issue_canon h fun c h ho => ?_
  grind -ring -lia -linarith
scoped grind_pattern execWrx_canon => execWrx g base k b n s

/-! ### Pred -/

theorem execCmp_canon {s : State} (h : Canon s) (g ty rel q a b m) : CanonRes (execCmp g ty rel q a b m s) := by
  refine issue_canon h fun c h ho => ?_
  grind -ring -lia -linarith
scoped grind_pattern execCmp_canon => execCmp g ty rel q a b m s

theorem kleene2_canon {s : State} (h : Canon s) (g qd qa qb f) : CanonRes (kleene2 s g qd qa qb f) := by
  refine issue_canon h fun c h ho => ?_
  grind -ring -lia -linarith
scoped grind_pattern kleene2_canon => kleene2 s g qd qa qb f

theorem kleene1_canon {s : State} (h : Canon s) (g qd qa f) : CanonRes (kleene1 s g qd qa f) := by
  refine issue_canon h fun c h ho => ?_
  grind -ring -lia -linarith
scoped grind_pattern kleene1_canon => kleene1 s g qd qa f

theorem execQvote_canon {s : State} (h : Canon s) (g mode qd qa) : CanonRes (execQvote g mode qd qa s) := by
  refine issue_canon h fun c h ho => ?_
  grind -ring -lia -linarith
scoped grind_pattern execQvote_canon => execQvote g mode qd qa s

theorem execQmask_canon {s : State} (h : Canon s) (g mode d qa) : CanonRes (execQmask g mode d qa s) := by
  refine issue_canon h fun c h ho => ?_
  grind -ring -lia -linarith
scoped grind_pattern execQmask_canon => execQmask g mode d qa s

theorem execQfrom_canon {s : State} (h : Canon s) (g mode qd a m) : CanonRes (execQfrom g mode qd a m s) := by
  refine issue_canon h fun c h ho => ?_
  grind -ring -lia -linarith
scoped grind_pattern execQfrom_canon => execQfrom g mode qd a m s

/-! ### Save: Reaching a save slot -/

theorem slotFrames_canon {s : State} (h : Canon s) (u asid denied va kind l acc) :
    Ends Canon3 Canon2 (s.slotFrames u asid denied va kind l acc) := by
  fun_induction State.slotFrames s u asid denied va kind l acc <;> grind -ring -lia -linarith
scoped grind_pattern slotFrames_canon => s.slotFrames u asid denied va kind l acc

/-! ### Save: Saving (R398) -/

theorem takeSegment_canon {s : State} (h : Canon s) (u p l) : Ends CanonStop Canon2 (s.takeSegment u p l) := by
  fun_induction State.takeSegment s u p l <;> grind -ring -lia -linarith
scoped grind_pattern takeSegment_canon => s.takeSegment u p l

theorem dropSegment_canon {s : State} (h : Canon s) (lid core) : Canon (s.dropSegment lid core) := by
  unfold State.dropSegment
  grind -ring -lia -linarith
scoped grind_pattern dropSegment_canon => s.dropSegment lid core

theorem noteSpills_canon {s : State} (h : Canon s) (cid) : Canon (s.noteSpills cid) := by
  unfold State.noteSpills
  grind -ring -lia -linarith
scoped grind_pattern noteSpills_canon => s.noteSpills cid

theorem saveChain_canon {s : State} (h : Canon s) (cid c p slot) : Ends CanonStop Canon2 (s.saveChain cid c p slot) := by
  unfold State.saveChain
  dsimp only
  split
  · grind -ring -lia -linarith
  split <;> grind -ring -lia -linarith +splitImp
scoped grind_pattern saveChain_canon => s.saveChain cid c p slot

/-! ### Save: Resuming (R398, R152) -/

theorem restoreChain_canon {s : State} (h : Canon s) (cid c bs bad) : Canon (s.restoreChain cid c bs bad) := by
  unfold State.restoreChain
  grind -ring -lia -linarith
scoped grind_pattern restoreChain_canon => s.restoreChain cid c bs bad

theorem moveStreams_canon {s : State} (h : Canon s) (cid die) : Canon (s.moveStreams cid die) := by
  unfold State.moveStreams
  grind -ring -lia -linarith
scoped grind_pattern moveStreams_canon => s.moveStreams cid die

theorem takeRslots_canon {s : State} (h : Canon s) (cid c) : Canon (s.takeRslots cid c) := by
  unfold State.takeRslots
  grind -ring -lia -linarith
scoped grind_pattern takeRslots_canon => s.takeRslots cid c

theorem resumeChain_canon {s : State} (h : Canon s) (cid c p slot core r) : Ends CanonStop Canon2 (s.resumeChain cid c p slot core r) := by
  unfold State.resumeChain
  grind -ring -lia -linarith
scoped grind_pattern resumeChain_canon => s.resumeChain cid c p slot core r

/-! ### Sched: Completion and publication (R390, R391, R430) -/

theorem putStatus_canon {s : State} (h : Canon s) (q asid va v) : Ends Free Canon (s.putStatus q asid va v) := by
  unfold State.putStatus
  grind -ring -lia -linarith
scoped grind_pattern putStatus_canon => s.putStatus q asid va v

theorem publish_canon {s : State} (h : Canon s) (q asid va code reason) : Ends Free Canon (s.publish q asid va code reason) := by
  unfold State.publish
  grind -ring -lia -linarith
scoped grind_pattern publish_canon => s.publish q asid va code reason

theorem askPublish_canon {s : State} (h : Canon s) : Canon (s.askPublish) := by
  unfold State.askPublish
  grind -ring -lia -linarith
scoped grind_pattern askPublish_canon => s.askPublish

theorem completeCmd_canon {s : State} (h : Canon s) (n code reason) : Canon (s.completeCmd n code reason) := by
  unfold State.completeCmd
  grind -ring -lia -linarith
scoped grind_pattern completeCmd_canon => s.completeCmd n code reason

theorem refuseCmd_canon {s : State} (h : Canon s) (n reason) : Canon (s.refuseCmd n reason) := by
  unfold State.refuseCmd
  grind -ring -lia -linarith
scoped grind_pattern refuseCmd_canon => s.refuseCmd n reason

/-! ### Sched: The end of a chain (R150, R167, R394) -/

theorem addDef_canon {s : State} (h : Canon s) (q x) : Canon (s.addDef q x) := by
  unfold State.addDef
  grind -ring -lia -linarith
scoped grind_pattern addDef_canon => s.addDef q x

theorem checkBars_canon {s : State} (h : Canon s) (c cid) : Canon (s.checkBars c cid) := by
  unfold State.checkBars
  grind -ring -lia -linarith
scoped grind_pattern checkBars_canon => s.checkBars c cid

theorem removeChain_canon {s : State} (h : Canon s) (cid c retired) : Canon (s.removeChain cid c retired) := by
  unfold State.removeChain
  grind -ring -lia -linarith
scoped grind_pattern removeChain_canon => s.removeChain cid c retired

theorem retireChain_canon {s : State} (h : Canon s) (cid denied) : Ends CanonStop Canon2 (s.retireChain cid denied) := by
  unfold State.retireChain
  split
  · exact h
  split
  · exact h
  dsimp only
  split <;> grind -ring -lia -linarith
scoped grind_pattern retireChain_canon => s.retireChain cid denied

theorem execExit_canon {s : State} (h : Canon s) (g) : CanonRes (execExit g s) := by
  refine withIss_canon fun i => ?_
  grind -ring -lia -linarith
scoped grind_pattern execExit_canon => execExit g s

/-! ### Sched: Cancellation (R328, R396) -/

theorem discardChain_canon {s : State} (h : Canon s) (cid c) : Canon (s.discardChain cid c) := by
  unfold State.discardChain
  grind -ring -lia -linarith
scoped grind_pattern discardChain_canon => s.discardChain cid c

theorem releaseHeld_canon {s : State} (h : Canon s) (c) : Canon (s.releaseHeld c) := by
  unfold State.releaseHeld
  grind -ring -lia -linarith
scoped grind_pattern releaseHeld_canon => s.releaseHeld c

theorem shedChain_canon {s : State} (h : Canon s) (cid c) : Canon (s.shedChain cid c) := by
  unfold State.shedChain
  grind -ring -lia -linarith
scoped grind_pattern shedChain_canon => s.shedChain cid c

theorem cancelCmd_canon {s : State} (h : Canon s) (n code) : Canon (s.cancelCmd n code) := by
  unfold State.cancelCmd
  grind -ring -lia -linarith
scoped grind_pattern cancelCmd_canon => s.cancelCmd n code

theorem cancelAll_canon {s : State} (h : Canon s) (p code) : Canon (s.cancelAll p code) := by
  unfold State.cancelAll
  grind -ring -lia -linarith
scoped grind_pattern cancelAll_canon => s.cancelAll p code

theorem cancel_canon {s : State} (h : Canon s) (k) : Canon (s.cancel k) := by
  unfold State.cancel
  grind -ring -lia -linarith
scoped grind_pattern cancel_canon => s.cancel k

theorem execCancel_canon {s : State} (h : Canon s) (g lvl) : CanonRes (execCancel g lvl s) := by
  refine withIss_canon fun i => ?_
  grind -ring -lia -linarith
scoped grind_pattern execCancel_canon => execCancel g lvl s

theorem cancIdle_canon {s : State} (h : Canon s) : Canon (s.cancIdle) := by
  unfold State.cancIdle
  grind -ring -lia -linarith
scoped grind_pattern cancIdle_canon => s.cancIdle

theorem hostCancel_canon {s : State} (h : Canon s) (reg k) : Canon (s.hostCancel reg k) := by
  unfold State.hostCancel
  grind -ring -lia -linarith
scoped grind_pattern hostCancel_canon => s.hostCancel reg k

theorem execCancLaunch_canon {s : State} (h : Canon s) (queue idx) : CanonRes (execCancLaunch queue idx s) := by
  unfold execCancLaunch
  grind -ring -lia -linarith
scoped grind_pattern execCancLaunch_canon => execCancLaunch queue idx s

theorem execCancGraph_canon {s : State} (h : Canon s) (id asid) : CanonRes (execCancGraph id asid s) := by
  unfold execCancGraph
  grind -ring -lia -linarith
scoped grind_pattern execCancGraph_canon => execCancGraph id asid s

theorem execCancPhase_canon {s : State} (h : Canon s) (id asid) : CanonRes (execCancPhase id asid s) := by
  unfold execCancPhase
  grind -ring -lia -linarith
scoped grind_pattern execCancPhase_canon => execCancPhase id asid s

theorem execCancJob_canon {s : State} (h : Canon s) (id asid) : CanonRes (execCancJob id asid s) := by
  unfold execCancJob
  grind -ring -lia -linarith
scoped grind_pattern execCancJob_canon => execCancJob id asid s

/-! ### Sched: `LEVEL_COMPLETE` (R390, R391) -/

theorem launchLevel_canon {s : State} (h : Canon s) (n x) : Canon (s.launchLevel n x) := by
  unfold State.launchLevel
  grind -ring -lia -linarith
scoped grind_pattern launchLevel_canon => s.launchLevel n x

theorem execLevelComplete_canon {s : State} (h : Canon s) (lvl cmd) : CanonRes (execLevelComplete lvl cmd s) := by
  unfold execLevelComplete
  grind -ring -lia -linarith
scoped grind_pattern execLevelComplete_canon => execLevelComplete lvl cmd s

/-! ### Sched: Queues (R384, R385) -/

theorem append_canon {s : State} (h : Canon s) (q n) : Canon (s.append q n) := by
  unfold State.append
  grind -ring -lia -linarith
scoped grind_pattern append_canon => s.append q n

theorem execWidxWrite_canon {s : State} (h : Canon s) (q v) : CanonRes (execWidxWrite q v s) := by
  unfold execWidxWrite
  grind -ring -lia -linarith
scoped grind_pattern execWidxWrite_canon => execWidxWrite q v s

theorem execQpush_canon {s : State} (h : Canon s) (q v) : CanonRes (execQpush q v s) := by
  unfold execQpush
  grind -ring -lia -linarith
scoped grind_pattern execQpush_canon => execQpush q v s

theorem packetParts_canon {s : State} (h : Canon s) (q asid va n bs) : Ends Canon Canon2 (s.packetParts q asid va n bs) := by
  fun_induction State.packetParts s q asid va n bs <;> grind -ring -lia -linarith
scoped grind_pattern packetParts_canon => s.packetParts q asid va n bs

theorem takeIn_canon {s : State} (h : Canon s) (n c reason) : Canon (s.takeIn n c reason) := by
  unfold State.takeIn
  grind -ring -lia -linarith
scoped grind_pattern takeIn_canon => s.takeIn n c reason

theorem execSlotFetch_canon {s : State} (h : Canon s) (q) : CanonRes (execSlotFetch q s) := by
  unfold execSlotFetch
  grind -ring -lia -linarith
scoped grind_pattern execSlotFetch_canon => execSlotFetch q s

theorem execLaunch_canon {s : State} (h : Canon s) (g d a b) : CanonRes (execLaunch g d a b s) := by
  refine issue_canon h fun c h ho => ?_
  grind -ring -lia -linarith
scoped grind_pattern execLaunch_canon => execLaunch g d a b s

/-! ### Sched: Readiness (R392, R176, R177, R431) -/

theorem execLaunchReady_canon {s : State} (h : Canon s) (lid) : CanonRes (execLaunchReady lid s) := by
  unfold execLaunchReady
  grind -ring -lia -linarith
scoped grind_pattern execLaunchReady_canon => execLaunchReady lid s

theorem execNeighbourCommand_canon {s : State} (h : Canon s) (cmd) : CanonRes (execNeighbourCommand cmd s) := by
  unfold execNeighbourCommand
  split
  · exact h
  split
  · split
    · exact h
    split
    · grind -ring -lia -linarith
    split
    · exact h
    dsimp only
    split
    · grind -ring -lia -linarith
    · grind -ring -lia -linarith
    split
    · grind -ring -lia -linarith
    split <;> grind -ring -lia -linarith
  · exact h
scoped grind_pattern execNeighbourCommand_canon => execNeighbourCommand cmd s

/-! ### Sched: Pre-emption (R397, R398) -/

theorem markSave_canon {s : State} (h : Canon s) (cid) : Canon (s.markSave cid).2 := by
  unfold State.markSave
  grind -ring -lia -linarith
scoped grind_pattern markSave_canon => s.markSave cid

theorem unmarkSave_canon {s : State} (h : Canon s) (group) : Canon (s.unmarkSave group) := by
  unfold State.unmarkSave
  grind -ring -lia -linarith
scoped grind_pattern unmarkSave_canon => s.unmarkSave group

theorem saveChains_canon {s : State} (h : Canon s) (p l) : Ends CanonStop Canon2 (s.saveChains p l) := by
  fun_induction State.saveChains s p l <;> grind -ring -lia -linarith
scoped grind_pattern saveChains_canon => s.saveChains p l

theorem finishSaves_canon {s : State} (h : Canon s) : Canon (s.finishSaves) := by
  unfold State.finishSaves
  grind -ring -lia -linarith
scoped grind_pattern finishSaves_canon => s.finishSaves

theorem execPreqVacate_canon {s : State} (h : Canon s) (v) : CanonRes (execPreqVacate v s) := by
  unfold execPreqVacate
  grind -ring -lia -linarith
scoped grind_pattern execPreqVacate_canon => execPreqVacate v s

theorem execPrel_canon {s : State} (h : Canon s) (v) : CanonRes (execPrel v s) := by
  unfold execPrel
  grind -ring -lia -linarith
scoped grind_pattern execPrel_canon => execPrel v s

/-! ### Sched: The scheduler's round (R165, R394, R395, R470) -/

theorem resumeAll_canon {s : State} (h : Canon s) (p l) : Ends CanonStop Canon2 (s.resumeAll p l) := by
  fun_induction State.resumeAll s p l <;> grind -ring -lia -linarith
scoped grind_pattern resumeAll_canon => s.resumeAll p l

/-- What becomes of a launch that cannot start is canonical of a canonical state. -/
abbrev KeepsCanon (f : State → State) : Prop := ∀ t, Canon t → Canon (f t)

theorem dispatchGroup_canon {s : State} (h : Canon s) (lid x p) : Ends KeepsCanon Canon2 (s.dispatchGroup lid x p) := by
  unfold State.dispatchGroup
  grind -ring -lia -linarith +splitImp
scoped grind_pattern dispatchGroup_canon => s.dispatchGroup lid x p

theorem dispatchAll_canon {s : State} (h : Canon s) (lid p fuel n) : Ends KeepsCanon Canon2 (s.dispatchAll lid p fuel n) := by
  fun_induction State.dispatchAll s lid p fuel n <;> grind -ring -lia -linarith
scoped grind_pattern dispatchAll_canon => s.dispatchAll lid p fuel n

theorem visitLoop_canon {s : State} (h : Canon s) (q fuel) : Canon (s.visitLoop q fuel) := by
  fun_induction State.visitLoop s q fuel <;> grind -ring -lia -linarith
scoped grind_pattern visitLoop_canon => s.visitLoop q fuel

theorem visit_canon {s : State} (h : Canon s) (q) : Canon (s.visit q) := by
  unfold State.visit
  grind -ring -lia -linarith
scoped grind_pattern visit_canon => s.visit q

theorem round_canon {s : State} (h : Canon s) : Canon (s.round) := by
  unfold State.round
  grind -ring -lia -linarith
scoped grind_pattern round_canon => s.round

theorem execSchedulerRound_canon {s : State} (h : Canon s) : CanonRes (execSchedulerRound s) := by
  unfold execSchedulerRound
  grind -ring -lia -linarith
scoped grind_pattern execSchedulerRound_canon => execSchedulerRound s

theorem execSchedulerRoundTimer_canon {s : State} (h : Canon s) : CanonRes (execSchedulerRoundTimer s) := by
  unfold execSchedulerRoundTimer
  grind -ring -lia -linarith
scoped grind_pattern execSchedulerRoundTimer_canon => execSchedulerRoundTimer s

theorem execDlack_canon {s : State} (h : Canon s) (iod v) : CanonRes (execDlack iod v s) := by
  unfold execDlack
  grind -ring -lia -linarith
scoped grind_pattern execDlack_canon => execDlack iod v s

end Sys2Proof.MemoryForm
end

section
/-! SUPPORT. Canonical memory, function by function: dMA, attestation, the package, traps, debug and the remaining units. -/

namespace Sys2Proof.MemoryForm
open Sys2Proof.Machine

/-! ### Dma -/

theorem dmaGet_canon {s : State} (h : Canon s) (u va n) : Ends Canon4 Canon2 (s.dmaGet u va n) := by
  unfold State.dmaGet
  grind -ring -lia -linarith
scoped grind_pattern dmaGet_canon => s.dmaGet u va n

theorem dmaPut_canon {s : State} (h : Canon s) (u va d) : Ends Canon4 Canon2 (s.dmaPut u va d) := by
  unfold State.dmaPut
  grind -ring -lia -linarith
scoped grind_pattern dmaPut_canon => s.dmaPut u va d

theorem dmaLoop_canon {s : State} (h : Canon s) (u p fill fuel r) : Canon (s.dmaLoop u p fill fuel r).2 := by
  fun_induction State.dmaLoop s u p fill fuel r <;> grind -ring -lia -linarith
scoped grind_pattern dmaLoop_canon => s.dmaLoop u p fill fuel r

theorem gatherLoop_canon {s : State} (h : Canon s) (u p fuel r) : Canon (s.gatherLoop u p fuel r).2 := by
  fun_induction State.gatherLoop s u p fuel r <;> grind -ring -lia -linarith
scoped grind_pattern gatherLoop_canon => s.gatherLoop u p fuel r

theorem landLoop_canon {s : State} (h : Canon s) (u p fuel r) : Canon (s.landLoop u p fuel r).2 := by
  fun_induction State.landLoop s u p fuel r <;> grind -ring -lia -linarith
scoped grind_pattern landLoop_canon => s.landLoop u p fuel r

theorem dmaKeep_canon {s : State} (h : Canon s) (n u r) : Canon (s.dmaKeep n u r) := by
  unfold State.dmaKeep
  grind -ring -lia -linarith
scoped grind_pattern dmaKeep_canon => s.dmaKeep n u r

theorem dmaForm_canon {s : State} (h : Canon s) {n op} {k : State → Cmd → DmaPkt → DmaFor → Res}
    (hk : ∀ s c p u, Canon s → CanonRes (k s c p u)) : CanonRes (dmaForm s n op k) := by
  unfold dmaForm
  grind -ring -lia -linarith
scoped grind_pattern dmaForm_canon => dmaForm s n op k

theorem dmaDone_canon {s : State} (h : Canon s) (n send) : Canon (s.dmaDone n send) := by
  unfold State.dmaDone
  grind -ring -lia -linarith
scoped grind_pattern dmaDone_canon => s.dmaDone n send

theorem dmaFail_canon {s : State} (h : Canon s) (n) : Canon (s.dmaFail n) := by
  unfold State.dmaFail
  grind -ring -lia -linarith
scoped grind_pattern dmaFail_canon => s.dmaFail n

theorem dmaMoveForm_canon {s : State} (h : Canon s) (cmd op fill) : CanonRes (dmaMoveForm s cmd op fill) := by
  unfold dmaMoveForm
  grind -ring -lia -linarith
scoped grind_pattern dmaMoveForm_canon => dmaMoveForm s cmd op fill

theorem dmaSendForm_canon {s : State} (h : Canon s) (cmd op msg) : CanonRes (dmaSendForm s cmd op msg) := by
  unfold dmaSendForm
  grind -ring -lia -linarith
scoped grind_pattern dmaSendForm_canon => dmaSendForm s cmd op msg

theorem execDmaRdmaRead_canon {s : State} (h : Canon s) (cmd bytes bad) : CanonRes (execDmaRdmaRead cmd bytes s bad) := by
  unfold execDmaRdmaRead
  grind -ring -lia -linarith
scoped grind_pattern execDmaRdmaRead_canon => execDmaRdmaRead cmd bytes s bad

theorem execDmaComplete_canon {s : State} (h : Canon s) (cmd code) : CanonRes (execDmaComplete cmd code s) := by
  unfold execDmaComplete
  grind -ring -lia -linarith
scoped grind_pattern execDmaComplete_canon => execDmaComplete cmd code s

/-! ### Attest: DIESTAT (R417, R422) -/

theorem openQueues_canon {s : State} (h : Canon s) : Canon (s.openQueues) := by
  unfold State.openQueues
  grind -ring -lia -linarith
scoped grind_pattern openQueues_canon => s.openQueues

theorem rootReport_canon {t : State} (h : Canon t) (old : DWord) : Canon (if t.diestat = old then t else t.vectorAll 2) := by
  split
  · exact h
  · exact vectorAll_canon h 2
theorem rootDone_canon {s : State} (h : Canon s) (before) : Canon (s.rootDone before) :=
  rootReport_canon (release_canon (openQueues_canon h)) before.diestat
scoped grind_pattern rootDone_canon => s.rootDone before

theorem unkeyLink_canon {s : State} (h : Canon s) (k) : Canon (s.unkeyLink k) := by
  unfold State.unkeyLink
  grind -ring -lia -linarith
scoped grind_pattern unkeyLink_canon => s.unkeyLink k

theorem unkey_canon {s : State} (h : Canon s) (k) : Canon (s.unkey k) := by
  unfold State.unkey
  grind -ring -lia -linarith
scoped grind_pattern unkey_canon => s.unkey k

theorem execPowerOn_canon {s : State} (h : Canon s) : CanonRes (execPowerOn s) := by
  unfold execPowerOn
  grind -ring -lia -linarith
scoped grind_pattern execPowerOn_canon => execPowerOn s

/-! ### Attest: The SPDM exchange (R418) -/

theorem setSpdm_canon {s : State} (h : Canon s) (k x) : Canon (s.setSpdm k x) := h
scoped grind_pattern setSpdm_canon => s.setSpdm k x

/-! ### Attest: Attestation (R417, R418, R421) -/

theorem attested'_canon {s : State} (h : Canon s) (k ok) : Canon (s.attested' k ok) := by
  unfold State.attested'
  grind -ring -lia -linarith
scoped grind_pattern attested'_canon => s.attested' k ok

theorem execAttestation_canon {s : State} (h : Canon s) (stop ok) : CanonRes (execAttestation stop ok s) := by
  unfold execAttestation
  grind -ring -lia -linarith
scoped grind_pattern execAttestation_canon => execAttestation stop ok s

/-! ### Attest: Link keys (R419, R420) -/

theorem ioService_canon {s : State} (h : Canon s) (k) : Canon (s.ioService k) := by
  unfold State.ioService
  grind -ring -lia -linarith
scoped grind_pattern ioService_canon => s.ioService k

theorem drawKey_canon {s : State} (h : Canon s) : Canon (s.drawKey).2 := by
  unfold State.drawKey
  grind -ring -lia -linarith
scoped grind_pattern drawKey_canon => s.drawKey

theorem execLinkKeyInstall_canon {s : State} (h : Canon s) (link up) : CanonRes (execLinkKeyInstall link up s) := by
  unfold execLinkKeyInstall
  grind -ring -lia -linarith
scoped grind_pattern execLinkKeyInstall_canon => execLinkKeyInstall link up s

theorem updateKeys_canon {s : State} (h : Canon s) (k) : Canon (s.updateKeys k) := h
scoped grind_pattern updateKeys_canon => s.updateKeys k

theorem execKeyRollover_canon {s : State} (h : Canon s) (link up) : CanonRes (execKeyRollover link up s) := by
  unfold execKeyRollover
  grind -ring -lia -linarith
scoped grind_pattern execKeyRollover_canon => execKeyRollover link up s

/-! ### Attest: Flits (R411, R415, R419, R420) -/

theorem takeDown_canon {s : State} (h : Canon s) (k) : Canon (s.takeDown k) := by
  unfold State.takeDown
  grind -ring -lia -linarith
scoped grind_pattern takeDown_canon => s.takeDown k

theorem cross_canon {s : State} (h : Canon s) (link up n) : Canon (s.cross link up n) := by
  unfold State.cross
  grind -ring -lia -linarith
scoped grind_pattern cross_canon => s.cross link up n

theorem withHeader_canon {s : State} (h : Canon s) (f) : Canon (s.withHeader f) := by
  unfold State.withHeader
  grind -ring -lia -linarith
scoped grind_pattern withHeader_canon => s.withHeader f

theorem execRingFlitReceive_canon {s : State} (h : Canon s) (link up f) : CanonRes (execRingFlitReceive link up f s) := by
  unfold execRingFlitReceive
  grind -ring -lia -linarith
scoped grind_pattern execRingFlitReceive_canon => execRingFlitReceive link up f s

theorem execLinkRestore_canon {s : State} (h : Canon s) (link) : CanonRes (execLinkRestore link s) := by
  unfold execLinkRestore
  grind -ring -lia -linarith
scoped grind_pattern execLinkRestore_canon => execLinkRestore link s

theorem roundDue_canon {s : State} (h : Canon s) (b) : Canon { s with roundDue := b } := h
theorem execStandbyHandBack_canon {s : State} (h : Canon s) (die) : CanonRes (execStandbyHandBack die s) := by
  unfold execStandbyHandBack
  split
  · exact h
  · refine canonRes_next.2 (roundDue_canon (rootDone_canon (foldl_canon (fun s e h => event_canon h _ _) ?_ _) s) true)
    exact setDie_canon (handBack_canon h die) _ _
scoped grind_pattern execStandbyHandBack_canon => execStandbyHandBack die s

theorem OwnWork_run_canon {s : State} (h : Canon s) (w) : CanonRes (OwnWork.run w s) := by
  unfold OwnWork.run
  grind -ring -lia -linarith
scoped grind_pattern OwnWork_run_canon => OwnWork.run w s

/-! ### Package: Losing a die (R421, R431) -/

theorem restartFurlong_canon {s : State} (h : Canon s) (lid fid p) : Canon (s.restartFurlong lid fid p) := by
  unfold State.restartFurlong
  grind -ring -lia -linarith
scoped grind_pattern restartFurlong_canon => s.restartFurlong lid fid p

theorem launchesLost_canon {s : State} (h : Canon s) (d) : Canon (s.launchesLost d) := by
  refine foldl_canon (fun s e h => ?_) h _
  grind -ring -lia -linarith +splitImp
scoped grind_pattern launchesLost_canon => s.launchesLost d

theorem nbLost_canon {s : State} (h : Canon s) (d) : Canon (s.nbLost d) := by
  unfold State.nbLost
  grind -ring -lia -linarith
scoped grind_pattern nbLost_canon => s.nbLost d

theorem sendLoss_canon {s : State} (h : Canon s) (d) : Canon (s.sendLoss d) := by
  unfold State.sendLoss
  grind -ring -lia -linarith
scoped grind_pattern sendLoss_canon => s.sendLoss d

theorem stealsLost_canon {s : State} (h : Canon s) (d) : Canon (s.stealsLost d) := by
  unfold State.stealsLost
  grind -ring -lia -linarith
scoped grind_pattern stealsLost_canon => s.stealsLost d

theorem resetDie_canon {s : State} (h : Canon s) (d) : Canon (s.resetDie d) := by
  unfold State.resetDie
  grind -ring -lia -linarith
scoped grind_pattern resetDie_canon => s.resetDie d

theorem execDiectlReset_canon {s : State} (h : Canon s) (v) : CanonRes (execDiectlReset v s) := by
  unfold execDiectlReset
  grind -ring -lia -linarith
scoped grind_pattern execDiectlReset_canon => execDiectlReset v s

theorem execDiectlRetry_canon {s : State} (h : Canon s) (v) : CanonRes (execDiectlRetry v s) := by
  unfold execDiectlRetry
  grind -ring -lia -linarith
scoped grind_pattern execDiectlRetry_canon => execDiectlRetry v s

theorem execModuleReset_canon {s : State} (h : Canon s) : CanonRes (execModuleReset s) := by
  unfold execModuleReset
  grind -ring -lia -linarith
scoped grind_pattern execModuleReset_canon => execModuleReset s

/-! ### Package: Near memory (R110) -/

theorem clearNear_canon {s : State} (h : Canon s) (d) : Canon (s.clearNear d) := Laws.Tbl.wf_filter _ h
scoped grind_pattern clearNear_canon => s.clearNear d

theorem writeNmctl_canon {s : State} (h : Canon s) (d en) : Canon (s.writeNmctl d en) := by
  unfold State.writeNmctl
  grind -ring -lia -linarith
scoped grind_pattern writeNmctl_canon => s.writeNmctl d en

theorem execNmctlEnable_canon {s : State} (h : Canon s) (die) : CanonRes (execNmctlEnable die s) := by
  unfold execNmctlEnable
  grind -ring -lia -linarith
scoped grind_pattern execNmctlEnable_canon => execNmctlEnable die s

/-! ### Package: The host (R422, R423, R428) -/

theorem execHostSpdmRequest_canon {s : State} (h : Canon s) (nonce) : CanonRes (execHostSpdmRequest nonce s) := by
  unfold execHostSpdmRequest
  grind -ring -lia -linarith
scoped grind_pattern execHostSpdmRequest_canon => execHostSpdmRequest nonce s

theorem execBar2Read_canon {s : State} (h : Canon s) (a n) : CanonRes (execBar2Read a n s) := by
  unfold execBar2Read
  grind -ring -lia -linarith
scoped grind_pattern execBar2Read_canon => execBar2Read a n s

theorem execBar2Write_canon {s : State} (h : Canon s) (a bytes bad) : CanonRes (execBar2Write a bytes s bad) := by
  unfold execBar2Write
  grind -ring -lia -linarith
scoped grind_pattern execBar2Write_canon => execBar2Write a bytes s bad

theorem execHwArm_canon {s : State} (h : Canon s) (iod i) : CanonRes (execHwArm iod i s) := by
  unfold execHwArm
  grind -ring -lia -linarith
scoped grind_pattern execHwArm_canon => execHwArm iod i s

/-! ### Package: Peers (R425) -/

theorem answerPeer_canon {s : State} (h : Canon s) (m) : Canon (s.answerPeer m) := h
scoped grind_pattern answerPeer_canon => s.answerPeer m

theorem peerAtomic_canon {s : State} (h : Canon s) (q pa op v v2) : Canon (s.peerAtomic q pa op v v2) := by
  unfold State.peerAtomic
  grind -ring -lia -linarith
scoped grind_pattern peerAtomic_canon => s.peerAtomic q pa op v v2

theorem peerWrite_canon {s : State} (h : Canon s) (q pa bytes bad) : Canon (s.peerWrite q pa bytes bad) := by
  unfold State.peerWrite
  grind -ring -lia -linarith
scoped grind_pattern peerWrite_canon => s.peerWrite q pa bytes bad

theorem dropPair_canon {s : State} (h : Canon s) (q) : Canon (s.dropPair q) := by
  unfold State.dropPair
  grind -ring -lia -linarith
scoped grind_pattern dropPair_canon => s.dropPair q

theorem execPeerRdmaRequest_canon {s : State} (h : Canon s) (q req) : CanonRes (execPeerRdmaRequest q req s) := by
  unfold execPeerRdmaRequest
  grind -ring -lia -linarith
scoped grind_pattern execPeerRdmaRequest_canon => execPeerRdmaRequest q req s

/-! ### Package: The patrol scrubber (R78, R79) -/

theorem execPatrolScrub_canon {s : State} (h : Canon s) (pa found) : CanonRes (execPatrolScrub pa found s) := by
  unfold execPatrolScrub
  grind -ring -lia -linarith
scoped grind_pattern execPatrolScrub_canon => execPatrolScrub pa found s

/-! ### Traps: Fetching a clause (R202 to R206) -/

theorem fetchWords_canon {s : State} (h : Canon s) (c asid den va n acc) : Ends Canon2 Canon2 (s.fetchWords c asid den va n acc) := by
  fun_induction State.fetchWords s c asid den va n acc <;> grind -ring -lia -linarith
scoped grind_pattern fetchWords_canon => s.fetchWords c asid den va n acc

theorem fetchClause_canon {s : State} (h : Canon s) (c asid den va) : Ends Canon2 Canon2 (s.fetchClause c asid den va) := by
  unfold State.fetchClause
  grind -ring -lia -linarith
scoped grind_pattern fetchClause_canon => s.fetchClause c asid den va

theorem beginClause_canon {s : State} (h : Canon s) (r sl x y hint body) : Canon (s.beginClause r sl x y hint body) := by
  unfold State.beginClause
  grind -ring -lia -linarith
scoped grind_pattern beginClause_canon => s.beginClause r sl x y hint body

theorem execClauseStart_canon {s : State} (h : Canon s) (r sl) : CanonRes (execClauseStart r sl s) := by
  unfold execClauseStart
  grind -ring -lia -linarith
scoped grind_pattern execClauseStart_canon => execClauseStart r sl s

/-! ### Traps: Halts and handler entry (R402, R403, R405) -/

theorem execHaltReceive_canon {s : State} (h : Canon s) (r) : CanonRes (execHaltReceive r s) := by
  unfold execHaltReceive
  grind -ring -lia -linarith
scoped grind_pattern execHaltReceive_canon => execHaltReceive r s

theorem execHandlerEntry_canon {s : State} (h : Canon s) (r) : CanonRes (execHandlerEntry r s) := by
  unfold execHandlerEntry
  grind -ring -lia -linarith
scoped grind_pattern execHandlerEntry_canon => execHandlerEntry r s

/-! ### Traps: Break bits (R438) -/

theorem execBreakBitHit_canon {s : State} (h : Canon s) (r sl) : CanonRes (execBreakBitHit r sl s) := by
  unfold execBreakBitHit
  grind -ring -lia -linarith
scoped grind_pattern execBreakBitHit_canon => execBreakBitHit r sl s

/-! ### Traps: `sleep` and ageing (R163, R259) -/

theorem execSleepExpire_canon {s : State} (h : Canon s) (r sl) : CanonRes (execSleepExpire r sl s) := by
  unfold execSleepExpire
  grind -ring -lia -linarith
scoped grind_pattern execSleepExpire_canon => execSleepExpire r sl s

theorem execAgeingSwap_canon {s : State} (h : Canon s) (r) : CanonRes (execAgeingSwap r s) := by
  unfold execAgeingSwap
  grind -ring -lia -linarith
scoped grind_pattern execAgeingSwap_canon => execAgeingSwap r s

/-! ### Traps: Traps by instruction (R405) -/

theorem execTrap_canon {s : State} (h : Canon s) (g n) : CanonRes (execTrap g n s) := by
  refine withIss_canon fun i => ?_
  grind -ring -lia -linarith
scoped grind_pattern execTrap_canon => execTrap g n s

theorem execTret_canon {s : State} (h : Canon s) (g) : CanonRes (execTret g s) := by
  refine withIss_canon fun i => ?_
  grind -ring -lia -linarith
scoped grind_pattern execTret_canon => execTret g s

theorem execTclr_canon {s : State} (h : Canon s) (g m) : CanonRes (execTclr g m s) := by
  refine withIss_canon fun i => ?_
  grind -ring -lia -linarith
scoped grind_pattern execTclr_canon => execTclr g m s

/-! ### Traps: System reads and writes (R406) -/

theorem execSysrd_canon {s : State} (h : Canon s) (g d item) : CanonRes (execSysrd g d item s) := by
  refine issue_canon h fun c h ho => ?_
  grind -ring -lia -linarith
scoped grind_pattern execSysrd_canon => execSysrd g d item s

theorem execSyswr_canon {s : State} (h : Canon s) (g r a) : CanonRes (execSyswr g r a s) := by
  refine issue_canon h fun c h ho => ?_
  grind -ring -lia -linarith
scoped grind_pattern execSyswr_canon => execSyswr g r a s

/-! ### Traps: `csave` and `crest` (R407) -/

theorem imageBlocks_canon {s : State} (h : Canon s) (i va kind l acc) : Ends Canon3 Canon2 (s.imageBlocks i va kind l acc) := by
  fun_induction State.imageBlocks s i va kind l acc <;> grind -ring -lia -linarith
scoped grind_pattern imageBlocks_canon => s.imageBlocks i va kind l acc

theorem imageForm_canon {s : State} (h : Canon s) {g a ready} {k : Ctx → DWord → Res}
    (hk : ∀ c va, Canon c.s → Canon c.old → CanonRes (k c va)) : CanonRes (imageForm s g a ready k) := by
  refine issue_canon h fun c h ho => ?_
  grind -ring -lia -linarith
scoped grind_pattern imageForm_canon => imageForm s g a ready k

theorem writeBlocks_canon {s : State} (h : Canon s) (r l) : Canon (s.writeBlocks r l).2 := by
  fun_induction State.writeBlocks s r l <;> grind -ring -lia -linarith
scoped grind_pattern writeBlocks_canon => s.writeBlocks r l

theorem execCsave_canon {s : State} (h : Canon s) (g a) : CanonRes (execCsave g a s) := by
  unfold execCsave
  grind -ring -lia -linarith
scoped grind_pattern execCsave_canon => execCsave g a s

theorem readBlocks_canon {s : State} (h : Canon s) (c l bs k) : Canon (s.readBlocks c l bs k).2 := by
  fun_induction State.readBlocks s c l bs k <;> grind -ring -lia -linarith
scoped grind_pattern readBlocks_canon => s.readBlocks c l bs k

theorem execCrest_canon {s : State} (h : Canon s) (g a) : CanonRes (execCrest g a s) := by
  refine imageForm_canon h fun c va h ho => ?_
  dsimp only
  split
  · grind -ring -lia -linarith
  split
  · grind -ring -lia -linarith
  split
  · grind -ring -lia -linarith
  split <;> grind -ring -lia -linarith
scoped grind_pattern execCrest_canon => execCrest g a s

/-! ### Debug: Holding (R440 to R443) -/

theorem holdAfter_canon {s : State} (h : Canon s) (i reason n) : CanonRes (holdAfter s i reason n) := by
  unfold holdAfter
  grind -ring -lia -linarith
scoped grind_pattern holdAfter_canon => holdAfter s i reason n

theorem execHold_canon {s : State} (h : Canon s) (g) : CanonRes (execHold g s) := by
  refine withIss_canon fun i => ?_
  grind -ring -lia -linarith
scoped grind_pattern execHold_canon => execHold g s

theorem execEbrk_canon {s : State} (h : Canon s) (g n) : CanonRes (execEbrk g n s) := by
  refine withIss_canon fun i => ?_
  grind -ring -lia -linarith
scoped grind_pattern execEbrk_canon => execEbrk g n s

theorem execDbghalt_canon {s : State} (h : Canon s) (die v) : CanonRes (execDbghalt die v s) := by
  unfold execDbghalt
  grind -ring -lia -linarith
scoped grind_pattern execDbghalt_canon => execDbghalt die v s

theorem execDbgrelResume_canon {s : State} (h : Canon s) (die core) : CanonRes (execDbgrelResume die core s) := by
  unfold execDbgrelResume
  grind -ring -lia -linarith
scoped grind_pattern execDbgrelResume_canon => execDbgrelResume die core s

theorem execDbgrelKill_canon {s : State} (h : Canon s) (die core) : CanonRes (execDbgrelKill die core s) := by
  unfold execDbgrelKill
  grind -ring -lia -linarith
scoped grind_pattern execDbgrelKill_canon => execDbgrelKill die core s

theorem execHoldLimitExpire_canon {s : State} (h : Canon s) : CanonRes (execHoldLimitExpire s) := by
  unfold execHoldLimitExpire
  grind -ring -lia -linarith
scoped grind_pattern execHoldLimitExpire_canon => execHoldLimitExpire s

/-! ### Debug: The rod window (R439) -/

theorem execRodWindowWrite_canon {s : State} (h : Canon s) (die off bytes) : CanonRes (execRodWindowWrite die off bytes s) := by
  unfold execRodWindowWrite
  grind -ring -lia -linarith
scoped grind_pattern execRodWindowWrite_canon => execRodWindowWrite die off bytes s

/-! ### Debug: Break bits and counters (R436, R445) -/

theorem execBrksync_canon {s : State} (h : Canon s) : CanonRes (execBrksync s) := by
  unfold execBrksync
  grind -ring -lia -linarith
scoped grind_pattern execBrksync_canon => execBrksync s

theorem execPerfctlClear_canon {s : State} (h : Canon s) (die) : CanonRes (execPerfctlClear die s) := by
  unfold execPerfctlClear
  grind -ring -lia -linarith
scoped grind_pattern execPerfctlClear_canon => execPerfctlClear die s

theorem execPerfctlSnapshot_canon {s : State} (h : Canon s) (die) : CanonRes (execPerfctlSnapshot die s) := by
  unfold execPerfctlSnapshot
  grind -ring -lia -linarith
scoped grind_pattern execPerfctlSnapshot_canon => execPerfctlSnapshot die s

/-! ### Debug: Samples (R446 to R448) -/

theorem execPrmark_canon {s : State} (h : Canon s) (g imm) : CanonRes (execPrmark g imm s) := by
  refine withIss_canon fun i => ?_
  grind -ring -lia -linarith
scoped grind_pattern execPrmark_canon => execPrmark g imm s

theorem execSmpl_canon {s : State} (h : Canon s) (g a n) : CanonRes (execSmpl g a n s) := by
  refine issue_canon h fun c h ho => ?_
  grind -ring -lia -linarith
scoped grind_pattern execSmpl_canon => execSmpl g a n s

theorem sampleQuad_canon {s : State} (h : Canon s) (c q) : Canon (s.sampleQuad c q) := by
  unfold State.sampleQuad
  grind -ring -lia -linarith
scoped grind_pattern sampleQuad_canon => s.sampleQuad c q

theorem execPcSample_canon {s : State} (h : Canon s) : CanonRes (execPcSample s) := by
  unfold execPcSample
  grind -ring -lia -linarith
scoped grind_pattern execPcSample_canon => execPcSample s

/-! ### Debug: Registers (R8) -/

theorem writeMerrs_canon {s : State} (h : Canon s) (stop v) : Canon (s.writeMerrs stop v) := by
  unfold State.writeMerrs
  grind -ring -lia -linarith
scoped grind_pattern writeMerrs_canon => s.writeMerrs stop v

theorem writeWatch_canon {s : State} (h : Canon s) (i f) : Canon (s.writeWatch i f) := by
  unfold State.writeWatch
  grind -ring -lia -linarith
scoped grind_pattern writeWatch_canon => s.writeWatch i f

theorem writeReg_canon {s : State} (h : Canon s) (r i v) : Canon (s.writeReg r i v) := by
  unfold State.writeReg
  grind -ring -lia -linarith
scoped grind_pattern writeReg_canon => s.writeReg r i v

theorem execRegisterWrite_canon {s : State} (h : Canon s) (r i v) : CanonRes (execRegisterWrite r i v s) := by
  unfold execRegisterWrite
  grind -ring -lia -linarith
scoped grind_pattern execRegisterWrite_canon => execRegisterWrite r i v s

/-! ### IvAlu -/

theorem formIv1_canon {s : State} (h : Canon s) (g v d a m f) : CanonRes (formIv1 s g v d a m f) := by
  refine issue_canon h fun c h ho => ?_
  grind -ring -lia -linarith
scoped grind_pattern formIv1_canon => formIv1 s g v d a m f

theorem formIv2_canon {s : State} (h : Canon s) (g v d a b m f) : CanonRes (formIv2 s g v d a b m f) := by
  refine issue_canon h fun c h ho => ?_
  grind -ring -lia -linarith
scoped grind_pattern formIv2_canon => formIv2 s g v d a b m f

theorem execIfma_canon {s : State} (h : Canon s) (g v d a b c m) : CanonRes (execIfma g v d a b c m s) := by
  refine issue_canon h fun c h ho => ?_
  grind -ring -lia -linarith
scoped grind_pattern execIfma_canon => execIfma g v d a b c m s

theorem execIdiv2_canon {s : State} (h : Canon s) (g v d a b q m) : CanonRes (execIdiv2 g v d a b q m s) := by
  refine issue_canon h fun c h ho => ?_
  grind -ring -lia -linarith
scoped grind_pattern execIdiv2_canon => execIdiv2 g v d a b q m s

theorem execIpt_canon {s : State} (h : Canon s) (g v d a m) : CanonRes (execIpt g v d a m s) := by
  unfold execIpt
  grind -ring -lia -linarith
scoped grind_pattern execIpt_canon => execIpt g v d a m s

theorem execIbis_canon {s : State} (h : Canon s) (g v d a q m) : CanonRes (execIbis g v d a q m s) := by
  refine issue_canon h fun c h ho => ?_
  grind -ring -lia -linarith
scoped grind_pattern execIbis_canon => execIbis g v d a q m s

theorem execIscl_canon {s : State} (h : Canon s) (g v d a b m) : CanonRes (execIscl g v d a b m s) := by
  refine issue_canon h fun c h ho => ?_
  grind -ring -lia -linarith
scoped grind_pattern execIscl_canon => execIscl g v d a b m s

theorem execIcmp_canon {s : State} (h : Canon s) (g v rel q a b m) : CanonRes (execIcmp g v rel q a b m s) := by
  refine issue_canon h fun c h ho => ?_
  grind -ring -lia -linarith
scoped grind_pattern execIcmp_canon => execIcmp g v rel q a b m s

theorem execIcls_canon {s : State} (h : Canon s) (g v cls q a m) : CanonRes (execIcls g v cls q a m s) := by
  refine issue_canon h fun c h ho => ?_
  grind -ring -lia -linarith
scoped grind_pattern execIcls_canon => execIcls g v cls q a m s

theorem execIcvt_canon {s : State} (h : Canon s) (g dt st hi d a m) : CanonRes (execIcvt g dt st hi d a m s) := by
  refine issue_canon h fun c h ho => ?_
  grind -ring -lia -linarith
scoped grind_pattern execIcvt_canon => execIcvt g dt st hi d a m s

theorem execImr_canon {s : State} (h : Canon s) (g v plane d a m) : CanonRes (execImr g v plane d a m s) := by
  unfold execImr
  grind -ring -lia -linarith
scoped grind_pattern execImr_canon => execImr g v plane d a m s

theorem execIxr_canon {s : State} (h : Canon s) (g v d a m) : CanonRes (execIxr g v d a m s) := by
  unfold execIxr
  grind -ring -lia -linarith
scoped grind_pattern execIxr_canon => execIxr g v d a m s

/-! ### Functions: The table store (R288 to R293) -/

theorem tableRead_canon {s : State} (h : Canon s) (opn o va) : Ends Canon Canon2 (s.tableRead opn o va) := by
  unfold State.tableRead
  grind -ring -lia -linarith
scoped grind_pattern tableRead_canon => s.tableRead opn o va

theorem tableReads_canon {s : State} (h : Canon s) (opn o va tid slot recs k n) :
    Ends Canon Canon2 (s.tableReads opn o va tid slot recs k n) := by
  fun_induction State.tableReads s opn o va tid slot recs k n <;> grind -ring -lia -linarith
scoped grind_pattern tableReads_canon => s.tableReads opn o va tid slot recs k n

theorem execTblld_canon {s : State} (h : Canon s) (g a tid slot) : CanonRes (execTblld g a tid slot s) := by
  refine issue_canon h fun c h ho => ?_
  grind -ring -lia -linarith
scoped grind_pattern execTblld_canon => execTblld g a tid slot s

theorem execTblldComplete_canon {s : State} (h : Canon s) (op) : CanonRes (execTblldComplete op s) := by
  unfold execTblldComplete
  grind -ring -lia -linarith
scoped grind_pattern execTblldComplete_canon => execTblldComplete op s

theorem execTblsw_canon {s : State} (h : Canon s) (g) : CanonRes (execTblsw g s) := by
  refine withIss_canon fun i => ?_
  grind -ring -lia -linarith
scoped grind_pattern execTblsw_canon => execTblsw g s

theorem execTblq_canon {s : State} (h : Canon s) (g d tid) : CanonRes (execTblq g d tid s) := by
  refine issue_canon h fun c h ho => ?_
  grind -ring -lia -linarith
scoped grind_pattern execTblq_canon => execTblq g d tid s

/-! ### Functions: Evaluation (R296, R298) -/

theorem execIfn_canon {s : State} (h : Canon s) (g v tid d a m) : CanonRes (execIfn g v tid d a m s) := by
  refine issue_canon h fun c h ho => ?_
  grind -ring -lia -linarith
scoped grind_pattern execIfn_canon => execIfn g v tid d a m s

theorem execIfnc_canon {s : State} (h : Canon s) (g tid d a m) : CanonRes (execIfnc g tid d a m s) := by
  refine issue_canon h fun c h ho => ?_
  grind -ring -lia -linarith
scoped grind_pattern execIfnc_canon => execIfnc g tid d a m s

/-! ### Functions: Row statistics (R299 to R304) -/

theorem rowStat_canon {s : State} (h : Canon s) (g v z d a b m k f) : CanonRes (rowStat s g v z d a b m k f) := by
  unfold rowStat
  grind -ring -lia -linarith
scoped grind_pattern rowStat_canon => rowStat s g v z d a b m k f

theorem execSmxexp_canon {s : State} (h : Canon s) (g v z d a m) : CanonRes (execSmxexp g v z d a m s) := by
  refine issue_canon h fun c h ho => ?_
  grind -ring -lia -linarith
scoped grind_pattern execSmxexp_canon => execSmxexp g v z d a m s

theorem execSmxnorm_canon {s : State} (h : Canon s) (g v z d a q m) : CanonRes (execSmxnorm g v z d a q m s) := by
  refine issue_canon h fun c h ho => ?_
  grind -ring -lia -linarith
scoped grind_pattern execSmxnorm_canon => execSmxnorm g v z d a q m s

/-! ### Matrix -/

theorem execMxgang_canon {s : State} (h : Canon s) (g a) : CanonRes (execMxgang g a s) := by
  refine issue_canon h fun c h ho => ?_
  grind -ring -lia -linarith
scoped grind_pattern execMxgang_canon => execMxgang g a s

theorem gangIssue_canon {s : State} (h : Canon s) (i members ins word a b k long) : Canon (s.gangIssue i members ins word a b k long) := by
  unfold State.gangIssue
  grind -ring -lia -linarith
scoped grind_pattern gangIssue_canon => s.gangIssue i members ins word a b k long

theorem rendezvous_canon {c : Ctx} (h : Canon c.s) (ho : Canon c.old) (ch ins gang a b k long) :
    CanonRes (rendezvous c ch ins gang a b k long) := by
  unfold rendezvous
  dsimp only
  split
  · exact wait_canon ho _ _
  split
  · split
    · exact wait_canon ho _ _
    split
    · exact trap_canon ho _ _
    split
    · exact wait_canon ho _ _
    · exact wait_canon (setChain_canon h _ _) _ _
  split
  · exact trap_canon ho _ _
  split
  · grind -ring -lia -linarith +splitImp
  grind -ring -lia -linarith
scoped grind_pattern rendezvous_canon => rendezvous c ch ins gang a b k long

theorem tileForm_canon {s : State} (h : Canon s) (g ins srcs long vals) : CanonRes (tileForm s g ins srcs long vals) := by
  refine issue_canon h fun c h ho => ?_
  grind -ring -lia -linarith
scoped grind_pattern tileForm_canon => tileForm s g ins srcs long vals

theorem execMxrd_canon {s : State} (h : Canon s) (g v t d row col) : CanonRes (execMxrd g v t d row col s) := by
  refine issue_canon h fun c h ho => ?_
  grind -ring -lia -linarith
scoped grind_pattern execMxrd_canon => execMxrd g v t d row col s

theorem execMxKStep_canon {s : State} (h : Canon s) (op) : CanonRes (execMxKStep op s) := by
  unfold execMxKStep
  grind -ring -lia -linarith
scoped grind_pattern execMxKStep_canon => execMxKStep op s

theorem execMxOpComplete_canon {s : State} (h : Canon s) (op) : CanonRes (execMxOpComplete op s) := by
  unfold execMxOpComplete
  grind -ring -lia -linarith
scoped grind_pattern execMxOpComplete_canon => execMxOpComplete op s

end Sys2Proof.MemoryForm
end

section
/-! SUPPORT. Canonical memory, function by function: one instruction and one cycle. -/

namespace Sys2Proof.MemoryForm
open Sys2Proof.Machine

/-! ### Dispatch -/

theorem exec_canon {s : State} (h : Canon s) (i : Instr) : CanonRes (exec i s) := by
  cases i with
  | neg | abs | not | popc | clz | ctz | brev | mov =>
    unfold exec
    exact int1_canon h ..
  | add | sub | mul | mulh | mulhn | div | divn | rem | remn | min | minn | max | maxn | and | or | xor | andn | shl | shr | sar | rol | bfx |
    bfxn =>
    unfold exec
    exact int2_canon h ..
  | mad | madh | bfi =>
    unfold exec
    exact int3_canon h ..
  | qnot | qsure | qmaybe | qmov =>
    unfold exec
    exact kleene1_canon h ..
  | qand | qor | qxor =>
    unfold exec
    exact kleene2_canon h ..
  | ircp | isqr | isqrt | iabs | ineg | imid | irad | iwid | imag | imig | iinf | isup | iflr | iceil | iexp2 | ilog2 | irsqrt =>
    unfold exec
    exact formIv1_canon h ..
  | iadd | isub | imul | idiv | imin | imax | ihull | imeet | imk =>
    unfold exec
    exact formIv2_canon h ..
  | mxwin | mxclr | mxmm | mxim | mxcv | mxst | mxsv | mxrs | mxsp =>
    unfold exec
    exact tileForm_canon h ..
  | fenceAcq | fenceRel | fenceAcqRel | fenceSc =>
    unfold exec
    exact fenceForm_canon h ..
  | segmax | segmin | segsum | segnorm =>
    unfold exec
    exact rowStat_canon h ..
  | ld | ldmr =>
    unfold exec
    exact loadForm_canon h ..
  | st =>
    unfold exec
    exact storeForm_canon h ..
  | lds | ldtk =>
    unfold exec
    exact scrLoad_canon h ..
  | sts | stfl =>
    unfold exec
    exact scrStore_canon h ..
  | cpy | cpyo =>
    unfold exec
    exact copyForm_canon h ..
  | dmaCopy | dmaFill =>
    unfold exec
    exact dmaMoveForm_canon h ..
  | dmaRdmaWrite | dmaSend =>
    unfold exec
    exact dmaSendForm_canon h ..
  | sel => exact execSel_canon h ..
  | ldi => exact execLdi_canon h ..
  | cvt => exact execCvt_canon h ..
  | lea => exact execLea_canon h ..
  | perm => exact execPerm_canon h ..
  | kset => exact execKset_canon h ..
  | kadd => exact execKadd_canon h ..
  | rdx => exact execRdx_canon h ..
  | wrx => exact execWrx_canon h ..
  | cmp => exact execCmp_canon h ..
  | qvote => exact execQvote_canon h ..
  | qmask => exact execQmask_canon h ..
  | qfrom => exact execQfrom_canon h ..
  | br => exact execBr_canon h ..
  | br3 => exact execBr3_canon h ..
  | join => exact execJoin_canon h ..
  | call => exact execCall_canon h ..
  | ret => exact execRet_canon h ..
  | jmpi => exact execJmpi_canon h ..
  | exit => exact execExit_canon h ..
  | yield => exact execYield_canon h ..
  | sleep => exact execSleep_canon h ..
  | nop g => exact execNop_canon h g
  | rgive => exact execRgive_canon h ..
  | rtake => exact execRtake_canon h ..
  | split => exact execSplit_canon h ..
  | fork => exact execFork_canon h ..
  | take => exact execTake_canon h ..
  | poolcfg => exact execPoolcfg_canon h ..
  | poolst => exact execPoolst_canon h ..
  | ifma => exact execIfma_canon h ..
  | idiv2 => exact execIdiv2_canon h ..
  | ipt => exact execIpt_canon h ..
  | ibis => exact execIbis_canon h ..
  | iscl => exact execIscl_canon h ..
  | icmp => exact execIcmp_canon h ..
  | icls => exact execIcls_canon h ..
  | icvt => exact execIcvt_canon h ..
  | imr => exact execImr_canon h ..
  | ixr => exact execIxr_canon h ..
  | ifn => exact execIfn_canon h ..
  | ifnc => exact execIfnc_canon h ..
  | tblld => exact execTblld_canon h ..
  | tblldComplete => exact execTblldComplete_canon h ..
  | tblsw => exact execTblsw_canon h ..
  | tblq => exact execTblq_canon h ..
  | smxexp => exact execSmxexp_canon h ..
  | smxnorm => exact execSmxnorm_canon h ..
  | loadComplete => exact execLoadComplete_canon h ..
  | stmr => exact execStmr_canon h ..
  | ldXs => exact execLdXs_canon h ..
  | redXs => exact execRedXs_canon h ..
  | fullEmptyRelease => exact execFullEmptyRelease_canon h ..
  | fest g full ad hint => exact execFest_canon h g full ad hint
  | feq g d ad hint => exact execFeq_canon h g d ad hint
  | gth => exact execGth_canon h ..
  | gatherRowArrive => exact execGatherRowArrive_canon h ..
  | prf => exact execPrf_canon h ..
  | inv g n ad hint => exact execInv_canon h g n ad hint
  | wbk g n ad hint => exact execWbk_canon h g n ad hint
  | own => exact execOwn_canon h ..
  | pgcm g d ad hint => exact execPgcm_canon h g d ad hint
  | pgdc g d ad hint => exact execPgdc_canon h g d ad hint
  | pgq g d ad hint => exact execPgq_canon h g d ad hint
  | dalloc g d n hint => exact execDalloc_canon h g d n hint
  | dfree g n ad hint => exact execDfree_canon h g n ad hint
  | atom g op sz d ad sc o hint => exact execAtom_canon h g op sz d ad sc o hint
  | red => exact execRed_canon h ..
  | fenceEngine g sc => exact execFenceEngine_canon h g sc
  | xfence => exact execXfence_canon h ..
  | acqr => exact execAcqr_canon h ..
  | waitany g d ad hint => exact execWaitany_canon h g d ad hint
  | waitanyWake => exact execWaitanyWake_canon h ..
  | waitanyTimeout => exact execWaitanyTimeout_canon h ..
  | barv => exact execBarv_canon h ..
  | barw => exact execBarw_canon h ..
  | bars => exact execBars_canon h ..
  | barb => exact execBarb_canon h ..
  | barrierPhaseComplete => exact execBarrierPhaseComplete_canon h ..
  | furlongRemotePhase => exact execFurlongRemotePhase_canon h ..
  | seqinc g a ad sc o hint => exact execSeqinc_canon h g a ad sc o hint
  | seqwt g d ad sc o hint => exact execSeqwt_canon h g d ad sc o hint
  | seqwtWake => exact execSeqwtWake_canon h ..
  | launch => exact execLaunch_canon h ..
  | cancel => exact execCancel_canon h ..
  | copyLineLand => exact execCopyLineLand_canon h ..
  | copyComplete => exact execCopyComplete_canon h ..
  | mxgang => exact execMxgang_canon h ..
  | mxKStep => exact execMxKStep_canon h ..
  | mxOpComplete => exact execMxOpComplete_canon h ..
  | mxrd => exact execMxrd_canon h ..
  | nbgrid => exact execNbgrid_canon h ..
  | nbbin => exact execNbbin_canon h ..
  | nbpair => exact execNbpair_canon h ..
  | nbPairRecord => exact execNbPairRecord_canon h ..
  | nbStreamEnd => exact execNbStreamEnd_canon h ..
  | nbstat => exact execNbstat_canon h ..
  | nbmove => exact execNbmove_canon h ..
  | nbclr => exact execNbclr_canon h ..
  | nbOpComplete => exact execNbOpComplete_canon h ..
  | trap => exact execTrap_canon h ..
  | tret => exact execTret_canon h ..
  | tclr => exact execTclr_canon h ..
  | hold => exact execHold_canon h ..
  | ebrk => exact execEbrk_canon h ..
  | sysrd => exact execSysrd_canon h ..
  | syswr => exact execSyswr_canon h ..
  | prmark => exact execPrmark_canon h ..
  | smpl => exact execSmpl_canon h ..
  | csave => exact execCsave_canon h ..
  | crest => exact execCrest_canon h ..
  | clauseStart => exact execClauseStart_canon h ..
  | breakBitHit => exact execBreakBitHit_canon h ..
  | sleepExpire => exact execSleepExpire_canon h ..
  | ageingSwap => exact execAgeingSwap_canon h ..
  | rtakeGrant => exact execRtakeGrant_canon h ..
  | translationReplay => exact execTranslationReplay_canon h ..
  | walkComplete => exact execWalkComplete_canon h ..
  | commit => exact execCommit_canon h ..
  | pgrspRetry => exact execPgrspRetry_canon h ..
  | pgrspDeny => exact execPgrspDeny_canon h ..
  | xlicInvalidatePages => exact execXlicInvalidatePages_canon h ..
  | xlicInvalidateAsid => exact execXlicInvalidateAsid_canon h ..
  | xlicInvalidateAll => exact execXlicInvalidateAll_canon h ..
  | invalidationComplete => exact execInvalidationComplete_canon h ..
  | poolpush => exact execPoolpush_canon h ..
  | l1DieGrant => exact execL1DieGrant_canon h ..
  | l1PackageGrant => exact execL1PackageGrant_canon h ..
  | l1Forward => exact execL1Forward_canon h ..
  | l1Revoke => exact execL1Revoke_canon h ..
  | l1Eviction => exact execL1Eviction_canon h ..
  | homeRead => exact execHomeRead_canon h ..
  | homeRegister => exact execHomeRegister_canon h ..
  | homeRegisterFetch => exact execHomeRegisterFetch_canon h ..
  | homeWriteBack => exact execHomeWriteBack_canon h ..
  | homeOwnerAnswer => exact execHomeOwnerAnswer_canon h ..
  | homePerformedAccess => exact execHomePerformedAccess_canon h ..
  | nonhomeRead => exact execNonhomeRead_canon h ..
  | nonhomeRegistration => exact execNonhomeRegistration_canon h ..
  | nonhomePackageGrant => exact execNonhomePackageGrant_canon h ..
  | nonhomeForward => exact execNonhomeForward_canon h ..
  | nonhomeRevoke => exact execNonhomeRevoke_canon h ..
  | nonhomeWriteBack => exact execNonhomeWriteBack_canon h ..
  | promotion => exact execPromotion_canon h ..
  | lossNotice => exact execLossNotice_canon h ..
  | standbyHandBack => exact execStandbyHandBack_canon h ..
  | hostSnoop => exact execHostSnoop_canon h ..
  | backInvalidateResponse => exact execBackInvalidateResponse_canon h ..
  | hostCxlMemAccess => exact execHostCxlMemAccess_canon h ..
  | bar2Read => exact execBar2Read_canon h ..
  | bar2Write => exact execBar2Write_canon h ..
  | patrolScrub => exact execPatrolScrub_canon h ..
  | widxWrite => exact execWidxWrite_canon h ..
  | qpush => exact execQpush_canon h ..
  | slotFetch => exact execSlotFetch_canon h ..
  | launchReady => exact execLaunchReady_canon h ..
  | schedulerRound => exact execSchedulerRound_canon h ..
  | schedulerRoundTimer => exact execSchedulerRoundTimer_canon h ..
  | levelComplete => exact execLevelComplete_canon h ..
  | neighbourCommand => exact execNeighbourCommand_canon h ..
  | dmaRdmaRead => exact execDmaRdmaRead_canon h ..
  | dmaComplete => exact execDmaComplete_canon h ..
  | stealRequest => exact execStealRequest_canon h ..
  | stolenItemReturn => exact execStolenItemReturn_canon h ..
  | haltReceive => exact execHaltReceive_canon h ..
  | handlerEntry => exact execHandlerEntry_canon h ..
  | cancLaunch => exact execCancLaunch_canon h ..
  | cancGraph => exact execCancGraph_canon h ..
  | cancPhase => exact execCancPhase_canon h ..
  | cancJob => exact execCancJob_canon h ..
  | preqVacate => exact execPreqVacate_canon h ..
  | prel => exact execPrel_canon h ..
  | dlack => exact execDlack_canon h ..
  | nmctlEnable => exact execNmctlEnable_canon h ..
  | hwArm => exact execHwArm_canon h ..
  | diectlReset => exact execDiectlReset_canon h ..
  | diectlRetry => exact execDiectlRetry_canon h ..
  | powerOn => exact execPowerOn_canon h ..
  | moduleReset => exact execModuleReset_canon h ..
  | attestation => exact execAttestation_canon h ..
  | linkKeyInstall => exact execLinkKeyInstall_canon h ..
  | keyRollover => exact execKeyRollover_canon h ..
  | ringFlitReceive => exact execRingFlitReceive_canon h ..
  | linkRestore => exact execLinkRestore_canon h ..
  | hostSpdmRequest => exact execHostSpdmRequest_canon h ..
  | dbghalt => exact execDbghalt_canon h ..
  | dbgrelResume => exact execDbgrelResume_canon h ..
  | dbgrelKill => exact execDbgrelKill_canon h ..
  | holdLimitExpire => exact execHoldLimitExpire_canon h ..
  | rodWindowWrite => exact execRodWindowWrite_canon h ..
  | brksync => exact execBrksync_canon h ..
  | perfctlClear => exact execPerfctlClear_canon h ..
  | perfctlSnapshot => exact execPerfctlSnapshot_canon h ..
  | pcSample => exact execPcSample_canon h ..
  | registerWrite => exact execRegisterWrite_canon h ..
  | stampScrubber => exact execStampScrubber_canon h ..
  | peerRdmaRequest => exact execPeerRdmaRequest_canon h ..

/-! ### Select: What a (rod, slot) pair does next (R155) -/

theorem forgo_canon {s : State} (h : Canon s) (p) : Canon (s.forgo p) := by
  unfold State.forgo
  grind -ring -lia -linarith
scoped grind_pattern forgo_canon => s.forgo p

theorem firstPair_canon {s : State} (h : Canon s) (l) : Canon (s.firstPair l).2 := by
  fun_induction State.firstPair s l <;> grind -ring -lia -linarith
scoped grind_pattern firstPair_canon => s.firstPair l

/-! ### Select: What the links and the host bring -/

theorem inputAsks_canon {s : State} (h : Canon s) : Canon (s.inputAsks) := by
  unfold State.inputAsks
  grind -ring -lia -linarith
scoped grind_pattern inputAsks_canon => s.inputAsks

/-! ### Select: The choice -/

section
variable {α : Type}

theorem canonPick_none : CanonPick none := by rintro x ⟨⟩

theorem canonPick_some {p : Pick} (h : Canon p.state) : CanonPick (some p) := by rintro x ⟨⟩; exact h

theorem canonPick_map {f : α → Pick} (hf : ∀ a, Canon (f a).state) (o : Option α) : CanonPick (o.map f) := by
  cases o with
  | none => exact canonPick_none
  | some a => exact canonPick_some (hf a)

theorem canonPick_bind {f : α → Option Pick} (hf : ∀ a, CanonPick (f a)) (o : Option α) : CanonPick (o.bind f) := by
  cases o with
  | none => exact canonPick_none
  | some a => exact hf a

theorem canonPick_orElse {a b : Option Pick} (ha : CanonPick a) (hb : CanonPick b) : CanonPick (a <|> b) := by
  cases a with
  | none => exact hb
  | some p => exact ha
end

theorem pickFlit_canon {s : State} (h : Canon s) : CanonPick s.pickFlit := canonPick_map (fun _ => h) _

theorem pickLocal_canon {s : State} (h : Canon s) : CanonPick s.pickLocal :=
  canonPick_bind (fun _ => canonPick_map (fun _ => h) _) _

theorem pickMessage_canon {s : State} (h : Canon s) : CanonPick s.pickMessage := by
  unfold State.pickMessage
  split
  · exact canonPick_orElse (pickLocal_canon h) (pickFlit_canon h)
  · exact canonPick_orElse (pickFlit_canon h) (pickLocal_canon h)

theorem pickInput_canon {s : State} (h : Canon s) : CanonPick s.pickInput :=
  canonPick_bind (fun _ => canonPick_map (fun _ => h) _) _

theorem pickHardware_canon {s : State} (h : Canon s) : CanonPick s.pickHardware := by
  unfold State.pickHardware
  split
  · exact canonPick_none
  · exact canonPick_some h

theorem pickPair_canon {s : State} (h : Canon s) : CanonPick s.pickPair := by
  have hp := firstPair_canon h s.order
  unfold State.pickPair
  split
  next he => rw [he] at hp; exact canonPick_some hp
  · exact canonPick_none

theorem pickUrgent_canon {s : State} (h : Canon s) : CanonPick s.pickUrgent := by
  unfold State.pickUrgent
  split
  · exact canonPick_some h
  · exact canonPick_none

theorem select_canon {s : State} (h : Canon s) : CanonPick s.select := by
  have hm := pickMessage_canon h
  have hi := pickInput_canon h
  have hw := pickHardware_canon h
  have hp := pickPair_canon h
  refine canonPick_orElse (pickUrgent_canon h) ?_
  split
  · exact canonPick_orElse hp (canonPick_orElse hm (canonPick_orElse hi hw))
  · exact canonPick_orElse hm (canonPick_orElse hi (canonPick_orElse hw hp))
  · exact canonPick_orElse hi (canonPick_orElse hw (canonPick_orElse hp hm))
  · exact canonPick_orElse hw (canonPick_orElse hp (canonPick_orElse hm hi))

theorem idle_canon {s : State} (h : Canon s) : Canon (s.idle) := by
  unfold State.idle
  grind -ring -lia -linarith
scoped grind_pattern idle_canon => s.idle

/-! ### Select: What a cycle brings: soft errors (R73 to R79) -/

theorem poisonWords_canon {s : State} (h : Canon s) (ws) : Canon (s.poisonWords ws) := by
  unfold State.poisonWords
  grind -ring -lia -linarith
scoped grind_pattern poisonWords_canon => s.poisonWords ws

theorem poisonSlice_canon {s : State} (h : Canon s) (d ws) : Canon (s.poisonSlice d ws) := by
  unfold State.poisonSlice
  grind -ring -lia -linarith
scoped grind_pattern poisonSlice_canon => s.poisonSlice d ws

theorem spoil_canon {s : State} (h : Canon s) (p) : Canon (s.spoil p) := by
  unfold State.spoil
  grind -ring -lia -linarith
scoped grind_pattern spoil_canon => s.spoil p

theorem strike_canon {s : State} (h : Canon s) (u) : Canon (s.strike u) := by
  unfold State.strike
  grind -ring -lia -linarith
scoped grind_pattern strike_canon => s.strike u

theorem upsetsDue_canon {s : State} (h : Canon s) : Canon (s.upsetsDue) := by
  unfold State.upsetsDue
  grind -ring -lia -linarith
scoped grind_pattern upsetsDue_canon => s.upsetsDue

/-! ### Select: What a cycle counts -/

theorem chargeAll_canon {s : State} (h : Canon s) : Canon (s.chargeAll) := h
scoped grind_pattern chargeAll_canon => s.chargeAll

theorem holdTimers_canon {s : State} (h : Canon s) : Canon (s.holdTimers) := by
  unfold State.holdTimers
  grind -ring -lia -linarith
scoped grind_pattern holdTimers_canon => s.holdTimers

theorem tick_canon {s : State} (h : Canon s) : Canon (s.tick) := by
  unfold State.tick
  grind -ring -lia -linarith
scoped grind_pattern tick_canon => s.tick

theorem count_canon {s : State} (h : Canon s) (issued) : Canon (s.count issued) := by
  unfold State.count
  grind -ring -lia -linarith
scoped grind_pattern count_canon => s.count issued

/-! ### Step -/

theorem turnRun_canon {s : State} (h : Canon s) (t : Turn) : CanonRes (t.run s) := by
  cases t with
  | instr i => exact exec_canon h i
  | ageing r => exact execAgeingSwap_canon h ..
  | own w => exact OwnWork_run_canon h ..

theorem step_canon {s : State} (h : Canon s) : CanonRes (step s) := by
  have ht := tick_canon h
  unfold step
  split
  next p hp =>
    have hr := turnRun_canon (select_canon ht p hp) p.turn
    split
    next t he => rw [he] at hr; exact count_canon hr _
    · trivial
    · trivial
  · exact count_canon (idle_canon ht) none

/-- Settles O56: from each function of the model to the next, up to `step`, the form that `Tbl.wf_set` and `Tbl.wf_filter` keep is kept. -/
theorem memoryKeepsItsForm : Obligations.MemoryKeepsItsForm := by
  intro s t h he
  have hs := step_canon h
  rw [he] at hs
  exact hs

/-- Settles O57. -/
theorem resetMemoryHasItsForm : Obligations.ResetMemoryHasItsForm :=
  ⟨reset_canon, fun _ _ => reset_canon⟩

end Sys2Proof.MemoryForm
end

section
/-! SUPPORT. Two statements about what stands at reset and what the host reads from outside, refuted by a state each. -/

namespace Sys2Proof.OutsideReach
open Sys2Proof.Machine

/-! ### Registers at reset (O51) -/

/-- The mask of the first MSI-X vector is a register of its own. -/
theorem regNamed_msix_zero : regNamed .msix 0 = true := by decide

/-- No vector is unmasked at reset (log 62), so its mask reads 1. -/
theorem readReg_msix_reset : State.reset.readReg .msix 0 = 1 := by decide

/-- Refutes O51: an MSI-X vector is masked after reset (log 62), and a masked vector's register reads 1, not 0. -/
theorem not_resetState : ¬ Obligations.ResetState := by
  rintro ⟨hread, -⟩
  have hzero : State.reset.readReg .msix 0 = 0 := by simpa using hread .msix 0 regNamed_msix_zero
  exact absurd (readReg_msix_reset.symm.trans hzero) (by decide)

/-! ### A marked word that a core owns, read through BAR2 (O50) -/

/-- The first word of IO0's far memory, at the start of its BAR2 window. -/
def markedWord : Nat := 2 ^ 38

/-- CD3 and IO0 are in service with a keyed link between them, so CD3 is the home of all far memory. At home the first word of the window is
registered to core 0 of CD3, its line is not in the slice, and it still carries the mark of a word that was lost. -/
def markedAndOwned : State :=
  { (State.reset.setDie 3 { Die.moduleReset with home := [(markedWord, .owned (.core ⟨3, 0⟩))] }) with
    diest := [(3, .inService), (4, .inService)]
    links := [(6, { LinkDir.reset with keyed := true }), (7, { LinkDir.reset with keyed := true })]
    poisonLost := [markedWord] }

/-- What left last over a link or to a peer in a step. -/
def lastOut : Res → Option OutMsg
  | .next t => t.outbox.getLast?
  | .fault _ | .refused _ => none

/-- The hypotheses of the clause on BAR2 reads hold: the word is in the window and quiet, and its owner's value is neither poisoned nor lost. -/
theorem markedAndOwned_readable : markedAndOwned.upsets = [] ∧ markedAndOwned.inBar2 ⟨0, 0⟩ 4 = true ∧
    markedAndOwned.canGet (ioStop 0) (2 ^ 40) 4 = true ∧
    ∀ k < 4, (markedAndOwned.curWord ((2 ^ 40 + k) / 4)).bad = false ∧ (markedAndOwned.curWord ((2 ^ 40 + k) / 4)).lost = false := by
  decide

/-- The read brings the line into the slice, where its marks become words in L (R108): the registration is overwritten, and the data leave as lost. -/
theorem lastOut_bar2Read_markedAndOwned :
    lastOut (exec (.bar2Read ⟨0, 0⟩ 4) markedAndOwned) = some (.data true [0xFF, 0xFF, 0xFF, 0xFF]) := by
  decide

/-- Refutes O50: its clause on BAR2 reads takes a word that its owner holds undamaged to be read so, and where the word also carries the mark of
a lost word, its line's way into the slice makes it lost before it is read. -/
theorem not_outsideAccess : ¬ Obligations.OutsideAccess := by
  rintro ⟨⟨-, -, hbar2, -⟩, -⟩
  obtain ⟨hcalm, hwindow, hget, hgood⟩ := markedAndOwned_readable
  obtain ⟨hread, -⟩ := hbar2 markedAndOwned 0 0 (2 ^ 40) rfl hcalm
  have hlast := lastOut_bar2Read_markedAndOwned
  rw [hread 4 _ hwindow hget hgood rfl] at hlast
  simp [lastOut] at hlast

end Sys2Proof.OutsideReach
end

section
/-! SUPPORT. An issuing instruction's lanes and operands: what stays as it was when the issuing rod is put in its place. -/

namespace Sys2Proof.Lanes
open Sys2Proof.Machine Sys2Proof.Safety Sys2Proof.Laws Sys2Proof.Claims

theorem released_setRod {s : State} {r : RodId} {x : Rod} (h : s.rod r = some x) (sc : Scope) : (s.setRod r x).released r sc = s.released r sc := by
  unfold State.released
  rw [State.rod_setRod, h]
  rfl

/-- Putting the issuing rod in its place leaves what a load or a store waits for. -/
theorem mayLoad_setRod {s : State} {i : Iss} (h : s.rod i.rid = some i.rod) (sc : Scope) (o : Order) :
    (s.setRod i.rid i.rod).mayLoad i sc o = s.mayLoad i sc o := by
  unfold State.mayLoad
  rw [released_setRod h]
  rfl

theorem ctx0_i (s : State) (i : Iss) (g : Guard) (m : Option SrcMod) : (ctx0 s i g m).i = i := rfl

/-- The address of a lane, as the sources of the instruction give it (R217). -/
theorem ctx0_addr (s : State) (i : Iss) (g : Guard) (m : Option SrcMod) (ad : MAddr) (z l : Nat) :
    (ctx0 s i g m).addr ad z l = (srcs s i g m).addr ad z l := by
  unfold Ctx.addr
  simp only [ctx0_d64, ctx0_int]

end Sys2Proof.Lanes
end

section
/-! SUPPORT. Where the model stops (log 35). -/

namespace Sys2Proof.Stopping
open Sys2Proof.Machine Sys2Proof.Safety Sys2Proof.Laws Sys2Proof.Claims Sys2Proof.Lanes
open Sys2Proof.MemoryForm (Ends Free)

/-! ### Instructions with no issuing pair -/

section
variable {ε α β : Type} {Q : α → Prop} {R : β → Prop}

theorem ends_pure_iff {a : α} : Ends Free Q (pure a : Except ε α) ↔ Q a := Iff.rfl

theorem ends_bind_iff {x : Except ε α} {f : α → Except ε β} : Ends Free R (x >>= f) ↔ ∀ a, x = .ok a → Ends Free R (f a) := by
  cases x with
  | error e => exact ⟨nofun, fun _ => trivial⟩
  | ok a => exact ⟨fun h _ e => Except.ok.inj e ▸ h, fun h => h a rfl⟩
end

/-- Whatever is read of a word stops, for want of an issuing pair. -/
abbrev Stops (s : State) (x : Dec Instr) : Prop := Ends Free (fun j => exec j s = .fault .noIssuer) x

section
variable {s : State}

theorem decRow_stops {mk : Guard → View → BitVec 3 → Operand → Operand → Option Operand → Option SrcMod → Instr}
    (hlane : ∀ g v z d a m, exec (mk g v z d a none m) s = .fault .noIssuer)
    (hrow : ∀ g v z d a b m, exec (mk g v z d a (some b) m) s = .fault .noIssuer) (w : DWord) : Stops s (decRow mk w) := by
  simp only [decRow, ends_bind_iff]
  intros
  split <;> simp only [ends_bind_iff, ends_pure_iff] <;> intros
  · exact hrow ..
  · exact hlane ..

variable (h : s.issuer = none)
include h

theorem decodeGroup0_stops (n : Nat) (w : DWord) : Stops s (decodeGroup0 n w) := by
  unfold decodeGroup0
  split
  case h_44 => trivial
  all_goals
    simp only [decABm, decAm, decABCm, decSel, decLdi, decCvt, decKset, decKadd, decRdx, decWrx, ends_bind_iff, ends_pure_iff]
    intros
    exact withIss_none h _

theorem decodeGroup1_stops (n : Nat) (w : DWord) : Stops s (decodeGroup1 n w) := by
  unfold decodeGroup1
  split
  case h_22 => trivial
  all_goals
    simp only [decCmp, decQ3, decQ2, decVote, decMask, decFrom, decBr, decBr3, decJoin, dec0, decA1, ends_bind_iff, ends_pure_iff]
    intros
    exact withIss_none h _

theorem decImr_stops (w : DWord) : Stops s (decImr w) := by
  simp only [decImr, ends_bind_iff]
  intros
  split <;> simp only [ends_bind_iff, ends_pure_iff] <;> intros <;> exact withIss_none h _

theorem decodeGroup2_stops (n : Nat) (w : DWord) : Stops s (decodeGroup2 n w) := by
  unfold decodeGroup2
  split
  case h_34 => exact decImr_stops h w
  case h_36 => trivial
  all_goals
    simp only [decIv2, decIv1, decIfma, decIdiv2, decIbis, decIcmp, decIcls, decIcvt, ends_bind_iff, ends_pure_iff]
    intros
    exact withIss_none h _

theorem decodeGroup3_stops (n : Nat) (w : DWord) : Stops s (decodeGroup3 n w) := by
  unfold decodeGroup3
  split
  case h_9 | h_10 | h_11 | h_12 =>
    refine decRow_stops (fun _ _ _ _ _ _ => ?_) (fun _ _ _ _ _ _ _ => ?_) w
    all_goals exact withIss_none h _
  case h_15 => trivial
  all_goals
    simp only [decIfn, decIv1, decIfnc, decTblld, decTblsw, decTblq, decSmxexp, decSmxnorm, ends_bind_iff, ends_pure_iff]
    intros
    exact withIss_none h _

theorem decodeGroup4_stops (n : Nat) (w : DWord) : Stops s (decodeGroup4 n w) := by
  unfold decodeGroup4
  split
  case h_46 => trivial
  all_goals
    simp only [decSized, decMr, decLdXs, decFest, decMd, decM0, decGth, decDalloc, ends_bind_iff, ends_pure_iff]
    intros
    exact withIss_none h _

theorem decFence_stops (w : DWord) : Stops s (decFence w) := by
  simp only [decFence, ends_bind_iff]
  intros
  split
  case h_6 => trivial
  all_goals exact withIss_none h _

theorem decCpyo_stops (w : DWord) : Stops s (decCpyo w) := by
  simp only [decCpyo, ends_bind_iff]
  intros
  split
  · exact withIss_none h _
  · split
    · exact withIss_none h _
    · trivial

theorem decodeGroup5_stops (n : Nat) (w : DWord) : Stops s (decodeGroup5 n w) := by
  unfold decodeGroup5
  split
  case h_4 => exact decFence_stops h w
  case h_17 => exact decCpyo_stops h w
  case h_25 => trivial
  all_goals
    simp only [decAmo, decRedXs, dec0, decAcqr, decWaitany, decBar, decBarb, decSeq, decLaunch, decCancel, decCpy, decA1, decSplit, decFork,
      decTake, decPoolst, ends_bind_iff, ends_pure_iff]
    intros
    exact withIss_none h _

theorem decodeGroup6_stops (n : Nat) (w : DWord) : Stops s (decodeGroup6 n w) := by
  unfold decodeGroup6
  split
  case h_18 => trivial
  all_goals
    simp only [decMxgang, decTile, decProd, decMxrd, decMxst, decNb1, decNb2, decNbmove, decNbclr, ends_bind_iff, ends_pure_iff]
    intros
    exact withIss_none h _

theorem decodeGroup7_stops (n : Nat) (w : DWord) : Stops s (decodeGroup7 n w) := by
  unfold decodeGroup7
  split
  case h_12 => trivial
  all_goals
    simp only [decTrap, dec0, decTclr, decSysrd, decSyswr, decPrmark, decSmpl, decA1, ends_bind_iff, ends_pure_iff]
    intros
    exact withIss_none h _

theorem decodeRaw_stops (w : DWord) : Stops s (decodeRaw w) := by
  unfold decodeRaw
  split
  · exact decodeGroup0_stops h ..
  · exact decodeGroup1_stops h ..
  · exact decodeGroup2_stops h ..
  · exact decodeGroup3_stops h ..
  · exact decodeGroup4_stops h ..
  · exact decodeGroup5_stops h ..
  · exact decodeGroup6_stops h ..
  · exact decodeGroup7_stops h ..
  · trivial

theorem exec_decoded_noIssuer {w : DWord} {j : Instr} (hj : decode w = .ok j) : exec j s = .fault .noIssuer := by
  have hr := decodeRaw_stops h w
  unfold decode at hj
  split at hj
  next i hi =>
    rw [hi] at hr
    split at hj
    · obtain rfl := Except.ok.inj hj
      exact hr
    · cases hj
  · cases hj
end

/-! ### A load that reaches the device registers -/

/-- A resolution that ends at a physical address meets no denial, so it ends there whichever of the denials are asked about. -/
theorem resolve_mem_of_subset {s s' : State} {u : Walker} {asid pa : Nat} {l l' : List Denied} {va ent : DWord} {kind : XKind} (hl : l' ⊆ l)
    (h : s.resolve u asid l va kind = (.mem pa ent, s')) : s.resolve u asid l' va kind = (.mem pa ent, s') := by
  unfold State.resolve at h ⊢
  split at h
  · by_cases hd : l.any (fun d => d.vpn == va.toNat / 65536 && d.kind == kind) = true
    · rw [if_pos hd] at h
      cases h
    · have hd' : ¬ l'.any (fun d => d.vpn == va.toNat / 65536 && d.kind == kind) = true := fun ha => by
        obtain ⟨d, hm, hp⟩ := List.any_eq_true.1 ha
        exact hd (List.any_eq_true.2 ⟨d, hl hm, hp⟩)
      rw [if_neg hd] at h
      rw [if_neg hd']
      exact h
  · cases h

theorem denied_subset_rod (i : Iss) : i.denied ⊆ i.rod.denied := List.filter_subset_self _

theorem reach_registers {s : State} {pa : Nat} (h : region pa = .registers) : s.reach pa = .registers := by
  unfold State.reach
  rw [h]

/-- An aligned access that is translated to the device registers has no place and no wait. -/
theorem spot_registers {s s' : State} {i : Iss} {kind : XKind} {z pa : Nat} {a ent : DWord} (hv : vaKind a = .translated) (ha : a.toNat % z = 0)
    (h : s.resolve (.core (s.coreOf i.rid)) (s.asidOf i.rid) i.denied a kind = (.mem pa ent, s')) (hr : region pa = .registers) :
    s.spot i kind z a = (none, none, s') := by
  unfold State.spot
  simp [hv, ha, h, reach_registers hr]

theorem spotAll_device {s s' : State} {i : Iss} {kind : XKind} {z l : Nat} {a : DWord} (h : s.spot i kind z a = (none, none, s')) :
    s.spotAll i kind z [(l, a)] = .device := by
  simp [State.spotAll, h]

theorem loadForm_device {s s' : State} {i : Iss} {g : Guard} {z regs l : Nat} {kind : LoadKind} {d : Operand} {ad : MAddr} {sc : Scope} {o : Order}
    {h : Hint} (hready : Ready s i [(d, regs)] ad.regs) (hflag : i.flagFull = false) (hmay : s.mayLoad i sc o = true) (hl : actorsOf i g d = [l])
    (hspot : (s.setRod i.rid i.rod).spot i .read z ((srcs s i g none).addr ad z l) = (none, none, s')) :
    loadForm s g z regs kind d ad sc o h = .refused .deviceRegisters := by
  have hactors : (ctx0 s i g none).actors d = [l] := hl
  have hacts : ¬ ((ctx0 s i g none).g = 0 ∧ d.isS = true) := by
    rintro ⟨hg, hd⟩
    cases d <;> simp_all [actorsOf, Operand.isS, ctx0]
  have hmay' : (ctx0 s i g none).s.mayLoad i sc o = true := (mayLoad_setRod (State.issuer_rod hready.1) sc o).trans hmay
  unfold loadForm
  rw [issue_ready hready, if_neg hacts]
  have hdevice : (ctx0 s i g none).s.spotAll i .read z [(l, (srcs s i g none).addr ad z l)] = .device := spotAll_device hspot
  simp only [hactors, List.map, Ctx.spots, ctx0_addr]
  simp [ctx0_i, hflag, hmay', hdevice]

/-- Settles O60. -/
theorem whereTheModelStops : Obligations.WhereTheModelStops := by
  refine ⟨fun w j s hj hs => exec_decoded_noIssuer hs hj, ?_⟩
  intro s s' i g sz d ad sc o h l pa ent a hready hflag hmay hl ha hv hz hres hreg
  subst ha
  exact loadForm_device hready hflag hmay hl (spot_registers hv hz (resolve_mem_of_subset (denied_subset_rod i) hres) hreg)

end Sys2Proof.Stopping
end

section
/-! SUPPORT. A page query that changes a value in memory: the state that refutes O21. -/

namespace Sys2Proof.PageQueries
open Sys2Proof.Machine Sys2Proof.Safety Sys2Proof.Laws Sys2Proof.Claims

/-! ### The advance of the issuing rod -/

theorem onlyRod_advance (s : State) (r : RodId) (sl : SlotId) : OnlyRod r s (s.advance r sl) := by
  unfold State.advance
  cases hr : s.rod r with
  | none =>
    have hmod : ∀ f, s.modRod r f = s := fun f => by simp only [State.modRod, hr]
    rw [hmod, State.checkHalt, hr]
    exact OnlyRod.refl r s
  | some x =>
    rw [State.modRod_of _ _ _ x hr]
    exact (OnlyRod.setRod_checkHalt r s _).1

theorem curWord_onlyRod {r : RodId} {s t : State} (h : OnlyRod r s t) (wd : Nat) : t.curWord wd = s.curWord wd := by
  rw [← h.1]
  rfl

theorem curWord_advance (s : State) (r : RodId) (sl : SlotId) (wd : Nat) : (s.advance r sl).curWord wd = s.curWord wd :=
  curWord_onlyRod (onlyRod_advance s r sl) wd

/-! ### A marked word that a core owns, beside a table entry -/

/-- A slot whose path is lane 0 alone. -/
def askingSlot : Slot := Slot.fresh { pc := 0, idx := 0, mask := 1, frame := none, wait := 0 } 0

/-- The pair that issues: a rod as it starts but for its slot. -/
def asking : Iss :=
  { rid := ⟨0, 0⟩, sl := .a, rod := { Rod.start Packet.probe 0 0 0 with slotA := some askingSlot }, slot := askingSlot }

/-- The level-0 entry of page 0 lies in near memory of CD0. Of the words beside it in its line, word 2 is registered to core 0, holds 7 there and still
carries the mark of a word that was lost (R108); the line is not in the slice. -/
def markedBeside : State :=
  { (State.reset.setRod asking.rid asking.rod).setCore ⟨0, 0⟩ { Core.reset with l1 := [(2, { L1Word.reset with st := .g, val := 7, known := 15 })] } with
    cur := some (asking.rid, asking.sl), diest := [(0, .inService)], ast := [(0, { astb := 1, lo := 1, hi := 0 })],
    dies := [(0, { Die.moduleReset with home := [(2, .owned (.core ⟨0, 0⟩))] })], poisonLost := [2] }

/-- `pgq` of page 0, in every lane of the path. -/
def query : Instr := .pgq ⟨0, .always⟩ (.w 255) ⟨.s 0, .int 0, 0⟩ .normal

/-- The hypotheses of the clause on `pgq` hold. -/
theorem markedBeside_ready : Ready markedBeside asking [(.w 255, 1)] (MAddr.regs ⟨.s 0, .int 0, 0⟩) ∧ asking.flagFull = false ∧
    lanes (asking.part ⟨0, .always⟩) = [0] ∧ markedBeside.upsets = [] := by
  decide

theorem markedBeside_pageQuery : ∃ t, (markedBeside.setRod asking.rid asking.rod).pageQuery asking 0 = .ok (0xC00, t) := ⟨_, rfl⟩

/-- Nothing is under way at the marked word, and the core that its home records holds it. -/
theorem markedBeside_steady : Steady markedBeside 2 := by
  have hhome : markedBeside.homeOf 2 = some (.owned (.core ⟨0, 0⟩)) := by decide
  have howner : markedBeside.ownerCore 2 = some ⟨0, 0⟩ := by decide
  refine ⟨by decide, fun d hd => ?_, fun c hc => ?_⟩
  · rw [hhome] at hd
    cases hd
  · obtain rfl := Option.some.inj (howner.symm.trans hc)
    decide

/-- The value that a word reads as after a step. -/
def seenAfter (wd : Nat) : Res → Option Word
  | .next t => some (t.curWord wd).seen
  | .fault _ | .refused _ => none

/-- Reading the entry brings its line into the slice, where the mark makes the word one in L (R108), and the registration is gone. -/
theorem seenAfter_pgq : seenAfter 2 (exec query markedBeside) = some 0xFFFFFFFF := by decide

theorem markedBeside_seen : (markedBeside.curWord 2).seen = 7 := by decide

/-- Refutes O21: its clause that `pgq` changes no value in memory. `Steady` lets a registered word carry the mark of a lost word too, and such a word is
lost once the query reads a table entry of its line. -/
theorem not_pageInstructionsAndWaits : ¬ Obligations.PageInstructionsAndWaits := by
  rintro ⟨hpage, -⟩
  obtain ⟨hready, hflag, hlanes, hcalm⟩ := markedBeside_ready
  obtain ⟨t, ht⟩ := markedBeside_pageQuery
  obtain ⟨-, -, hquery, -⟩ := hpage markedBeside t asking ⟨0, .always⟩ 255 ⟨.s 0, .int 0, 0⟩ .normal 0 _ 0 hready hflag hlanes (by decide)
  obtain ⟨⟨u, hu, -, -, hseen, -⟩, -⟩ := hquery ht hcalm
  have hlost := seenAfter_pgq
  rw [query, hu] at hlost
  simp [seenAfter, curWord_advance, hseen 2 markedBeside_steady, markedBeside_seen] at hlost

end Sys2Proof.PageQueries
end

section
/-! SUPPORT. Invalidations (R35, R36) and pushes to the page pool (R43): what each of their functions does. -/

namespace Sys2Proof.Invalidation
open Sys2Proof.Machine Sys2Proof.Safety Sys2Proof.Laws Sys2Proof.Claims

/-! ### Waits that an invalidation takes back -/

/-- A table whose values have been changed in place. -/
theorem find_map_val {α β : Type} (f : Nat × α → β) (t : Tbl α) (k : Nat) :
    Tbl.find (t.map (fun e => (e.1, f e))) k = (t.find k).map (fun v => f (k, v)) := by
  induction t with
  | nil => rfl
  | cons e r ih =>
    obtain ⟨i, v⟩ := e
    rw [List.map_cons, Tbl.find_cons, Tbl.find_cons, ih]
    by_cases hik : i = k
    · subst hik
      simp
    · simp [hik]

/-- The waits that a discarded translation ends change nothing of a rod but its slots. -/
theorem rod_rearm {s : State} {r : RodId} {y : Rod} (h : s.rod r = some y) (a : Nat → Bool) (v : Armed → Bool) :
    ∃ z, (s.rearm a v).rod r = some z ∧ { z with slotA := y.slotA, slotB := y.slotB } = y := by
  unfold State.rod at h
  unfold State.rod State.rearm
  simp only [find_map_val, h]
  exact ⟨_, rfl, rfl⟩

/-! ### The start of an invalidation (R35) -/

section
variable {s : State} (h : s.xlic.getLsbD 63 = false) (xlic : DWord) (p : Xlat → Bool) (w : WalkEnt → Bool) (a : Nat → Bool)

theorem invalidate_busy (h : s.xlic.getLsbD 63 = true) : s.invalidate xlic p w a = s := if_pos h

include h

/-- The state in which an invalidation starts: what it names is discarded, and what was under way is on record. -/
theorem invalidate_idle : ∃ ops words, s.invalidate xlic p w a =
    (({ s.discardXlat p w a with xlic := xlic ||| (1 <<< 63), xlicOps := ops, xlicWords := words } : State).rearm a (fun _ => true)).send
      .invalidationComplete := by
  have hb : ¬ s.xlicBusy = true := by rw [State.xlicBusy, h]; exact Bool.false_ne_true
  unfold State.invalidate
  rw [if_neg hb]
  exact ⟨_, _, rfl⟩

theorem invalidate_frame : (s.invalidate xlic p w a).xlic = (xlic ||| (1 <<< 63)) ∧ (s.invalidate xlic p w a).mem = s.mem ∧
    (s.invalidate xlic p w a).ops = s.ops ∧ Instr.invalidationComplete ∈ (s.invalidate xlic p w a).inflight ∧
    ∀ r y, s.rod r = some y → ∃ z, (s.invalidate xlic p w a).rod r = some z ∧ { z with slotA := y.slotA, slotB := y.slotB } = y := by
  obtain ⟨ops, words, he⟩ := invalidate_idle h xlic p w a
  rw [he]
  exact ⟨rfl, rfl, rfl, List.mem_append_right _ (List.mem_singleton.2 rfl), fun r y hy => rod_rearm hy ..⟩

/-- No translation that an invalidation names is left in a core. -/
theorem invalidate_cores {e : Nat × Core} (he : e ∈ (s.invalidate xlic p w a).cores) {x : Xlat} (hx : x ∈ e.2.dtlb ∨ x ∈ e.2.itlb) : p x = false := by
  obtain ⟨ops, words, hi⟩ := invalidate_idle h xlic p w a
  rw [hi] at he
  obtain ⟨c, -, rfl⟩ := List.mem_map.1 he
  rcases hx with hx | hx <;> simpa using (List.mem_filter.1 hx).2

/-- None is left in a die, and no entry of a table that it names. -/
theorem invalidate_dies {e : Nat × Die} (he : e ∈ (s.invalidate xlic p w a).dies) :
    (∀ x, x ∈ e.2.l2tlb ∨ x ∈ e.2.l2big → p x = false) ∧ ∀ x ∈ e.2.walkc, w x = false := by
  obtain ⟨ops, words, hi⟩ := invalidate_idle h xlic p w a
  rw [hi] at he
  obtain ⟨d, -, rfl⟩ := List.mem_map.1 he
  refine ⟨fun x hx => ?_, fun x hx => by simpa using (List.mem_filter.1 hx).2⟩
  rcases hx with hx | hx <;> simpa using (List.mem_filter.1 hx).2

end

/-- What every invalidation that starts does (R35, R36). -/
def Started (s : State) (x : DWord) (t : State) : Prop :=
  t.xlic = (x ||| (1 <<< 63)) ∧ t.mem = s.mem ∧ t.ops = s.ops ∧ Instr.invalidationComplete ∈ t.inflight ∧
    ∀ r y, s.rod r = some y → ∃ z, t.rod r = some z ∧ { z with slotA := y.slotA, slotB := y.slotB } = y

theorem xlicInvalidateAll_started {s : State} (h : s.xlic.getLsbD 63 = false) (n : Word) : ∃ t, exec (.xlicInvalidateAll n) s = .next t ∧
    Started s (0x200000000 ||| n.setWidth 64) t ∧
    (∀ e ∈ t.cores, e.2.dtlb = [] ∧ e.2.itlb = []) ∧ ∀ e ∈ t.dies, e.2.l2tlb = [] ∧ e.2.l2big = [] ∧ e.2.walkc = [] := by
  refine ⟨_, rfl, invalidate_frame h .., fun e he => ?_, fun e he => ?_⟩
  · have hnone : ∀ x, ¬ (x ∈ e.2.dtlb ∨ x ∈ e.2.itlb) := fun x hx => Bool.noConfusion (invalidate_cores h _ _ _ _ he hx)
    exact ⟨List.eq_nil_iff_forall_not_mem.2 fun x hx => hnone x (.inl hx), List.eq_nil_iff_forall_not_mem.2 fun x hx => hnone x (.inr hx)⟩
  · obtain ⟨htlb, hwalk⟩ := invalidate_dies h _ _ _ _ he
    exact ⟨List.eq_nil_iff_forall_not_mem.2 fun x hx => Bool.noConfusion (htlb x (.inl hx)),
      List.eq_nil_iff_forall_not_mem.2 fun x hx => Bool.noConfusion (htlb x (.inr hx)),
      List.eq_nil_iff_forall_not_mem.2 fun x hx => Bool.noConfusion (hwalk x hx)⟩

theorem xlicInvalidateAsid_started {s : State} (h : s.xlic.getLsbD 63 = false) (n : Word) : ∃ t, exec (.xlicInvalidateAsid n) s = .next t ∧
    Started s (0x100000000 ||| n.setWidth 64) t ∧
    (∀ e ∈ t.cores, ∀ x, x ∈ e.2.dtlb ∨ x ∈ e.2.itlb → x.asid ≠ s.xlia.bits 15 0) ∧ ∀ e ∈ t.dies, ∀ x ∈ e.2.l2tlb, x.asid ≠ s.xlia.bits 15 0 :=
  ⟨_, rfl, invalidate_frame h .., fun _ he _ hx => beq_eq_false_iff_ne.1 (invalidate_cores h _ _ _ _ he hx),
    fun _ he x hx => beq_eq_false_iff_ne.1 ((invalidate_dies h _ _ _ _ he).1 x (.inl hx))⟩

theorem xlicInvalidatePages_started {s : State} (h : s.xlic.getLsbD 63 = false) (n : Word) : ∃ t, exec (.xlicInvalidatePages n) s = .next t ∧
    Started s (n.setWidth 64) t ∧ ∀ e ∈ t.cores, ∀ x ∈ e.2.dtlb, x.asid = s.xlia.bits 15 0 →
      x.vpn + x.span ≤ s.xlia.bits 55 16 ∨ s.xlia.bits 55 16 + Nat.max 1 n.toNat ≤ x.vpn := by
  refine ⟨_, rfl, invalidate_frame h .., fun e he x hx hasid => ?_⟩
  have hp := invalidate_cores h _ _ _ _ he (.inl hx)
  simp only [hasid, BEq.rfl, Bool.true_and, Bool.and_eq_false_iff, decide_eq_false_iff_not] at hp
  omega

/-! ### Its end (R36) -/

theorem invalidationComplete_open {s : State} (h : s.accessesOpen = true) :
    exec .invalidationComplete s = .next (s.send .invalidationComplete) := if_pos h

theorem invalidationComplete_done {s : State} (h : s.accessesOpen = false) :
    exec .invalidationComplete s = .next { s with xlic := s.xlic &&& 0x7FFFFFFFFFFFFFFF, xlicOps := [], xlicWords := [] } :=
  if_neg (h ▸ Bool.false_ne_true)

theorem invalidationComplete_spec (s : State) :
    (s.accessesOpen = true → exec .invalidationComplete s = .next (s.send .invalidationComplete)) ∧
    (s.accessesOpen = false → ∃ t, exec .invalidationComplete s = .next t ∧ t.xlic.getLsbD 63 = false ∧
      { t with xlic := s.xlic, xlicOps := s.xlicOps, xlicWords := s.xlicWords } = s) := by
  refine ⟨invalidationComplete_open, fun h => ⟨_, invalidationComplete_done h, ?_, rfl⟩⟩
  have hbit : (0x7FFFFFFFFFFFFFFF : DWord).getLsbD 63 = false := by decide
  rw [BitVec.getLsbD_and, hbit, Bool.and_false]

/-! ### Pushes to the page pool (R43) -/

section
variable {s : State} {die : Nat} {v : DWord}

theorem poolpush_of_poolTake {u : State} (h : s.poolTake die v = .ok u) : exec (.poolpush die v) s = .next u := by
  show execPoolpush die v s = _
  rw [execPoolpush, h]

theorem poolTake_disabled (h : (s.die die).ppdb.getLsbD 0 = false) : s.poolTake die v = .ok s := by
  have hen : ¬ (s.die die).poolEn = true := by rw [Die.poolEn, h]; exact Bool.false_ne_true
  rw [State.poolTake, if_pos hen]

theorem poolTake_enabled (h : (s.die die).ppdb.getLsbD 0 = true) : s.poolTake die v =
    if pushOk die (v.bits 1 0) (4096 * v.bits 51 12) then
      s.poolPush die (v.bits 1 0) (4096 * v.bits 51 12) >>= fun x => if x.1 then .ok x.2 else x.2.poolCount die 60
    else s.poolCount die 60 := by
  have hen : ¬ ¬ (s.die die).poolEn = true := not_not_intro h
  rw [State.poolTake, if_neg hen]

theorem poolpush_spec (s : State) (die : Nat) (v : DWord) : ((s.die die).ppdb.getLsbD 0 = false → exec (.poolpush die v) s = .next s) ∧
    ((s.die die).ppdb.getLsbD 0 = true → ∀ u,
      (pushOk die (v.bits 1 0) (4096 * v.bits 51 12) = true → s.poolPush die (v.bits 1 0) (4096 * v.bits 51 12) = .ok (true, u) →
        exec (.poolpush die v) s = .next u) ∧
      (pushOk die (v.bits 1 0) (4096 * v.bits 51 12) = true → s.poolPush die (v.bits 1 0) (4096 * v.bits 51 12) = .ok (false, s) →
        s.poolCount die 60 = .ok u → exec (.poolpush die v) s = .next u) ∧
      (pushOk die (v.bits 1 0) (4096 * v.bits 51 12) = false → s.poolCount die 60 = .ok u → exec (.poolpush die v) s = .next u)) := by
  refine ⟨fun h => poolpush_of_poolTake (poolTake_disabled h), fun h u => ⟨fun hok hpush => ?_, fun hok hpush hcount => ?_, fun hok hcount => ?_⟩⟩
  all_goals refine poolpush_of_poolTake ((poolTake_enabled h).trans ?_)
  · rw [if_pos hok, hpush]
    rfl
  · rw [if_pos hok, hpush]
    exact hcount
  · rw [if_neg (hok ▸ Bool.false_ne_true)]
    exact hcount
end

/-- R35, R36, R43. -/
theorem invalidationAndPoolPush : InvalidationAndPoolPush :=
  ⟨fun _ h => ⟨xlicInvalidateAll_started h, xlicInvalidateAsid_started h, xlicInvalidatePages_started h⟩,
    fun _ h _ => ⟨congrArg _ (invalidate_busy _ _ _ _ h), congrArg _ (invalidate_busy _ _ _ _ h), congrArg _ (invalidate_busy _ _ _ _ h)⟩,
    invalidationComplete_spec, poolpush_spec⟩

end Sys2Proof.Invalidation
end

section
/-! SUPPORT. The allocator's instructions (R47 to R51): what they make of their lanes' results. -/

namespace Sys2Proof.Allocator
open Sys2Proof.Machine Sys2Proof.Safety Sys2Proof.Laws Sys2Proof.Claims Sys2Proof.Lanes

/-! ### Operands -/

theorem mayStore_setRod {s : State} {i : Iss} (h : s.rod i.rid = some i.rod) (sc : Scope) (o : Order) :
    (s.setRod i.rid i.rod).mayStore i sc o = s.mayStore i sc o := by
  unfold State.mayStore
  rw [mayLoad_setRod h]
  rfl

/-! ### Causes and acquires leave the other registers -/

@[simp] theorem mem_modRod (s : State) (r : RodId) (f : Rod → Rod) : (s.modRod r f).mem = s.mem := by
  unfold State.modRod
  split <;> rfl

@[simp] theorem nextId_modRod (s : State) (r : RodId) (f : Rod → Rod) : (s.modRod r f).nextId = s.nextId := by
  unfold State.modRod
  split <;> rfl

@[simp] theorem mem_raise (s : State) (r : RodId) (b : Word) : (s.raise r b).mem = s.mem := by
  unfold State.raise
  split
  · rfl
  · exact mem_modRod ..

@[simp] theorem nextId_raise (s : State) (r : RodId) (b : Word) : (s.raise r b).nextId = s.nextId := by
  unfold State.raise
  split
  · rfl
  · exact nextId_modRod ..

theorem rod_modRod {s : State} {r : RodId} {x : Rod} (h : s.rod r = some x) (f : Rod → Rod) : (s.modRod r f).rod r = some (f x) := by
  rw [State.modRod_of s r f x h, State.rod_setRod]

theorem rod_raise {s : State} {r : RodId} {x : Rod} (h : s.rod r = some x) (b : Word) : ∃ c, (s.raise r b).rod r = some { x with cause := c } := by
  unfold State.raise
  split
  · exact ⟨x.cause, h⟩
  · exact ⟨_, rod_modRod h _⟩

theorem mem_inherit (s : State) (r : RodId) : (s.inherit r).mem = s.mem := by
  unfold State.inherit
  split
  · rfl
  · exact mem_modRod ..

theorem rod_inherit {s : State} {r : RodId} {x : Rod} (h : s.rod r = some x) : ∃ l, (s.inherit r).rod r = some { x with stores := l } := by
  unfold State.inherit
  split
  · exact ⟨x.stores, h⟩
  · exact ⟨_, rod_modRod h _⟩

theorem mem_acquireAt (s : State) (c : CoreId) (k : ScopeClass) : (s.acquireAt c k).mem = s.mem := by cases k <;> rfl

theorem rod_acquireAt (s : State) (c : CoreId) (k : ScopeClass) (r : RodId) : (s.acquireAt c k).rod r = s.rod r := by cases k <;> rfl

theorem mem_acquire (s : State) (r : RodId) (sc : Scope) : (s.acquire r sc).mem = s.mem :=
  (mem_acquireAt ..).trans (mem_inherit ..)

theorem rod_acquire {s : State} {r : RodId} {x : Rod} (h : s.rod r = some x) (sc : Scope) :
    ∃ l, (s.acquire r sc).rod r = some { x with stores := l } := by
  obtain ⟨l, hl⟩ := rod_inherit h
  exact ⟨l, (rod_acquireAt ..).trans hl⟩

/-! ### The lanes in turn -/

/-- The answers stand in the order of the lanes. -/
theorem allocLanes_lanes {α : Type} {f : State → Nat → ATry α} {bad : α} {ls : List Nat} {s s' : State} {out out' : List (Nat × α)} {k k' : Word}
    (h : allocLanes f bad ls s out k = .ok (out', k', s')) : out'.map Prod.fst = out.map Prod.fst ++ ls := by
  induction ls generalizing s out k with
  | nil =>
    cases h
    simp
  | cons l rest ih =>
    unfold allocLanes at h
    split at h
    · simpa using ih h
    · simpa using ih h
    · cases h

theorem lt_of_mem_lanes {m : Mask} {l : Nat} (h : l ∈ lanes m) : l < 32 := List.mem_range.1 (List.mem_filter.1 h).1

/-! ### The registers that `dalloc` writes (R49, R315) -/

/-- What `dalloc` makes of its rod: AEMPTY where a lane got nothing, and the lanes' results. -/
def dallocRod (d : Operand) (out : List (Nat × Nat × Bool)) (x : Rod) : Rod :=
  out.foldl (fun (x : Rod) e => match d with
    | .s r => x.setUn r.toNat (BitVec.ofNat 64 e.2.1)
    | _ => x.setWords (wordNum d) e.1 [wordAt e.2.1 0, wordAt e.2.1 1]) (if out.any (·.2.2) then { x with mflags := x.mflags ||| 2 } else x)

theorem setWords_pair (x : Rod) (k l : Nat) (a b : Word) : x.setWords k l [a, b] = (x.setLw k l a).setLw (k + 1) l b := rfl

theorem dallocRod_mflags (d : Operand) (out : List (Nat × Nat × Bool)) (x : Rod) :
    (dallocRod d out x).mflags = if out.any (·.2.2) then x.mflags ||| 2 else x.mflags := by
  have hfold : ∀ (l : List (Nat × Nat × Bool)) (x : Rod), (l.foldl (fun (x : Rod) e => match d with
      | .s r => x.setUn r.toNat (BitVec.ofNat 64 e.2.1)
      | _ => x.setWords (wordNum d) e.1 [wordAt e.2.1 0, wordAt e.2.1 1]) x).mflags = x.mflags := by
    intro l
    induction l with
    | nil => exact fun x => rfl
    | cons e r ih =>
      intro x
      rw [List.foldl_cons, ih]
      split <;> rfl
  rw [dallocRod, hfold]
  split <;> rfl

theorem dallocRod_un (k : BitVec 6) (e : Nat × Nat × Bool) (x : Rod) : (dallocRod (.s k) [e] x).un k.toNat = BitVec.ofNat 64 e.2.1 := by
  simp [dallocRod, Rod.un_setUn]

/-- A lane whose writes agree has their words, or what it had where none is to it. -/
theorem lw_foldl_setWords {k m : Nat} {a b : Word} (hm : m < 32) {l : List (Nat × Nat × Bool)} (hl : ∀ e ∈ l, e.1 < 32)
    (heq : ∀ e ∈ l, e.1 = m → wordAt e.2.1 0 = a ∧ wordAt e.2.1 1 = b) (x : Rod)
    (hx : (x.lw k m = a ∧ x.lw (k + 1) m = b) ∨ ∃ e ∈ l, e.1 = m) :
    (l.foldl (fun (x : Rod) e => x.setWords k e.1 [wordAt e.2.1 0, wordAt e.2.1 1]) x).lw k m = a ∧
    (l.foldl (fun (x : Rod) e => x.setWords k e.1 [wordAt e.2.1 0, wordAt e.2.1 1]) x).lw (k + 1) m = b := by
  induction l generalizing x with
  | nil =>
    rcases hx with hx | ⟨e, he, -⟩
    · exact hx
    · cases he
  | cons e r ih =>
    rw [List.foldl_cons]
    refine ih (fun e he => hl e (List.mem_cons_of_mem _ he)) (fun e he => heq e (List.mem_cons_of_mem _ he)) _ ?_
    have he32 := hl e List.mem_cons_self
    by_cases hem : e.1 = m
    · obtain ⟨ha, hb⟩ := heq e List.mem_cons_self hem
      exact .inl (by simp [setWords_pair, Rod.lw_setLw, hm, hem, ha, hb])
    · refine hx.imp (fun hx => ?_) ?_
      · simp [setWords_pair, Rod.lw_setLw, he32, hm, Ne.symm hem, hx]
      · rintro ⟨e', he', hm'⟩
        rcases List.mem_cons.1 he' with rfl | he'
        · exact absurd hm' hem
        · exact ⟨e', he', hm'⟩

theorem dallocRod_lw {k : BitVec 8} {out : List (Nat × Nat × Bool)} (hl : ∀ e ∈ out, e.1 < 32) {e : Nat × Nat × Bool} (he : e ∈ out)
    (huniq : ∀ e' ∈ out, e'.1 = e.1 → e' = e) (x : Rod) :
    (dallocRod (.w k) out x).lw k.toNat e.1 = wordAt e.2.1 0 ∧ (dallocRod (.w k) out x).lw (k.toNat + 1) e.1 = wordAt e.2.1 1 :=
  lw_foldl_setWords (hl e he) hl (fun e' he' h => by rw [huniq e' he' h]; exact ⟨rfl, rfl⟩) _ (.inr ⟨e, he, rfl⟩)

/-! ### `dalloc` (R49, R51) -/

theorem exec_dalloc_done {s s' : State} {i : Iss} {g : Guard} {d n : Operand} {h : Hint} {out : List (Nat × Nat × Bool)} {b : Word}
    (hready : Ready s i [(d, 2)] [(n, 1)]) (hflag : i.flagFull = false) (hmay : s.mayStore i .package .acq = true) (hs : d.isS = true → i.part g ≠ 0)
    (hout : allocLanes (fun t l => t.allocLane i (freeSize s i g n l)) (2 ^ 64 - 1, false) (actorsOf i g d) (s.setRod i.rid i.rod) [] 0 = .ok (out, b, s')) :
    exec (.dalloc g d n h) s = finish (((s'.raise i.rid b).acquire i.rid .package).modRod i.rid (dallocRod d out)) i := by
  have hacts : ¬ ((ctx0 s i g none).g = 0 ∧ d.isS = true) := fun ⟨hg, hd⟩ => hs hd hg
  have hwait : ¬ ¬ (ctx0 s i g none).s.mayStore (ctx0 s i g none).i .package .acq = true :=
    not_not_intro ((mayStore_setRod (State.issuer_rod hready.1) ..).trans hmay)
  show execDalloc g d n h s = _
  unfold execDalloc
  rw [issue_ready hready, if_neg hacts, if_neg (hflag ▸ Bool.false_ne_true), if_neg hwait]
  extract_lets size
  have hsize : size = freeSize s i g n := funext fun l => by cases n <;> rfl
  have hlanes : allocLanes (fun t l => t.allocLane i (size l)) (2 ^ 64 - 1, false) ((ctx0 s i g none).actors d) (ctx0 s i g none).s [] 0 =
    .ok (out, b, s') := hsize ▸ hout
  simp only [ctx0_i, hlanes]
  rfl

theorem dalloc_issues {s s' : State} {i : Iss} {g : Guard} {d n : Operand} {h : Hint} {out : List (Nat × Nat × Bool)} {b : Word} {x : Rod}
    (hready : Ready s i [(d, 2)] [(n, 1)]) (hflag : i.flagFull = false) (hmay : s.mayStore i .package .acq = true) (hs : d.isS = true → i.part g ≠ 0)
    (hout : allocLanes (fun t l => t.allocLane i (freeSize s i g n l)) (2 ^ 64 - 1, false) (actorsOf i g d) (s.setRod i.rid i.rod) [] 0 = .ok (out, b, s'))
    (hx : s'.rod i.rid = some x) :
    Issues (exec (.dalloc g d n h) s) i (fun u => u.mem = s'.mem ∧ ∃ y, u.rod i.rid = some y ∧
      y.mflags = (if out.any (·.2.2) then x.mflags ||| 2 else x.mflags) ∧
      (∀ k, d = .w k → ∀ e ∈ out, (∀ e' ∈ out, e'.1 = e.1 → e' = e) → e.1 < 32 → y.lw k.toNat e.1 = wordAt e.2.1 0 ∧ y.lw (k.toNat + 1) e.1 = wordAt e.2.1 1) ∧
      ∀ k e, d = .s k → out = [e] → y.un k.toNat = BitVec.ofNat 64 e.2.1) := by
  obtain ⟨c, hc⟩ := rod_raise hx b
  obtain ⟨l, hl⟩ := rod_acquire hc .package
  refine ⟨_, exec_dalloc_done hready hflag hmay hs hout, ?_, _, rod_modRod hl _, dallocRod_mflags .., ?_, ?_⟩
  · rw [mem_modRod, mem_acquire, mem_raise]
  · rintro k rfl e he huniq -
    refine dallocRod_lw (fun e he => ?_) he huniq _
    have hmem : e.1 ∈ out.map Prod.fst := List.mem_map_of_mem he
    rw [allocLanes_lanes hout] at hmem
    exact lt_of_mem_lanes hmem
  · rintro k e rfl rfl
    exact dallocRod_un k e _

/-! ### `dfree` (R50, R51) -/

/-- BADFREE where a lane's block is bad. -/
def flagBad (out : List (Nat × Bool × Option HomeAcc)) (x : Rod) : Rod := if out.any (·.2.1) then { x with mflags := x.mflags ||| 4 } else x

/-- The lanes' pushes go to the load/store unit as one operation. -/
def pushed (s : State) (r : RodId) : List HomeAcc → State
  | [] => s
  | accs => (s.addOpNoFlag r (.free (some { op := s.nextId, accs := accs, stop := some (stopOf (s.coreOf r).die) })
      ((s.rod r).map (·.stores) |>.getD []) (s.freeAfter r))).2

theorem exec_dfree_done {s s' : State} {i : Iss} {g : Guard} {n : Operand} {ad : MAddr} {h : Hint} {out : List (Nat × Bool × Option HomeAcc)} {b : Word}
    (hready : Ready s i [] ((n, 1) :: ad.regs)) (hg : i.part g ≠ 0) (hacq : s.acquiring i.rid = false)
    (hout : allocLanes (fun t l => t.freeLane i l ((srcs s i g none).addr ad 1 l).toNat (freeSize s i g n l)) (false, none) (lanes (i.part g))
      (s.setRod i.rid i.rod) [] 0 = .ok (out, b, s')) :
    exec (.dfree g n ad h) s = finish (pushed ((s'.raise i.rid b).modRod i.rid (flagBad out)) i.rid (out.filterMap (·.2.2))) i := by
  show execDfree g n ad h s = _
  unfold execDfree
  rw [issue_ready hready, if_neg (show ¬ (ctx0 s i g none).g = 0 from hg),
    if_neg (show ¬ (ctx0 s i g none).s.acquiring (ctx0 s i g none).i.rid = true from hacq ▸ Bool.false_ne_true)]
  extract_lets size
  have hsize : size = freeSize s i g n := funext fun l => by cases n <;> rfl
  have hlanes : allocLanes (fun t l => t.freeLane i l ((ctx0 s i g none).addr ad 1 l).toNat (size l)) (false, none) (lanes (ctx0 s i g none).g)
      (ctx0 s i g none).s [] 0 = .ok (out, b, s') := by
    simp only [ctx0_addr, hsize]
    exact hout
  rcases hpush : out.filterMap (·.2.2) with _ | ⟨acc, accs⟩
  all_goals
    simp only [ctx0_i, hlanes, hpush]
    rfl

theorem flagBad_eq (out : List (Nat × Bool × Option HomeAcc)) (x : Rod) :
    { flagBad out x with mflags := x.mflags } = x ∧ (flagBad out x).mflags.getLsbD 2 = (x.mflags.getLsbD 2 || out.any (·.2.1)) := by
  have hbit : (4 : Word).getLsbD 2 = true := by decide
  unfold flagBad
  cases out.any (·.2.1)
  · exact ⟨rfl, (Bool.or_false _).symm⟩
  · exact ⟨rfl, by rw [if_pos rfl, BitVec.getLsbD_or, hbit]⟩

theorem mem_pushed (s : State) (r : RodId) (accs : List HomeAcc) : (pushed s r accs).mem = s.mem := by cases accs <;> rfl

theorem rod_pushed (s : State) (r q : RodId) (accs : List HomeAcc) : (pushed s r accs).rod q = s.rod q := by cases accs <;> rfl

theorem op_pushed (s : State) (r : RodId) {accs : List HomeAcc} (h : accs ≠ []) : ∃ o req ws ops, (pushed s r accs).op s.nextId = some o ∧ o.rod = r ∧
    o.flags = [] ∧ o.kind = .free (some req) ws ops ∧ req.op = s.nextId ∧ req.accs = accs ∧ req.stop = some (stopOf (s.coreOf r).die) := by
  cases accs with
  | nil => exact absurd rfl h
  | cons acc accs => exact ⟨_, _, _, _, State.op_setOp .., rfl, rfl, rfl, rfl, rfl, rfl⟩

theorem dfree_issues {s s' : State} {i : Iss} {g : Guard} {n : Operand} {ad : MAddr} {h : Hint} {out : List (Nat × Bool × Option HomeAcc)} {b : Word}
    {x : Rod} (hready : Ready s i [] ((n, 1) :: ad.regs)) (hg : i.part g ≠ 0) (hacq : s.acquiring i.rid = false)
    (hout : allocLanes (fun t l => t.freeLane i l ((srcs s i g none).addr ad 1 l).toNat (freeSize s i g n l)) (false, none) (lanes (i.part g))
      (s.setRod i.rid i.rod) [] 0 = .ok (out, b, s')) (hx : s'.rod i.rid = some x) :
    Issues (exec (.dfree g n ad h) s) i (fun u => u.mem = s'.mem ∧ (∃ y, u.rod i.rid = some y ∧
      { y with mflags := x.mflags, cause := x.cause } = x ∧ (y.mflags.getLsbD 2 = (x.mflags.getLsbD 2 || out.any (·.2.1)))) ∧
      (out.filterMap (·.2.2) ≠ [] → ∃ o req ws ops, u.op s'.nextId = some o ∧ o.rod = i.rid ∧ o.flags = [] ∧ o.kind = .free (some req) ws ops ∧
        req.op = s'.nextId ∧ req.accs = out.filterMap (·.2.2))) := by
  obtain ⟨c, hc⟩ := rod_raise hx b
  obtain ⟨hsame, hbit⟩ := flagBad_eq out { x with cause := c }
  have hid : ((s'.raise i.rid b).modRod i.rid (flagBad out)).nextId = s'.nextId := (nextId_modRod ..).trans (nextId_raise ..)
  refine ⟨_, exec_dfree_done hready hg hacq hout, ?_, ⟨_, (rod_pushed ..).trans (rod_modRod hc _), ?_, hbit⟩, fun hne => ?_⟩
  · rw [mem_pushed, mem_modRod, mem_raise]
  · exact congrArg (fun y : Rod => { y with cause := x.cause }) hsame
  · obtain ⟨o, req, ws, ops, ho, hrod, hflags, hkind, hop, haccs, -⟩ := op_pushed ((s'.raise i.rid b).modRod i.rid (flagBad out)) i.rid hne
    rw [hid] at ho hop
    exact ⟨o, req, ws, ops, ho, hrod, hflags, hkind, hop, haccs⟩

/-! ### The allocator off (R49, R50) -/

theorem allocLane_off {s : State} {i : Iss} {n : Nat} {e : AstUse} (h : s.astEntry (.core (s.coreOf i.rid)) (s.asidOf i.rid) = .ok (e, s))
    (haen : e.aen = false) : s.allocLane i n = .ok ((0, true), s) := by
  simp [State.allocLane, h, haen]

theorem freeLane_off {s : State} {i : Iss} {l a n : Nat} {e : AstUse} (h : s.astEntry (.core (s.coreOf i.rid)) (s.asidOf i.rid) = .ok (e, s))
    (haen : e.aen = false) : s.freeLane i l a n = .ok ((false, none), s) := by
  simp [State.freeLane, h, haen]

end Sys2Proof.Allocator
end

section
/-! SUPPORT. Words that are whole at their home (R89, R100): reading them at home in one step gives their values and changes nothing, and a write of bytes
among them changes only their bytes. -/

namespace Sys2Proof.WholeWords
open Sys2Proof.Machine Sys2Proof.Safety Sys2Proof.Laws Sys2Proof.Claims

/-! ### Lines and their home (R18, R61) -/

/-- What a physical address reaches, and the die it is homed on, are those of its line. -/
theorem region_line (wd : Nat) : region (128 * lineOf wd) = region (4 * wd) := by
  have hdie : bitsOf (128 * lineOf wd) 35 33 = bitsOf (4 * wd) 35 33 := by
    simp only [bitsOf, lineOf, Nat.shiftRight_eq_div_pow]
    omega
  have hbelow : ∀ k, k % 128 = 0 → (128 * lineOf wd < k ↔ 4 * wd < k) := fun k hk => by unfold lineOf; omega
  unfold region
  simp (disch := decide) only [hdie, hbelow]

theorem homeDie_line (s : State) (wd : Nat) : s.homeDie (128 * lineOf wd) = s.homeDie (4 * wd) := by
  have hline : bitsOf (128 * lineOf wd) 18 16 = bitsOf (4 * wd) 18 16 := by
    simp only [bitsOf, lineOf, Nat.shiftRight_eq_div_pow]
    omega
  rw [State.homeDie, State.homeDie, region_line, hline]

/-! ### One whole word -/

/-- A fold whose steps leave the state as it is. -/
theorem foldl_same {σ α : Type} {f : σ → α → σ} {s : σ} {l : List α} (h : ∀ x ∈ l, f s x = s) : l.foldl f s = s := by
  induction l with
  | nil => rfl
  | cons x r ih => rw [List.foldl_cons, h x List.mem_cons_self, ih fun y hy => h y (List.mem_cons_of_mem _ hy)]

theorem mustGo_of_roomy {s : State} {d line : Nat} (h : Roomy s d line) (after : State → State) : s.mustGo d line after = none := by
  obtain ⟨hslice, hset⟩ := h
  unfold State.mustGo
  have hset' : (((s.die d).resident.filter (fun e => sliceOf e.1 == sliceOf line && e.1 != line)).filter
      (fun e => lineSet e.1 == lineSet line)).length < 16 := by
    rw [List.filter_filter]
    refine lt_of_eq_of_lt (congrArg List.length (List.filter_congr fun e _ => ?_)) hset
    ac_rfl
  simp only [decide_eq_false (Nat.not_le.2 hslice), decide_eq_false (Nat.not_le.2 hset')]
  rfl

section
variable {s : State} {wd : Nat} (h : WholeWord s wd)
include h

theorem ownerCore_whole : s.ownerCore wd = none := by rw [State.ownerCore, h.home]

theorem recall_whole : s.recall wd = s := by rw [State.recall, ownerCore_whole h]

theorem curWord_whole : s.curWord wd = { val := s.memWord wd, bad := false, lost := false } := by
  obtain ⟨hbad, hlost⟩ := h.clean
  simp only [State.curWord, h.home, ownerCore_whole h, hbad, hlost, Bool.or_false]

theorem findLost_whole : s.findLost wd = s := by rw [State.findLost, curWord_whole h]; rfl

theorem hostLine_whole (x : HostSt) (whole : Bool) : s.hostLine wd x whole = s := by
  unfold State.hostLine
  split
  next io hio => exact absurd hio (h.own io)
  · rfl

theorem resideNow_whole (after : State → State) : s.resideNow (s.homeDie (4 * wd)) (lineOf wd) 1 after = s := by
  have hroom : s.roomNow (s.homeDie (4 * wd)) (lineOf wd) after (2 * (s.die (s.homeDie (4 * wd))).resident.length + 1) = s := by
    rw [State.roomNow, mustGo_of_roomy h.room]
  rw [State.resideNow, hroom, State.joinSlice, if_pos h.there, if_pos rfl]

theorem homeSide_whole : s.homeSide wd (some 1) = s := by
  show (s.resideNow (s.homeDie (4 * wd)) (lineOf wd) 1).hostLine wd .shared = s
  rw [resideNow_whole h, hostLine_whole h]

end

/-! ### Whole words read at their home in one step -/

theorem flawed_calm {s : State} (h : s.upsets = []) (link : Bool) (k : Nat) (ws : List Nat) : s.flawed link k ws = ([], s) := by
  rw [State.flawed, h]
  rfl

theorem callHome_whole {s : State} {ws : List Nat} (h : ∀ wd ∈ ws, WholeWord s wd) : s.callHome ws = s := by
  unfold State.callHome
  split
  · rfl
  · exact foldl_same fun wd hwd => recall_whole (h wd hwd)

theorem homeReads_whole {s : State} {ws : List Nat} (h : ∀ wd ∈ ws, WholeWord s wd) (hcalm : s.upsets = []) (stop : Nat) :
    s.homeReads ws (some 1) stop = (ws.map s.curWord, s) := by
  have hfold : ∀ (l : List Nat) (acc : List WordRead), (∀ wd ∈ l, WholeWord s wd) →
      l.foldl (fun (acc : List WordRead × State) wd =>
        let s := acc.2.homeSide wd (some 1)
        let w := s.curWord wd
        (acc.1 ++ [{ w with bad := w.bad || [].contains wd }], s.findLost wd)) (acc, s) = (acc ++ l.map s.curWord, s) := by
    intro l
    induction l with
    | nil => exact fun acc _ => by simp
    | cons wd r ih =>
      intro acc hl
      have hwd := hl wd List.mem_cons_self
      rw [List.foldl_cons]
      simp only [homeSide_whole hwd, findLost_whole hwd]
      rw [ih _ fun x hx => hl x (List.mem_cons_of_mem _ hx)]
      simp
  unfold State.homeReads
  simp only [flawed_calm hcalm, callHome_whole h]
  exact hfold ws [] h

theorem readCause_whole {s : State} {ws : List Nat} (h : ∀ wd ∈ ws, WholeWord s wd) : readCause (ws.map s.curWord) = 0 := by
  unfold readCause
  rw [List.foldl_map]
  refine foldl_same fun wd hwd => ?_
  rw [curWord_whole (h wd hwd)]
  simp [WordRead.cause]

/-- The bytes among the words read are those that home-performed reads find. -/
theorem readBytes_curWord (s : State) (pa n : Nat) : (readBytes pa n ((wordsOf pa n).map s.curWord)).map Prod.fst = s.curBytes pa n := by
  unfold readBytes State.curBytes wordsOf
  rw [List.map_map]
  refine List.map_congr_left fun k hk => ?_
  have hk := List.mem_range.1 hk
  have hin : (pa + k) / 4 - pa / 4 < (pa % 4 + n + 3) / 4 := by omega
  have hword : pa / 4 + ((pa + k) / 4 - pa / 4) = (pa + k) / 4 := by omega
  simp [State.curByte, hin, hword]

theorem homeNat_whole {s : State} {pa n : Nat} (h : ∀ wd ∈ wordsOf pa n, WholeWord s wd) (hcalm : s.upsets = []) (stop : Nat) :
    s.homeNat stop pa n = (s.curNat pa n, 0, s) := by
  unfold State.homeNat State.curNat
  simp only [homeReads_whole h hcalm, readCause_whole h, readBytes_curWord]

/-! ### Writing bytes keeps the rods and the soft errors to come -/

/-- Two states agree in their rods and in the soft errors to come. -/
def Kept (s t : State) : Prop := t.rods = s.rods ∧ t.upsets = s.upsets

theorem Kept.rfl {s : State} : Kept s s := ⟨Eq.refl _, Eq.refl _⟩

theorem Kept.trans {s t u : State} (h : Kept s t) (k : Kept t u) : Kept s u := ⟨k.1.trans h.1, k.2.trans h.2⟩

theorem kept_foldl {α : Type} {f : State → α → State} (hf : ∀ s x, Kept s (f s x)) (l : List α) (s : State) : Kept s (l.foldl f s) := by
  induction l generalizing s with
  | nil => exact .rfl
  | cons x r ih => exact (hf s x).trans (ih _)

theorem kept_setCore (s : State) (c : CoreId) (x : Core) : Kept s (s.setCore c x) := ⟨rfl, rfl⟩

theorem kept_setDie (s : State) (d : Nat) (x : Die) : Kept s (s.setDie d x) := ⟨rfl, rfl⟩

theorem kept_setMemWord (s : State) (wd : Nat) (v : Word) : Kept s (s.setMemWord wd v) := ⟨rfl, rfl⟩

theorem kept_setPoison (s : State) (wd : Nat) (bad : Bool) : Kept s (s.setPoison wd bad) := ⟨rfl, rfl⟩

theorem kept_markHeld (s : State) (wd : Nat) : Kept s (s.markHeld wd) := by
  unfold State.markHeld
  split <;> exact ⟨rfl, rfl⟩

theorem kept_setHome (s : State) (wd : Nat) (x : Option HomeSt) : Kept s (s.setHome wd x) := by
  unfold State.setHome
  split
  · exact (kept_setDie ..).trans (kept_markHeld ..)
  · exact kept_setDie ..

theorem kept_hostLine (s : State) (wd : Nat) (x : HostSt) (whole : Bool) : Kept s (s.hostLine wd x whole) := by
  unfold State.hostLine
  split
  · split
    · extract_lets d old req
      split
      · exact .rfl
      · exact ⟨rfl, rfl⟩
    · exact .rfl
  · exact .rfl

theorem kept_recall (s : State) (wd : Nat) : Kept s (s.recall wd) := by
  unfold State.recall
  split
  · exact .rfl
  next c _ =>
    extract_lets w t u
    have hu : Kept t u := by
      unfold u
      split
      · exact kept_setDie ..
      · exact kept_setDie ..
      · exact .rfl
    exact .trans (.trans (.trans (.trans (kept_setCore s c _) hu) (kept_setHome ..)) (kept_setMemWord ..)) (kept_setPoison ..)

theorem kept_noteWrite (s : State) (wd : Nat) : Kept s (s.noteWrite wd) := by
  refine kept_foldl (fun s e => ?_) _ s
  split
  · exact .rfl
  · refine kept_foldl (fun s sl => ?_) _ s
    split
    · split <;> exact ⟨rfl, rfl⟩
    · exact .rfl

theorem kept_putWord (s : State) (wd : Nat) (v : Word) (mask : BitVec 4) : Kept s (s.putWord wd v mask) := by
  unfold State.putWord
  extract_lets t w
  have ht : Kept s t := .trans (.trans (.trans (kept_hostLine ..) (kept_recall ..)) (kept_noteWrite ..)) (kept_markHeld ..)
  refine ht.trans ?_
  split
  · refine .trans (.trans ?_ (kept_setMemWord ..)) (kept_setPoison ..)
    split
    · exact kept_setHome ..
    · exact .rfl
  · split
    · exact .trans (.trans (kept_setHome ..) (kept_setMemWord ..)) (kept_setPoison ..)
    · split
      · exact .rfl
      · exact kept_setMemWord ..

theorem kept_putBytes (s : State) (pa : Nat) (bs : List Byte) : Kept s (s.putBytes pa bs) :=
  kept_foldl (fun s wd => kept_putWord s wd _ _) _ s

theorem rod_putNat (s : State) (pa n v : Nat) (r : RodId) : (s.putNat pa n v).rod r = s.rod r :=
  congrArg (fun t : Tbl Rod => t.find (rodKey r)) (kept_putBytes s pa (bytesOf n v)).1

/-! ### Whole words written at their home in one step -/

/-- With no soft error to come, words arrive as they were sent. -/
theorem arrived_calm {s : State} (h : s.upsets = []) (stop : Nat) (ws : List Nat) : s.arrived stop ws = s := by
  refine foldl_same fun wd _ => ?_
  simp only [flawed_calm h, if_true]

/-- Fewer bytes than a line's fill no line whole. -/
theorem no_whole_line {pa n : Nat} (hn : n < 128) (l : Nat) : (decide (pa ≤ 128 * l) && decide (128 * l + 128 ≤ pa + n)) = false := by
  by_cases h : pa ≤ 128 * l
  · simp [h]; omega
  · simp [h]

theorem writeHome_whole {s : State} {pa : Nat} {bs : List Byte} (h : ∀ wd ∈ wordsOf pa bs.length, WholeWord s wd) (hcalm : s.upsets = [])
    (hn : bs.length < 128) (stop : Nat) : s.writeHome stop pa bs = s.putBytes pa bs := by
  have hlines : ∀ l ∈ ((wordsOf pa bs.length).map lineOf).eraseDups,
      s.resideNow (s.homeDie (128 * l)) l 1 (fun s : State => s.putBytes pa bs) = s := by
    intro l hl
    obtain ⟨wd, hwd, rfl⟩ := List.mem_map.1 (List.mem_eraseDups.1 hl)
    rw [homeDie_line, resideNow_whole (h wd hwd)]
  unfold State.writeHome
  simp only [no_whole_line hn, List.filter_false, List.foldl_nil]
  rw [foldl_same hlines]
  exact arrived_calm ((kept_putBytes ..).2.trans hcalm) ..

end Sys2Proof.WholeWords
end

section
/-! SUPPORT. The allocator's lists where their data are at hand (R47 to R50). -/

namespace Sys2Proof.Blocks
open Sys2Proof.Machine Sys2Proof.Safety Sys2Proof.Laws Sys2Proof.Claims Sys2Proof.Allocator Sys2Proof.WholeWords

/-! ### Reads and writes of data at hand -/

/-- What can be written from a stop can be read from there. -/
theorem canGet_of_canPut {s : State} {stop pa n : Nat} (h : s.canPut stop pa n = true) : s.canGet stop pa n = true := by
  obtain ⟨hw, hway⟩ := Bool.and_eq_true_iff.1 h
  refine Bool.and_eq_true_iff.2 ⟨List.all_eq_true.2 fun wd hwd => ?_, hway⟩
  exact (Bool.and_eq_true_iff.1 (List.all_eq_true.1 hw wd hwd)).1

theorem raise_zero (s : State) (r : RodId) : s.raise r 0 = s := if_pos rfl

section
variable {s : State} {i : Iss} {pa : Nat → Nat} {l : List Nat} {va : Nat} (h : DataAt s i pa l) (hva : va ∈ l)
include h hva

theorem allocRead_data : s.allocRead i va = .ok (s.curNat (pa va) 8, s) := by
  unfold State.allocRead
  simp only [h.place va hva .read (.inl rfl), canGet_of_canPut (h.free va hva), if_true, homeNat_whole (h.whole va hva) h.calm, raise_zero]

theorem allocWrite_data (v : Nat) : s.allocWrite i va v = .ok ((), s.putNat (pa va) 8 v) := by
  have hlen : (bytesOf 8 v).length = 8 := by simp [bytesOf]
  have hwrite := fun stop => writeHome_whole (bs := bytesOf 8 v) (hlen ▸ h.whole va hva) h.calm (by omega) stop
  unfold State.allocWrite
  simp only [h.place va hva .write (.inr rfl), h.free va hva, if_true, hwrite]
  rfl

end

/-! ### One block popped (R49) -/

section
variable {s : State} {i : Iss} {pa : Nat → Nat} {e : AstUse} {b x : Nat}

theorem popBlock_data {desc cls d : Nat} (h : DataAt s i pa [headAt desc cls d, desc, desc + 8, b]) (hb : b = s.curNat (pa (headAt desc cls d)) 8)
    (hne : b ≠ 0) (hx : x = s.curNat (pa b) 8) (hok : x = 0 ∨ blockOk (s.curNat (pa desc) 8) (s.curNat (pa (desc + 8)) 8) cls x = true) :
    s.popBlock i desc cls d = .ok (b, s.putNat (pa (headAt desc cls d)) 8 x) := by
  have hhead := allocRead_data h (va := headAt desc cls d) (by simp)
  have hbase := allocRead_data h (va := desc) (by simp)
  have hlimit := allocRead_data h (va := desc + 8) (by simp)
  have hnext := allocRead_data h (va := b) (by simp)
  have hcut : (x != 0 && !blockOk (s.curNat (pa desc) 8) (s.curNat (pa (desc + 8)) 8) cls x) = false := by
    rcases hok with rfl | hok
    · rfl
    · rw [hok, Bool.not_true, Bool.and_false]
  rw [← hb] at hhead
  rw [← hx] at hnext
  unfold State.popBlock
  rw [hhead]
  split
  case h_2 heq => cases heq; exact absurd rfl hne
  case h_1 heq => cases heq
  case h_3 heq =>
    cases heq
    simp only [hbase, hlimit, hnext, hcut, Bool.false_eq_true, if_false, allocWrite_data h (va := headAt desc cls d) (by simp)]

/-- The own die's list is the first that is tried. -/
theorem popAny_own {desc cls own : Nat} {t : State} (hown : own < 8) (hne : b ≠ 0) (h : s.popBlock i desc cls own = .ok (b, t)) :
    s.popAny i desc cls own 8 = .ok (b, t) := by
  have hmod : (own + (7 - 7)) % 8 = own := by omega
  unfold State.popAny
  rw [hmod, h]
  split
  next heq => cases heq; exact absurd rfl hne
  · rfl

end

theorem astEntry_found {s : State} {u : Walker} {asid : Nat} {e : AstUse} (h : s.ast.find asid = some e) : s.astEntry u asid = .ok (e, s) := by
  rw [State.astEntry, h]

/-- What an allocation asks: a running allocator, a size that has a class, and a die of the package (R47, R49). -/
structure Asked (s : State) (i : Iss) (e : AstUse) (n : Nat) : Prop where
  entry : s.ast.find (s.asidOf i.rid) = some e
  on    : e.aen = true
  pos   : 0 < n
  small : n ≤ 65536
  die   : (s.coreOf i.rid).die < 8

/-- The head of the own die's list of a size's class. -/
def ownHead (s : State) (i : Iss) (e : AstUse) (n : Nat) : Nat := headAt e.adesc (sizeClass n) (s.coreOf i.rid).die

section
variable {s : State} {i : Iss} {e : AstUse} {pa : Nat → Nat} {n b x : Nat} (hask : Asked s i e n)
include hask

theorem allocLane_data (h : DataAt s i pa [ownHead s i e n, e.adesc, e.adesc + 8, b]) (hb : b = s.curNat (pa (ownHead s i e n)) 8) (hne : b ≠ 0)
    (hx : x = s.curNat (pa b) 8) (hok : x = 0 ∨ blockOk (s.curNat (pa e.adesc) 8) (s.curNat (pa (e.adesc + 8)) 8) (sizeClass n) x = true) :
    s.allocLane i n = .ok ((b, false), s.putNat (pa (ownHead s i e n)) 8 x) := by
  have hpos := hask.pos
  have hsmall := hask.small
  have hserved : ¬ (e.aen = false ∨ n = 0 ∨ 65536 < n) := by
    rw [hask.on]
    simp
    omega
  have hpop := popAny_own hask.die hne (popBlock_data h hb hne hx hok)
  unfold State.allocLane
  simp only [astEntry_found hask.entry, if_neg hserved, hpop]
  rfl

theorem freeLane_data {a m : Nat} (h : DataAt s i pa [ownHead s i e n, e.adesc, e.adesc + 8, a]) (ha : a ≠ 0)
    (hok : blockOk (s.curNat (pa e.adesc) 8) (s.curNat (pa (e.adesc + 8)) 8) (sizeClass n) a = true) :
    s.freeLane i m a n = .ok ((false, some { lane := m, pa := pa (ownHead s i e n), size := 8, act := .push a (pa a) }), s) := by
  have hpos := hask.pos
  have hsmall := hask.small
  have hon : ¬ (e.aen = false ∨ a = 0) := by
    rw [hask.on]
    simp [ha]
  have hsize : ¬ (n = 0 ∨ 65536 < n) := by omega
  have hhead : s.allocPlace i (headAt e.adesc (sizeClass n) (s.coreOf i.rid).die) .write = .ok (some (pa (ownHead s i e n)), s) :=
    h.place (ownHead s i e n) (by simp) .write (.inr rfl)
  unfold State.freeLane
  simp only [astEntry_found hask.entry, if_neg hon, if_neg hsize, allocRead_data h (va := e.adesc) (by simp),
    allocRead_data h (va := e.adesc + 8) (by simp), hok, not_true, if_false, hhead, h.place a (by simp) .write (.inr rfl)]

end

/-! ### The instructions of one lane -/

theorem setRod_self {s : State} {r : RodId} {x : Rod} (h : s.rods = (s.setRod r x).rods) : s.setRod r x = s := by
  rw [State.setRod_rods] at h
  rw [State.setRod, ← h]

theorem allocLanes_one {α : Type} {f : State → Nat → ATry α} {bad v : α} {m : Nat} {s t : State} (h : f s m = .ok (v, t)) :
    allocLanes f bad [m] s [] 0 = .ok ([(m, v)], 0, t) := by
  simp only [allocLanes, h, List.nil_append]

theorem dalloc_one {s t : State} {i : Iss} {g : Guard} {k : BitVec 8} {j : BitVec 6} {m b : Nat} {h : Hint} (hready : Ready s i [(.w k, 2)] [(.s j, 1)])
    (hflag : i.flagFull = false) (hmay : s.mayStore i .package .acq = true) (hm : lanes (i.part g) = [m])
    (hself : s.rods = (s.setRod i.rid i.rod).rods) (hlane : s.allocLane i (i.rod.un j.toNat).toNat = .ok ((b, false), t)) (hrod : t.rod i.rid = s.rod i.rid) :
    Issues (exec (.dalloc g (.w k) (.s j) h) s) i (fun u => u.mem = t.mem ∧
      ∃ y, u.rod i.rid = some y ∧ y.mflags = i.rod.mflags ∧ y.lw k.toNat m = wordAt b 0 ∧ y.lw (k.toNat + 1) m = wordAt b 1) := by
  have hout : allocLanes (fun t l => t.allocLane i (freeSize s i g (.s j) l)) (2 ^ 64 - 1, false) (actorsOf i g (.w k)) (s.setRod i.rid i.rod) [] 0 =
      .ok ([(m, (b, false))], 0, t) := by
    rw [setRod_self hself, show actorsOf i g (.w k) = [m] from hm]
    exact allocLanes_one hlane
  obtain ⟨u, hu, hmem, y, hy, hflags, hwords, -⟩ :=
    dalloc_issues hready hflag hmay (by simp [Operand.isS]) hout (hrod.trans (State.issuer_rod hready.1))
  have hm32 : m < 32 := lt_of_mem_lanes (hm ▸ List.mem_singleton_self m)
  exact ⟨u, hu, hmem, y, hy, hflags, hwords k rfl (m, (b, false)) (by simp) (by simp) hm32⟩

theorem coreOf_modRod (s : State) (r q : RodId) (f : Rod → Rod) : (s.modRod r f).coreOf q = s.coreOf q := by
  unfold State.modRod
  split <;> rfl

theorem dfree_one {s : State} {i : Iss} {g : Guard} {k : BitVec 6} {ad : MAddr} {m : Nat} {h : Hint} {acc : HomeAcc}
    (hready : Ready s i [] ((.s k, 1) :: ad.regs)) (hm : lanes (i.part g) = [m]) (hacq : s.acquiring i.rid = false)
    (hself : s.rods = (s.setRod i.rid i.rod).rods)
    (hlane : s.freeLane i m ((srcs s i g none).addr ad 1 m).toNat (i.rod.un k.toNat).toNat = .ok ((false, some acc), s)) :
    Issues (exec (.dfree g (.s k) ad h) s) i (fun u => u.mem = s.mem ∧ u.rod i.rid = some i.rod ∧
      ∃ o req ws ops, u.op s.nextId = some o ∧ o.rod = i.rid ∧ o.kind = .free (some req) ws ops ∧ req.op = s.nextId ∧
        req.stop = some (stopOf (s.coreOf i.rid).die) ∧ req.accs = [acc]) := by
  have hg : i.part g ≠ 0 := by
    intro hzero
    rw [hzero] at hm
    cases hm
  have hout : allocLanes (fun t l => t.freeLane i l ((srcs s i g none).addr ad 1 l).toNat (freeSize s i g (.s k) l)) (false, none) (lanes (i.part g))
      (s.setRod i.rid i.rod) [] 0 = .ok ([(m, (false, some acc))], 0, s) := by
    rw [setRod_self hself, hm]
    exact allocLanes_one hlane
  have hexec := exec_dfree_done (h := h) hready hg hacq hout
  rw [raise_zero] at hexec
  obtain ⟨o, req, ws, ops, ho, hrod, -, hkind, hop, haccs, hstop⟩ :=
    op_pushed (s.modRod i.rid (flagBad [(m, (false, some acc))])) i.rid (accs := [acc]) (by simp)
  rw [nextId_modRod] at ho hop
  rw [coreOf_modRod] at hstop
  refine ⟨_, hexec, ?_, ?_, o, req, ws, ops, ho, hrod, hkind, hop, hstop, haccs⟩
  · rw [mem_pushed, mem_modRod]
  · rw [rod_pushed]
    exact rod_modRod (State.issuer_rod hready.1) _

/-! ### The statement -/

theorem allocatorInstructions : AllocatorInstructions := by
  refine ⟨?_, ?_, ?_, ?_⟩
  · intro s s' i g d n h out b x hready hflag hmay _ hs hout hx
    exact dalloc_issues hready hflag hmay hs hout hx
  · intro s s' i g n ad h out b x hready hg hacq hout hx
    exact dfree_issues hready hg hacq hout hx
  · exact fun s i n l a e he haen => ⟨allocLane_off he haen, freeLane_off he haen⟩
  · rintro s i e pa n hentry hon hpos hsmall hdie hd rfl
    have hask : Asked s i e n := ⟨hentry, hon, hpos, hsmall, hdie⟩
    constructor
    · intro b x hb hne hx hdata hok
      have hlane := allocLane_data hask hdata hb hne hx hok
      refine ⟨hlane, ?_⟩
      rintro g k j m h hready hflag hmay hm rfl hself
      exact dalloc_one hready hflag hmay hm hself hlane (rod_putNat ..)
    · rintro a g k ad m h rfl ha hdata hok hready hm rfl hacq hself
      exact dfree_one hready hm hacq hself (freeLane_data hask hdata ha hok)

/-- Settles O22, piece by piece. Where the data are at hand, every read and write of a home finishes in the step and changes nothing but the bytes
written, so a lane of `dalloc` is one read and one write of a list's head, and a lane of `dfree` one request. -/
theorem allocatorAndTranslation : Obligations.AllocatorAndTranslation := ⟨allocatorInstructions, Invalidation.invalidationAndPoolPush⟩

end Sys2Proof.Blocks
end

section
/-! SUPPORT. Ports as operands (R220, R313, R333, R359, R371) and the checks of operands (R76, R154). -/

namespace Sys2Proof.Ports
open Sys2Proof.Machine Sys2Proof.Safety Sys2Proof.Laws Sys2Proof.Claims

/-! ### Waiting -/

/-- A wait of the issuing pair puts the wait in its slot, and may halt the rod (R155, R402). -/
theorem wait_waits {s : State} {i : Iss} (hrod : s.rod i.rid = some i.rod) (hslot : i.rod.slot i.sl = some i.slot) (w : Wait) :
    Waits (wait s i w) s i w := by
  have hmod : ∃ z : Rod, (wait s i w) = .next ((s.setRod i.rid z).checkHalt i.rid) ∧ z.slot i.sl = some { i.slot with wait := some w } ∧
      z.slot i.sl.other = i.rod.slot i.sl.other ∧
      { z with slotA := i.rod.slotA, slotB := i.rod.slotB, lastSlot := i.rod.lastSlot } = i.rod := by
    unfold wait State.waitOn
    rw [State.modRod_of _ _ _ _ hrod, hslot]
    refine ⟨_, rfl, ?_⟩
    cases i.sl <;> exact ⟨rfl, rfl, rfl⟩
  obtain ⟨z, he, hz, hother, hrest⟩ := hmod
  obtain ⟨honly, y, hy, hyz⟩ := OnlyRod.setRod_checkHalt i.rid s z
  have hsl : ∀ sl, y.slot sl = z.slot sl := fun sl => by rw [← hyz]; cases sl <;> rfl
  refine ⟨_, y, he, honly, hy, (hsl _).trans hz, (hsl _).trans hother, ?_⟩
  rw [← hrest, ← hyz]

theorem issuer_waits {s : State} {i : Iss} (h : s.issuer = some i) (w : Wait) : Waits (wait s i w) s i w :=
  wait_waits (State.issuer_rod h) (State.issuer_slot h) w

/-! ### The rows of group 0 as the forms that carry them out (R234 to R237) -/

theorem ofInt_add_toInt {n : Nat} (a b : BitVec n) : BitVec.ofInt n (a.toInt + b.toInt) = a + b := by
  rw [BitVec.ofInt_add, BitVec.ofInt_toInt, BitVec.ofInt_toInt]

theorem ofInt_neg_toInt {n : Nat} (a : BitVec n) : BitVec.ofInt n (-a.toInt) = -a := by
  rw [BitVec.ofInt_neg, BitVec.ofInt_toInt]

theorem ofInt_sub_toInt {n : Nat} (a b : BitVec n) : BitVec.ofInt n (a.toInt - b.toInt) = a - b := by
  rw [Int.sub_eq_add_neg, BitVec.ofInt_add, BitVec.ofInt_toInt, ofInt_neg_toInt, BitVec.sub_eq_add_neg]

theorem ofInt_mul_toInt {n : Nat} (a b : BitVec n) : BitVec.ofInt n (a.toInt * b.toInt) = a * b := by
  rw [BitVec.ofInt_mul, BitVec.ofInt_toInt, BitVec.ofInt_toInt]

theorem ofInt_abs_toInt {n : Nat} (a : BitVec n) : BitVec.ofInt n (if a.toInt < 0 then -a.toInt else a.toInt) = if a.slt 0 then -a else a := by
  simp only [BitVec.slt, BitVec.toInt_zero, BitVec.ofNat_eq_ofNat, decide_eq_true_eq]
  split
  · exact ofInt_neg_toInt a
  · exact BitVec.ofInt_toInt

/-- Forms with the same result at each width are the same. -/
theorem int2_congr {f f' : (n : Nat) → BitVec n → BitVec n → BitVec n} (h : ∀ n a b, f n a b = f' n a b) (s : State) (g : Guard) (d a b : Operand)
    (m : Option SrcMod) (sgn : Bool) : int2 s g d a b m sgn f = int2 s g d a b m sgn f' := by
  rw [show f = f' from funext fun n => funext fun a => funext fun b => h n a b]

theorem int1_congr {f f' : (n : Nat) → BitVec n → BitVec n} (h : ∀ n a, f n a = f' n a) (s : State) (g : Guard) (d a : Operand)
    (m : Option SrcMod) (sgn : Bool) : int1 s g d a m sgn f = int1 s g d a m sgn f' := by
  rw [show f = f' from funext fun n => funext fun a => h n a]

theorem exec_int2Row {r : Int2} (hr : r ∈ int2Rows) (g : Guard) (d a b : Operand) (m : Option SrcMod) (s : State) :
    exec (r.con g d a b m) s = int2 s g d a b m r.sgn r.f := by
  have hslt : ∀ n (a b : BitVec n), (a.slt b = true) = (a.toInt < b.toInt) := fun n a b => by simp [BitVec.slt]
  have hult : ∀ n (a b : BitVec n), (a.ult b = true) = (a.toNat < b.toNat) := fun n a b => by simp [BitVec.ult]
  have hall : ∀ r ∈ int2Rows, exec (r.con g d a b m) s = int2 s g d a b m r.sgn r.f := by
    simp only [int2Rows, List.cons_append, List.nil_append, List.forall_mem_cons]
    refine ⟨(exec_add ..).trans ?add, (exec_sub ..).trans ?sub, (exec_mul ..).trans ?mul, exec_mulh .., exec_mulhn .., (exec_min ..).trans ?min,
      (exec_max ..).trans ?max, (exec_minn ..).trans ?minn, (exec_maxn ..).trans ?maxn, exec_and .., exec_or .., exec_xor .., exec_andn ..,
      exec_div .., exec_divn .., exec_rem .., exec_remn .., exec_shl .., exec_shr .., exec_sar .., exec_rol .., exec_bfx .., exec_bfxn ..,
      fun _ h => nomatch h⟩
    case add => exact int2_congr (fun _ a b => (ofInt_add_toInt a b).symm) ..
    case sub => exact int2_congr (fun _ a b => (ofInt_sub_toInt a b).symm) ..
    case mul => exact int2_congr (fun _ a b => (ofInt_mul_toInt a b).symm) ..
    case min => exact int2_congr (fun n a b => by simp only [hslt]) ..
    case max => exact int2_congr (fun n a b => by simp only [hslt]) ..
    case minn => exact int2_congr (fun n a b => by simp only [hult]) ..
    case maxn => exact int2_congr (fun n a b => by simp only [hult]) ..
  exact hall r hr

theorem exec_int1Row {r : Int1} (hr : r ∈ int1Rows) (g : Guard) (d a : Operand) (m : Option SrcMod) (s : State) :
    exec (r.con g d a m) s = int1 s g d a m r.sgn r.f := by
  have hall : ∀ r ∈ int1Rows, exec (r.con g d a m) s = int1 s g d a m r.sgn r.f := by
    simp only [int1Rows, List.forall_mem_cons]
    refine ⟨(exec_neg ..).trans ?neg, (exec_abs ..).trans ?abs, exec_not .., exec_popc .., exec_clz .., exec_ctz .., exec_brev .., exec_mov ..,
      fun _ h => nomatch h⟩
    case neg => exact int1_congr (fun _ a => (ofInt_neg_toInt a).symm) ..
    case abs => exact int1_congr (fun _ a => (ofInt_abs_toInt a).symm) ..
  exact hall r hr

/-! ### Issue with pops and with registers in error (R76, R154, R220) -/

/-- The operands of an issuing instruction pass the checks made before its pops (R154, R333). -/
structure Passes (s : State) (i : Iss) (ds os : List (Operand × Nat)) : Prop where
  issues : s.issuer = some i
  window : (ds ++ os).all (fun o => inWindow i.rod o.1 o.2) = true
  rights : ds.any (fun o => o.1 == .port .cp) = false ∨ i.rod.role = 0

/-- What an instruction goes on with after its pops. -/
def popped (s : State) (i : Iss) (g : Guard) (m : Option SrcMod) (p : Popped) : Ctx :=
  { s := s.setRod i.rid p.rod, i := i, g := i.part g, m := m, port := p.val, old := s }

section
variable {s : State} {i : Iss} {g : Guard} {m : Option SrcMod} {ds os : List (Operand × Nat)} {k : Ctx → Res}

theorem Passes.copies (h : Passes s i ds os) : ¬ ((ds.any (fun o => o.1 == .port .cp)) = true ∧ i.rod.role ≠ 0 ∧ i.part g ≠ 0) := by
  rintro ⟨hd, hrole, -⟩
  exact h.rights.elim (fun hn => absurd hd (by rw [hn]; decide)) hrole

theorem issue_pops {p : Popped} (h : Passes s i ds os) (hreg : i.rod.regBad = [])
    (hp : popAll ⟨i.rod, fun _ _ => 0⟩ (i.part g) (portsOf (os.map Prod.fst)) = .ok p) :
    issue s g m ds os k = k (popped s i g m p) := by
  have hbad : ∀ ls o n, i.rod.badReg ls o n = false := fun ls o n => by simp [Rod.badReg, hreg]
  unfold issue
  rw [withIss_of h.issues]
  simp only [h.window, not_true_eq_false, if_false]
  rw [if_neg h.copies, hp]
  simp [hbad, popped]

theorem issue_pop_waits {q : Port} (h : Passes s i ds os) (hp : popAll ⟨i.rod, fun _ _ => 0⟩ (i.part g) (portsOf (os.map Prod.fst)) = .error q) :
    issue s g m ds os k = wait s i (portWait q) := by
  unfold issue
  rw [withIss_of h.issues]
  simp only [h.window, not_true_eq_false, if_false]
  rw [if_neg h.copies, hp]

/-- A push to port.cp by another role than 0 traps (R333). -/
theorem issue_copy_rights (h : s.issuer = some i) (hw : (ds ++ os).all (fun o => inWindow i.rod o.1 o.2) = true)
    (hd : ds.any (fun o => o.1 == .port .cp) = true) (hrole : i.rod.role ≠ 0) (hpart : i.part g ≠ 0) :
    issue s g m ds os k = trap s i Cause.copyr := by
  unfold issue
  rw [withIss_of h]
  simp only [hw, not_true_eq_false, if_false]
  rw [if_pos ⟨hd, hrole, hpart⟩]

/-- A source register in error raises its cause, and the instruction goes on (R76). -/
theorem issue_error {o : Operand × Nat} {l : Nat} (h : Passes s i ds os) (hp : portsOf (os.map Prod.fst) = []) (ho : o ∈ os) (hl : l ∈ lanes (i.part g))
    (hbad : ∀ ls, l ∈ ls → i.rod.badReg ls o.1 o.2 = true) :
    issue s g m ds os k = k (popped s i g m ⟨i.rod.raise Cause.umem, fun _ _ => 0⟩) := by
  have hpart : (i.part g != 0) = true := by
    rw [bne_iff_ne]
    intro h0
    rw [h0] at hl
    exact absurd hl (by simp [lanes])
  unfold issue
  rw [withIss_of h.issues]
  simp only [h.window, not_true_eq_false, if_false]
  rw [if_neg h.copies, hp, popAll_nil]
  have hany : (i.part g != 0 && os.any (fun o => i.rod.badReg (lanes (i.part g) ++ (lanes (i.part g)).map (modLane m .a) ++
      (lanes (i.part g)).map (modLane m .b) ++ (lanes (i.part g)).map (modLane m .c)) o.1 o.2)) = true := by
    rw [hpart, Bool.true_and, List.any_eq_true]
    exact ⟨o, ho, hbad _ (by simp [hl])⟩
  simp only [hany, if_true, popped]

end

/-! ### What each port gives (R220, R313, R333, R359, R371) -/

/-- A pop gives the lanes words w of a port, and leaves the rod as x. -/
def Gives (p : Popped) (g : Mask) (q : Port) (x : Rod) (w : Nat → Word) : Prop := ∃ val, p.pop g q = some ⟨x, val⟩ ∧ val q = w

section
variable {p : Popped} {g : Mask}

theorem pop_mx_waits (hg : g ≠ 0) (h : p.rod.mxOut = []) : p.pop g .mx = none := by
  simp only [Popped.pop, if_neg hg, h]

theorem pop_mx {w : Word} {rest : List Word} (hg : g ≠ 0) (h : p.rod.mxOut = w :: rest) : Gives p g .mx { p.rod with mxOut := rest } (fun _ => w) :=
  ⟨_, by simp only [Popped.pop, if_neg hg, h]; rfl, rfl⟩

theorem pop_cp_waits (hg : g ≠ 0) (h : p.rod.cpOut = []) : p.pop g .cp = none := by
  simp only [Popped.pop, if_neg hg, h]

theorem pop_cp {w : Word} {rest : List Word} (hg : g ≠ 0) (h : p.rod.cpOut = w :: rest) : Gives p g .cp { p.rod with cpOut := rest } (fun _ => w) :=
  ⟨_, by simp only [Popped.pop, if_neg hg, h]; rfl, rfl⟩

/-- A gather's place whose row has not arrived makes the reader wait, and so does an empty queue (R313). -/
theorem pop_gx_waits (h : ∀ w rest, p.rod.gx = w :: rest → w.op.isSome = true) : p.pop g .gx = none := by
  cases hgx : p.rod.gx with
  | nil => simp only [Popped.pop, hgx]
  | cons w rest =>
    have hnone : w.op.isNone = false := by rw [← Option.not_isSome, h w rest hgx]; rfl
    simp only [Popped.pop, hgx, hnone, Bool.false_eq_true, if_false]

theorem pop_gx {w : GxWord} {rest : List GxWord} (h : p.rod.gx = w :: rest) (hop : w.op = none) :
    Gives p g .gx (({ p.rod with gx := rest } : Rod).raise (if w.bad &&& g ≠ 0 then Cause.umem else 0))
      (fun l => if w.bad.has l then 0xFFFFFFFF else w.vals.getD l 0) :=
  ⟨_, by simp only [Popped.pop, h, hop, Option.isNone_none, if_true]; rfl, rfl⟩

theorem pop_nb_waits (h : p.rod.stream.deal (lanes g) = none) : p.pop g .nb = none := by
  simp only [Popped.pop, h]

theorem pop_nb {t : Stream} {ws : List (Nat × Word)} (h : p.rod.stream.deal (lanes g) = some (t, ws)) :
    Gives p g .nb { p.rod with stream := t } (fun l => ((ws.find? (·.1 == l)).map (·.2)).getD 0) :=
  ⟨_, by simp only [Popped.pop, h]; rfl, rfl⟩

end

/-! ### Results written after the pops (R216, R231) -/

theorem putInt_popped (s : State) (i : Iss) (g : Guard) (m : Option SrcMod) (p : Popped) {d : Operand} (hd : isReg d = true)
    (f : (n : Nat) → Nat → BitVec n) : Completes ((popped s i g m p).putInt d f) s i.rid (writeInt p.rod (i.part g) d f) := by
  have hmod : ∀ h : Rod → Rod, finish ((s.setRod i.rid p.rod).modRod i.rid h) i = finish (s.setRod i.rid (h p.rod)) i := fun h => by rw [modRod_setRod]
  unfold Ctx.putInt
  by_cases h0 : i.part g = 0
  · rw [if_pos (by exact h0)]
    have hsame : writeInt p.rod (i.part g) d f = p.rod := by
      match d, hd with
      | .w k, _ => rw [h0]; rfl
      | .s k, _ => rw [h0]; rfl
    rw [hsame]
    exact finish_setRod ..
  · rw [if_neg (by exact h0)]
    match d, hd with
    | .w k, _ =>
      have hdone := hmod (fun x => x.setLws (i.part g) k.toNat (fun l => f 32 l))
      exact (congrArg (Completes · s i.rid _) hdone).mpr (finish_setRod ..)
    | .s k, _ =>
      have hdone := hmod (fun x => x.setUn k.toNat (f 64 (lowest (i.part g))))
      have hs : writeInt p.rod (i.part g) (.s k) f = p.rod.setUn k.toNat (f 64 (lowest (i.part g))) := if_neg h0
      rw [hs]
      exact (congrArg (Completes · s i.rid _) hdone).mpr (finish_setRod ..)

/-- A word of a port at width n (R216). -/
def extended (sgn : Bool) (n : Nat) (w : Word) : BitVec n := if sgn then w.signExtend n else w.setWidth n

theorem noCopyPort_of_isReg {d : Operand} (hd : isReg d = true) : [(d, 1)].any (fun o => o.1 == .port .cp) = false :=
  match d, hd with
  | .w _, _ | .s _, _ => rfl

section
variable {s : State} {i : Iss} {g : Guard} {d : Operand} {q : Port}

theorem passes_int2 (h : s.issuer = some i) (hw : inWindow i.rod d 1 = true) (hd : isReg d = true) (q : Port) :
    Passes s i [(d, 1)] [(.port q, 1), (.port q, 1)] where
  issues := h
  window := by
    rw [List.cons_append, List.nil_append, List.all_cons, hw]
    rfl
  rights := .inl (noCopyPort_of_isReg hd)

theorem popAll_twice (p : Popped) (g : Mask) (q : Port) : popAll p g (portsOf ([(.port q, 1), (.port q, 1)].map (Prod.fst (β := Nat)))) =
    match p.pop g q with
    | some p => .ok p
    | none => .error q := by
  have hports : portsOf ([(.port q, 1), (.port q, 1)].map (Prod.fst (β := Nat))) = [q] := by cases q <;> rfl
  rw [hports]
  rfl

/-- A port that has nothing makes the instruction wait (R220). -/
theorem int2_port_waits {m : Option SrcMod} {sgn : Bool} {f : (n : Nat) → BitVec n → BitVec n → BitVec n} (h : s.issuer = some i)
    (hw : inWindow i.rod d 1 = true) (hd : isReg d = true) (hpop : Popped.pop ⟨i.rod, fun _ _ => 0⟩ (i.part g) q = none) :
    Waits (int2 s g d (.port q) (.port q) m sgn f) s i (portWait q) := by
  unfold int2
  rw [issue_pop_waits (q := q) (passes_int2 h hw hd q) (by rw [popAll_twice, hpop])]
  exact issuer_waits h _

/-- A port named twice pops once, and gives its word to both sources (R220). -/
theorem int2_port_completes {m : Option SrcMod} {sgn : Bool} {f : (n : Nat) → BitVec n → BitVec n → BitVec n} {p : Popped} (h : s.issuer = some i)
    (hw : inWindow i.rod d 1 = true) (hd : isReg d = true) (hreg : i.rod.regBad = []) (hpop : Popped.pop ⟨i.rod, fun _ _ => 0⟩ (i.part g) q = some p) :
    Completes (int2 s g d (.port q) (.port q) m sgn f) s i.rid
      (writeInt p.rod (i.part g) d (fun n l => f n (extended sgn n (p.val q l)) (extended sgn n (p.val q l)))) := by
  unfold int2
  rw [issue_pops (passes_int2 h hw hd q) hreg (p := p) (by rw [popAll_twice, hpop])]
  exact putInt_popped s i g m p hd _

end

/-! ### Pushes (R333, R359) -/

section
variable {s : State} {r : RodId} {x : Rod} {v : Word}

theorem pushMx_fills {c : Chain} (hx : s.rod r = some x) (hc : s.chain r.chain = some c) (hl : x.mxIn.length < 4) :
    s.pushMx r v = .done (s.setRod r { x with mxIn := x.mxIn ++ [v] }) := by
  unfold State.pushMx
  rw [hx, hc]
  dsimp only
  split
  · rename_i hfour
    simp [hfour] at hl
  · rfl

theorem pushMx_malformed {c : Chain} {hi lo a b : Word} {e : DecodeError} (hx : s.rod r = some x) (hc : s.chain r.chain = some c)
    (hl : x.mxIn = [hi, lo, a, b]) (hbad : decode (dword lo hi) = .error e) :
    s.pushMx r v = .done (s.setRod r (({ x with mxIn := [] } : Rod).raise Cause.accv)) := by
  have hraise : (s.setRod r { x with mxIn := [] }).raise r Cause.accv = s.setRod r (({ x with mxIn := [] } : Rod).raise Cause.accv) := by
    rw [State.raise, if_neg (by decide), modRod_setRod]
  unfold State.pushMx
  rw [hx, hc]
  simp only [hl, hbad, hraise]

theorem pushCp_fills (hx : s.rod r = some x) (hl : x.cpIn.length < 5) : s.pushCp r v = .done (s.setRod r { x with cpIn := x.cpIn ++ [v] }) := by
  unfold State.pushCp
  rw [hx]
  dsimp only
  split
  · rename_i hfive
    simp [hfive] at hl
  · rfl

theorem pushCp_malformed (hx : s.rod r = some x) (hl : x.cpIn.length = 5) (hv : v ≠ 0) :
    s.pushCp r v = .done (s.setRod r (({ x with cpIn := [] } : Rod).raise Cause.accv)) := by
  have hraise : (s.setRod r { x with cpIn := [] }).raise r Cause.accv = s.setRod r (({ x with cpIn := [] } : Rod).raise Cause.accv) := by
    rw [State.raise, if_neg (by decide), modRod_setRod]
  unfold State.pushCp
  rw [hx]
  match hcp : x.cpIn, hl with
  | [a, blo, bhi, c, e], _ =>
    dsimp only
    rw [hcp]
    simp only [ne_eq, hv, not_false_eq_true, if_true, hraise]

end

section
variable {s : State} {i : Iss} {g : Guard} {a : Operand} {m : Option SrcMod} {sgn : Bool} {f : (n : Nat) → BitVec n → BitVec n} {q : Port}

theorem window_push (hw : inWindow i.rod a 1 = true) (q : Port) : ([(Operand.port q, 1)] ++ [(a, 1)]).all (fun o => inWindow i.rod o.1 o.2) = true := by
  rw [List.cons_append, List.nil_append, List.all_cons, List.all_cons, hw]
  rfl

theorem ready_push (h : s.issuer = some i) (hw : inWindow i.rod a 1 = true) (hp : noPorts [(a, 1)] = true) (hreg : i.rod.regBad = [])
    (hrole : q = .mx ∨ i.rod.role = 0) (k : Ctx → Res) : issue s g m [(.port q, 1)] [(a, 1)] k = k (ctx0 s i g m) :=
  issue_of h g m _ _ k (window_push hw q) (hrole.imp (fun e => by subst e; rfl) .inl) (noPorts_portsOf [] [(a, 1)] hp) hreg

/-- The push of one word that leaves the issuing rod as z. -/
theorem int1_push_completes {z : Rod} (h : s.issuer = some i) (hw : inWindow i.rod a 1 = true) (hp : noPorts [(a, 1)] = true) (hreg : i.rod.regBad = [])
    (hpart : i.part g ≠ 0) (hrole : q = .mx ∨ (q = .cp ∧ i.rod.role = 0))
    (hmx : q = .mx → (s.setRod i.rid i.rod).pushMx i.rid (f 32 ((srcs s i g m).int .a a sgn 32 (lowest (i.part g)))) = .done (s.setRod i.rid z))
    (hcp : q = .cp → (s.setRod i.rid i.rod).pushCp i.rid (f 32 ((srcs s i g m).int .a a sgn 32 (lowest (i.part g)))) = .done (s.setRod i.rid z)) :
    Completes (int1 s g (.port q) a m sgn f) s i.rid z := by
  unfold int1
  rw [ready_push h hw hp hreg (hrole.imp id And.right)]
  unfold Ctx.putInt
  rw [if_neg (by exact hpart)]
  obtain rfl | ⟨rfl, -⟩ := hrole
  · simp only [ctx0_int]
    exact (congrArg (ctx0 s i g m).afterPush (hmx rfl)).symm ▸ finish_setRod s i z
  · simp only [ctx0_int]
    exact (congrArg (ctx0 s i g m).afterPush (hcp rfl)).symm ▸ finish_setRod s i z

end

/-! ### Registers in error (R76) -/

/-- An instruction of one source in error computes with ones, and its rod has the cause. -/
theorem int1_error {s : State} {i : Iss} {g : Guard} {d : Operand} {k : BitVec 8} {l : Nat} {sgn : Bool} {f : (n : Nat) → BitVec n → BitVec n}
    (h : s.issuer = some i) (hw : inWindow i.rod d 1 = true) (hk : inWindow i.rod (.w k) 1 = true) (hd : isReg d = true) (hl : (i.part g).has l = true)
    (hl32 : l < 32) (hbad : i.rod.regBad.contains (32 * k.toNat + l) = true) :
    Completes (int1 s g d (.w k) none sgn f) s i.rid
      (writeInt (i.rod.raise Cause.umem) (i.part g) d (fun n j => f n ((srcs s i g none).int .a (.w k) sgn n j))) := by
  have hpass : Passes s i [(d, 1)] [(.w k, 1)] :=
    { issues := h, window := by simp [hw, hk], rights := .inl (noCopyPort_of_isReg hd) }
  have hread : ∀ ls : List Nat, l ∈ ls → i.rod.badReg ls (.w k) 1 = true := by
    intro ls hls
    have hne : i.rod.regBad.isEmpty = false := by
      cases hb : i.rod.regBad with
      | nil => rw [hb] at hbad; cases hbad
      | cons _ _ => rfl
    have hword : i.rod.badWords ls k.toNat 1 = true :=
      List.any_eq_true.2 ⟨0, List.mem_range.2 Nat.one_pos, List.any_eq_true.2 ⟨l, hls, hbad⟩⟩
    simp only [Rod.badReg, hne, hword, Bool.not_false, Bool.and_self]
  unfold int1
  rw [issue_error (o := (.w k, 1)) hpass rfl (List.mem_singleton.2 rfl) (List.mem_filter.2 ⟨List.mem_range.2 hl32, hl⟩) hread]
  exact putInt_popped s i g none ⟨i.rod.raise Cause.umem, fun _ _ => 0⟩ hd _

/-! ### The statement -/

/-- What `port.nb` deals to a lane that stands at the start of a record (R371). -/
theorem deal_fresh {t : Stream} {l : Nat} (rest : List Nat) (h0 : t.cur.get l 0 = 0) :
    (∀ p q, t.queue = p :: q → t.deal (l :: rest) =
      (Stream.deal { t with queue := q, dealt := t.dealt.put l p, cur := t.cur.set l 1 0 } rest).map (fun e => (e.1, (l, p.i) :: e.2))) ∧
    (t.queue = [] → t.ended = false → t.deal (l :: rest) = none) := by
  constructor
  · intro p q hq
    rw [Stream.deal]
    simp only [h0, hq, ne_eq, not_true_eq_false, if_false, Tbl.find_put_self]
    have hcur : (0 : BitVec 2) + 1 = 1 := rfl
    rw [hcur]
    cases Stream.deal { t with queue := q, dealt := t.dealt.put l p, cur := t.cur.set l 1 0 } rest <;> rfl
  · intro hq he
    rw [Stream.deal]
    simp only [h0, hq, he, ne_eq, not_true_eq_false, if_false, Bool.false_eq_true]

/-- Settles O59: one law for each outcome of an issue whose sources are ports (a pop that has to wait, a pop that gives its word to every field), one
for a push that joins or discards its raw command, and one for a source register in error. -/
theorem portsAndOperandChecks : Obligations.PortsAndOperandChecks := by
  refine ⟨?sources, ?deals, ?pushes, ?window, ?errors⟩
  case sources =>
    rintro r hr s i g d m h hw hd hreg both rfl
    have hwaits : ∀ {q : Port}, Popped.pop ⟨i.rod, fun _ _ => 0⟩ (i.part g) q = none →
        Waits (int2 s g d (.port q) (.port q) m r.sgn r.f) s i (portWait q) := fun hpop => int2_port_waits h hw hd hpop
    have hgives : ∀ {q : Port} {x : Rod} {w : Nat → Word}, Gives ⟨i.rod, fun _ _ => 0⟩ (i.part g) q x w →
        Completes (int2 s g d (.port q) (.port q) m r.sgn r.f) s i.rid
          (writeInt x (i.part g) d (fun n l => r.f n (extended r.sgn n (w l)) (extended r.sgn n (w l)))) := by
      rintro q x w ⟨val, hpop, rfl⟩
      exact int2_port_completes (p := ⟨x, val⟩) h hw hd hreg hpop
    simp only [exec_int2Row hr]
    exact ⟨fun h0 hout => hwaits (pop_mx_waits h0 hout), fun w rest h0 hout => hgives (pop_mx h0 hout),
      fun h0 hout => hwaits (pop_cp_waits h0 hout), fun w rest h0 hout => hgives (pop_cp h0 hout),
      fun hhead => hwaits (pop_gx_waits hhead), fun w rest hgx hop => hgives (pop_gx hgx hop),
      fun hdeal => hwaits (pop_nb_waits hdeal), fun t ws hdeal => hgives (pop_nb hdeal)⟩
  case deals => exact fun t l rest => ⟨fun p q h0 hq => (deal_fresh rest h0).1 p q hq, fun h0 => (deal_fresh rest h0).2⟩
  case pushes =>
    rintro r hr s i g a m ch h hw hp hreg hch hpart v rfl
    have hx : (s.setRod i.rid i.rod).rod i.rid = some i.rod := State.rod_setRod ..
    have hexec : ∀ q : Port, exec (r.con g (.port q) a m) s = int1 s g (.port q) a m r.sgn r.f := fun q => exec_int1Row hr ..
    refine ⟨?_, ?_, ?_, ?_, ?_⟩
    · intro hl
      rw [hexec]
      exact int1_push_completes h hw hp hreg hpart (.inl rfl) (fun _ => (pushMx_fills hx hch hl).trans (by rw [State.setRod_setRod])) nofun
    · intro hi lo b c e hl hbad
      rw [hexec]
      exact int1_push_completes h hw hp hreg hpart (.inl rfl) (fun _ => (pushMx_malformed hx hch hl hbad).trans (by rw [State.setRod_setRod])) nofun
    · intro hrole hl
      rw [hexec]
      exact int1_push_completes h hw hp hreg hpart (.inr ⟨rfl, hrole⟩) nofun (fun _ => (pushCp_fills hx hl).trans (by rw [State.setRod_setRod]))
    · intro hrole hl hv
      rw [hexec]
      exact int1_push_completes h hw hp hreg hpart (.inr ⟨rfl, hrole⟩) nofun (fun _ => (pushCp_malformed hx hl hv).trans (by rw [State.setRod_setRod]))
    · intro hrole
      rw [hexec]
      exact issue_copy_rights h (window_push hw .cp) rfl hrole hpart
  case window =>
    intro r hr s i g d a b m h hw
    rw [exec_int2Row hr]
    exact issue_window h g m _ _ _ (by simpa [Bool.and_assoc] using hw)
  case errors =>
    intro r hr s i g d k l h hw hk hd hl hl32 hbad
    rw [exec_int1Row hr]
    refine ⟨?_, int1_error h hw hk hd hl hl32 hbad⟩
    have hlw : i.rod.lw k.toNat l = 0xFFFFFFFF := if_pos hbad
    simp [Ctx.int, srcs, modLane, hlw]

end Sys2Proof.Ports
end

section
/-! SUPPORT. A chain's scratchpad: where lanes lead in it, its lines and its bytes after stores (R57, R58, R117, R310). -/

namespace Sys2Proof.Scratch
open Sys2Proof.Machine Sys2Proof.Safety Sys2Proof.Laws Sys2Proof.Claims Sys2Proof.Lanes Sys2Proof.Allocator

/-! ### The context of a ready instruction -/

theorem actors_ctx0 (s : State) (i : Iss) (g : Guard) (m : Option SrcMod) (d : Operand) : (ctx0 s i g m).actors d = actorsOf i g d := by
  cases d <;> rfl

theorem ctx0_g (s : State) (i : Iss) (g : Guard) (m : Option SrcMod) : (ctx0 s i g m).g = i.part g := rfl

theorem ctx0_s (s : State) (i : Iss) (g : Guard) (m : Option SrcMod) : (ctx0 s i g m).s = s.setRod i.rid i.rod := rfl

/-- The places of lanes at offsets of a chain's scratchpad. -/
def scrPlaces (cid : Nat) (off : Nat → Nat) (ls : List Nat) : List (Nat × Spot) := ls.map (fun l => (l, .scr cid (off l)))

theorem offsets_ctx0 {s : State} {i : Iss} {g : Guard} {ad : MAddr} {z : Nat} {ls : List Nat} {ch : Chain} {off : Nat → Nat}
    (h : InScratch s i g ad z ls ch off) : (ctx0 s i g none).offsets ad z ls = scrPlaces i.rid.chain off ls := by
  obtain ⟨hchain, hplace⟩ := h
  refine List.map_congr_left fun l hl => ?_
  obtain ⟨hoff, halign, hin⟩ := hplace l hl
  have hch : (ctx0 s i g none).s.chain (ctx0 s i g none).i.rid.chain = some ch := hchain
  rw [hch, ctx0_addr, ← hoff]
  simp [scrSpot, halign, hin, ctx0_i]

theorem violCause_scrPlaces (cid : Nat) (off : Nat → Nat) (ls : List Nat) : violCause (scrPlaces cid off ls) = 0 := by
  simp [violCause, scrPlaces]

theorem wait_setRod {s : State} {i : Iss} (w : Wait) (h : s.rod i.rid = some i.rod) : wait (s.setRod i.rid i.rod) i w = wait s i w := by
  unfold wait State.waitOn
  rw [modRod_setRod, State.modRod_of _ _ _ _ h]

theorem modRod_rest (s : State) (r : RodId) (f : Rod → Rod) : { s.modRod r f with rods := s.rods } = s := by
  unfold State.modRod
  split <;> rfl

/-- What a rod takes over when it acquires changes its record alone. -/
theorem inherit_rest (s : State) (r : RodId) : { s.inherit r with rods := s.rods } = s := by
  unfold State.inherit
  split
  · rfl
  · exact modRod_rest ..

theorem chain_inherit (s : State) (r : RodId) (cid : Nat) : (s.inherit r).chain cid = s.chain cid :=
  (congrArg (fun t : State => t.chain cid) (inherit_rest s r) :)

/-! ### Lines waited for -/

theorem mem_lineWaits_iff {full : Bool} {z : Nat} {sp : List (Nat × Spot)} {w : LineWait} :
    w ∈ lineWaits full z sp ↔ ∃ m cid off, (m, .scr cid off) ∈ sp ∧ ∃ k ∈ linesOf off z, w = { chain := cid, line := k, full := full } := by
  simp only [lineWaits, List.mem_eraseDups, List.mem_flatMap]
  constructor
  · rintro ⟨⟨m, p⟩, he, hw⟩
    cases p with
    | scr cid off =>
      obtain ⟨k, hk, rfl⟩ := List.mem_map.1 hw
      exact ⟨m, cid, off, he, k, hk, rfl⟩
    | mem pa ent => cases hw
    | zero => cases hw
    | viol => cases hw
  · rintro ⟨m, cid, off, he, k, hk, rfl⟩
    exact ⟨_, he, List.mem_map.2 ⟨k, hk, rfl⟩⟩

theorem mem_lineWaits {full : Bool} {z cid : Nat} {off : Nat → Nat} {ls : List Nat} {w : LineWait} :
    w ∈ lineWaits full z (scrPlaces cid off ls) ↔ ∃ m ∈ ls, ∃ k ∈ linesOf (off m) z, w = { chain := cid, line := k, full := full } := by
  rw [mem_lineWaits_iff]
  constructor
  · rintro ⟨m, c, o, he, k, hk, rfl⟩
    obtain ⟨l, hl, heq⟩ := List.mem_map.1 he
    cases heq
    exact ⟨_, hl, k, hk, rfl⟩
  · rintro ⟨m, hm, k, hk, rfl⟩
    exact ⟨m, cid, off m, List.mem_map.2 ⟨m, hm, rfl⟩, k, hk, rfl⟩

theorem lineMet_iff {s : State} {w : LineWait} {ch : Chain} (h : s.chain w.chain = some ch) : s.lineMet w = true ↔ ch.full w.line = w.full := by
  simp [State.lineMet, h]

/-- Every line that lanes touch in a scratchpad is in the state waited for. -/
theorem all_lineWaits_iff {s : State} {cid : Nat} {ch : Chain} (h : s.chain cid = some ch) (full : Bool) (z : Nat) (off : Nat → Nat) (ls : List Nat) :
    (lineWaits full z (scrPlaces cid off ls)).all s.lineMet = true ↔ ∀ m ∈ ls, ∀ k ∈ linesOf (off m) z, ch.full k = full := by
  rw [List.all_eq_true]
  constructor
  · intro hall m hm k hk
    exact (lineMet_iff (w := { chain := cid, line := k, full := full }) h).1 (hall _ (mem_lineWaits.2 ⟨m, hm, k, hk, rfl⟩))
  · intro hfull w hw
    obtain ⟨m, hm, k, hk, rfl⟩ := mem_lineWaits.1 hw
    exact (lineMet_iff (w := { chain := cid, line := k, full := full }) h).2 (hfull m hm k hk)

/-! ### Lines put in a state -/

theorem full_setFull (c : Chain) (l : Nat) (v : Bool) (k : Nat) : (c.setFull l v).full k = if k = l then v else c.full k := Tbl.get_set ..

/-- Lines of a scratchpad put in a state. -/
def setFulls (c : Chain) (ks : List Nat) (v : Bool) : Chain := ks.foldl (fun c l => c.setFull l v) c

theorem setFulls_rest (c : Chain) (ks : List Nat) (v : Bool) : { setFulls c ks v with fe := c.fe } = c := by
  induction ks generalizing c with
  | nil => rfl
  | cons k ks ih => exact congrArg (fun d : Chain => { d with fe := c.fe }) (ih (c.setFull k v))

theorem scr_setFulls (c : Chain) (ks : List Nat) (v : Bool) : (setFulls c ks v).scr = c.scr := by
  rw [← congrArg Chain.scr (setFulls_rest c ks v)]

theorem scrBad_setFulls (c : Chain) (ks : List Nat) (v : Bool) : (setFulls c ks v).scrBad = c.scrBad := by
  rw [← congrArg Chain.scrBad (setFulls_rest c ks v)]

theorem full_setFulls (c : Chain) (ks : List Nat) (v : Bool) (k : Nat) : (setFulls c ks v).full k = if k ∈ ks then v else c.full k := by
  induction ks generalizing c with
  | nil => simp [setFulls]
  | cons l ks ih =>
    show (setFulls (c.setFull l v) ks v).full k = _
    rw [ih, full_setFull]
    by_cases hks : k ∈ ks <;> by_cases hl : k = l <;> simp [hks, hl]

/-! ### Bytes stored -/

/-- Reading a table after entries at successive keys have been written. -/
theorem get_foldl_set (bs : List Byte) (t : Tbl Byte) (o p b : Nat) :
    ((bs.zipIdx p).foldl (fun (t : Tbl Byte) e => t.set (o + e.2) e.1 0) t).get b 0 =
      if o + p ≤ b ∧ b < o + p + bs.length then bs.getD (b - (o + p)) 0 else t.get b 0 := by
  induction bs generalizing t p with
  | nil => simp
  | cons x bs ih =>
    rw [List.zipIdx_cons, List.foldl_cons, ih, Tbl.get_set]
    simp only [List.length_cons]
    by_cases hb : b = o + p
    · subst hb
      simp
    · by_cases hin : o + (p + 1) ≤ b ∧ b < o + (p + 1) + bs.length
      · rw [if_pos hin, if_pos (by omega), show b - (o + p) = (b - (o + (p + 1))) + 1 by omega, List.getD_cons_succ]
      · rw [if_neg hin, if_neg hb, if_neg (by omega)]

theorem putCells_clean {c : Chain} (h : c.scrBad = []) (cells : List (Nat × Byte)) :
    c.putCells cells [] = { c with scr := cells.foldl (fun (t : Tbl Byte) e => t.set e.1 e.2 0) c.scr } := by
  have hbad : ∀ o, c.isBad o = false := fun o => by simp [Chain.isBad, h]
  simp only [Chain.putCells, hbad, h, Bool.not_false, Bool.or_true, List.filter_true, List.filter_nil, List.map_nil, List.foldl_nil]

/-- A scratchpad after bytes have been stored at an offset: their lines are full (R57). -/
def storeCells (c : Chain) (off : Nat) (bs : List Byte) : Chain :=
  setFulls (c.putCells (bs.zipIdx.map (fun e => (off + e.2, e.1))) []) (linesOf off bs.length) true

theorem scrBad_storeCells {c : Chain} (h : c.scrBad = []) (off : Nat) (bs : List Byte) : (storeCells c off bs).scrBad = [] := by
  rw [storeCells, scrBad_setFulls, putCells_clean h]
  exact h

theorem get_storeCells {c : Chain} (h : c.scrBad = []) (off : Nat) (bs : List Byte) (b : Nat) :
    (storeCells c off bs).scr.get b 0 = if off ≤ b ∧ b < off + bs.length then bs.getD (b - off) 0 else c.scr.get b 0 := by
  rw [storeCells, scr_setFulls, putCells_clean h]
  show (List.foldl _ _ _ : Tbl Byte).get b 0 = _
  rw [List.foldl_map]
  simpa using get_foldl_set bs c.scr off 0 b

theorem full_storeCells {c : Chain} (h : c.scrBad = []) (off : Nat) (bs : List Byte) (k : Nat) :
    (storeCells c off bs).full k = if k ∈ linesOf off bs.length then true else c.full k := by
  rw [storeCells, full_setFulls, putCells_clean h]
  rfl

/-- A scratchpad after lanes have stored their bytes, in their order (R117). -/
def storesAt (off : Nat → Nat) (f : Nat → List Byte) (ls : List Nat) (c : Chain) : Chain := ls.foldl (fun c m => storeCells c (off m) (f m)) c

theorem scrBad_storesAt {c : Chain} (h : c.scrBad = []) (off : Nat → Nat) (f : Nat → List Byte) (ls : List Nat) : (storesAt off f ls c).scrBad = [] := by
  induction ls generalizing c with
  | nil => exact h
  | cons m ls ih => exact ih (scrBad_storeCells h ..)

/-- A byte that no lane stores to keeps its value. -/
theorem get_storesAt_untouched {c : Chain} (h : c.scrBad = []) {off : Nat → Nat} {f : Nat → List Byte} {ls : List Nat} {b : Nat}
    (hb : ∀ m ∈ ls, b < off m ∨ off m + (f m).length ≤ b) : (storesAt off f ls c).scr.get b 0 = c.scr.get b 0 := by
  induction ls generalizing c with
  | nil => rfl
  | cons m ls ih =>
    show (storesAt off f ls (storeCells c (off m) (f m))).scr.get b 0 = _
    have := hb m List.mem_cons_self
    rw [ih (scrBad_storeCells h ..) fun l hl => hb l (List.mem_cons_of_mem _ hl), get_storeCells h, if_neg (by omega)]

/-- A byte holds what the last lane that stores to it wrote. -/
theorem get_storesAt_last {c : Chain} (h : c.scrBad = []) {off : Nat → Nat} {f : Nat → List Byte} {ls : List Nat} {k m j : Nat} (hk : ls[k]? = some m)
    (hj : j < (f m).length) (hlast : ∀ l ∈ ls.drop (k + 1), off m + j < off l ∨ off l + (f l).length ≤ off m + j) :
    (storesAt off f ls c).scr.get (off m + j) 0 = (f m).getD j 0 := by
  induction ls generalizing c k with
  | nil => cases hk
  | cons l ls ih =>
    cases k with
    | zero =>
      cases hk
      show (storesAt off f ls (storeCells c (off m) (f m))).scr.get (off m + j) 0 = _
      have hlater : ∀ l ∈ ls, off m + j < off l ∨ off l + (f l).length ≤ off m + j := hlast
      rw [get_storesAt_untouched (scrBad_storeCells h ..) hlater, get_storeCells h, if_pos (by omega)]
      simp
    | succ k => exact ih (scrBad_storeCells h ..) hk hlast

/-- Lines that lanes store to are full, the others as they were. -/
theorem full_storesAt {c : Chain} (h : c.scrBad = []) (off : Nat → Nat) (f : Nat → List Byte) (ls : List Nat) (k : Nat) :
    (storesAt off f ls c).full k = true ↔ c.full k = true ∨ ∃ m ∈ ls, k ∈ linesOf (off m) (f m).length := by
  induction ls generalizing c with
  | nil => simp [storesAt]
  | cons m ls ih =>
    refine (ih (scrBad_storeCells h ..)).trans ?_
    rw [full_storeCells h]
    by_cases hm : k ∈ linesOf (off m) (f m).length <;> simp [hm]

/-! ### Steps that change one chain -/

/-- Nothing but a chain differs between s and t, and it is c in t. -/
structure OnlyChain (cid : Nat) (s t : State) (c : Chain) : Prop where
  rest  : { t with chains := s.chains } = s
  chain : t.chain cid = some c

/-- Changes of a chain one after another, each a change of the chain alone while the chain keeps a property. -/
theorem OnlyChain.foldl {α : Type} {cid : Nat} {step : State → α → State} {f : Chain → α → Chain} {inv : Chain → Prop} (hinv : ∀ c a, inv c → inv (f c a)) :
    ∀ (l : List α) (s : State) (c : Chain), (∀ a ∈ l, ∀ t c, t.chain cid = some c → inv c → step t a = t.setChain cid (f c a)) →
      s.chain cid = some c → inv c → OnlyChain cid s (l.foldl step s) (l.foldl f c)
  | [], _, _, _, h, _ => ⟨rfl, h⟩
  | a :: l, s, c, hstep, h, hc => by
    obtain ⟨hrest, hchain⟩ := OnlyChain.foldl hinv l (s.setChain cid (f c a)) (f c a) (fun b hb => hstep b (List.mem_cons_of_mem a hb))
      (State.chain_setChain ..) (hinv c a hc)
    rw [List.foldl_cons, List.foldl_cons, hstep a List.mem_cons_self s c h hc]
    exact ⟨congrArg (fun t : State => { t with chains := s.chains }) hrest, hchain⟩

theorem OnlyChain.mem {cid : Nat} {s t : State} {c : Chain} (h : OnlyChain cid s t c) : t.mem = s.mem :=
  (congrArg State.mem h.rest : _)

theorem OnlyChain.rod {cid : Nat} {s t : State} {c : Chain} (h : OnlyChain cid s t c) (r : RodId) : t.rod r = s.rod r := by
  rw [← h.rest]
  rfl

theorem storeScr_clean {s : State} {cid : Nat} {ch : Chain} (h : s.chain cid = some ch) (hbad : ch.scrBad = []) (r : RodId) (off : Nat) (bs : List Byte) :
    s.storeScr r cid off bs (some true) = s.setChain cid (storeCells ch off bs) := by
  simp only [State.storeScr, h, hbad, List.contains_nil, Bool.and_false, List.any_eq_false.2 (fun _ _ => Bool.false_ne_true), Bool.false_eq_true, if_false]
  rfl

/-- Stores of lanes to a scratchpad change that scratchpad alone. -/
theorem storeLanes_scrPlaces {s : State} {i : Iss} {cid : Nat} {ch : Chain} (h : s.chain cid = some ch) (hbad : ch.scrBad = []) (off : Nat → Nat)
    (f : Nat → List Byte) (ls : List Nat) (hint : Hint) :
    OnlyChain cid s (storeLanes s i (scrPlaces cid off ls) f (some true) hint) (storesAt off f ls ch) := by
  have hfold := OnlyChain.foldl (inv := fun c => c.scrBad = []) (step := fun t m => t.storeScr i.rid cid (off m) (f m) (some true))
    (fun c m hc => scrBad_storeCells hc (off m) (f m)) ls s ch (fun m _ t c ht hc => storeScr_clean ht hc i.rid (off m) (f m)) h hbad
  unfold storeLanes
  simp only [violCause_scrPlaces, Blocks.raise_zero]
  rw [if_pos (List.filterMap_eq_nil_iff.2 fun e he => ?_), scrPlaces, List.foldl_map]
  · exact hfold
  · obtain ⟨m, -, rfl⟩ := List.mem_map.1 he
    rfl

/-- Lines that lanes touch take a state, and nothing else changes. -/
theorem setLines_scrPlaces {s : State} {cid : Nat} {ch : Chain} (h : s.chain cid = some ch) (z : Nat) (off : Nat → Nat) (ls : List Nat) (full : Bool) :
    OnlyChain cid s (s.setLines z (scrPlaces cid off ls) full) (setFulls ch ((lineWaits full z (scrPlaces cid off ls)).map (·.line)) full) := by
  have hmine : ∀ w ∈ lineWaits full z (scrPlaces cid off ls), w.chain = cid := fun w hw => by
    obtain ⟨m, -, k, -, rfl⟩ := mem_lineWaits.1 hw
    rfl
  unfold State.setLines setFulls
  rw [List.foldl_map]
  refine OnlyChain.foldl (inv := fun _ => True) (fun _ _ _ => trivial) _ s ch (fun w hw t c ht _ => ?_) h trivial
  rw [hmine w hw, State.modChain, ht]

theorem mem_lines_lineWaits {full : Bool} {z cid : Nat} {off : Nat → Nat} {ls : List Nat} {k : Nat} :
    k ∈ (lineWaits full z (scrPlaces cid off ls)).map (·.line) ↔ ∃ m ∈ ls, k ∈ linesOf (off m) z := by
  rw [List.mem_map]
  constructor
  · rintro ⟨w, hw, rfl⟩
    obtain ⟨m, hm, k, hk, rfl⟩ := mem_lineWaits.1 hw
    exact ⟨m, hm, hk⟩
  · rintro ⟨m, hm, hk⟩
    exact ⟨_, mem_lineWaits.2 ⟨m, hm, k, hk, rfl⟩, rfl⟩

/-! ### `sts` and `stfl` (R57, R117, R310) -/

theorem length_storeData (c : Ctx) (a : Operand) (z m : Nat) : (c.storeData a z m).length = z := by
  cases a <;> simp [Ctx.storeData, bytesOf]

theorem storeData_ctx0 (s : State) (i : Iss) (g : Guard) (a : Operand) (z m : Nat) :
    (ctx0 s i g none).storeData a z m = (srcs s i g none).storeData a z m := by
  cases a <;> rfl

/-- A state in which only a scratchpad and what the rod's next release waits for have changed keeps the registers of the rod. -/
theorem keepsRegisters_of_onlyChain {s v u : State} {r : RodId} {cid : Nat} {c : Chain} (hmem : v.mem = s.mem)
    (hrod : ∀ x, s.rod r = some x → ∃ l, v.rod r = some { x with stores := l }) (h : OnlyChain cid v u c) : KeepsRegisters s u r := by
  refine ⟨h.mem.trans hmem, fun x hx => ?_⟩
  obtain ⟨l, hl⟩ := hrod x hx
  exact ⟨_, (h.rod r).trans hl, rfl⟩

section
variable {s : State} {i : Iss} {g : Guard} {sz : Size} {a : Operand} {ad : MAddr} {sc : Scope} {ch : Chain} {off : Nat → Nat}

theorem lineRelease_setRod (s : State) (i : Iss) : (s.setRod i.rid i.rod).lineRelease i.rid = s.lineRelease i.rid := rfl

theorem acquiring_setRod (s : State) (i : Iss) : (s.setRod i.rid i.rod).acquiring i.rid = s.acquiring i.rid := rfl

/-- What a store of lanes to the chain's scratchpad makes of the state. -/
def ScrStored (s u : State) (i : Iss) (g : Guard) (sz : Size) (a : Operand) (ch : Chain) (off : Nat → Nat) : Prop :=
  KeepsRegisters s u i.rid ∧ ∃ c, u.chain i.rid.chain = some c ∧
    (∀ b, (∀ m ∈ actorsOf i g a, b < off m ∨ off m + sz.bytes ≤ b) → c.scr.get b 0 = ch.scr.get b 0) ∧
    (∀ m ∈ actorsOf i g a, ∀ k ∈ linesOf (off m) sz.bytes, c.full k = true) ∧
    (∀ k m, (actorsOf i g a)[k]? = some m → ∀ j < sz.bytes, lastAt off sz.bytes (off m + j) ((actorsOf i g a).drop (k + 1)) →
      c.scr.get (off m + j) 0 = ((srcs s i g none).storeData a sz.bytes m).getD j 0)

/-- The form of `sts` and `stfl` once nothing of the rod holds it back. -/
theorem scrStore_ready (h : Ready s i [] ((a, sz.words) :: ad.regs)) (hacq : s.acquiring i.rid = false) (hline : s.lineRelease i.rid = true)
    (hp : i.part g ≠ 0) (hin : InScratch s i g ad sz.bytes (actorsOf i g a) ch off) (empty : Bool) :
    scrStore s g sz a ad sc .plain empty =
      if empty && !(lineWaits false sz.bytes (scrPlaces i.rid.chain off (actorsOf i g a))).all (s.setRod i.rid i.rod).lineMet then
        wait (s.setRod i.rid i.rod) i (.fullEmpty (lineWaits false sz.bytes (scrPlaces i.rid.chain off (actorsOf i g a))) [])
      else finish (storeLanes (if empty then (s.setRod i.rid i.rod).inherit i.rid else s.setRod i.rid i.rod) i
        (scrPlaces i.rid.chain off (actorsOf i g a)) ((srcs s i g none).storeData a sz.bytes) (some true) .normal) i := by
  have hp' : ¬ (i.part g = 0 ∧ a.isS = true) := fun e => hp e.1
  have hdata : (ctx0 s i g none).storeData a sz.bytes = (srcs s i g none).storeData a sz.bytes := funext (storeData_ctx0 s i g a sz.bytes)
  unfold scrStore
  rw [issue_ready h]
  simp only [ctx0_g, ctx0_i, ctx0_s, actors_ctx0, offsets_ctx0 hin, hdata, acquiring_setRod, lineRelease_setRod, hacq, hline, Order.rels, Order.acqs, Bool.not_true,
    Bool.false_and, Bool.or_self, Bool.false_eq_true, if_false, if_neg hp']

/-- A store of lanes to the chain's scratchpad, from a state in which only what the rod's next release waits for has changed. -/
theorem scrStored_of (hin : InScratch s i g ad sz.bytes (actorsOf i g a) ch off) (hbad : ch.scrBad = []) {v : State} (hmem : v.mem = s.mem)
    (hchain : v.chain i.rid.chain = s.chain i.rid.chain) (hrod : ∀ x, s.rod i.rid = some x → ∃ l, v.rod i.rid = some { x with stores := l }) :
    ScrStored s (storeLanes v i (scrPlaces i.rid.chain off (actorsOf i g a)) ((srcs s i g none).storeData a sz.bytes) (some true) .normal) i g sz a ch off := by
  have h := storeLanes_scrPlaces (i := i) (hchain.trans hin.1) hbad off ((srcs s i g none).storeData a sz.bytes) (actorsOf i g a) .normal
  have hlen := length_storeData (srcs s i g none) a sz.bytes
  refine ⟨keepsRegisters_of_onlyChain hmem hrod h, _, h.chain, fun b hb => ?_, fun m hm k hk => ?_, fun k m hk j hj hlast => ?_⟩
  · exact get_storesAt_untouched hbad fun m hm => by rw [hlen]; exact hb m hm
  · exact (full_storesAt hbad ..).2 (.inr ⟨m, hm, by rw [hlen]; exact hk⟩)
  · exact get_storesAt_last hbad hk (by rw [hlen]; exact hj) fun l hl => by rw [hlen]; exact hlast l hl

end

theorem scratchpadStores : ScratchpadStores := by
  intro s i g sz a ad sc h ch off hr hacq hline hp hin hbad
  have hrod := State.issuer_rod hr.1
  have hchain : (s.setRod i.rid i.rod).chain i.rid.chain = some ch := hin.1
  have hform := scrStore_ready (sc := sc) hr hacq hline hp hin
  have hmet := all_lineWaits_iff hchain false sz.bytes off (actorsOf i g a)
  have hsame : ∀ x, s.rod i.rid = some x → (s.setRod i.rid i.rod).rod i.rid = some x := fun x hx => by
    rw [State.rod_setRod, ← hrod, hx]
  refine ⟨⟨?_, fun hempty => ?_⟩, fun hfull => ?_⟩
  · refine ⟨_, hform false, scrStored_of hin hbad rfl rfl fun x hx => ⟨x.stores, hsame x hx⟩⟩
  · have hcond : ¬ ((true && !(lineWaits false sz.bytes (scrPlaces i.rid.chain off (actorsOf i g a))).all (s.setRod i.rid i.rod).lineMet) = true) := by
      rw [hmet.2 hempty]
      decide
    refine ⟨_, (hform true).trans (if_neg hcond), scrStored_of hin hbad (mem_inherit ..) ?_ fun x hx => rod_inherit (hsame x hx)⟩
    exact chain_inherit ..
  · have hcond : (true && !(lineWaits false sz.bytes (scrPlaces i.rid.chain off (actorsOf i g a))).all (s.setRod i.rid i.rod).lineMet) = true := by
      rw [Bool.true_and, Bool.not_eq_true', ← Bool.not_eq_true, hmet]
      obtain ⟨m, hm, k, hk, hk'⟩ := hfull
      intro hall
      rw [hall m hm k hk] at hk'
      cases hk'
    refine ⟨lineWaits false sz.bytes (scrPlaces i.rid.chain off (actorsOf i g a)), ?_⟩
    rw [exec_stfl, execStfl, hform true, if_pos hcond, wait_setRod _ hrod]
    exact Ports.issuer_waits hr.1 _

end Sys2Proof.Scratch
end

section
/-! SUPPORT. Full and empty lines (R57, R58, R311). -/

namespace Sys2Proof.Lines
open Sys2Proof.Machine Sys2Proof.Safety Sys2Proof.Laws Sys2Proof.Claims Sys2Proof.Lanes Sys2Proof.Scratch

/-! ### `fest` and `feq` (R311) -/

section
variable {s : State} {i : Iss} {g : Guard} {ad : MAddr} {ch : Chain} {off : Nat → Nat}

/-- One byte lies in one line. -/
theorem mem_linesOf_one {o k : Nat} : k ∈ linesOf o 1 ↔ k = o / 128 := by
  have : linesOf o 1 = [o / 128] := by simp [linesOf]
  rw [this, List.mem_singleton]

theorem fest_issues (h : Hint) (hr : Ready s i [] ad.regs) (hline : s.lineRelease i.rid = true) (hin : InScratch s i g ad 1 (lanes (i.part g)) ch off)
    (full : Bool) : Issues (exec (.fest g full ad h) s) i (fun u => u.mem = s.mem ∧ u.rod i.rid = some i.rod ∧
      ∃ c, u.chain i.rid.chain = some c ∧ c.scr = ch.scr ∧ (∀ m ∈ lanes (i.part g), c.full (off m / 128) = full) ∧
        ∀ k, (∀ m ∈ lanes (i.part g), k ≠ off m / 128) → c.full k = ch.full k) := by
  have hset := setLines_scrPlaces (s := s.setRod i.rid i.rod) hin.1 1 off (lanes (i.part g)) full
  have hform : exec (.fest g full ad h) s =
      finish ((s.setRod i.rid i.rod).setLines 1 (scrPlaces i.rid.chain off (lanes (i.part g))) full) i := by
    rw [exec_fest, execFest, issue_ready hr]
    simp only [ctx0_g, ctx0_i, ctx0_s, offsets_ctx0 hin, lineRelease_setRod, hline, violCause_scrPlaces, Blocks.raise_zero, not_true_eq_false, if_false]
  refine ⟨_, hform, hset.mem, (hset.rod i.rid).trans (State.rod_setRod ..), _, hset.chain, scr_setFulls .., fun m hm => ?_, fun k hk => ?_⟩
  · rw [full_setFulls, if_pos (mem_lines_lineWaits.2 ⟨m, hm, mem_linesOf_one.2 rfl⟩)]
  · rw [full_setFulls, if_neg]
    intro hmem
    obtain ⟨m, hm, hk'⟩ := mem_lines_lineWaits.1 hmem
    exact hk m hm (mem_linesOf_one.1 hk')

theorem find_scrPlaces {cid : Nat} {ls : List Nat} {l : Nat} (hl : l ∈ ls) :
    (scrPlaces cid off ls).find? (fun e => e.1 == l) = some (l, .scr cid (off l)) := by
  induction ls with
  | nil => cases hl
  | cons m ls ih =>
    rw [scrPlaces, List.map_cons]
    by_cases hm : m = l
    · subst hm
      simp
    · have hl' : l ∈ ls := (List.mem_cons.1 hl).resolve_left (Ne.symm hm)
      rw [List.find?_cons_of_neg (by simpa using hm)]
      exact ih hl'

theorem setIflags_zero (x : Rod) : x.setIflags 0 = x := by
  simp [Rod.setIflags]

theorem setWords_single (x : Rod) (k l : Nat) (w : Word) : x.setWords k l [w] = x.setLw k l w := rfl

theorem foldl_or_zero (ls : List Nat) : ls.foldl (fun (a : Word) _ => a ||| 0) 0 = 0 := by
  induction ls with
  | nil => rfl
  | cons l ls ih => exact ih

theorem feq_completes (h : Hint) (k : BitVec 8) (hr : Ready s i [(.w k, 1)] ad.regs) (hin : InScratch s i g ad 1 (lanes (i.part g)) ch off) :
    Completes (exec (.feq g (.w k) ad h) s) s i.rid (i.rod.setLws (i.part g) k.toNat (fun m => if ch.full (off m / 128) then 1 else 0)) := by
  have hchain : (s.setRod i.rid i.rod).chain i.rid.chain = some ch := hin.1
  rw [exec_feq, execFeq, issue_ready hr]
  simp only [ctx0_g, ctx0_i, ctx0_s, offsets_ctx0 hin, violCause_scrPlaces, Blocks.raise_zero, Ctx.putWords, modRod_setRod, foldl_or_zero, setIflags_zero]
  have hfold : (lanes (i.part g)).foldl (fun x l => x.setWords (wordNum (.w k)) l
      (match (scrPlaces i.rid.chain off (lanes (i.part g))).find? (fun e => e.1 == l) with
        | some (_, .scr cid o) => [match (s.setRod i.rid i.rod).chain cid with | some c => if c.full (o / 128) then 1 else 0 | none => 0]
        | _ => [0xFFFFFFFF])) i.rod = i.rod.setLws (i.part g) k.toNat (fun m => if ch.full (off m / 128) then 1 else 0) := by
    refine List.foldl_ext _ _ _ fun x l hl => ?_
    rw [find_scrPlaces hl]
    simp only [hchain]
    exact setWords_single ..
  rw [← hfold]
  exact finish_setRod ..

end

/-! ### What a load reads of scratchpads (R58) -/

/-- Every line that the places touch in a scratchpad is full. -/
def PartFull (ch : Chain) (z : Nat) (sp : List (Nat × Spot)) (c : Nat) : Prop :=
  ∀ e ∈ sp, ∀ k, e.2 = .scr c k → ∀ n ∈ linesOf k z, ch.full n = true

/-- A fold that either extends a first list or a second has in the first the pieces of the elements that extend it. -/
theorem fst_foldl_parts {α β γ : Type} (p : α → Bool) (f : α → List β) (h : α → List γ) (l : List α) (a : List β × List γ) :
    (l.foldl (fun acc x => if p x then (acc.1 ++ f x, acc.2) else (acc.1, acc.2 ++ h x)) a).1 = a.1 ++ (l.filter p).flatMap f := by
  induction l generalizing a with
  | nil => simp
  | cons x l ih =>
    rw [List.foldl_cons, ih]
    cases hp : p x <;> simp [hp]

/-- The lines of the places in one scratchpad are in the state that a load waits for just if that part's lines are full. -/
theorem all_lineWaits_part {s : State} {z c : Nat} {ch : Chain} {sp mine : List (Nat × Spot)} (hchain : s.chain c = some ch)
    (hmine : ∀ m k off, (m, .scr k off) ∈ mine ↔ (m, .scr k off) ∈ sp ∧ k = c) :
    (lineWaits true z mine).all s.lineMet = true ↔ PartFull ch z sp c := by
  rw [List.all_eq_true]
  constructor
  · rintro hall ⟨m, -⟩ he k rfl n hn
    exact (lineMet_iff (w := { chain := c, line := n, full := true }) hchain).1
      (hall _ (mem_lineWaits_iff.2 ⟨m, c, k, (hmine m c k).2 ⟨he, rfl⟩, n, hn, rfl⟩))
  · intro hfull w hw
    obtain ⟨m, k, off, he, n, hn, rfl⟩ := mem_lineWaits_iff.1 hw
    obtain ⟨hsp, rfl⟩ := (hmine m k off).1 he
    exact (lineMet_iff (w := { chain := k, line := n, full := true }) hchain).2 (hfull _ hsp off rfl n hn)

/-- A load reads just the parts whose lines are all full (R58). -/
theorem mem_readParted {s : State} {z : Nat} {sp : List (Nat × Spot)} {f : Fetched} :
    f ∈ (s.readParted z sp []).1 ↔ ∃ m c off ch, (m, .scr c off) ∈ sp ∧ s.chain c = some ch ∧ PartFull ch z sp c ∧
      f = { lane := m, val := ch.nat off z, bad := ch.anyBad off z } := by
  unfold State.readParted
  dsimp only
  rw [fst_foldl_parts]
  simp only [List.nil_append, List.mem_flatMap, List.mem_filter, List.mem_eraseDups, List.mem_filterMap, List.any_nil, Bool.not_false]
  constructor
  · rintro ⟨c, ⟨-, hall⟩, ⟨m, p⟩, ⟨⟨hsp, -⟩, hmine⟩, hf⟩
    cases p with
    | scr k off =>
      obtain rfl : k = c := by simpa using hmine
      cases hchain : s.chain k with
      | none => simp [hchain] at hf
      | some ch =>
        refine ⟨m, k, off, ch, hsp, hchain, (all_lineWaits_part hchain fun m' k' off' => ?_).1 hall, by simpa [hchain] using hf.symm⟩
        simp [List.mem_filter]
    | mem pa ent => cases hf
    | zero => cases hf
    | viol => cases hf
  · rintro ⟨m, c, off, ch, hsp, hchain, hfull, rfl⟩
    refine ⟨c, ⟨⟨_, ⟨hsp, rfl⟩, rfl⟩, (all_lineWaits_part hchain fun m' k' off' => ?_).2 hfull⟩, _, ⟨⟨hsp, rfl⟩, by simp⟩, by simp [hchain]⟩
    simp [List.mem_filter]

theorem readParted_iff {s : State} {z m c off : Nat} {sp : List (Nat × Spot)} {ch : Chain} (hnodup : (sp.map Prod.fst).Nodup) (hsp : (m, .scr c off) ∈ sp)
    (hchain : s.chain c = some ch) :
    ({ lane := m, val := ch.nat off z, bad := ch.anyBad off z } : Fetched) ∈ (s.readParted z sp []).1 ↔ PartFull ch z sp c := by
  rw [mem_readParted]
  constructor
  · rintro ⟨m', c', off', ch', hsp', hchain', hfull, heq⟩
    have hlane : m = m' := congrArg Fetched.lane heq
    obtain ⟨-, hspot⟩ := Prod.mk.injEq .. ▸ List.inj_on_of_nodup_map hnodup hsp hsp' hlane
    cases hspot
    rw [hchain] at hchain'
    cases hchain'
    exact hfull
  · exact fun hfull => ⟨m, c, off, ch, hsp, hchain, hfull, rfl⟩

/-! ### A load of scratchpads whose lines are full -/

theorem loadLane_scr {s : State} {c : CoreId} {z m cid off : Nat} {got : List Fetched} {f : Fetched} (hf : got.find? (fun f => f.lane == m) = some f)
    (mask : Nat → BitVec 4) (h : Hint) (l : LoadOp) (accs : List HomeAcc) :
    ∃ t k, loadLane s c z m (.scr cid off) got mask h l accs = ({ l with got := t }, accs, k) := by
  have hput : ∀ (js : List Nat) (l : LoadOp), ∃ t, js.foldl (fun (l : LoadOp) j => { l with got := l.got.put (64 * m + j) (wordAt f.val j) }) l = { l with got := t } := by
    intro js
    induction js with
    | nil => exact fun l => ⟨l.got, rfl⟩
    | cons j js ih => exact fun l => ih _
  obtain ⟨t, ht⟩ := hput (List.range ((z + 3) / 4)) l
  refine ⟨t, if f.bad then Cause.umem else 0, ?_⟩
  simp only [loadLane, hf, ht]

/-- The lanes of a load of a scratchpad whose bytes have been read add to what the load has got alone. -/
theorem foldl_loadLane_scr {s : State} {c : CoreId} {z cid : Nat} {off : Nat → Nat} {got : List Fetched} (mask : Nat → BitVec 4) (h : Hint) :
    ∀ (ls : List Nat) (l : LoadOp) (k : Word), (∀ m ∈ ls, ∃ f, got.find? (fun f => f.lane == m) = some f) →
      ∃ t k', (scrPlaces cid off ls).foldl (fun (acc : LoadOp × List HomeAcc × Word) e =>
        ((loadLane s c z e.1 e.2 got mask h acc.1 acc.2.1).1, (loadLane s c z e.1 e.2 got mask h acc.1 acc.2.1).2.1,
          acc.2.2 ||| (loadLane s c z e.1 e.2 got mask h acc.1 acc.2.1).2.2)) (l, [], k) = ({ l with got := t }, [], k')
  | [], l, k, _ => ⟨l.got, k, rfl⟩
  | m :: ls, l, k, hgot => by
    obtain ⟨f, hf⟩ := hgot m List.mem_cons_self
    obtain ⟨t, k', hlane⟩ := loadLane_scr (s := s) (c := c) (z := z) (cid := cid) (off := off m) hf mask h l []
    obtain ⟨t', k'', hrest⟩ := foldl_loadLane_scr mask h ls { l with got := t } (k ||| k') fun n hn => hgot n (List.mem_cons_of_mem m hn)
    refine ⟨t', k'', ?_⟩
    rw [scrPlaces, List.map_cons, List.foldl_cons, hlane]
    exact hrest

theorem ops_raise (s : State) (r : RodId) (b : Word) : (s.raise r b).ops = s.ops := by
  unfold State.raise
  split
  · rfl
  · exact (congrArg State.ops (modRod_rest s r _) :)

/-- An operation that an instruction hands on names its flag (R208). -/
theorem op_addOp (s : State) (i : Iss) (k : OpKind) :
    (s.addOp i k).2.op s.nextId = some { rod := i.rid, flags := flagsOf i true, kind := k, susp := false, denied := [] } :=
  State.op_setOp ..

/-- A load of a scratchpad whose bytes have been read has all its words at hand. -/
theorem startLoad_scr {s : State} {i : Iss} {z cid : Nat} {off : Nat → Nat} {ls : List Nat} {got : List Fetched}
    (hgot : ∀ m ∈ ls, ∃ f, got.find? (fun f => f.lane == m) = some f) (kind : LoadKind) (d : Operand) (p : Mask) (sc : Scope) (o : Order) (h : Hint) :
    ∃ l, LoadReady (startLoad s i z kind d p sc o h got (scrPlaces cid off ls)) i.rid s.nextId l ∧ l.dst = d := by
  have hcached : s.cachedWords z (scrPlaces cid off ls) = [] := by
    have hnone : ∀ e ∈ scrPlaces cid off ls, (match e.2 with
        | .mem pa ent => if s.classOf pa ent = .cached then wordsOf pa z else []
        | _ => []) = [] := fun e he => by
      obtain ⟨m, -, rfl⟩ := List.mem_map.1 he
      rfl
    exact congrArg List.eraseDups (List.flatMap_eq_nil_iff.2 hnone)
  have hzero : (scrPlaces cid off ls).any (·.2 == .zero) = false := by simp [scrPlaces]
  obtain ⟨t, k, hfold⟩ := foldl_loadLane_scr (s := s) (c := s.coreOf i.rid) (z := z) (cid := cid) (off := off) (unionMask z (scrPlaces cid off ls)) h ls
    { kind := kind, dst := d, lanes := p, offs := [], need := [], got := [], sc := sc, ord := o, hint := h } 0 hgot
  unfold startLoad
  simp only [hfold, hcached, hzero, List.map_nil, List.filter_nil, if_true, State.sparseRead, Bool.false_eq_true, if_false]
  refine ⟨{ kind := kind, dst := d, lanes := p, offs := [], need := [], got := t, sc := sc, ord := o, hint := h },
    ⟨⟨{ rod := i.rid, flags := flagsOf i true, kind := _, susp := false, denied := [] }, ?_, rfl, rfl⟩, rfl, ?_⟩, rfl⟩
  · show ((State.raise _ i.rid k).ops).find s.nextId = _
    rw [ops_raise]
    exact op_addOp s i _
  · exact List.mem_append_right _ (List.mem_singleton_self _)

/-- Of a scratchpad whose lines are full every lane is read. -/
theorem readParted_scrPlaces {s : State} {cid z : Nat} {ch : Chain} (hchain : s.chain cid = some ch) (hfull : ∀ k, ch.full k = true) (off : Nat → Nat)
    {ls : List Nat} : ∀ m ∈ ls, ∃ f, (s.readParted z (scrPlaces cid off ls) []).1.find? (fun f => f.lane == m) = some f := by
  intro m hm
  have hmem : ({ lane := m, val := ch.nat (off m) z, bad := ch.anyBad (off m) z } : Fetched) ∈ (s.readParted z (scrPlaces cid off ls) []).1 :=
    mem_readParted.2 ⟨m, cid, off m, ch, List.mem_map.2 ⟨m, hm, rfl⟩, hchain, fun _ _ _ _ n _ => hfull n, rfl⟩
  exact Option.isSome_iff_exists.1 (List.find?_isSome.2 ⟨_, hmem, beq_self_eq_true m⟩)

theorem nextId_inherit (s : State) (r : RodId) : (s.inherit r).nextId = s.nextId := (congrArg State.nextId (inherit_rest s r) :)

theorem lineRelease_cur (s : State) (c : Option (RodId × SlotId)) (r : RodId) : ({ s with cur := c } : State).lineRelease r = s.lineRelease r := rfl

theorem setLines_rest (s : State) (z : Nat) (sp : List (Nat × Spot)) (full : Bool) : { s.setLines z sp full with chains := s.chains } = s := by
  unfold State.setLines
  induction lineWaits full z sp generalizing s with
  | nil => rfl
  | cons w l ih =>
    have hw : { s.modChain w.chain (fun c => c.setFull w.line full) with chains := s.chains } = s := by
      unfold State.modChain
      split <;> rfl
    exact (congrArg (fun t : State => { t with chains := s.chains }) (ih (s.modChain w.chain (fun c => c.setFull w.line full)))).trans hw

/-- Lines that a load empties leave it as it is. -/
theorem loadReady_setLines {s : State} {r : RodId} {n : Nat} {l : LoadOp} (h : LoadReady s r n l) (z : Nat) (sp : List (Nat × Spot)) (full : Bool) :
    LoadReady (s.setLines z sp full) r n l := by
  obtain ⟨⟨o, hop, ho, hk⟩, hneed, hsent⟩ := h
  rw [← setLines_rest s z sp full] at hop hsent
  exact ⟨⟨o, hop, ho, hk⟩, hneed, hsent⟩

section
variable {s : State} {i : Iss} {g : Guard} {sz : Size} {d : Operand} {ad : MAddr} {sc : Scope} {ch : Chain} {off : Nat → Nat}

/-- `ldtk` of a scratchpad whose lines are full takes its load on with all words at hand. -/
theorem ldtk_issues (h : Hint) (hr : Ready s i [(d, sz.words)] ad.regs) (hin : InScratch s i g ad sz.bytes (actorsOf i g d) ch off) (hflag : i.flagFull = false)
    (hacq : s.acquiring i.rid = false) (hline : s.lineRelease i.rid = true) (hp : i.part g ≠ 0) (hfull : ∀ k, ch.full k = true) :
    Issues (execLdtk g sz d ad sc .plain h s) i (fun u => ∃ l, LoadReady u i.rid s.nextId l ∧ l.dst = d) := by
  have hchain : (s.setRod i.rid i.rod).chain i.rid.chain = some ch := hin.1
  have hchain' : ((s.setRod i.rid i.rod).inherit i.rid).chain i.rid.chain = some ch := (chain_inherit ..).trans hchain
  have hmet := (all_lineWaits_iff hchain true sz.bytes off (actorsOf i g d)).2 fun m _ k _ => hfull k
  obtain ⟨l, hl, hdst⟩ := startLoad_scr (s := (s.setRod i.rid i.rod).inherit i.rid) (i := i) (z := sz.bytes) (readParted_scrPlaces hchain' hfull off (ls := actorsOf i g d))
    (.plain sz) d (maskOf (actorsOf i g d).contains) sc .plain .normal
  rw [nextId_inherit] at hl
  unfold execLdtk scrLoad
  rw [issue_ready hr]
  simp only [ctx0_g, ctx0_i, ctx0_s, actors_ctx0, offsets_ctx0 hin, hp, false_and, if_false, hflag, acquiring_setRod, hacq, Order.rels, Bool.false_and, Bool.or_self, lineRelease_setRod,
    hline, Bool.not_true, Bool.and_false, Bool.false_eq_true, hmet, not_true_eq_false, if_true]
  exact ⟨_, rfl, l, loadReady_setLines hl .., hdst⟩

end

/-! ### `FULL_EMPTY_RELEASE` (R58) -/

theorem partMet_of_all {s : State} {lw : List LineWait} (h : lw.all s.lineMet = true) : s.partMet lw = true := by
  cases lw with
  | nil => rfl
  | cons w lw =>
    rw [List.all_eq_true] at h
    have hpart : ((w :: lw).filter (·.chain == w.chain)).all s.lineMet = true := List.all_eq_true.2 fun v hv => h v (List.mem_filter.1 hv).1
    simp only [State.partMet, Bool.or_eq_true, List.any_eq_true]
    exact .inr ⟨w.chain, List.mem_map_of_mem List.mem_cons_self, hpart⟩

section
variable {s : State} {r : RodId} {sl : SlotId} {x : Rod} {y : Slot} {w : DWord} {lw : List LineWait} {got : List Fetched}

theorem fullEmptyRelease_unmet (hx : s.rod r = some x) (hy : x.slot sl = some y) (hwait : y.wait = some (.fullEmpty lw got)) (hw : y.word = some w)
    (hpart : s.partMet lw = false) (hdec : (decode w).toOption.isSome = true) : exec (.fullEmptyRelease r sl) s = .next s := by
  have hslot : (s.rod r).bind (·.slot sl) = some y := by rw [hx]; exact hy
  cases hd : decode w with
  | error e => rw [hd] at hdec; cases hdec
  | ok ins => simp [exec_fullEmptyRelease, execFullEmptyRelease, hslot, hwait, hw, hd, hpart]

theorem fullEmptyRelease_ldtk (hx : s.rod r = some x) (hy : x.slot sl = some y) (hwait : y.wait = some (.fullEmpty lw got)) (hw : y.word = some w)
    (hall : lw.all s.lineMet = true) {g : Guard} {sz : Size} {d : Operand} {ad : MAddr} {sc : Scope} {o : Order} {h : Hint} (hd : decode w = .ok (.ldtk g sz d ad sc o h)) :
    exec (.fullEmptyRelease r sl) s = execLdtk g sz d ad sc o h { s with cur := some (r, sl) } := by
  have hslot : (s.rod r).bind (·.slot sl) = some y := by rw [hx]; exact hy
  simp [exec_fullEmptyRelease, execFullEmptyRelease, hslot, hwait, hw, hd, partMet_of_all hall]

end

theorem sreg_cur (s : State) (c : Option (RodId × SlotId)) (i : Iss) (r : SReg) (l : Nat) : ({ s with cur := c } : State).sreg i r l = s.sreg i r l := by
  cases r <;> rfl

/-- Which pair issues changes no lane's address. -/
theorem addr_cur (s : State) (c : Option (RodId × SlotId)) (i : Iss) (g : Guard) (ad : MAddr) (z l : Nat) :
    (srcs { s with cur := c } i g none).addr ad z l = (srcs s i g none).addr ad z l := by
  have hd64 : ∀ o, (srcs { s with cur := c } i g none).d64 .a o l = (srcs s i g none).d64 .a o l := fun o => by cases o <;> rfl
  have hint : ∀ o, (srcs { s with cur := c } i g none).int .b o true 64 l = (srcs s i g none).int .b o true 64 l := fun o => by
    cases o <;> simp [Ctx.int, srcs, sreg_cur]
  simp only [Ctx.addr, hd64, hint]

theorem inScratch_cur {s : State} {c : Option (RodId × SlotId)} {i : Iss} {g : Guard} {ad : MAddr} {z : Nat} {ls : List Nat} {ch : Chain} {off : Nat → Nat}
    (h : InScratch s i g ad z ls ch off) : InScratch { s with cur := c } i g ad z ls ch off :=
  ⟨h.1, fun l hl => by rw [addr_cur]; exact h.2 l hl⟩

theorem fullEmptyLines : FullEmptyLines := by
  refine ⟨fun s i g ad h ch off hin => ⟨fun full hr hline => fest_issues h hr hline hin full, fun k hr => feq_completes h k hr hin⟩,
    fun s r sl x y w lw got hx hy hwait hw => ⟨fullEmptyRelease_unmet hx hy hwait hw, ?_⟩,
    fun s z m c off sp ch hnodup hsp hchain => readParted_iff hnodup hsp hchain⟩
  rintro hall g sz d ad sc o h hd i ch off rfl rfl hin hr hflag hacq hline rfl hp hfull
  rw [fullEmptyRelease_ldtk hx hy hwait hw hall hd]
  exact ldtk_issues h hr (inScratch_cur hin) hflag hacq hline hp hfull

end Sys2Proof.Lines
end

section
/-! SUPPORT. The gather queue: the places a gather takes at issue and its row's arrival there (R312, R313). -/

namespace Sys2Proof.Gather
open Sys2Proof.Machine Sys2Proof.Safety Sys2Proof.Laws Sys2Proof.Claims Sys2Proof.Lanes Sys2Proof.Allocator Sys2Proof.Scratch

/-! ### Operations begun and over -/

theorem mem_addOp (s : State) (i : Iss) (k : OpKind) : (s.addOp i k).2.mem = s.mem := by
  cases hflag : i.flag with
  | none => simp [State.addOp, State.fresh, hflag]
  | some f => simp [State.addOp, State.fresh, hflag]

/-- An operation taken on counts in the flag that it names, and in nothing else of the rod. -/
theorem rod_addOp {s : State} {i : Iss} {x : Rod} (h : s.rod i.rid = some x) (k : OpKind) : ∃ l, (s.addOp i k).2.rod i.rid = some { x with flags := l } := by
  have hrod : ({ s with nextId := s.nextId + 1 } : State).rod i.rid = some x := h
  cases hflag : i.flag with
  | none => exact ⟨x.flags, by simpa [State.addOp, State.fresh, hflag] using hrod⟩
  | some f => exact ⟨x.flags.set f.toNat (x.flagCount f.toNat + 1) 0, by
      simp only [State.addOp, State.fresh, hflag]
      exact rod_modRod hrod _⟩

theorem op_modRod (s : State) (r : RodId) (f : Rod → Rod) (n : Nat) : (s.modRod r f).op n = s.op n :=
  (congrArg (fun t : State => t.op n) (modRod_rest s r f) :)

/-- A change of a rod is one of whatever rod has its record, and of no other. -/
theorem rod_modRod_cases {s : State} {k : RodId} {x : Rod} (h : s.rod k = some x) (r : RodId) (f : Rod → Rod) :
    (s.modRod r f).rod k = some (f x) ∨ (s.modRod r f).rod k = some x := by
  by_cases hk : rodKey k = rodKey r
  · have hr : s.rod r = some x := by rw [← h]; simp [State.rod, hk]
    left
    rw [State.modRod_of _ _ _ _ hr]
    simp [State.rod, State.setRod, hk]
  · right
    unfold State.modRod
    split
    · rw [← h]
      simp [State.rod, State.setRod, hk]
    · exact h

/-- Flags counted down leave all but the rods, and of a rod all but its flags. -/
theorem foldl_modRod_flags {α : Type} (r : α → RodId) (f : α → Rod → Rod) (hf : ∀ a x, ∃ l, f a x = { x with flags := l }) (l : List α) (s : State) :
    { l.foldl (fun s a => s.modRod (r a) (f a)) s with rods := s.rods } = s ∧
      ∀ k x, s.rod k = some x → ∃ z, (l.foldl (fun s a => s.modRod (r a) (f a)) s).rod k = some { x with flags := z } := by
  induction l generalizing s with
  | nil => exact ⟨rfl, fun k x h => ⟨x.flags, h⟩⟩
  | cons a l ih =>
    obtain ⟨hrest, hrod⟩ := ih (s.modRod (r a) (f a))
    refine ⟨(congrArg (fun t : State => { t with rods := s.rods }) hrest).trans (modRod_rest ..), fun k x h => ?_⟩
    obtain ⟨z, hz⟩ := hf a x
    obtain h' | h' := rod_modRod_cases h (r a) (f a)
    · rw [hz] at h'
      obtain ⟨z', hz'⟩ := hrod k _ h'
      exact ⟨z', hz'⟩
    · exact hrod k x h'

/-- An operation that is over leaves all but itself and the flags that it counted in. -/
theorem endOp_rest {s : State} {n : Nat} {o : Op} (h : s.op n = some o) :
    { s.endOp n with rods := s.rods, ops := s.ops } = s ∧ (s.endOp n).ops = s.ops.erase n ∧
      ∀ k x, s.rod k = some x → ∃ z, (s.endOp n).rod k = some { x with flags := z } := by
  obtain ⟨hrest, hrod⟩ := foldl_modRod_flags (fun f : Nat × BitVec 4 => ⟨o.rod.chain, f.1⟩)
    (fun f x => x.setFlag f.2.toNat (x.flagCount f.2.toNat - 1)) (fun f x => ⟨x.flags.set f.2.toNat (x.flagCount f.2.toNat - 1) 0, rfl⟩) o.flags
    { s with ops := s.ops.erase n }
  unfold State.endOp
  rw [h]
  exact ⟨(congrArg (fun t : State => { t with ops := s.ops }) hrest :), (congrArg State.ops hrest :), hrod⟩

/-! ### `gth` (R312) -/

section
variable {s : State} {i : Iss} {g : Guard} {sz : Size} {ad : MAddr}

theorem engineReady_setRod (h : s.rod i.rid = some i.rod) (sc : Scope) : (s.setRod i.rid i.rod).engineReady i.rid sc = s.engineReady i.rid sc := by
  unfold State.engineReady
  rw [State.rod_setRod, h]
  rfl

/-- The places that a gather takes in its rod's queue. -/
def gatherRow (op : Option Nat) (n : Nat) : List GxWord := List.replicate n { op := op, vals := List.replicate 32 0 }

/-- The operation of a gather: what it has to read of each lane. -/
def gatherOf (s : State) (i : Iss) (g : Guard) (sz : Size) (ad : MAddr) (h : Hint) : GatherOp :=
  { words := sz.bytes / 4, hint := h, got := [], bad := [],
    reads := (lanes (i.part g)).flatMap (fun l => gatherReads (sz.bytes / 4) l ((srcs s i g none).addr ad sz.bytes l)) }

variable (h : Hint) (hr : Ready s i [] ad.regs) (hflag : i.flagFull = false) (hready : s.engineReady i.rid = true)
  (hroom : i.rod.gx.length + sz.bytes / 4 ≤ Config.gatherWords)
include hr hflag hready hroom

theorem gth_issues (hp : i.part g ≠ 0) : Issues (exec (.gth g sz ad h) s) i (fun u => u.mem = s.mem ∧
    (∃ o, u.op s.nextId = some o ∧ o.rod = i.rid ∧ ∃ gt, o.kind = .gather gt ∧ gt.words = sz.bytes / 4 ∧ gt.hint = h ∧
      gt.reads = (lanes (i.part g)).flatMap (fun l => gatherReads (sz.bytes / 4) l ((srcs s i g none).addr ad sz.bytes l))) ∧
    ∃ y, u.rod i.rid = some y ∧ { y with flags := i.rod.flags, gx := i.rod.gx } = i.rod ∧ ∃ row, y.gx = i.rod.gx ++ row ∧
      row.length = sz.bytes / 4 ∧ ∀ e ∈ row, e.op = some s.nextId) := by
  have hfull : ¬ Config.gatherWords < i.rod.gx.length + sz.bytes / 4 := Nat.not_lt.2 hroom
  have hrod : (s.setRod i.rid i.rod).rod i.rid = some i.rod := State.rod_setRod ..
  have hform : exec (.gth g sz ad h) s = finish (((s.setRod i.rid i.rod).addOp i (.gather (gatherOf s i g sz ad h))).2.modRod i.rid
      (fun x => { x with gx := x.gx ++ gatherRow (some s.nextId) (sz.bytes / 4) })) i := by
    rw [exec_gth, execGth, issue_ready hr]
    simp only [ctx0_g, ctx0_i, ctx0_s, hflag, Bool.false_eq_true, if_false, engineReady_setRod (State.issuer_rod hr.1), hready, not_true_eq_false, gt_iff_lt, hfull, or_self, hp, ctx0_addr]
    rfl
  obtain ⟨l, hl⟩ := rod_addOp hrod (.gather (gatherOf s i g sz ad h))
  refine ⟨_, hform, (mem_modRod ..).trans (mem_addOp ..), ⟨_, (op_modRod ..).trans (Lines.op_addOp (s.setRod i.rid i.rod) i _), rfl, _, rfl, rfl, rfl, rfl⟩,
    _, rod_modRod hl _, rfl, gatherRow (some s.nextId) (sz.bytes / 4), rfl, List.length_replicate, fun e he => ?_⟩
  rw [List.eq_of_mem_replicate he]

theorem gth_completes (hp : i.part g = 0) : Completes (exec (.gth g sz ad h) s) s i.rid { i.rod with gx := i.rod.gx ++ gatherRow none (sz.bytes / 4) } := by
  have hfull : ¬ Config.gatherWords < i.rod.gx.length + sz.bytes / 4 := Nat.not_lt.2 hroom
  rw [exec_gth, execGth, issue_ready hr]
  simp only [ctx0_g, ctx0_i, ctx0_s, hflag, Bool.false_eq_true, if_false, engineReady_setRod (State.issuer_rod hr.1), hready, not_true_eq_false, gt_iff_lt, hfull, or_self, hp, if_true,
    modRod_setRod]
  exact finish_setRod ..

end

/-! ### Addresses that lead somewhere name their lanes (R28) -/

/-- One lane's address, as `spotAll` takes it up. -/
def spotStep (i : Iss) (kind : XKind) (z : Nat) (acc : State × List (Nat × Spot) × List (DWord × XOut) × Bool) (e : Nat × DWord) :
    State × List (Nat × Spot) × List (DWord × XOut) × Bool :=
  match acc.1.spot i kind z e.2 with
  | (some p, _, s) => (s, acc.2.1 ++ [(e.1, p)], acc.2.2.1, acc.2.2.2)
  | (none, some x, s) => (s, acc.2.1, acc.2.2.1 ++ [(e.2, x)], acc.2.2.2)
  | (none, none, s) => (s, acc.2.1, acc.2.2.1, true)

/-- Every address so far has led to a place. -/
def AllPlaced (acc : State × List (Nat × Spot) × List (DWord × XOut) × Bool) : Prop := acc.2.2.1 = [] ∧ acc.2.2.2 = false

theorem spotStep_placed {i : Iss} {kind : XKind} {z : Nat} {acc : State × List (Nat × Spot) × List (DWord × XOut) × Bool} {e : Nat × DWord}
    (h : AllPlaced (spotStep i kind z acc e)) : AllPlaced acc ∧ (spotStep i kind z acc e).2.1.map Prod.fst = acc.2.1.map Prod.fst ++ [e.1] := by
  unfold spotStep AllPlaced at *
  split at h
  · exact ⟨h, by simp⟩
  · simp at h
  · simp at h

theorem foldl_spotStep_lanes {i : Iss} {kind : XKind} {z : Nat} {as : List (Nat × DWord)} {acc : State × List (Nat × Spot) × List (DWord × XOut) × Bool}
    (h : AllPlaced (as.foldl (spotStep i kind z) acc)) :
    AllPlaced acc ∧ (as.foldl (spotStep i kind z) acc).2.1.map Prod.fst = acc.2.1.map Prod.fst ++ as.map Prod.fst := by
  induction as generalizing acc with
  | nil => exact ⟨h, by simp⟩
  | cons e as ih =>
    obtain ⟨hstep, hrest⟩ := ih (acc := spotStep i kind z acc e) h
    obtain ⟨hacc, hlane⟩ := spotStep_placed hstep
    exact ⟨hacc, by rw [List.foldl_cons, hrest, hlane, List.append_assoc, List.map_cons]; rfl⟩

theorem spotAll_ready_lanes {s s' : State} {i : Iss} {kind : XKind} {z : Nat} {as : List (Nat × DWord)} {sp : List (Nat × Spot)}
    (h : s.spotAll i kind z as = .ready s' sp) : sp.map Prod.fst = as.map Prod.fst := by
  have hfold : s.spotAll i kind z as = (
      let r := as.foldl (spotStep i kind z) (s, [], [], false)
      if r.2.2.2 then .device
      else if r.2.2.1 = [] then .ready r.1 r.2.1
      else .waits (r.2.2.1.foldl (fun s e => s.askPage (.core (s.coreOf i.rid)) (s.asidOf i.rid) e.1.toNat kind e.2 (s.queueOf i.rid).1) r.1)
        (if r.2.2.1.any (fun e => e.2.suspends) then .translation else .memory)) := rfl
  rw [hfold] at h
  dsimp only at h
  split at h
  · cases h
  · next hdev =>
    split at h
    · next hws =>
      cases h
      exact (foldl_spotStep_lanes ⟨hws, by simpa using hdev⟩).2
    · cases h

/-! ### Columns into the places of a row (R313) -/

theorem length_fillRow (op : Nat) (cols l : List GxWord) : (fillRow op cols l).length = l.length := by
  induction l generalizing cols with
  | nil => rfl
  | cons x l ih =>
    unfold fillRow
    split
    · exact congrArg Nat.succ (ih _)
    · exact congrArg Nat.succ (ih _)

/-- With a column for each of its places, an operation's row leaves other places as they are and puts its columns into its own, in order. -/
theorem getElem_fillRow {op : Nat} {cols l : List GxWord} (hlen : l.countP (fun e => e.op == some op) = cols.length) {k : Nat} {e : GxWord} (he : l[k]? = some e) :
    (fillRow op cols l)[k]? = if e.op = some op then cols[(l.take k).countP (fun e => e.op == some op)]? else some e := by
  induction l generalizing cols k with
  | nil => cases he
  | cons x l ih =>
    by_cases hx : x.op = some op
    · cases cols with
      | nil => simp [hx] at hlen
      | cons c cols =>
        have hlen' : l.countP (fun e => e.op == some op) = cols.length := by simpa [hx] using hlen
        cases k with
        | zero =>
          cases he
          simp [fillRow, hx]
        | succ k => simpa [fillRow, hx] using ih hlen' he
    · have hlen' : l.countP (fun e => e.op == some op) = cols.length := by simpa [hx] using hlen
      cases k with
      | zero =>
        cases he
        simp [fillRow, hx]
      | succ k => simpa [fillRow, hx] using ih hlen' he

/-- A row that has arrived holds no place of its operation. -/
theorem op_ne_of_mem_fillRow {op : Nat} {cols l : List GxWord} (hlen : l.countP (fun e => e.op == some op) = cols.length) (hcols : ∀ c ∈ cols, c.op ≠ some op)
    {e : GxWord} (he : e ∈ fillRow op cols l) : e.op ≠ some op := by
  obtain ⟨k, hk, rfl⟩ := List.getElem_of_mem he
  have hk' : k < l.length := by
    rw [← length_fillRow op cols l]
    exact hk
  have hat := getElem_fillRow hlen (List.getElem?_eq_getElem hk')
  rw [List.getElem?_eq_getElem hk] at hat
  split at hat
  · exact hcols _ (List.mem_of_getElem? hat.symm)
  · next hne =>
    rw [Option.some.inj hat]
    exact hne

theorem countP_take_lt {α : Type} {p : α → Bool} {l : List α} {k : Nat} {e : α} (he : l[k]? = some e) (hp : p e = true) : (l.take k).countP p < l.countP p := by
  obtain ⟨hk, rfl⟩ := List.getElem?_eq_some_iff.1 he
  have hsucc : (l.take (k + 1)).countP p = (l.take k).countP p + 1 := by
    rw [List.take_succ_eq_append_getElem hk, List.countP_append, List.countP_singleton, if_pos hp]
  have hle : (l.take (k + 1)).countP p ≤ l.countP p := (List.take_sublist _ _).countP_le
  omega

/-! ### The words of a row that stand in a scratchpad -/

theorem find_foldl_put {α β : Type} (key : α → Nat) (val : Nat → β) (l : List α) (t : Tbl β) (k : Nat) :
    (l.foldl (fun (t : Tbl β) e => t.put (key e) (val (key e))) t).find k = if k ∈ l.map key then some (val k) else t.find k := by
  induction l generalizing t with
  | nil => simp
  | cons a l ih =>
    rw [List.foldl_cons, ih, Tbl.find_put]
    by_cases hl : k ∈ l.map key
    · simp [hl]
    · by_cases hk : k = key a <;> simp [hl, hk]

/-- The reads of a gather, each at its lane's offset of a scratchpad. -/
def scrReads (cid : Nat) (off : Nat → Nat) (reads : List (Nat × Nat × DWord)) : List ((Nat × Nat × DWord) × Spot) := reads.map (fun e => (e, .scr cid (off e.1)))

/-- The word of a row, numbered as a gather numbers what it has got. -/
def rowWord (ch : Chain) (off : Nat → Nat) (k : Nat) : Word := BitVec.ofNat 32 (ch.nat (off (k / 16) + 4 * (k % 16)) 4)

/-- What a gather has got once it has read its words of a scratchpad. -/
def gotRow (ch : Chain) (off : Nat → Nat) (reads : List (Nat × Nat × DWord)) (t : Tbl Word) : Tbl Word :=
  reads.foldl (fun (t : Tbl Word) e => t.put (16 * e.1 + e.2.1) (rowWord ch off (16 * e.1 + e.2.1))) t

theorem rowWord_key (ch : Chain) (off : Nat → Nat) {l j : Nat} (hj : j < 16) :
    rowWord ch off (16 * l + j) = BitVec.ofNat 32 (ch.nat (off l + 4 * j) 4) := by
  rw [rowWord, show (16 * l + j) / 16 = l by omega, show (16 * l + j) % 16 = j by omega]

theorem anyBad_clean {ch : Chain} (h : ch.scrBad = []) (o n : Nat) : ch.anyBad o n = false := by
  simp [Chain.anyBad, Chain.isBad, h]

/-- Where the words of a gather stand in a scratchpad. -/
def wordPlaces (cid : Nat) (off : Nat → Nat) (reads : List (Nat × Nat × DWord)) : List ((Nat × Nat × DWord) × Nat × Nat) :=
  reads.map (fun e => (e, cid, off e.1 + 4 * e.2.1))

/-- All words in full lines can be read now. -/
theorem gatherNow_full {s : State} {cid : Nat} {ch : Chain} (hchain : s.chain cid = some ch) (hfull : ∀ k, ch.full k = true) (off : Nat → Nat)
    (reads : List (Nat × Nat × DWord)) : s.gatherNow (wordPlaces cid off reads) = wordPlaces cid off reads := by
  refine List.filter_eq_self.2 fun e _ => List.all_eq_true.2 fun f hf => ?_
  obtain ⟨r, -, rfl⟩ := List.mem_map.1 hf
  simp [hchain, hfull]

/-- Words without poison join what a gather has got, one after another. -/
theorem foldl_put_clean {ch : Chain} {off : Nat → Nat} {reads : List (Nat × Nat × DWord)} (hreads : ∀ e ∈ reads, e.2.1 < 16) {p : Nat × Nat × DWord → Bool}
    (hp : ∀ e ∈ reads, p e = true) (g : GatherOp) (k : Word) :
    reads.foldl (fun (x : GatherOp × Word) e =>
        if p e = true then (x.1.put e.1 e.2.1 [(BitVec.ofNat 32 (ch.nat (off e.1 + 4 * e.2.1) 4), false)], x.2) else (x.1, x.2)) (g, k) =
      ({ g with got := gotRow ch off reads g.got }, k) := by
  induction reads generalizing g with
  | nil => rfl
  | cons e reads ih =>
    have hput : g.put e.1 e.2.1 [(BitVec.ofNat 32 (ch.nat (off e.1 + 4 * e.2.1) 4), false)] =
        { g with got := g.got.put (16 * e.1 + e.2.1) (rowWord ch off (16 * e.1 + e.2.1)) } := by
      rw [rowWord_key ch off (hreads e List.mem_cons_self)]
      rfl
    rw [List.foldl_cons, if_pos (hp e List.mem_cons_self), hput, ih (fun r hr => hreads r (List.mem_cons_of_mem e hr)) fun r hr => hp r (List.mem_cons_of_mem e hr)]
    rfl

/-- A gather whose words all stand in full lines of a scratchpad reads them all in one step. -/
theorem gatherStep_scr {s : State} {cid : Nat} {ch : Chain} (hchain : s.chain cid = some ch) (hbad : ch.scrBad = []) (hfull : ∀ k, ch.full k = true) (o : Op)
    (g : GatherOp) (off : Nat → Nat) {reads : List (Nat × Nat × DWord)} (hreads : ∀ e ∈ reads, e.2.1 < 16) :
    s.gatherStep o g (scrReads cid off reads) = ({ g with got := gotRow ch off reads g.got, reads := [] }, 0, false, s) := by
  have hnow : s.gatherNow (reads.filterMap (fun e => some (e, cid, off e.1 + 4 * e.2.1))) = wordPlaces cid off reads := by
    rw [List.filterMap_eq_map']
    exact gatherNow_full hchain hfull off reads
  have hread : ∀ e ∈ reads, (wordPlaces cid off reads).any (fun f => f.1 == e) = true := fun e he =>
    List.any_eq_true.2 ⟨_, List.mem_map.2 ⟨e, he, rfl⟩, beq_self_eq_true e⟩
  have hnone : reads.filterMap (fun _ => (none : Option (Nat × Nat × DWord))) = [] := List.filterMap_eq_nil_iff.2 fun _ _ => rfl
  have hmade := foldl_put_clean (ch := ch) (off := off) hreads hread g 0
  unfold State.gatherStep scrReads
  simp only [List.filterMap_map, Function.comp_def, List.foldl_map, hnow, hchain, anyBad_clean hbad, Bool.false_eq_true, if_false, hmade, hnone]
  have hleft : reads.filter (fun e => !(wordPlaces cid off reads).any (fun f => f.1 == e)) = [] :=
    List.filter_eq_nil_iff.2 fun e he => by simp [hread e he]
  have hzero : reads.any (fun e => (Spot.scr cid (off e.1)) == .zero) = false := List.any_eq_false.2 fun _ _ => by simp
  have hsame : (if s.engineCan (s.coreOf o.rod) [] = true then
      (s.readPending o.rod (([] : Accesses).flatMap (fun e => wordsOf e.1 e.2.1))).readParts (s.coreOf o.rod) [] g.hint else ([], s)).2 = s := rfl
  rw [List.filter_map, List.any_map, hsame]
  simp only [Function.comp_def, hleft, hzero, List.map_nil]

/-! ### `GATHER_ROW_ARRIVE` (R312, R313) -/

section
variable {reads : List (Nat × Nat × DWord)} {ls : List Nat} {words : Nat}
  (hmap : reads.map (fun e => (e.1, e.2.1)) = ls.flatMap (fun l => (List.range words).map (fun j => (l, j))))
include hmap

theorem mem_reads_iff {l j : Nat} : (∃ a, (l, j, a) ∈ reads) ↔ l ∈ ls ∧ j < words := by
  have hmem : (l, j) ∈ reads.map (fun e => (e.1, e.2.1)) ↔ l ∈ ls ∧ j < words := by
    rw [hmap]
    simp [List.mem_flatMap]
  rw [← hmem, List.mem_map]
  constructor
  · rintro ⟨a, ha⟩
    exact ⟨_, ha, rfl⟩
  · rintro ⟨⟨l', j', a⟩, ha, heq⟩
    cases heq
    exact ⟨a, ha⟩

/-- A lane's word of a row, once the row has been read: 0 for a lane that it was not read for. -/
theorem get_gotRow (ch : Chain) (off : Nat → Nat) (hwords : words ≤ 16) {l j : Nat} (hj : j < words) :
    (gotRow ch off reads []).get (16 * l + j) 0 = if l ∈ ls then BitVec.ofNat 32 (ch.nat (off l + 4 * j) 4) else 0 := by
  have hkey : 16 * l + j ∈ reads.map (fun e => 16 * e.1 + e.2.1) ↔ l ∈ ls := by
    rw [List.mem_map]
    constructor
    · rintro ⟨⟨l', j', a⟩, ha, heq⟩
      obtain ⟨hl', hj'⟩ := (mem_reads_iff hmap).1 ⟨a, ha⟩
      simp only at heq
      obtain rfl : l' = l := by omega
      exact hl'
    · intro hl
      obtain ⟨a, ha⟩ := (mem_reads_iff hmap).2 ⟨hl, hj⟩
      exact ⟨_, ha, rfl⟩
  rw [Tbl.get, gotRow, find_foldl_put (fun e : Nat × Nat × DWord => 16 * e.1 + e.2.1) (rowWord ch off)]
  by_cases hl : l ∈ ls
  · rw [if_pos (hkey.2 hl), if_pos hl, rowWord_key ch off (by omega)]
    rfl
  · rw [if_neg (mt hkey.1 hl), if_neg hl]
    rfl

end

/-- Reads and the places where they led, lane by lane, in a scratchpad. -/
theorem zip_eq_scrReads {reads : List (Nat × Nat × DWord)} {sp : List (Nat × Spot)} {cid : Nat} {off : Nat → Nat} (hlen : sp.length = reads.length)
    (hat : ∀ e ∈ reads.zip sp, e.2.2 = .scr cid (off e.1.1)) : (reads.zip sp).map (fun e => (e.1, e.2.2)) = scrReads cid off reads := by
  calc (reads.zip sp).map (fun e => (e.1, e.2.2)) = (reads.zip sp).map (fun e => (e.1, .scr cid (off e.1.1))) :=
        List.map_congr_left fun e he => by rw [hat e he]
    _ = ((reads.zip sp).map Prod.fst).map (fun e => (e, .scr cid (off e.1))) := by rw [List.map_map]; rfl
    _ = scrReads cid off reads := by rw [List.map_fst_zip (by omega)]; rfl

/-- A column that is read whole has the lanes' words of it, and poison in none. -/
theorem column_clean {g : GatherOp} (hbad : g.bad = []) (j : Nat) :
    (g.column j).op = none ∧ (g.column j).bad = 0 ∧ ∀ l < 32, (g.column j).vals.getD l 0 = g.got.get (16 * l + j) 0 := by
  refine ⟨rfl, ?_, fun l hl => ?_⟩
  · simp only [GatherOp.column, hbad, List.contains_nil]
    decide
  · simp [GatherOp.column, List.getD, hl]

/-- A gather that has read all its words of a scratchpad. -/
def readWhole (gt : GatherOp) (ch : Chain) (off : Nat → Nat) : GatherOp := { gt with got := gotRow ch off gt.reads gt.got, reads := [] }

/-- The columns of a gather. -/
def columns (g : GatherOp) : List GxWord := (List.range g.words).map g.column

theorem getElem_columns {g : GatherOp} {j : Nat} (hj : j < g.words) : (columns g)[j]? = some (g.column j) := by
  rw [columns, List.getElem?_map, List.getElem?_range hj]
  rfl

/-- A gather all of whose words stand in full lines of a scratchpad arrives as a whole. -/
theorem gatherRowArrive_scr {s s' : State} {n : Nat} {o : Op} {gt : GatherOp} {x : Rod} {sp : List (Nat × Spot)} {ch : Chain} {cid : Nat} {off : Nat → Nat}
    (hop : s.op n = some o) (hkind : o.kind = .gather gt) (hsusp : o.susp = false) (hx : s.rod o.rod = some x)
    (hspots : s.spotAll (gatherIss o x) .read (4 * gt.words) (gt.reads.zipIdx.map (fun e => (e.2, e.1.2.2))) = .ready s' sp)
    (hchain : s'.chain cid = some ch) (hclean : ch.scrBad = []) (hfull : ∀ k, ch.full k = true)
    (hat : ∀ e ∈ gt.reads.zip sp, e.2.2 = .scr cid (off e.1.1)) (hreads : ∀ e ∈ gt.reads, e.2.1 < 16) :
    exec (.gatherRowArrive n) s = .next ((s'.modRod o.rod (fun x => { x with gx := fillRow n (columns (readWhole gt ch off)) x.gx })).endOp n) := by
  have hlen : sp.length = gt.reads.length := by
    simpa using congrArg List.length (spotAll_ready_lanes hspots)
  have hspots' := hspots
  unfold gatherIss at hspots'
  rw [exec_gatherRowArrive, execGatherRowArrive]
  simp only [hop, hkind, hsusp, Bool.false_eq_true, if_false, hx, hspots', zip_eq_scrReads hlen hat, gatherStep_scr hchain hclean hfull o gt off hreads, Blocks.raise_zero,
    State.sparseRead, ne_eq, not_true_eq_false]
  rfl

theorem gatherQueue : GatherQueue := by
  refine ⟨fun s i g sz ad h hr hflag hready hroom => ⟨gth_issues h hr hflag hready hroom, gth_completes h hr hflag hready hroom⟩, ?_⟩
  intro s s' n o gt x sp ch cid hop hkind hsusp hx hspots hop' hx' hchain hclean hfull _ hgot hbad off ls _ _ hmap hat hcount hwords
  have hreads : ∀ e ∈ gt.reads, e.2.1 < 16 := fun e he => Nat.lt_of_lt_of_le ((mem_reads_iff hmap).1 ⟨e.2.2, he⟩).2 hwords
  have hcols : x.gx.countP (fun e => e.op == some n) = (columns (readWhole gt ch off)).length := by
    rw [hcount, columns, List.length_map, List.length_range]
    rfl
  have hfill : ∀ {k : Nat} {e : GxWord}, x.gx[k]? = some e → _ := fun he => getElem_fillRow hcols he
  have hop2 : (s'.modRod o.rod (fun x => { x with gx := fillRow n (columns (readWhole gt ch off)) x.gx })).op n = some o := (op_modRod ..).trans hop'
  obtain ⟨hrest, hops, hrods⟩ := endOp_rest hop2
  obtain ⟨fl, hy⟩ := hrods o.rod _ (rod_modRod hx' _)
  refine ⟨_, _, gatherRowArrive_scr hop hkind hsusp hx hspots hchain hclean hfull hat hreads, ?_, ?_, hy, length_fillRow n (columns (readWhole gt ch off)) x.gx, ?_, ?_, ?_⟩
  · rw [State.op, hops]
    exact Tbl.find_erase_self ..
  · exact (congrArg State.mem hrest :).trans (mem_modRod ..)
  · refine fun e he => op_ne_of_mem_fillRow hcols (fun c hc => ?_) he
    obtain ⟨j, -, rfl⟩ := List.mem_map.1 hc
    exact nofun
  · intro k e he hne
    exact (hfill he).trans (if_neg hne)
  · intro k e he hn
    have hk := countP_take_lt (p := fun e => e.op == some n) he (beq_iff_eq.2 hn)
    rw [hcount] at hk
    obtain ⟨-, hpoison, hvals⟩ := column_clean (g := readWhole gt ch off) hbad ((x.gx.take k).countP (fun e => e.op == some n))
    refine ⟨_, (hfill he).trans ((if_pos hn).trans (getElem_columns hk)), hpoison, fun l hl => (hvals l hl).trans ?_⟩
    rw [readWhole, hgot]
    exact get_gotRow hmap ch off hwords hk

/-- Settles O19: full and empty lines are facts of the chain's lines, and a gather whose words stand in full lines reads its whole row in one step. -/
theorem fullEmptyAndGather : Obligations.FullEmptyAndGather := ⟨Lines.fullEmptyLines, gatherQueue⟩

end Sys2Proof.Gather
end

section
/-! SUPPORT. Bytes of words and of numbers. -/

namespace Sys2Proof.Bytes
open Sys2Proof.Machine Sys2Proof.Safety Sys2Proof.Laws Sys2Proof.Claims

/-! ### Bytes of a word -/

/-- Bit k of four vectors of one width in a row. -/
theorem getLsbD_append4 {n : Nat} (b : Nat → BitVec n) {i j : Nat} (hi : i < 4) (hj : j < n) : (b 3 ++ b 2 ++ b 1 ++ b 0).getLsbD (n * i + j) = (b i).getLsbD j := by
  have hge : ∀ k, ¬ n * (k + 1) + j < n := fun k => by rw [Nat.mul_succ]; omega
  have hsub : ∀ k, n * (k + 1) + j - n = n * k + j := fun k => by rw [Nat.mul_succ]; omega
  simp only [BitVec.getLsbD_append]
  match i, hi with
  | 0, _ => simp [hj]
  | 1, _ => simp [hj]
  | 2, _ => simp [hge, hsub, hj]
  | 3, _ => simp [hge, hsub, hj]

theorem byte_wordOf (b : Nat → Byte) {i : Nat} (hi : i < 4) : Word.byte (wordOf (b 0) (b 1) (b 2) (b 3)) i = b i := by
  refine BitVec.eq_of_getLsbD_eq fun j hj => ?_
  rw [Word.byte, BitVec.getLsbD_extractLsb', decide_eq_true hj, Bool.true_and]
  exact getLsbD_append4 b hi hj

theorem word_ext {v w : Word} (h : ∀ i < 4, Word.byte v i = Word.byte w i) : v = w := by
  refine BitVec.eq_of_getLsbD_eq fun j hj => ?_
  have hbyte := congrArg (fun b : Byte => b.getLsbD (j % 8)) (h (j / 8) (by omega))
  simpa [Word.byte, show j % 8 < 8 by omega, Nat.div_add_mod] using hbyte

theorem byte_over (x : L1Word) (w : Word) {i : Nat} (hi : i < 4) : Word.byte (x.over w) i = if x.known.getLsbD i then Word.byte x.val i else Word.byte w i :=
  byte_wordOf (fun i => if x.known.getLsbD i then Word.byte x.val i else Word.byte w i) hi

theorem getLsbD_byteMask (pa n wd : Nat) {i : Nat} (hi : i < 4) : (byteMask pa n wd).getLsbD i = (decide (pa ≤ 4 * wd + i) && decide (4 * wd + i < pa + n)) := by
  have hbit := getLsbD_append4 (fun i => BitVec.ofBool (decide (pa ≤ 4 * wd + i) && decide (4 * wd + i < pa + n))) hi Nat.one_pos
  rw [show 1 * i + 0 = i by omega] at hbit
  exact hbit.trans (by simp)

theorem byte_bytesIn {pa wd i : Nat} {bs : List Byte} (hi : i < 4) (hin : pa ≤ 4 * wd + i ∧ 4 * wd + i < pa + bs.length) :
    Word.byte (bytesIn pa bs wd) i = bs.getD (4 * wd + i - pa) 0 :=
  (byte_wordOf (fun i => if pa ≤ 4 * wd + i ∧ 4 * wd + i < pa + bs.length then bs.getD (4 * wd + i - pa) 0 else 0) hi).trans (if_pos hin)

theorem mem_wordsOf {pa n wd : Nat} (hn : 0 < n) : wd ∈ wordsOf pa n ↔ pa < 4 * wd + 4 ∧ 4 * wd < pa + n := by
  simp only [wordsOf, List.mem_map, List.mem_range]
  constructor
  · rintro ⟨i, hi, rfl⟩
    omega
  · intro h
    exact ⟨wd - pa / 4, by omega, by omega⟩

theorem memWord_setMemWord (s : State) (wd : Nat) (v : Word) : (s.setMemWord wd v).memWord wd = v := by
  refine word_ext fun i hi => ?_
  refine (byte_wordOf (fun i => (s.setMemWord wd v).byte (4 * wd + i)) hi).trans ?_
  rw [State.byte_setMemWord, if_pos (by omega), show (4 * wd + i) % 4 = i by omega]

/-! ### Bytes of a number -/

theorem bytesOf_succ (n v : Nat) : bytesOf (n + 1) v = BitVec.ofNat 8 v :: bytesOf n (v / 256) := by
  have hshift : ∀ i, v >>> (8 * (i + 1)) = (v / 256) >>> (8 * i) := fun i => by
    rw [Nat.shiftRight_eq_div_pow, Nat.shiftRight_eq_div_pow, Nat.div_div_eq_div_mul, show 8 * (i + 1) = 8 + 8 * i by omega, pow_add]
    norm_num
  simp [bytesOf, List.range_succ_eq_map, Function.comp_def, hshift]

theorem ofBytes_bytesOf (n v : Nat) : ofBytes (bytesOf n v) = v % 256 ^ n := by
  induction n generalizing v with
  | zero => simp [bytesOf, ofBytes, Nat.mod_one]
  | succ n ih =>
    rw [bytesOf_succ, ofBytes, ih, BitVec.toNat_ofNat, show 256 ^ (n + 1) = 256 * 256 ^ n from pow_succ' 256 n, Nat.mod_mul]

theorem length_bytesOf (n v : Nat) : (bytesOf n v).length = n := by simp [bytesOf]

end Sys2Proof.Bytes
end

section
/-! SUPPORT. What the home slices record of words, and what leaves it as it is (R89 to R91). -/

namespace Sys2Proof.Homes
open Sys2Proof.Machine Sys2Proof.Safety Sys2Proof.Laws Sys2Proof.Claims Sys2Proof.Bytes

/-! ### States that agree in what homes record -/

/-- Two states agree in memory, in the dies in service, and in what each home slice records of its words and has waiting for them. -/
structure SameHomes (s t : State) : Prop where
  mem   : t.mem = s.mem
  diest : t.diest = s.diest
  home  : ∀ d, (t.die d).home = (s.die d).home
  homeQ : ∀ d, (t.die d).homeQ = (s.die d).homeQ

/-- They agree in the marks of words and in the operations under way too. -/
structure SameWords (s t : State) : Prop extends SameHomes s t where
  poison     : t.poison = s.poison
  poisonLost : t.poisonLost = s.poisonLost
  ops        : t.ops = s.ops

section
variable {s t u : State}

theorem SameHomes.refl (s : State) : SameHomes s s := ⟨rfl, rfl, fun _ => rfl, fun _ => rfl⟩

theorem SameHomes.trans (h : SameHomes s t) (k : SameHomes t u) : SameHomes s u :=
  ⟨k.mem.trans h.mem, k.diest.trans h.diest, fun d => (k.home d).trans (h.home d), fun d => (k.homeQ d).trans (h.homeQ d)⟩

theorem SameWords.refl (s : State) : SameWords s s := ⟨.refl s, rfl, rfl, rfl⟩

theorem SameWords.trans (h : SameWords s t) (k : SameWords t u) : SameWords s u :=
  ⟨h.toSameHomes.trans k.toSameHomes, k.poison.trans h.poison, k.poisonLost.trans h.poisonLost, k.ops.trans h.ops⟩

theorem homeDie_congr (h : t.diest = s.diest) (pa : Nat) : t.homeDie pa = s.homeDie pa := by
  unfold State.homeDie State.standby State.inService State.dieState
  rw [h]

theorem SameHomes.homeDie (h : SameHomes s t) (pa : Nat) : t.homeDie pa = s.homeDie pa := homeDie_congr h.diest pa

theorem SameHomes.homeOf (h : SameHomes s t) (wd : Nat) : t.homeOf wd = s.homeOf wd := by
  unfold State.homeOf Die.homeState
  rw [h.homeDie, h.home]

theorem SameHomes.homeQ_eq (h : SameHomes s t) (wd : Nat) : t.homeQ wd = s.homeQ wd := by
  unfold State.homeQ
  rw [h.homeDie, h.homeQ]

theorem SameHomes.memWord (h : SameHomes s t) (wd : Nat) : t.memWord wd = s.memWord wd := by
  unfold State.memWord State.byte
  rw [h.mem]

theorem SameWords.op (h : SameWords s t) (n : Nat) : t.op n = s.op n := by
  unfold State.op
  rw [h.ops]

theorem sameHomes_foldl {α : Type} {f : State → α → State} (hf : ∀ s a, SameHomes s (f s a)) (l : List α) (s : State) : SameHomes s (l.foldl f s) := by
  induction l generalizing s with
  | nil => exact .refl s
  | cons a l ih => exact (hf s a).trans (ih _)

theorem sameWords_foldl {α : Type} {f : State → α → State} (hf : ∀ s a, SameWords s (f s a)) (l : List α) (s : State) : SameWords s (l.foldl f s) := by
  induction l generalizing s with
  | nil => exact .refl s
  | cons a l ih => exact (hf s a).trans (ih _)

end

/-! ### What leaves the homes' record as it is -/

theorem die_setDie_other (s : State) {d k : Nat} (x : Die) (h : k ≠ d) : (s.setDie d x).die k = s.die k := Tbl.get_set_other _ _ _ h

theorem sameWords_setDie {s : State} {d : Nat} {x : Die} (hhome : x.home = (s.die d).home) (hq : x.homeQ = (s.die d).homeQ) : SameWords s (s.setDie d x) := by
  refine ⟨⟨rfl, rfl, fun k => ?_, fun k => ?_⟩, rfl, rfl, rfl⟩
  · by_cases hk : k = d
    · subst hk
      rw [State.die_setDie, hhome]
    · rw [die_setDie_other s x hk]
  · by_cases hk : k = d
    · subst hk
      rw [State.die_setDie, hq]
    · rw [die_setDie_other s x hk]

theorem sameWords_setCore (s : State) (c : CoreId) (x : Core) : SameWords s (s.setCore c x) := ⟨⟨rfl, rfl, fun _ => rfl, fun _ => rfl⟩, rfl, rfl, rfl⟩

theorem sameWords_setIod (s : State) (io : Nat) (x : IoDie) : SameWords s (s.setIod io x) := ⟨⟨rfl, rfl, fun _ => rfl, fun _ => rfl⟩, rfl, rfl, rfl⟩

theorem sameWords_setQueue (s : State) (q : Nat) (x : Queue) : SameWords s (s.setQueue q x) := ⟨⟨rfl, rfl, fun _ => rfl, fun _ => rfl⟩, rfl, rfl, rfl⟩

theorem sameWords_send (s : State) (m : Instr) : SameWords s (s.send m) := ⟨⟨rfl, rfl, fun _ => rfl, fun _ => rfl⟩, rfl, rfl, rfl⟩

theorem sameWords_modRod (s : State) (r : RodId) (f : Rod → Rod) : SameWords s (s.modRod r f) := by
  unfold State.modRod
  split
  · exact ⟨⟨rfl, rfl, fun _ => rfl, fun _ => rfl⟩, rfl, rfl, rfl⟩
  · exact .refl s

theorem sameWords_raise (s : State) (r : RodId) (b : Word) : SameWords s (s.raise r b) := by
  unfold State.raise
  split
  · exact .refl s
  · exact sameWords_modRod ..

theorem sameWords_vector (s : State) (io v : Nat) : SameWords s (s.vector io v) := sameWords_setIod ..

theorem sameWords_start (s : State) (n : Nat) (m : RingMsg) : SameWords s (s.start n m) := by
  unfold State.start State.inject
  dsimp only
  split <;> exact ⟨⟨rfl, rfl, fun _ => rfl, fun _ => rfl⟩, rfl, rfl, rfl⟩

theorem sameWords_toStop (s : State) (src dst : Nat) (cls : BitVec 2) (m : Instr) : SameWords s (s.toStop src dst cls m) := by
  have hfresh : SameWords s { s with nextId := s.nextId + 1 } := ⟨⟨rfl, rfl, fun _ => rfl, fun _ => rfl⟩, rfl, rfl, rfl⟩
  exact hfresh.trans (sameWords_start ..)

theorem sameWords_carry (s : State) (src dst : Nat) (cls : BitVec 2) (m : Instr) : SameWords s (s.carry src dst cls m) := by
  unfold State.carry
  split
  · exact sameWords_send ..
  · exact sameWords_toStop ..

theorem sameWords_toDie (s : State) (src dst : Nat) (m : Instr) : SameWords s (s.toDie src dst m) := sameWords_carry ..

theorem sameWords_grant (s : State) (p : Party) (wd : Nat) (v : Option Word) : SameWords s (s.grant p wd v) := by
  cases p
  · exact sameWords_send ..
  · exact sameWords_toDie ..

theorem sameWords_noteWriteOn (s : State) (p : CoreId → Bool) (wd : Nat) : SameWords s (s.noteWriteOn p wd) := by
  refine sameWords_foldl (fun s e => ?_) _ s
  split
  · exact .refl s
  · refine sameWords_foldl (fun s sl => ?_) _ s
    split
    · split
      · exact sameWords_send ..
      · exact .refl s
    · exact .refl s

theorem sameWords_noteRegistered (s : State) (c : CoreId) (wd : Nat) : SameWords s (s.noteRegistered c wd) := by
  unfold State.noteRegistered
  split
  · exact .refl s
  · exact sameWords_noteWriteOn ..

theorem sameWords_hostLine (s : State) (wd : Nat) (x : HostSt) (whole : Bool) : SameWords s (s.hostLine wd x whole) := by
  unfold State.hostLine
  split
  · split
    · extract_lets d old req
      split
      · exact .refl s
      · have h := sameWords_setDie (s := s) (d := d) (x := { s.die d with hostHeld := (s.die d).hostHeld.set (lineOf wd) x .invalid }) rfl rfl
        exact ⟨⟨h.mem, h.diest, h.home, h.homeQ⟩, h.poison, h.poisonLost, h.ops⟩
    · exact .refl s
  · exact .refl s

theorem sameHomes_setPoison (s : State) (wd : Nat) (b : Bool) : SameHomes s (s.setPoison wd b) := ⟨rfl, rfl, fun _ => rfl, fun _ => rfl⟩

theorem sameWords_vectorAll (s : State) (v : Nat) : SameWords s (s.vectorAll v) := (sameWords_vector ..).trans (sameWords_vector ..)

theorem sameWords_recordDie (s : State) (d dom core addr : Nat) : SameWords s (s.recordDie d dom core addr) := by
  unfold State.recordDie
  extract_lets x
  split
  extract_lets t
  have ht : SameWords s t := sameWords_setDie rfl rfl
  split
  · exact ht.trans (sameWords_vectorAll ..)
  · exact ht

theorem sameWords_recordIo (s : State) (io dom addr : Nat) : SameWords s (s.recordIo io dom addr) := by
  unfold State.recordIo
  extract_lets x
  split
  extract_lets t
  have ht : SameWords s t := sameWords_setIod ..
  split
  · exact ht.trans (sameWords_vectorAll ..)
  · exact ht

theorem sameWords_recordAt (s : State) (stop dom core addr : Nat) : SameWords s (s.recordAt stop dom core addr) := by
  unfold State.recordAt
  split
  · exact sameWords_recordDie ..
  · exact sameWords_recordIo ..

theorem sameWords_flawed (s : State) (link : Bool) (k : Nat) (ws : List Nat) : SameWords s (s.flawed link k ws).2 := by
  unfold State.flawed
  split
  · exact .refl s
  · next u _ =>
    have hgone : SameWords s { s with upsets := s.upsets.erase u } := ⟨⟨rfl, rfl, fun _ => rfl, fun _ => rfl⟩, rfl, rfl, rfl⟩
    dsimp only
    split
    · exact hgone.trans (sameWords_recordIo ..)
    · exact hgone.trans (sameWords_recordAt ..)

theorem sameHomes_arrived (s : State) (stop : Nat) (ws : List Nat) : SameHomes s (s.arrived stop ws) := by
  refine sameHomes_foldl (fun s wd => ?_) _ s
  have h := (sameWords_flawed s false (stopOf (s.homeDie (4 * wd))) [wd]).toSameHomes
  dsimp only
  split
  · exact h
  · exact h.trans (sameHomes_setPoison ..)

theorem sameHomes_setOpKind (s : State) (n : Nat) (k : OpKind) : SameHomes s (s.setOpKind n k) := by
  unfold State.setOpKind
  split
  · exact ⟨rfl, rfl, fun _ => rfl, fun _ => rfl⟩
  · exact .refl s

theorem sameHomes_endOp (s : State) (n : Nat) : SameHomes s (s.endOp n) := by
  unfold State.endOp
  split
  · exact .refl s
  · have hgone : SameHomes s { s with ops := s.ops.erase n } := ⟨rfl, rfl, fun _ => rfl, fun _ => rfl⟩
    exact hgone.trans (sameWords_foldl (fun s f => sameWords_modRod ..) _ _).toSameHomes

theorem sameHomes_backHome (s : State) (p : Nat → Nat → Bool) (wd : Nat) : SameHomes s (s.backHome p wd) := by
  refine sameHomes_foldl (fun s e => ?_) _ s
  dsimp only
  split
  · exact .refl s
  · split
    · split
      · exact .refl s
      · split
        · exact sameHomes_endOp ..
        · exact sameHomes_setOpKind ..
    · exact .refl s

/-! ### A word's record at its home -/

section
variable (s : State) (wd : Nat)

theorem mem_setHome (x : Option HomeSt) : (s.setHome wd x).mem = s.mem := by
  unfold State.setHome State.markHeld
  cases x with
  | none => rfl
  | some h => dsimp only; split <;> rfl

theorem diest_setHome (x : Option HomeSt) : (s.setHome wd x).diest = s.diest := by
  unfold State.setHome State.markHeld
  cases x with
  | none => rfl
  | some h => dsimp only; split <;> rfl

theorem memWord_setHome (x : Option HomeSt) (w : Nat) : (s.setHome wd x).memWord w = s.memWord w := by
  unfold State.memWord State.byte
  rw [mem_setHome]

theorem die_markHeld (d : Nat) : (s.markHeld wd).die d = s.die d := by
  unfold State.markHeld
  split <;> rfl

theorem homeDie_setHome (x : Option HomeSt) (pa : Nat) : (s.setHome wd x).homeDie pa = s.homeDie pa := homeDie_congr (diest_setHome ..) pa

theorem homeOf_setHome (x : Option HomeSt) : (s.setHome wd x).homeOf wd = x := by
  unfold State.homeOf
  rw [homeDie_setHome]
  cases x with
  | none => simp [State.setHome, Die.homeState]
  | some h => simp [State.setHome, die_markHeld, Die.homeState]

theorem homeQ_setHome (x : Option HomeSt) : (s.setHome wd x).homeQ wd = s.homeQ wd := by
  unfold State.homeQ
  rw [homeDie_setHome]
  cases x with
  | none => simp [State.setHome]
  | some h => simp [State.setHome, die_markHeld]

theorem die_setMemWord (v : Word) (d : Nat) : (s.setMemWord wd v).die d = s.die d := by
  simp only [State.die, State.setMemWord, State.setByte_dies]

theorem homeDie_setMemWord (v : Word) (pa : Nat) : (s.setMemWord wd v).homeDie pa = s.homeDie pa :=
  homeDie_congr (by simp only [State.setMemWord, State.setByte_diest]) pa

theorem homeOf_setMemWord (v : Word) (w : Nat) : (s.setMemWord wd v).homeOf w = s.homeOf w := by
  simp only [State.homeOf, homeDie_setMemWord, die_setMemWord]

theorem homeQ_setMemWord (v : Word) (w : Nat) : (s.setMemWord wd v).homeQ w = s.homeQ w := by
  simp only [State.homeQ, homeDie_setMemWord, die_setMemWord]

end

/-! ### Messages under way -/

theorem mem_vals_put {α : Type} (t : Tbl α) (k : Nat) (v : α) : v ∈ (Tbl.put t k v).vals := by
  induction t with
  | nil => simp [Tbl.put, Tbl.vals]
  | cons e t ih =>
    obtain ⟨i, x⟩ := e
    simp only [Tbl.put]
    split
    · simp [Tbl.vals]
    · split
      · simp [Tbl.vals]
      · exact List.mem_cons_of_mem _ ih

/-- A message that starts on the ring is under way. -/
theorem mem_under_start (s : State) (n : Nat) (m : RingMsg) : m.msg ∈ (s.start n m).under := by
  refine List.mem_append_right _ ?_
  unfold State.start
  dsimp only
  split
  · next up _ => exact List.mem_map.2 ⟨{ m with dl := false, up := up }, mem_vals_put .., rfl⟩
  · exact List.mem_map.2 ⟨m, mem_vals_put .., rfl⟩

theorem mem_under_send (s : State) (m : Instr) : m ∈ (s.send m).under :=
  List.mem_append_left _ (List.mem_append_right _ (List.mem_singleton_self m))

theorem mem_under_carry (s : State) (src dst : Nat) (cls : BitVec 2) (m : Instr) : m ∈ (s.carry src dst cls m).under := by
  unfold State.carry
  split
  · exact mem_under_send ..
  · exact mem_under_start _ _ { src := src, dst := dst, msg := m, cls := cls }

/-- A grant is under way to its party. -/
theorem grantMsg_mem_under (s : State) (p : Party) (wd : Nat) (v : Option Word) : grantMsg p wd v ∈ (s.grant p wd v).under := by
  cases p
  · exact mem_under_send ..
  · exact mem_under_carry ..

/-! ### Requests at a home slice (R91, R98) -/

section
variable {s u : State} {wd : Nat} {m : HomeMsg}

theorem homeArrive_served (h : Came s u wd m) (hserved : Served u wd m) (i : Instr) : s.homeArrive wd m i = u.homeDo wd m := by
  obtain ⟨hreach, hplaced⟩ := h
  obtain ⟨hfree, hq⟩ := hserved
  simp [State.homeArrive, hreach, hplaced, hfree, hq]

theorem homeArrive_unserved (h : Came s u wd m) (hserved : ¬ Served u wd m) (i : Instr) : s.homeArrive wd m i = u.queueAt wd m := by
  obtain ⟨hreach, hplaced⟩ := h
  have hwaits : u.blocked wd m = true ∨ u.homeQ wd ≠ [] := by
    rw [Served, not_and_or, Bool.not_eq_false] at hserved
    exact hserved
  simp [State.homeArrive, hreach, hplaced, hwaits]

/-- A read that cannot be served joins its word's queue; no read asks the host for a line. -/
theorem queueAt_read (u : State) (wd : Nat) (rd : Reader) : u.queueAt wd (.read rd) = u.setHomeQ wd (u.homeQ wd ++ [.read rd]) := by
  simp [State.queueAt, HomeMsg.needsHost]

/-- A registration of a word in D is granted: its owner is recorded, and the grant is under way. -/
theorem homeDo_reg_free (p : Party) (fetch : Bool) (hhome : u.homeOf wd = none) (hlost : (u.curWord wd).lost = false) :
    (u.homeDo wd (.reg p fetch)).homeOf wd = some (.owned (ownerOf p)) ∧ (u.homeDo wd (.reg p fetch)).mem = u.mem ∧
      grantMsg p wd (if fetch then some (u.curWord wd).val else none) ∈ (u.homeDo wd (.reg p fetch)).under := by
  have hdo : u.homeDo wd (.reg p fetch) = (((u.hostLine wd .owned).setHome wd (some (.owned (ownerOf p)))).noteRegistered (u.regCore p wd) wd).grant p wd
      (if fetch then some (u.curWord wd).val else none) := by
    simp [State.homeDo, hhome, hlost]
  have hafter := (sameWords_noteRegistered ((u.hostLine wd .owned).setHome wd (some (.owned (ownerOf p)))) (u.regCore p wd) wd).trans
    (sameWords_grant _ p wd (if fetch then some (u.curWord wd).val else none))
  rw [hdo]
  refine ⟨(hafter.homeOf wd).trans (homeOf_setHome ..), ?_, grantMsg_mem_under ..⟩
  exact hafter.mem.trans ((mem_setHome ..).trans (sameWords_hostLine ..).mem)

theorem homeDo_reg_owned (p : Party) (fetch : Bool) {o : Owner} (hhome : u.homeOf wd = some (.owned o)) :
    u.homeDo wd (.reg p fetch) = if o = ownerOf p then u.grant p wd (if fetch then some (if (u.curWord wd).lost then 0xFFFFFFFF else (u.curWord wd).val) else none)
      else u.startRevoke wd o (.reg p fetch) := by
  simp [State.homeDo, hhome]

end

theorem homeServe_empty {s : State} {wd : Nat} (h : s.homeQ wd = []) : s.homeServe wd = s := by
  simp [State.homeServe, State.homeDrain, h]

/-! ### Requests of readers and of owners (R91) -/

section
variable {s u : State} {wd : Nat}

theorem homeRead_served {rd : Reader} (hc : Came s u wd (.read rd)) (hs : Served u wd (.read rd)) :
    (∀ c, u.homeOf wd = some (.owned (.core c)) → exec (.homeRead rd wd) s = .next (u.send (.l1Forward c wd rd))) ∧
      (∀ d, u.homeOf wd = some (.owned (.die d)) → exec (.homeRead rd wd) s = .next (u.toDie (u.homeDie (4 * wd)) d (.nonhomeForward d wd rd))) ∧
      (u.homeOf wd = none ∨ u.homeOf wd = some .lost → exec (.homeRead rd wd) s =
        .next ((u.hostLine wd .shared).deliver (u.homeDie (4 * wd)) rd wd (u.curWord wd) u.cycle)) := by
  have hdo : exec (.homeRead rd wd) s = .next (u.homeDo wd (.read rd)) := congrArg Host.Outcome.next (homeArrive_served hc hs _)
  rw [hdo]
  refine ⟨fun c hh => ?_, fun d hh => ?_, fun hh => ?_⟩
  · simp only [State.homeDo, hh]
  · simp only [State.homeDo, hh]
  · obtain hh | hh := hh
    · simp only [State.homeDo, hh]
    · simp only [State.homeDo, hh]

theorem homeRead_unserved {rd : Reader} (hc : Came s u wd (.read rd)) (hs : ¬ Served u wd (.read rd)) :
    exec (.homeRead rd wd) s = .next (u.setHomeQ wd (u.homeQ wd ++ [.read rd])) :=
  congrArg Host.Outcome.next ((homeArrive_unserved hc hs _).trans (queueAt_read ..))

theorem homeRegister_served {p : Party} (hc : Came s u wd (.reg p false)) (hs : Served u wd (.reg p false)) :
    exec (.homeRegister p wd) s = .next (u.homeDo wd (.reg p false)) := congrArg Host.Outcome.next (homeArrive_served hc hs _)

theorem homeRegisterFetch_served {p : Party} (hc : Came s u wd (.reg p true)) (hs : Served u wd (.reg p true)) :
    exec (.homeRegisterFetch p wd) s = .next (u.homeDo wd (.reg p true)) := congrArg Host.Outcome.next (homeArrive_served hc hs _)

end

section
variable (s : State) (wd : Nat) (p : Party) (v : Word)

/-- What follows once a written-back value has been taken leaves the homes' record as it is. -/
theorem sameHomes_wroteBack (stop : Nat) (q : Nat → Nat → Bool) : SameHomes s ((s.arrived stop [wd]).backHome q wd) :=
  (sameHomes_arrived ..).trans (sameHomes_backHome ..)

theorem homeWriteBack_owned (h : s.homeOf wd = some (.owned (ownerOf p))) : ∃ t, exec (.homeWriteBack p wd v) s = .next t ∧ t.homeOf wd = none ∧ t.memWord wd = v := by
  have hsame := sameHomes_wroteBack ((s.setHome wd none).setMemWord wd v) wd (partyStop p) (hasCore p)
  refine ⟨_, ?_, (hsame.homeOf wd).trans ((homeOf_setMemWord ..).trans (homeOf_setHome s wd none)), (hsame.memWord wd).trans (memWord_setMemWord ..)⟩
  simp only [exec_homeWriteBack, execHomeWriteBack, h, if_true]

/-- A value that comes while its owner is being revoked is kept for the owner's answer (R92). -/
theorem homeWriteBack_waiting (h : s.homeOf wd = some (.waiting (ownerOf p))) :
    ∃ t, exec (.homeWriteBack p wd v) s = .next t ∧ t.homeOf wd = s.homeOf wd ∧ t.memWord wd = v := by
  have hsame := sameHomes_wroteBack (s.setMemWord wd v) wd (partyStop p) (hasCore p)
  refine ⟨_, ?_, (hsame.homeOf wd).trans (homeOf_setMemWord ..), (hsame.memWord wd).trans (memWord_setMemWord ..)⟩
  simp only [exec_homeWriteBack, execHomeWriteBack, h, if_true]

theorem homeWriteBack_home (h : s.homeOf wd = none) : ∃ t, exec (.homeWriteBack p wd v) s = .next t ∧ t.homeOf wd = none ∧ t.mem = s.mem := by
  have hsame := sameHomes_wroteBack s wd (partyStop p) (hasCore p)
  refine ⟨_, ?_, (hsame.homeOf wd).trans h, hsame.mem⟩
  simp only [exec_homeWriteBack, execHomeWriteBack, h]

theorem homeOwnerAnswer_value (h : s.homeOf wd = some (.waiting (ownerOf p))) :
    ∃ x : State, exec (.homeOwnerAnswer p wd (some v)) s = .next (x.homeDrain wd ((s.homeQ wd).length + 1)) ∧
      x.homeOf wd = none ∧ x.memWord wd = v ∧ x.homeQ wd = s.homeQ wd := by
  have hsame := sameHomes_arrived ((s.setHome wd none).setMemWord wd v) (partyStop p) [wd]
  have hq := (hsame.homeQ_eq wd).trans ((homeQ_setMemWord ..).trans (homeQ_setHome s wd none))
  refine ⟨_, ?_, (hsame.homeOf wd).trans ((homeOf_setMemWord ..).trans (homeOf_setHome s wd none)), (hsame.memWord wd).trans (memWord_setMemWord ..), hq⟩
  rw [← hq]
  simp only [exec_homeOwnerAnswer, execHomeOwnerAnswer, h, if_true]
  rfl

theorem homeOwnerAnswer_none (h : s.homeOf wd = some (.waiting (ownerOf p))) (hq : s.homeQ wd = []) :
    ∃ t, exec (.homeOwnerAnswer p wd none) s = .next t ∧ t.homeOf wd = none ∧ t.mem = s.mem := by
  refine ⟨s.setHome wd none, ?_, homeOf_setHome .., mem_setHome ..⟩
  simp only [exec_homeOwnerAnswer, execHomeOwnerAnswer, h, if_true]
  rw [homeServe_empty ((homeQ_setHome ..).trans hq)]

end

theorem homeSlice : HomeSlice := by
  intro s wd
  refine ⟨fun rd u hc => ⟨homeRead_served hc, homeRead_unserved hc⟩, fun p u hc => ⟨fun hs => ?_, fun hs => congrArg Host.Outcome.next (homeArrive_unserved hc hs _)⟩,
    fun p u hc => ⟨fun hs hh hlost => ⟨_, homeRegisterFetch_served hc hs, homeDo_reg_free p true hh hlost⟩,
      fun hs => congrArg Host.Outcome.next (homeArrive_unserved hc hs _)⟩,
    fun p v => ⟨homeWriteBack_owned s wd p v, homeWriteBack_waiting s wd p v, homeWriteBack_home s wd p v, homeOwnerAnswer_value s wd p v,
      homeOwnerAnswer_none s wd p⟩⟩
  rw [homeRegister_served hc hs]
  refine ⟨fun hh hlost => ⟨_, rfl, homeDo_reg_free p false hh hlost⟩, fun o hh hne => ?_, fun hh => ?_⟩
  · rw [homeDo_reg_owned p false hh, if_neg hne]
  · rw [homeDo_reg_owned p false hh, if_pos rfl]
    rfl

end Sys2Proof.Homes
end

section
/-! SUPPORT. An access of an aligned word performed at its home (R75, R91, R100, R316). -/

namespace Sys2Proof.Perform
open Sys2Proof.Machine Sys2Proof.Safety Sys2Proof.Laws Sys2Proof.Claims Sys2Proof.Bytes Sys2Proof.Homes Sys2Proof.Gather

/-! ### The one word of a request -/

section
variable {r : HomeReq} {a : HomeAcc} (hacc : r.accs = [a]) (hpa : a.pa % 4 = 0) (hsize : a.size = 4) (hpush : ∀ v k, a.act ≠ .push v k)

include hpa hsize hpush in
theorem words_aligned : a.words = [a.pa / 4] := by
  unfold HomeAcc.words
  split
  · next v k hact => exact absurd hact (hpush v k)
  · simp [wordsOf, hpa, hsize]

include hacc hpa hsize hpush

theorem reqWords_aligned : r.words = [a.pa / 4] := by
  rw [HomeReq.words, hacc, List.flatMap_singleton, words_aligned hpa hsize hpush]
  rfl

theorem written_aligned (hw : a.act.writes = true) : r.written = [a.pa / 4] := by
  rw [HomeReq.written, hacc, List.filter_cons_of_pos (p := fun a : HomeAcc => a.act.writes) hw, List.filter_nil, List.flatMap_singleton, words_aligned hpa hsize hpush]
  rfl

theorem settled_aligned (hw : a.act.writes = true) : r.settled = [a.pa / 4] := by
  have hp : (a.act.writes || decide (1 < a.words.length)) = true := by rw [hw, Bool.true_or]
  rw [HomeReq.settled, hacc, List.filter_cons_of_pos (p := fun a : HomeAcc => a.act.writes || decide (1 < a.words.length)) hp, List.filter_nil, List.flatMap_singleton, words_aligned hpa hsize hpush]
  rfl

end

/-! ### A request at the slice of its one word (R91, R100) -/

theorem ownerCore_of_free {s : State} {wd : Nat} (hown : ∀ x, s.homeOf wd ≠ some (.owned x)) (hwait : s.waitingHome wd = false) : s.ownerCore wd = none := by
  unfold State.ownerCore
  unfold State.waitingHome at hwait
  split
  · next h => exact absurd h (hown _)
  · next h => simp [h] at hwait
  · next h => exact absurd h (hown _)
  · next h => simp [h] at hwait
  · rfl

/-- A request that waits behind no other recalls the owner of a word that must be at home, or is performed. -/
def meetOwner (u : State) (r : HomeReq) : State :=
  match r.settled.findSome? (fun wd => match u.homeOf wd with | some (.owned o) => some (wd, o) | _ => none) with
  | some (wd, o) => u.startRevoke wd o (.perform r)
  | none =>
    if r.words.any (fun wd => (u.ownerCore wd).isSome && u.under.any (fun m => m.settles == some wd)) then u.send (.homePerformedAccess r)
    else (r.written.foldl (fun s wd => s.hostLine wd .owned) u).applyReq r

section
variable {s u : State} {r : HomeReq} {wd : Nat} (hwords : r.words = [wd]) (hnear : ∀ k, r.stop = some k → s.homeNear k wd = true)
  (hroom : s.resideReq r = (true, u))
include hwords hnear hroom

/-- A request whose slice has room, with its data free to travel, meets the queue of its word, then its owner. -/
theorem performReq_word : s.performReq r none =
    match ([wd].find? (fun wd => u.blocked wd (.perform r) || (some wd != none && !(u.homeQ wd).isEmpty))) with
    | some wd => u.queueAt wd (.perform r)
    | none => meetOwner u r := by
  have hfar : (r.stop.map (fun k => r.words.any (fun wd => !s.homeNear k wd))).getD false = false := by
    cases hstop : r.stop with
    | none => rfl
    | some k => simp [hwords, hnear k hstop]
  unfold State.performReq meetOwner
  rw [hfar, hroom, hwords]
  rfl

theorem performReq_queued (h : u.blocked wd (.perform r) = true ∨ u.homeQ wd ≠ []) : s.performReq r none = u.queueAt wd (.perform r) := by
  have hwaits : (u.blocked wd (.perform r) || (some wd != none && !(u.homeQ wd).isEmpty)) = true := by
    obtain h | h := h <;> simp [h]
  rw [performReq_word hwords hnear hroom, List.find?_singleton, if_pos hwaits]

theorem performReq_served (h : Served u wd (.perform r)) : s.performReq r none = meetOwner u r := by
  obtain ⟨hfree, hq⟩ := h
  have hgoes : ¬ (u.blocked wd (.perform r) || (some wd != none && !(u.homeQ wd).isEmpty)) = true := by simp [hfree, hq]
  rw [performReq_word hwords hnear hroom, List.find?_singleton, if_neg hgoes]

theorem performReq_owned (hsettled : r.settled = [wd]) (h : Served u wd (.perform r)) {x : Owner} (hx : u.homeOf wd = some (.owned x)) :
    s.performReq r none = u.startRevoke wd x (.perform r) := by
  simp [performReq_served hwords hnear hroom h, meetOwner, hsettled, hx]

theorem performReq_free (hsettled : r.settled = [wd]) (hwritten : r.written = [wd]) (h : Served u wd (.perform r)) (hown : ∀ x, u.homeOf wd ≠ some (.owned x)) :
    s.performReq r none = (u.hostLine wd .owned).applyReq r := by
  have hwait : u.waitingHome wd = false := (Bool.or_eq_false_iff.1 h.1).1
  have hnone : [wd].findSome? (fun wd => match u.homeOf wd with | some (.owned o) => some (wd, o) | _ => none) = none := by
    refine List.findSome?_eq_none_iff.2 fun w hw => ?_
    rw [List.mem_singleton.1 hw]
    split
    · next x hx => exact absurd hx (hown x)
    · rfl
  simp [performReq_served hwords hnear hroom h, meetOwner, hsettled, hnone, hwords, hwritten, ownerCore_of_free hown hwait]

end

/-! ### A word held at home -/

/-- A word is at home with a value, undamaged. -/
structure Holds (s : State) (wd : Nat) (v : Word) : Prop where
  home   : s.homeOf wd = none
  mem    : s.memWord wd = v
  whole  : s.poison.contains wd = false
  found  : s.poisonLost.contains wd = false

theorem Holds.of_sameWords {s t : State} {wd : Nat} {v : Word} (h : Holds s wd v) (k : SameWords s t) : Holds t wd v :=
  ⟨(k.homeOf wd).trans h.home, (k.memWord wd).trans h.mem, by rw [k.poison]; exact h.whole, by rw [k.poisonLost]; exact h.found⟩

theorem Holds.endOp {s : State} {wd : Nat} {v : Word} (h : Holds s wd v) (n : Nat) : Holds (s.endOp n) wd v := by
  have hsame := sameHomes_endOp s n
  cases hop : s.op n with
  | none =>
    unfold State.endOp
    rw [hop]
    exact h
  | some o =>
    obtain ⟨hrest, -, -⟩ := endOp_rest hop
    exact ⟨(hsame.homeOf wd).trans h.home, (hsame.memWord wd).trans h.mem,
      ((congrArg (fun t : State => t.poison.contains wd) hrest :)).trans h.whole, ((congrArg (fun t : State => t.poisonLost.contains wd) hrest :)).trans h.found⟩

theorem Holds.setOp {s : State} {wd : Nat} {v : Word} (h : Holds s wd v) (n : Nat) (o : Op) : Holds (s.setOp n o) wd v := ⟨h.home, h.mem, h.whole, h.found⟩

theorem curWord_of_home {s : State} {wd : Nat} (h : s.homeOf wd = none) :
    s.curWord wd = { val := s.memWord wd, bad := s.poison.contains wd || s.poisonLost.contains wd, lost := s.poisonLost.contains wd } := by
  simp [State.curWord, State.ownerCore, h]

theorem seen_of_holds {s : State} {wd : Nat} {v : Word} (h : Holds s wd v) : (s.curWord wd).seen = v := by
  rw [curWord_of_home h.home, h.whole, h.found]
  exact h.mem

/-- The number that an aligned word holds. -/
theorem curNat_aligned (s : State) {pa : Nat} (hpa : pa % 4 = 0) : s.curNat pa 4 = ofBytes ((List.range 4).map (Word.byte (s.curWord (pa / 4)).seen)) := by
  refine congrArg ofBytes (List.map_congr_left fun i hi => ?_)
  have hi := List.mem_range.1 hi
  rw [State.curByte, show (pa + i) / 4 = pa / 4 by omega, show (pa + i) % 4 = i by omega]

/-- A word that holds the bytes of a number reads as it. -/
theorem curNat_of_holds {s : State} {pa X : Nat} (hpa : pa % 4 = 0) (h : Holds s (pa / 4) (bytesIn pa (bytesOf 4 X) (pa / 4))) : s.curNat pa 4 = X % 2 ^ 32 := by
  rw [curNat_aligned s hpa, seen_of_holds h]
  have hbytes : (List.range 4).map (Word.byte (bytesIn pa (bytesOf 4 X) (pa / 4))) = bytesOf 4 X := by
    refine List.ext_getElem (by simp [bytesOf]) fun i hi hi' => ?_
    rw [length_bytesOf] at hi'
    rw [List.getElem_map, List.getElem_range, byte_bytesIn hi' (by rw [length_bytesOf]; omega), show 4 * (pa / 4) + i - pa = i by omega]
    exact (List.getElem_eq_getD 0).symm
  rw [hbytes, ofBytes_bytesOf, show 256 ^ 4 = 2 ^ 32 by norm_num]

/-! ### A whole word put at its home (R75) -/

section
variable {s : State} {wd : Nat}

theorem sameWords_markHeld (s : State) (wd : Nat) : SameWords s (s.markHeld wd) := by
  unfold State.markHeld
  split <;> exact ⟨⟨rfl, rfl, fun _ => rfl, fun _ => rfl⟩, rfl, rfl, rfl⟩

theorem ops_setHome (s : State) (wd : Nat) (x : Option HomeSt) : (s.setHome wd x).ops = s.ops := by
  unfold State.setHome
  cases x with
  | none => rfl
  | some h => exact (sameWords_markHeld ..).ops

/-- Memory written, with every mark of the word gone. -/
theorem holds_setMemWord (h : s.homeOf wd = none) (v : Word) : Holds ((s.setMemWord wd v).setPoison wd false) wd v := by
  have hmarks := sameHomes_setPoison (s.setMemWord wd v) wd false
  refine ⟨(hmarks.homeOf wd).trans ((homeOf_setMemWord s wd v wd).trans h), (hmarks.memWord wd).trans (memWord_setMemWord s wd v), ?_, ?_⟩
  · simp [State.setPoison]
  · simp [State.setPoison]

theorem ops_setMemWord (s : State) (wd : Nat) (v : Word) : ((s.setMemWord wd v).setPoison wd false).ops = s.ops := by
  simp only [State.setPoison, State.setMemWord, State.setByte_ops]

/-- A word that no owner holds takes a whole value in its home, whatever marks it bore. -/
theorem putWord_free (hown : ∀ x, s.homeOf wd ≠ some (.owned x)) (hwait : s.waitingHome wd = false) (v : Word) :
    Holds (s.putWord wd v 15) wd v ∧ (s.putWord wd v 15).ops = s.ops := by
  have hline := sameWords_hostLine s wd .owned false
  have hfree : (s.hostLine wd .owned).ownerCore wd = none := by
    refine ownerCore_of_free (fun x => ?_) ?_
    · rw [hline.homeOf]
      exact hown x
    · unfold State.waitingHome
      rw [hline.homeOf]
      exact hwait
  have hrecall : (s.hostLine wd .owned).recall wd = s.hostLine wd .owned := by
    unfold State.recall
    rw [hfree]
  unfold State.putWord
  rw [hrecall]
  extract_lets t w
  have ht : SameWords s t := hline.trans ((sameWords_noteWriteOn ..).trans (sameWords_markHeld ..))
  rw [if_pos rfl]
  split
  · exact ⟨holds_setMemWord (homeOf_setHome t wd none) v, (ops_setMemWord ..).trans ((ops_setHome t wd none).trans ht.ops)⟩
  · next hlost =>
    have hnone : t.homeOf wd = none := by
      rw [ht.homeOf] at hlost ⊢
      unfold State.waitingHome at hwait
      cases hh : s.homeOf wd with
      | none => rfl
      | some x =>
        cases x with
        | owned o => exact absurd hh (hown o)
        | waiting o => simp [hh] at hwait
        | lost => exact absurd hh hlost
    exact ⟨holds_setMemWord hnone v, (ops_setMemWord ..).trans ht.ops⟩

theorem byteMask_aligned {pa : Nat} (hpa : pa % 4 = 0) : byteMask pa 4 (pa / 4) = 15 := by
  refine BitVec.eq_of_getLsbD_eq fun i hi => ?_
  rw [getLsbD_byteMask _ _ _ hi, show (15 : BitVec 4).getLsbD i = true by interval_cases i <;> rfl]
  simp
  omega

theorem putNat_aligned {pa : Nat} (hpa : pa % 4 = 0) (X : Nat) : s.putNat pa 4 X = s.putWord (pa / 4) (bytesIn pa (bytesOf 4 X) (pa / 4)) 15 := by
  have hwords : wordsOf pa 4 = [pa / 4] := by simp [wordsOf, hpa]
  rw [State.putNat, State.putBytes, length_bytesOf, hwords, List.foldl_cons, List.foldl_nil, byteMask_aligned hpa]

end

/-! ### What an access does (R100, R316) -/

section
variable {s : State} {a : HomeAcc} (hpa : a.pa % 4 = 0) (hsize : a.size = 4) (hreach : s.reach a.pa = .memory)
include hpa hsize hreach

theorem runAcc_write {v : Nat} (hact : a.act = .write v) : runAcc a s = (0, 0, s.putNat a.pa 4 v) := by
  have hwords : a.words = [a.pa / 4] := words_aligned hpa hsize (by simp [hact])
  have hpart : [a.pa / 4].filter (fun wd => !(decide (a.pa ≤ 4 * wd) && decide (4 * wd + 4 ≤ a.pa + 4))) = [] := by
    simp
    omega
  simp only [runAcc, hreach, hact, hwords, hsize, ne_eq, not_true_eq_false, if_false, hpart]
  rfl

theorem runAcc_amo {op : AmoOp} {v v2 : Nat} (hact : a.act = .amo op v v2) (hbad : (s.curWord (a.pa / 4)).bad = false) :
    ∃ k, runAcc a s = (s.curNat a.pa 4, k, s.putNat a.pa 4 (amoApply op 32 (s.curNat a.pa 4) v v2)) := by
  have hwords : a.words = [a.pa / 4] := words_aligned hpa hsize (by simp [hact])
  exact ⟨s.wordCauses [a.pa / 4], by simp [runAcc, hreach, hact, hwords, hsize, hbad]⟩

end

/-- With no soft error to come, a write has crossed the ring undamaged. -/
theorem over_calm {x : AccOut} {a : HomeAcc} (hcalm : x.2.2.upsets = []) (hw : a.act.writes = true) (stop : Option Nat) : x.over stop a = x := by
  cases stop with
  | none => rfl
  | some d => simp [AccOut.over, hw, WholeWords.arrived_calm hcalm]

/-! ### What follows an access (R126, R143) -/

theorem sameWords_dropCopies (s : State) (c : CoreId) (ws : List Nat) : SameWords s (s.dropCopies c ws) := by
  refine sameWords_foldl (fun s wd => ?_) ws s
  extract_lets k t d
  have ht : SameWords s t := by
    unfold t
    split
    · exact sameWords_setCore ..
    · exact .refl s
  split
  · exact ht.trans (sameWords_setDie rfl rfl)
  · exact ht

/-- A counter that nothing watches raises at most a regression. -/
theorem sameWords_noteCounters {before : State} {q : Nat} (h : Unwatched before (8 * q)) (s : State) (r : Option RodId) (cnt : Bool) :
    SameWords s (s.noteCounters before r (8 * q) 8 cnt) := by
  obtain ⟨hqs, hws, -⟩ := h
  have hrange : List.range ((8 * q % 8 + 8 + 7) / 8) = [0] := by simp
  have hc : 8 * (8 * q / 8 + 0) = 8 * q := by omega
  unfold State.noteCounters
  simp only [hrange, List.foldl_cons, List.foldl_nil, hc, hqs, hws]
  split
  · exact .refl s
  · split
    · split
      · exact sameWords_raise ..
      · exact .refl s
    · exact .refl s

/-- A write of an aligned word touches one counter. -/
theorem noteAccs_aligned {a : HomeAcc} (hpa : a.pa % 4 = 0) (hsize : a.size = 4) (hw : a.act.writes = true) (s before : State) (r : Option RodId) :
    s.noteAccs before r [a] = s.noteCounters before r (8 * (a.pa / 8)) 8 a.cnt := by
  have hone : (a.pa % 8 + a.size + 7) / 8 = 1 := by omega
  simp only [State.noteAccs, List.filter_cons, hw, List.filter_nil, if_true, List.flatMap_singleton, hone]
  rfl

theorem sameWords_evAdvance (s : State) (q : Nat) : SameWords s (s.evAdvance q) := by
  unfold State.evAdvance
  extract_lets x t
  split
  · exact (sameWords_setQueue ..).trans (sameWords_vector ..)
  · exact sameWords_setQueue ..

theorem sameWords_smpSettle (s : State) (d : Nat) : SameWords s (s.smpSettle d) := by
  unfold State.smpSettle
  split
  · exact sameWords_setDie rfl rfl
  · exact .refl s

/-- What a request that has been performed posts. -/
def posted (s : State) (r : HomeReq) : State :=
  let s := match r.post with | some q => s.evAdvance q | none => s
  match r.sample with | some d => s.smpSettle d | none => s

theorem sameWords_posted (s : State) (r : HomeReq) : SameWords s (posted s r) := by
  unfold posted
  extract_lets t
  have ht : SameWords s t := by
    unfold t
    split
    · exact sameWords_evAdvance ..
    · exact .refl s
  split
  · exact ht.trans (sameWords_smpSettle ..)
  · exact ht

/-- What becomes of the operation of a request that has been performed. -/
def answerOp (s : State) (r : HomeReq) : State :=
  match s.op r.op with
  | some o =>
    match o.kind with
    | .load l => if l.need = [] then s.loadDone (stopOf (s.homeDie (4 * r.words.headD 0))) r.op o.rod l else s
    | .posted | .free _ _ _ => s.endOp r.op
    | _ => s
  | none => s

theorem answerReq_eq (s : State) (r : HomeReq) : s.answerReq r = answerOp (posted s r) r := rfl

section
variable {s : State} {r : HomeReq} {o : Op} {wd : Nat} {w : Word} (h : Holds s wd w) (hop : s.op r.op = some o)
include h hop

/-- The request of a store is over with its operation. -/
theorem answerReq_posted (hkind : o.kind = .posted) : Holds (s.answerReq r) wd w ∧ OpOver (s.answerReq r) r.op := by
  have hsame := sameWords_posted s r
  have hop' : (posted s r).op r.op = some o := (hsame.op r.op).trans hop
  have hform : s.answerReq r = (posted s r).endOp r.op := by
    rw [answerReq_eq, answerOp, hop']
    simp only [hkind]
  rw [hform]
  refine ⟨(h.of_sameWords hsame).endOp _, ?_⟩
  obtain ⟨-, hops, -⟩ := endOp_rest hop'
  rw [OpOver, State.op, hops]
  exact Tbl.find_erase_self ..

/-- The request of a load leaves it as its answers have made it. -/
theorem answerReq_load {l : LoadOp} (hkind : o.kind = .load l) : Holds (s.answerReq r) wd w ∧ (s.answerReq r).op r.op = some o := by
  have hsame := sameWords_posted s r
  have hop' : (posted s r).op r.op = some o := (hsame.op r.op).trans hop
  have hform : SameWords (posted s r) (s.answerReq r) := by
    rw [answerReq_eq, answerOp, hop']
    simp only [hkind]
    split
    · exact sameWords_carry ..
    · exact .refl _
  exact ⟨(h.of_sameWords hsame).of_sameWords hform, (hform.op r.op).trans hop'⟩

/-- The answer to an access of no load raises its causes alone. -/
theorem answerAcc_posted (hkind : o.kind = .posted) (a : HomeAcc) (v : Nat) (k : Word) :
    Holds (s.answerAcc r.op a v k) wd w ∧ (s.answerAcc r.op a v k).op r.op = some o := by
  have hsame : SameWords s ((s.raise o.rod k).dropCopies (s.coreOf o.rod) a.words) := (sameWords_raise ..).trans (sameWords_dropCopies ..)
  have hform : s.answerAcc r.op a v k = (s.raise o.rod k).dropCopies (s.coreOf o.rod) a.words := by
    unfold State.answerAcc
    rw [hop]
    simp only [hkind]
  rw [hform]
  exact ⟨h.of_sameWords hsame, (hsame.op r.op).trans hop⟩

/-- The answer to an access of a load joins what the load has got. -/
theorem answerAcc_load {l : LoadOp} (hkind : o.kind = .load l) (a : HomeAcc) (v : Nat) (k : Word) :
    Holds (s.answerAcc r.op a v k) wd w ∧ (s.answerAcc r.op a v k).op r.op = some { o with kind := .load (l.take a v (k ≠ 0)) } := by
  have hsame : SameWords s ((s.raise o.rod k).dropCopies (s.coreOf o.rod) a.words) := (sameWords_raise ..).trans (sameWords_dropCopies ..)
  have hop' := (hsame.op r.op).trans hop
  have hform : s.answerAcc r.op a v k = ((s.raise o.rod k).dropCopies (s.coreOf o.rod) a.words).setOp r.op { o with kind := .load (l.take a v (k ≠ 0)) } := by
    unfold State.answerAcc
    rw [hop]
    simp only [hkind, State.setOpKind, hop']
  rw [hform]
  exact ⟨(h.of_sameWords hsame).setOp .., State.op_setOp ..⟩

end

/-- What a load gets of an atomic on an aligned word: the word's former value, and nothing more to wait for of its lane. -/
theorem take_atom {l : LoadOp} {sz : AmoSize} (hkind : l.kind = .atom sz) {a : HomeAcc} (hpa : a.pa % 4 = 0) (hsize : a.size = 4) (v : Nat) (hurt : Bool) :
    (l.take a v hurt).need = l.need.filter (·.lane ≠ a.lane) ∧ (l.take a v hurt).got.find (64 * a.lane) = some (BitVec.ofNat 32 v) := by
  have hform : l.take a v hurt = { l with need := l.need.filter (·.lane ≠ a.lane), got := l.got.put (64 * a.lane) (BitVec.ofNat 32 v) } := by
    simp [LoadOp.take, hkind, hpa, hsize, wordAt]
  rw [hform]
  exact ⟨rfl, Tbl.find_put_self ..⟩

/-! ### The request as a whole -/

theorem reach_congr {s t : State} (hdiest : t.diest = s.diest) (hclaimed : t.claimed = s.claimed) (hnm : ∀ d, (t.die d).nmctl = (s.die d).nmctl) (pa : Nat) :
    t.reach pa = s.reach pa := by
  have hin : ∀ d, t.inService d = s.inService d := fun d => by simp only [State.inService, State.dieState, hdiest]
  have hio : ∀ d, t.ioUp d = s.ioUp d := fun d => by simp only [State.ioUp, State.dieState, hdiest]
  have hclaim : t.claimAt pa = s.claimAt pa := by rw [State.claimAt, State.claimAt, hclaimed]
  have hioOf : t.ioOf pa = s.ioOf pa := by rw [State.ioOf, State.ioOf, hclaim]
  have hserved : t.served pa = s.served pa := by
    rw [State.served, State.served, homeDie_congr hdiest, hin, hioOf]
    cases s.ioOf pa with
    | none => rfl
    | some io => exact congrArg (s.inService (s.homeDie pa) && ·) (hio io)
  unfold State.reach State.claim
  rw [hserved, hclaim]
  split
  · next d _ => rw [hnm, hin]
  all_goals rfl

/-- Asking the host for a line leaves what addresses reach. -/
theorem reach_hostLine (s : State) (wd : Nat) (x : HostSt) (whole : Bool) (pa : Nat) : (s.hostLine wd x whole).reach pa = s.reach pa := by
  have hrest : (s.hostLine wd x whole).diest = s.diest ∧ (s.hostLine wd x whole).claimed = s.claimed ∧ ∀ d, ((s.hostLine wd x whole).die d).nmctl = (s.die d).nmctl := by
    unfold State.hostLine
    split
    · split
      · extract_lets k old req
        split
        · exact ⟨rfl, rfl, fun _ => rfl⟩
        · refine ⟨rfl, rfl, fun d => ?_⟩
          show ((s.setDie k { s.die k with hostHeld := (s.die k).hostHeld.set (lineOf wd) x .invalid }).die d).nmctl = _
          by_cases hd : d = k
          · subst hd
            rw [State.die_setDie]
          · rw [die_setDie_other s _ hd]
      · exact ⟨rfl, rfl, fun _ => rfl⟩
    · exact ⟨rfl, rfl, fun _ => rfl⟩
  obtain ⟨hdiest, hclaimed, hnm⟩ := hrest
  exact reach_congr hdiest hclaimed hnm pa

section
variable {u : State} {r : HomeReq} {a : HomeAcc} (hacc : r.accs = [a])
include hacc

/-- A request of one plain store: the store, its answer, the counters, and the answer of the whole. -/
theorem applyReq_plain {v : Nat} (hact : a.act = .write v) (s : State) : s.applyReq r =
    ((((((runAcc a s).over r.stop a).2.2).answerAcc r.op a ((runAcc a s).over r.stop a).1 ((runAcc a s).over r.stop a).2.1)).noteAccs s
      ((s.op r.op).map Op.rod) [a]).answerReq r := by
  simp [State.applyReq, hacc, hact]

/-- A request of one atomic: its counters come before its answer. -/
theorem applyReq_single {op : AmoOp} {v v2 : Nat} (hact : a.act = .amo op v v2) (s : State) : s.applyReq r =
    ((((((runAcc a s).over r.stop a).2.2).noteAccs s ((s.op r.op).map Op.rod) [a]).answerAcc r.op a ((runAcc a s).over r.stop a).1
      ((runAcc a s).over r.stop a).2.1)).answerReq r := by
  simp [State.applyReq, hacc, hact]

end

section
variable {u : State} {r : HomeReq} {a : HomeAcc} {o : Op} (hacc : r.accs = [a]) (hpa : a.pa % 4 = 0) (hsize : a.size = 4) (hop : u.op r.op = some o)
  (hcalm : u.upsets = []) (hown : ∀ x, u.homeOf (a.pa / 4) ≠ some (.owned x)) (hwait : u.waitingHome (a.pa / 4) = false) (hreach : u.reach a.pa = .memory)
  (hwatch : Unwatched (u.hostLine (a.pa / 4) .owned) (8 * (a.pa / 8)))

include hpa hop hcalm hown hwait in
/-- An aligned word put at its home: it holds the number, and no soft error has struck. -/
theorem putNat_free (X : Nat) : Holds ((u.hostLine (a.pa / 4) .owned).putNat a.pa 4 X) (a.pa / 4) (bytesIn a.pa (bytesOf 4 X) (a.pa / 4)) ∧
    ((u.hostLine (a.pa / 4) .owned).putNat a.pa 4 X).op r.op = some o ∧ ((u.hostLine (a.pa / 4) .owned).putNat a.pa 4 X).upsets = [] := by
  have hline := sameWords_hostLine u (a.pa / 4) .owned false
  have hown' : ∀ x, (u.hostLine (a.pa / 4) .owned).homeOf (a.pa / 4) ≠ some (.owned x) := fun x => by
    rw [hline.homeOf]
    exact hown x
  have hwait' : (u.hostLine (a.pa / 4) .owned).waitingHome (a.pa / 4) = false := by
    unfold State.waitingHome
    rw [hline.homeOf]
    exact hwait
  rw [putNat_aligned hpa]
  obtain ⟨hholds, hops⟩ := putWord_free hown' hwait' (bytesIn a.pa (bytesOf 4 X) (a.pa / 4))
  refine ⟨hholds, ?_, ?_⟩
  · rw [State.op, hops, hline.ops]
    exact hop
  · exact ((WholeWords.kept_hostLine ..).trans (WholeWords.kept_putWord ..)).2.trans hcalm

include hacc hpa hsize hop hcalm hown hwait hreach hwatch

theorem applyReq_write {v : Nat} (hact : a.act = .write v) (hkind : o.kind = .posted) :
    OpOver ((u.hostLine (a.pa / 4) .owned).applyReq r) r.op ∧ ((u.hostLine (a.pa / 4) .owned).applyReq r).curNat a.pa 4 = v % 2 ^ 32 := by
  have hw : a.act.writes = true := by rw [hact]; rfl
  obtain ⟨hholds, hop', hcalm'⟩ := putNat_free hpa hop hcalm hown hwait v
  have hrun := runAcc_write hpa hsize ((reach_hostLine u (a.pa / 4) .owned false a.pa).trans hreach) hact
  have hover := over_calm (x := runAcc a (u.hostLine (a.pa / 4) .owned)) (by rw [hrun]; exact hcalm') hw r.stop
  rw [applyReq_plain hacc hact, hover, hrun]
  obtain ⟨hholds2, hop2⟩ := answerAcc_posted hholds hop' hkind a 0 0
  have hnote := sameWords_noteCounters hwatch (((u.hostLine (a.pa / 4) .owned).putNat a.pa 4 v).answerAcc r.op a 0 0)
    (((u.hostLine (a.pa / 4) .owned).op r.op).map Op.rod) a.cnt
  rw [noteAccs_aligned hpa hsize hw]
  obtain ⟨hholds3, hover3⟩ := answerReq_posted (hholds2.of_sameWords hnote) ((hnote.op r.op).trans hop2) hkind
  exact ⟨hover3, curNat_of_holds hpa hholds3⟩

theorem applyReq_amo {op : AmoOp} {v v2 : Nat} {l : LoadOp} {sz : AmoSize} (hact : a.act = .amo op v v2) (hkind : o.kind = .load l) (hl : l.kind = .atom sz)
    (hbad : (u.curWord (a.pa / 4)).bad = false) (hlost : (u.curWord (a.pa / 4)).lost = false) :
    ∃ m, ((u.hostLine (a.pa / 4) .owned).applyReq r).curNat a.pa 4 = amoApply op 32 (u.curNat a.pa 4) v v2 % 2 ^ 32 ∧
      ((u.hostLine (a.pa / 4) .owned).applyReq r).op r.op = some { o with kind := .load m } ∧ m.need = l.need.filter (·.lane ≠ a.lane) ∧
      m.got.find (64 * a.lane) = some (BitVec.ofNat 32 (u.curNat a.pa 4)) := by
  have hw : a.act.writes = true := by rw [hact]; rfl
  have hline := sameWords_hostLine u (a.pa / 4) .owned false
  have hhome : u.homeOf (a.pa / 4) = none := by
    unfold State.waitingHome at hwait
    cases hh : u.homeOf (a.pa / 4) with
    | none => rfl
    | some x =>
      cases x with
      | owned y => exact absurd hh (hown y)
      | waiting y => simp [hh] at hwait
      | lost => simp [State.curWord, hh] at hlost
  have hword : (u.hostLine (a.pa / 4) .owned).curWord (a.pa / 4) = u.curWord (a.pa / 4) := by
    rw [curWord_of_home hhome, curWord_of_home ((hline.homeOf _).trans hhome), hline.memWord, hline.poison, hline.poisonLost]
  have hold : (u.hostLine (a.pa / 4) .owned).curNat a.pa 4 = u.curNat a.pa 4 := by rw [curNat_aligned _ hpa, curNat_aligned _ hpa, hword]
  obtain ⟨k, hrun⟩ := runAcc_amo hpa hsize ((reach_hostLine u (a.pa / 4) .owned false a.pa).trans hreach) hact (by rw [hword]; exact hbad)
  rw [hold] at hrun
  obtain ⟨hholds, hop', hcalm'⟩ := putNat_free hpa hop hcalm hown hwait (amoApply op 32 (u.curNat a.pa 4) v v2)
  have hover := over_calm (x := runAcc a (u.hostLine (a.pa / 4) .owned)) (by rw [hrun]; exact hcalm') hw r.stop
  rw [applyReq_single hacc hact, hover, hrun, noteAccs_aligned hpa hsize hw]
  have hnote := sameWords_noteCounters hwatch ((u.hostLine (a.pa / 4) .owned).putNat a.pa 4 (amoApply op 32 (u.curNat a.pa 4) v v2))
    (((u.hostLine (a.pa / 4) .owned).op r.op).map Op.rod) a.cnt
  obtain ⟨hholds2, hop2⟩ := answerAcc_load (hholds.of_sameWords hnote) ((hnote.op r.op).trans hop') hkind a (u.curNat a.pa 4) k
  obtain ⟨hholds3, hop3⟩ := answerReq_load hholds2 hop2 rfl
  obtain ⟨hneed, hgot⟩ := take_atom hl hpa hsize (u.curNat a.pa 4) (k ≠ 0)
  exact ⟨_, curNat_of_holds hpa hholds3, hop3, hneed, hgot⟩

end

theorem freed_same {s : State} {n : Nat} {o : Op} (hop : s.op n = some o) (hfree : ∀ x y z, o.kind ≠ .free x y z) : s.freed n = s := by
  unfold State.freed
  rw [hop]
  split
  · next h => exact absurd (Option.some.inj h) (hfree _ _ _)
  · rfl

theorem homePerformedAccesses : HomePerformedAccesses := by
  intro s u r a o hacc hpa hsize hpush hop hfree hw hnear hcalm hroom hop'
  have hwords := reqWords_aligned hacc hpa hsize hpush
  have hsettled := settled_aligned hacc hpa hsize hpush hw
  have hwritten := written_aligned hacc hpa hsize hpush hw
  have hexec : exec (.homePerformedAccess r) s = .next (s.performReq r none) := by
    rw [exec_homePerformedAccess, execHomePerformedAccess, freed_same hop hfree]
  rw [hexec]
  refine ⟨fun h => ?_, fun h => ⟨fun x hx => ?_, fun hown hreach hwatch => ?_⟩⟩
  · rw [performReq_queued hwords hnear hroom h]
  · rw [performReq_owned hwords hnear hroom hsettled h hx]
  · have hwait : u.waitingHome (a.pa / 4) = false := (Bool.or_eq_false_iff.1 h.1).1
    rw [performReq_free hwords hnear hroom hsettled hwritten h hown]
    refine ⟨fun v hact hkind => ⟨_, rfl, applyReq_write hacc hpa hsize hop' hcalm hown hwait hreach hwatch hact hkind⟩, fun op v v2 l sz hact hkind hl hbad hlost => ?_⟩
    obtain ⟨m, hm⟩ := applyReq_amo hacc hpa hsize hop' hcalm hown hwait hreach hwatch hact hkind hl hbad hlost
    exact ⟨_, m, rfl, hm⟩

/-- Settles O42: the home slice request by request, and the accesses performed there through the one word that they touch. -/
theorem homeCoherence : Obligations.HomeCoherence := ⟨homeSlice, homePerformedAccesses⟩

end Sys2Proof.Perform
end

section
/-! SUPPORT. What a home slice does beside an access: making room, calling owners in, waking waiters. No byte of memory, no core and no rod changes, and every
message under way in a die stays (R61, R62, R71, R144). -/

namespace Sys2Proof.Slices
open Sys2Proof.Machine Sys2Proof.Safety Sys2Proof.Laws Sys2Proof.Claims

/-- Two states agree in memory, cores, rods, chains, dies in service and claimed addresses, and no message within a die has gone. -/
structure Aside (s t : State) : Prop where
  mem      : t.mem = s.mem
  cores    : t.cores = s.cores
  rods     : t.rods = s.rods
  chains   : t.chains = s.chains
  diest    : t.diest = s.diest
  claimed  : t.claimed = s.claimed
  inflight : ∀ m ∈ s.inflight, m ∈ t.inflight

section
variable {s t u : State}

theorem Aside.refl (s : State) : Aside s s := ⟨rfl, rfl, rfl, rfl, rfl, rfl, fun _ h => h⟩

theorem Aside.trans (h : Aside s t) (k : Aside t u) : Aside s u :=
  ⟨k.mem.trans h.mem, k.cores.trans h.cores, k.rods.trans h.rods, k.chains.trans h.chains, k.diest.trans h.diest, k.claimed.trans h.claimed,
    fun m hm => k.inflight m (h.inflight m hm)⟩

theorem aside_foldl {α : Type} {f : State → α → State} (hf : ∀ s a, Aside s (f s a)) (l : List α) (s : State) : Aside s (l.foldl f s) := by
  induction l generalizing s with
  | nil => exact .refl s
  | cons a l ih => exact (hf s a).trans (ih _)

/-- A change of parts that stand apart. -/
theorem aside_of_same (hmem : t.mem = s.mem) (hcores : t.cores = s.cores) (hrods : t.rods = s.rods) (hchains : t.chains = s.chains) (hdiest : t.diest = s.diest)
    (hclaimed : t.claimed = s.claimed) (hin : t.inflight = s.inflight) : Aside s t :=
  ⟨hmem, hcores, hrods, hchains, hdiest, hclaimed, fun m hm => by rw [hin]; exact hm⟩

end

/-! ### The parts of the state that stand apart -/

theorem aside_setDie (s : State) (d : Nat) (x : Die) : Aside s (s.setDie d x) := aside_of_same rfl rfl rfl rfl rfl rfl rfl

theorem aside_setIod (s : State) (io : Nat) (x : IoDie) : Aside s (s.setIod io x) := aside_of_same rfl rfl rfl rfl rfl rfl rfl

theorem aside_setPoison (s : State) (wd : Nat) (b : Bool) : Aside s (s.setPoison wd b) := aside_of_same rfl rfl rfl rfl rfl rfl rfl

theorem aside_send (s : State) (m : Instr) : Aside s (s.send m) := ⟨rfl, rfl, rfl, rfl, rfl, rfl, fun _ h => List.mem_append_left _ h⟩

theorem aside_markHeld (s : State) (wd : Nat) : Aside s (s.markHeld wd) := by
  unfold State.markHeld
  split
  · exact aside_of_same rfl rfl rfl rfl rfl rfl rfl
  · exact .refl s

theorem aside_setHome (s : State) (wd : Nat) (x : Option HomeSt) : Aside s (s.setHome wd x) := by
  unfold State.setHome
  split
  · exact (aside_setDie ..).trans (aside_markHeld ..)
  · exact aside_setDie ..

theorem aside_start (s : State) (n : Nat) (m : RingMsg) : Aside s (s.start n m) := by
  unfold State.start State.inject
  dsimp only
  split <;> exact aside_of_same rfl rfl rfl rfl rfl rfl rfl

theorem aside_toStop (s : State) (src dst : Nat) (cls : BitVec 2) (m : Instr) : Aside s (s.toStop src dst cls m) := by
  have hfresh : Aside s { s with nextId := s.nextId + 1 } := aside_of_same rfl rfl rfl rfl rfl rfl rfl
  exact hfresh.trans (aside_start ..)

theorem aside_toDie (s : State) (src dst : Nat) (m : Instr) : Aside s (s.toDie src dst m) := by
  unfold State.toDie State.carry
  split
  · exact aside_send ..
  · exact aside_toStop ..

theorem aside_snoopHost (s : State) (line : Nat) : Aside s (s.snoopHost line) := by
  unfold State.snoopHost
  dsimp only
  split
  · exact .refl s
  · exact aside_of_same rfl rfl rfl rfl rfl rfl rfl

theorem aside_startRevoke (s : State) (wd : Nat) (o : Owner) (m : HomeMsg) : Aside s (s.startRevoke wd o m) := by
  unfold State.startRevoke
  extract_lets d t
  have ht : Aside s t := (aside_setHome ..).trans (aside_setDie ..)
  cases o with
  | core c => exact ht.trans (aside_send ..)
  | die x => exact ht.trans (aside_toDie ..)
  | host => exact ht.trans (aside_snoopHost ..)

/-! ### Room in a slice (R61, R62, R71) -/

theorem aside_callIn (s : State) (d line : Nat) : Aside s (s.callIn d line) := by
  unfold State.callIn
  generalize lineWords line = ws
  split
  · refine aside_foldl (fun s wd => ?_) _ s
    split
    · exact aside_startRevoke ..
    · exact .refl s
  · refine aside_foldl (fun s wd => ?_) _ s
    split
    · exact aside_send ..
    · exact .refl s

theorem aside_hostLeave (s : State) (d line : Nat) : Aside s (s.hostLeave d line) := by
  unfold State.hostLeave
  split
  · exact .refl s
  · exact aside_of_same rfl rfl rfl rfl rfl rfl rfl

theorem aside_spillLost (s : State) (d line : Nat) : Aside s (s.spillLost d line) := by
  unfold State.spillLost
  generalize (lineWords line).filter (fun wd => (s.die d).homeState wd == some .lost) = lost
  exact aside_of_same rfl rfl rfl rfl rfl rfl rfl

theorem aside_clearHeld (s : State) (line : Nat) : Aside s (s.clearHeld line) := aside_of_same rfl rfl rfl rfl rfl rfl rfl

theorem aside_restoreLost (s : State) (d line : Nat) : Aside s (s.restoreLost d line) := by
  unfold State.restoreLost
  generalize (lineWords line).filter s.poisonLost.contains = lost
  exact aside_of_same rfl rfl rfl rfl rfl rfl rfl

theorem aside_dropLine (s : State) (d line : Nat) : Aside s (s.dropLine d line) := by
  unfold State.dropLine
  extract_lets t dd
  have hspill : Aside s ((s.spillLost d line).clearHeld line) := (aside_spillLost ..).trans (aside_clearHeld ..)
  have ht : Aside s t := by
    unfold t
    split
    · exact hspill.trans (aside_hostLeave ..)
    · exact .refl s
  exact ht.trans (aside_setDie ..)

theorem aside_makeRoom (d line : Nat) (after : State → State) (fuel : Nat) (s : State) : Aside s (s.makeRoom d line after fuel).2 := by
  induction fuel generalizing s with
  | zero => exact .refl s
  | succ fuel ih =>
    unfold State.makeRoom
    split
    · exact .refl s
    · exact (aside_dropLine ..).trans (ih _)
    · exact aside_callIn ..

theorem aside_vectorAll (s : State) (v : Nat) : Aside s (s.vectorAll v) := (aside_setIod s 0 _).trans (aside_setIod _ 1 _)

theorem aside_recordDie (s : State) (d dom core addr : Nat) : Aside s (s.recordDie d dom core addr) := by
  unfold State.recordDie
  extract_lets x
  split
  extract_lets t
  have ht : Aside s t := aside_setDie ..
  split
  · exact ht.trans (aside_vectorAll ..)
  · exact ht

theorem aside_recordIo (s : State) (io dom addr : Nat) : Aside s (s.recordIo io dom addr) := by
  unfold State.recordIo
  extract_lets x
  split
  extract_lets t
  have ht : Aside s t := aside_setIod ..
  split
  · exact ht.trans (aside_vectorAll ..)
  · exact ht

theorem aside_flawed (s : State) (link : Bool) (k : Nat) (ws : List Nat) : Aside s (s.flawed link k ws).2 := by
  unfold State.flawed State.recordAt
  split
  · exact .refl s
  · next u _ =>
    have hgone : Aside s { s with upsets := s.upsets.erase u } := aside_of_same rfl rfl rfl rfl rfl rfl rfl
    dsimp only
    split
    · exact hgone.trans (aside_recordIo ..)
    · split
      · exact hgone.trans (aside_recordDie ..)
      · exact hgone.trans (aside_recordIo ..)

theorem aside_poisoned (s : State) (ws : List Nat) : Aside s (ws.foldl (fun s wd => if s.homeOf wd = none then s.setPoison wd true else s) s) := by
  refine aside_foldl (fun s wd => ?_) ws s
  split
  · exact aside_setPoison ..
  · exact .refl s

/-- A line fetched from beyond its die may arrive damaged. -/
theorem aside_fetched (s : State) (d line : Nat) : Aside s (s.fetched d line) := by
  unfold State.fetched
  generalize [(lineWords line).take 16, (lineWords line).drop 16] = halves
  split
  · exact .refl s
  · next io _ =>
    refine aside_foldl (f := fun (s : State) (ws : List Nat) => _) (fun s ws => ?_) halves s
    have hlink : Aside s (if (!region (128 * line) == Region.far io) = true then s.flawed true io ws else ([], s)).2 := by
      split
      · exact aside_flawed ..
      · exact .refl s
    dsimp only
    generalize (if (!region (128 * line) == Region.far io) = true then s.flawed true io ws else ([], s)) = p at hlink ⊢
    have hring := aside_flawed p.2 false (stopOf d) ws
    generalize p.2.flawed false (stopOf d) ws = q at hring ⊢
    exact hlink.trans (hring.trans (aside_poisoned ..))

theorem aside_joinSlice (s : State) (d line ret : Nat) : Aside s (s.joinSlice d line ret) := by
  unfold State.joinSlice
  extract_lets dd t
  have ht : Aside s t := aside_setDie ..
  have hlost := aside_restoreLost t d line
  split
  · split
    · exact .refl s
    · exact aside_setDie ..
  · split
    · exact (ht.trans hlost).trans (aside_fetched ..)
    · exact ht

theorem aside_reside (s : State) (d line ret : Nat) (after : State → State) : Aside s (s.reside d line ret after).2 := by
  have hroom := aside_makeRoom d line after ((s.die d).resident.length + 1) s
  unfold State.reside
  split
  · next t h => rw [h] at hroom; exact hroom
  · next t h => rw [h] at hroom; exact hroom.trans (aside_joinSlice ..)

/-! ### Waiters woken and lines that must leave an L1 -/

theorem aside_noteWriteOn (s : State) (p : CoreId → Bool) (wd : Nat) : Aside s (s.noteWriteOn p wd) := by
  refine aside_foldl (fun s e => ?_) _ s
  split
  · exact .refl s
  · refine aside_foldl (fun s sl => ?_) _ s
    split
    · split
      · exact aside_send ..
      · exact .refl s
    · exact .refl s

theorem aside_noteWrite (s : State) (wd : Nat) : Aside s (s.noteWrite wd) := aside_noteWriteOn ..

theorem aside_evictFor (s : State) (c : CoreId) (line : Nat) : Aside s (s.evictFor c line) := by
  unfold State.evictFor
  split
  · split
    · exact .refl s
    · exact aside_send ..
  · exact .refl s

end Sys2Proof.Slices
end

section
/-! SUPPORT. Bytes stored through an L1 (R83, R84, R99, R117). -/

namespace Sys2Proof.Cached
open Sys2Proof.Machine Sys2Proof.Safety Sys2Proof.Laws Sys2Proof.Claims Sys2Proof.Bytes Sys2Proof.Slices Sys2Proof.Allocator

/-! ### Words of an L1 -/

theorem l1Word_setL1 (k : Core) (wd : Nat) (x : L1Word) (w : Nat) : (k.setL1 wd x).l1Word w = if w = wd then x else k.l1Word w := Tbl.get_set ..

/-- What becomes of a word that is not stored to: one that the core owns stays, and any other stays unowned; no poison comes. -/
structure L1Kept (x y : L1Word) : Prop where
  own   : x.st.owned = true → y = x
  free  : x.st.owned = false → y.st.owned = false
  clean : x.bad = false → y.bad = false

theorem L1Kept.refl (x : L1Word) : L1Kept x x := ⟨fun _ => rfl, id, id⟩

theorem L1Kept.trans {x y z : L1Word} (h : L1Kept x y) (k : L1Kept y z) : L1Kept x z := by
  refine ⟨fun hx => ?_, fun hx => k.free (h.free hx), fun hx => k.clean (h.clean hx)⟩
  have hy := h.own hx
  exact (k.own (by rw [hy]; exact hx)).trans hy

theorem l1Kept_dropV (k : Core) (line w : Nat) : L1Kept (k.l1Word w) ((k.dropV line).l1Word w) := by
  unfold Core.dropV
  induction lineWords line generalizing k with
  | nil => exact .refl _
  | cons wd ws ih =>
    refine L1Kept.trans ?_ (ih _)
    dsimp only
    split
    · next hv =>
      rw [Core.dropL1, l1Word_setL1]
      split
      · next hw =>
        subst hw
        exact ⟨fun h => by simp [hv, L1St.owned] at h, fun _ => rfl, fun h => h⟩
      · exact .refl _
    · exact .refl _

/-- A line opened for an access drops its old copies alone (R88). -/
theorem l1Kept_openLine (k : Core) (line ret w : Nat) : L1Kept (k.l1Word w) ((k.openLine line ret).l1Word w) := by
  unfold Core.openLine
  extract_lets k'
  show L1Kept (k.l1Word w) (k'.l1Word w)
  unfold k'
  split
  · exact .refl _
  · exact l1Kept_dropV ..

theorem l1Word_touch (k : Core) (line : Nat) (h : Hint) (w : Nat) : (k.touch line h).l1Word w = k.l1Word w := by
  unfold Core.touch
  split <;> rfl

/-! ### What a store leaves -/

/-- Between s and t a store of rod r through the L1 of core c has changed neither memory nor another core nor a register, and no message within a die
has gone. -/
structure StoreFrame (c : CoreId) (r : RodId) (s t : State) : Prop where
  mem      : t.mem = s.mem
  chains   : t.chains = s.chains
  diest    : t.diest = s.diest
  claimed  : t.claimed = s.claimed
  others   : ∀ k, coreKey k ≠ coreKey c → t.core k = s.core k
  inflight : ∀ m ∈ s.inflight, m ∈ t.inflight
  rod      : ∀ x, s.rod r = some x → ∃ y, t.rod r = some y ∧ { y with cause := x.cause, stores := x.stores, parts := x.parts } = x

section
variable {c : CoreId} {r : RodId} {s t u : State}

theorem StoreFrame.refl (s : State) : StoreFrame c r s s := ⟨rfl, rfl, rfl, rfl, fun _ _ => rfl, fun _ h => h, fun x h => ⟨x, h, rfl⟩⟩

theorem StoreFrame.trans (h : StoreFrame c r s t) (k : StoreFrame c r t u) : StoreFrame c r s u := by
  refine ⟨k.mem.trans h.mem, k.chains.trans h.chains, k.diest.trans h.diest, k.claimed.trans h.claimed, fun q hq => (k.others q hq).trans (h.others q hq),
    fun m hm => k.inflight m (h.inflight m hm), fun x hx => ?_⟩
  obtain ⟨y, hy, hyx⟩ := h.rod x hx
  obtain ⟨z, hz, hzy⟩ := k.rod y hy
  exact ⟨z, hz, (congrArg (fun w : Rod => { w with cause := x.cause, stores := x.stores, parts := x.parts }) hzy).trans hyx⟩

theorem StoreFrame.of_aside (h : Aside s t) : StoreFrame c r s t :=
  ⟨h.mem, h.chains, h.diest, h.claimed, fun k _ => by rw [State.core, State.core, h.cores], h.inflight, fun x hx => ⟨x, by rw [State.rod, h.rods]; exact hx, rfl⟩⟩

theorem storeFrame_setCore (s : State) (x : Core) : StoreFrame c r s (s.setCore c x) :=
  ⟨rfl, rfl, rfl, rfl, fun _ hk => Tbl.get_set_other _ _ _ hk, fun _ h => h, fun y h => ⟨y, h, rfl⟩⟩

theorem storeFrame_modRod (s : State) {f : Rod → Rod} (hf : ∀ x, { f x with cause := x.cause, stores := x.stores, parts := x.parts } = x) :
    StoreFrame c r s (s.modRod r f) := by
  have hrest := Scratch.modRod_rest s r f
  exact ⟨(congrArg State.mem hrest :), (congrArg State.chains hrest :), (congrArg State.diest hrest :), (congrArg State.claimed hrest :),
    fun k _ => (congrArg (fun t : State => t.core k) hrest :), fun m hm => by rw [(congrArg State.inflight hrest :)]; exact hm,
    fun x hx => ⟨f x, rod_modRod hx f, hf x⟩⟩

theorem l1Of_aside (h : Aside s t) (c : CoreId) (wd : Nat) : l1Of t c wd = l1Of s c wd := by
  rw [l1Of, l1Of, State.core, State.core, h.cores]

theorem l1Of_setCore (s : State) (c : CoreId) (x : Core) (wd : Nat) : l1Of (s.setCore c x) c wd = x.l1Word wd := by
  rw [l1Of, State.core_setCore]

theorem l1Of_modRod (s : State) (r : RodId) (f : Rod → Rod) (c : CoreId) (wd : Nat) : l1Of (s.modRod r f) c wd = l1Of s c wd :=
  (congrArg (fun t : State => l1Of t c wd) (Scratch.modRod_rest s r f) :)

end

/-! ### Bytes merged into a word -/

/-- Bytes merged into a word of an L1: those in a mask are known and as stored, the others of an owned word as they were; a word that is not owned is taken
in Gp. -/
structure Merged (x y : L1Word) (v : Word) (mask : BitVec 4) : Prop where
  owned : y.st.owned = true
  clean : y.bad = false
  kept  : x.st.owned = true → y.st = x.st
  taken : x.st.owned = false → y.st = .gp
  new   : ∀ i < 4, mask.getLsbD i = true → y.known.getLsbD i = true ∧ Word.byte y.val i = Word.byte v i
  old   : x.st.owned = true → ∀ i < 4, mask.getLsbD i = false → y.known.getLsbD i = x.known.getLsbD i ∧ Word.byte y.val i = Word.byte x.val i

theorem merged_owned {x : L1Word} (hown : x.st.owned = true) (hbad : x.bad = false) (v : Word) (mask : BitVec 4) :
    Merged x { x with val := { x with val := v, known := mask }.over x.val, known := x.known ||| mask, bad := x.bad && mask != 15,
                      whole := x.whole || mask == 15 } v mask := by
  refine ⟨hown, by simp [hbad], fun _ => rfl, (fun h => nomatch hown.symm.trans h), fun i hi hm => ⟨?_, ?_⟩, fun _ i hi hm => ⟨?_, ?_⟩⟩
  · simp [hm]
  · exact (byte_over _ _ hi).trans (if_pos hm)
  · simp [hm]
  · exact (byte_over _ _ hi).trans (if_neg (by rw [hm]; decide))

theorem merged_taken {x : L1Word} (hown : x.st.owned = false) (v : Word) (mask : BitVec 4) (ret : Nat) :
    Merged x { st := .gp, val := { x with val := v, known := mask }.over 0, known := mask, bad := false, whole := mask == 15, ret := ret } v mask := by
  refine ⟨rfl, rfl, (fun h => nomatch hown.symm.trans h), fun _ => rfl, fun i hi hm => ⟨hm, ?_⟩, (fun h => nomatch hown.symm.trans h)⟩
  exact (byte_over _ _ hi).trans (if_pos hm)

/-- The message that asks for a word's registration (R83, R84). -/
def askMsg (home : Nat) (c : CoreId) (wd : Nat) (f : Bool) : Instr :=
  if home = c.die then (if f then .homeRegisterFetch (.core c) wd else .homeRegister (.core c) wd) else .nonhomeRegistration c wd f

/-- A store to a word opens its line and merges its bytes; a word that the core does not own is asked for. -/
theorem storeWord_merges {s : State} {c : CoreId} {wd : Nat} (hbad : (l1Of s c wd).bad = false) (v : Word) (mask : BitVec 4) (h : Hint) :
    ∃ y, Merged (l1Of s c wd) y v mask ∧
      Aside (s.setCore c (((s.core c).openLine (lineOf wd) h.l1Retention).setL1 wd y)) (s.storeWord c wd v mask h).2.2.2 ∧
      ((l1Of s c wd).st.owned = false → ∃ f, askMsg (s.homeDie (4 * wd)) c wd f ∈ (s.storeWord c wd v mask h).2.2.2.inflight) := by
  unfold l1Of at *
  have hnot : ¬ (((s.core c).l1Word wd).bad = true ∧ mask ≠ 15) := fun e => by rw [hbad] at e; cases e.1
  unfold State.storeWord
  dsimp only
  split
  · next hst =>
    have hown : ((s.core c).l1Word wd).st.owned = true := by rw [hst]; rfl
    rw [if_neg hnot]
    dsimp only
    exact ⟨_, merged_owned hown hbad v mask, aside_noteWrite .., fun e => nomatch hown.symm.trans e⟩
  · next hst =>
    have hown : ((s.core c).l1Word wd).st.owned = true := by rw [hst]; rfl
    refine ⟨_, merged_owned hown hbad v mask, ?_, fun e => nomatch hown.symm.trans e⟩
    dsimp only
    split
    · exact aside_noteWrite ..
    · exact aside_noteWriteOn ..
  · next hst =>
    have hown : ((s.core c).l1Word wd).st.owned = true := by rw [hst]; rfl
    refine ⟨_, merged_owned hown hbad v mask, ?_, fun e => nomatch hown.symm.trans e⟩
    dsimp only
    split
    · exact aside_noteWrite ..
    · exact aside_noteWriteOn ..
  · next hg hgp hgd =>
    have hown : ((s.core c).l1Word wd).st.owned = false := by
      cases hst : ((s.core c).l1Word wd).st <;> simp_all [L1St.owned]
    dsimp only
    generalize hk : ((s.core c).openLine (lineOf wd) h.l1Retention).setL1 wd _ = k
    have ht : Aside (s.setCore c k) (((s.setCore c k).noteWriteOn (· == c) wd).evictFor c (lineOf wd)) := (aside_noteWriteOn ..).trans (aside_evictFor ..)
    have hhome := Homes.homeDie_congr (t := ((s.setCore c k).noteWriteOn (· == c) wd).evictFor c (lineOf wd)) (s := s) ht.diest (4 * wd)
    rw [hhome]
    refine ⟨_, merged_taken hown v mask h.l2Retention, ?_, fun _ => ⟨mask != 15, ?_⟩⟩
    · rw [hk]
      split
      · exact ht.trans (aside_send ..)
      · exact ht.trans (aside_send ..)
    · unfold askMsg
      split
      · exact List.mem_append_right _ (List.mem_singleton_self _)
      · exact List.mem_append_right _ (List.mem_singleton_self _)

/-! ### One word of a store -/

/-- The rod of a store notes what its next release waits for. -/
def noted (k : Word) (waits fetch : Bool) (wd : Nat) (x : Rod) : Rod :=
  { x.raise k with stores := if waits then insertNat wd x.stores else x.stores, parts := if fetch then insertNat wd x.parts else x.parts }

/-- The bytes of one word of a store. -/
def storeStep (c : CoreId) (r : RodId) (pa : Nat) (bs : List Byte) (h : Hint) (s : State) (wd : Nat) : State :=
  let w := s.storeWord c wd (bytesIn pa bs wd) (byteMask pa bs.length wd) h
  (w.2.2.2.modRod r (noted w.1 w.2.1 w.2.2.1 wd)).useLine c (lineOf wd) h

theorem storeBytes_eq (s : State) (c : CoreId) (r : RodId) (pa : Nat) (bs : List Byte) (h : Hint) :
    s.storeBytes c r pa bs h = (wordsOf pa bs.length).foldl (storeStep c r pa bs h) s := rfl

/-- A line used in an L1 changes its place there alone. -/
theorem aside_useLine (s : State) (c : CoreId) (line : Nat) (h : Hint) : Aside (s.setCore c ((s.core c).touch line h)) (s.useLine c line h) := by
  unfold State.useLine
  extract_lets t
  generalize [c.die, t.homeDie (128 * line)].eraseDups = ds
  split
  · exact .refl t
  · refine aside_foldl (fun s d => ?_) ds t
    split
    · exact aside_reside ..
    · exact .refl s

theorem l1Of_useLine (s : State) (c : CoreId) (line : Nat) (h : Hint) (wd : Nat) : l1Of (s.useLine c line h) c wd = l1Of s c wd := by
  rw [l1Of_aside (aside_useLine ..), l1Of_setCore, l1Word_touch]
  rfl

section
variable {c : CoreId} {r : RodId} {s : State} {wd : Nat} (hbad : (l1Of s c wd).bad = false) (pa : Nat) (bs : List Byte) (h : Hint)
theorem storeFrame_noted (s : State) (k : Word) (waits fetch : Bool) (wd : Nat) : StoreFrame c r s (s.modRod r (noted k waits fetch wd)) :=
  storeFrame_modRod s fun _ => rfl

include hbad in
theorem storeStep_merges : Merged (l1Of s c wd) (l1Of (storeStep c r pa bs h s wd) c wd) (bytesIn pa bs wd) (byteMask pa bs.length wd) ∧
    (∀ w, w ≠ wd → L1Kept (l1Of s c w) (l1Of (storeStep c r pa bs h s wd) c w)) ∧ StoreFrame c r s (storeStep c r pa bs h s wd) ∧
    ((l1Of s c wd).st.owned = false → ∃ f, askMsg (s.homeDie (4 * wd)) c wd f ∈ (storeStep c r pa bs h s wd).inflight) := by
  obtain ⟨y, hmerged, haside, hask⟩ := storeWord_merges hbad (bytesIn pa bs wd) (byteMask pa bs.length wd) h
  have hword : ∀ w, l1Of (storeStep c r pa bs h s wd) c w = (((s.core c).openLine (lineOf wd) h.l1Retention).setL1 wd y).l1Word w := fun w => by
    rw [storeStep, l1Of_useLine, l1Of_modRod, l1Of_aside haside, l1Of_setCore]
  have hrod : StoreFrame c r (s.storeWord c wd (bytesIn pa bs wd) (byteMask pa bs.length wd) h).2.2.2 (storeStep c r pa bs h s wd) :=
    (storeFrame_noted ..).trans ((storeFrame_setCore _ _).trans (.of_aside (aside_useLine ..)))
  refine ⟨?_, fun w hw => ?_, ((storeFrame_setCore s _).trans (.of_aside haside)).trans hrod, fun hown => ?_⟩
  · rw [hword, l1Word_setL1, if_pos rfl]
    exact hmerged
  · rw [hword, l1Word_setL1, if_neg hw]
    exact l1Kept_openLine ..
  · obtain ⟨f, hf⟩ := hask hown
    exact ⟨f, hrod.inflight _ hf⟩

end

/-! ### What a store of bytes does, as a reader of its core sees it -/

/-- A word is taken in Gp, and its registration is asked for. -/
def Asked (s : State) (c : CoreId) (wd : Nat) : Prop := (l1Of s c wd).st = .gp ∧ ∃ f, askMsg (s.homeDie (4 * wd)) c wd f ∈ s.inflight

/-- What a store of bytes at an address, through the words of a list, does to the L1 of a core: the bytes of those words are stored and no others, no poison
comes, and words that the core does not own are asked for. -/
structure Wrote (c : CoreId) (r : RodId) (pa : Nat) (bs : List Byte) (ws : List Nat) (s t : State) : Prop where
  frame   : StoreFrame c r s t
  kept    : ∀ b v, b < pa ∨ pa + bs.length ≤ b → StoredByte s c b v → StoredByte t c b v
  new     : ∀ b, pa ≤ b → b < pa + bs.length → b / 4 ∈ ws ∨ StoredByte s c b (bs.getD (b - pa) 0) → StoredByte t c b (bs.getD (b - pa) 0)
  clean   : ∀ wd, (l1Of s c wd).bad = false → (l1Of t c wd).bad = false
  asked   : ∀ wd, Asked s c wd ∨ (wd ∈ ws ∧ (l1Of s c wd).st.owned = false) → Asked t c wd
  unowned : ∀ wd, wd ∉ ws → (l1Of s c wd).st.owned = false → (l1Of t c wd).st.owned = false

section
variable {c : CoreId} {r : RodId} {pa : Nat} {bs : List Byte} {s t u : State}

theorem Wrote.refl (s : State) : Wrote c r pa bs [] s s :=
  ⟨.refl s, fun _ _ _ h => h, fun _ _ _ h => h.resolve_left List.not_mem_nil, fun _ h => h, fun _ h => h.resolve_right fun e => List.not_mem_nil e.1, fun _ _ h => h⟩

theorem Wrote.trans {ws ws' : List Nat} (h : Wrote c r pa bs ws s t) (k : Wrote c r pa bs ws' t u) : Wrote c r pa bs (ws ++ ws') s u := by
  refine ⟨h.frame.trans k.frame, fun b v hb hs => k.kept b v hb (h.kept b v hb hs), fun b hlo hhi hb => ?_, fun wd hs => k.clean wd (h.clean wd hs), fun wd hwd => ?_,
    fun wd hwd hs => ?_⟩
  · obtain hmem | hs := hb
    · obtain hmem | hmem := List.mem_append.1 hmem
      · exact k.new b hlo hhi (.inr (h.new b hlo hhi (.inl hmem)))
      · exact k.new b hlo hhi (.inl hmem)
    · exact k.new b hlo hhi (.inr (h.new b hlo hhi (.inr hs)))
  · obtain hs | ⟨hmem, hs⟩ := hwd
    · exact k.asked wd (.inl (h.asked wd (.inl hs)))
    · by_cases hws : wd ∈ ws
      · exact k.asked wd (.inl (h.asked wd (.inr ⟨hws, hs⟩)))
      · exact k.asked wd (.inr ⟨(List.mem_append.1 hmem).resolve_left hws, h.unowned wd hws hs⟩)
  · rw [List.mem_append, not_or] at hwd
    exact k.unowned wd hwd.2 (h.unowned wd hwd.1 hs)

/-- A word that stays as an owner holds it keeps its bytes. -/
theorem storedByte_kept {b : Nat} {v : Byte} (h : L1Kept (l1Of s c (b / 4)) (l1Of t c (b / 4))) (hs : StoredByte s c b v) : StoredByte t c b v := by
  have hsame : l1Of t c (b / 4) = l1Of s c (b / 4) := h.own hs.1
  unfold StoredByte
  unfold l1Of at hsame
  rw [hsame]
  exact hs

theorem wrote_storeStep {wd : Nat} (hbad : (l1Of s c wd).bad = false) (h : Hint) : Wrote c r pa bs [wd] s (storeStep c r pa bs h s wd) := by
  obtain ⟨hmerged, hothers, hframe, hask⟩ := storeStep_merges (r := r) hbad pa bs h
  have hmask : ∀ b, b / 4 = wd → (byteMask pa bs.length wd).getLsbD (b % 4) = (decide (pa ≤ b) && decide (b < pa + bs.length)) := fun b hb => by
    rw [getLsbD_byteMask _ _ _ (Nat.mod_lt b (by omega)), show 4 * wd + b % 4 = b by omega]
  refine ⟨hframe, fun b v hout hs => ?_, fun b hlo hhi hb => ?_, fun w hw => ?_, fun w hw => ?_, fun w hw hs => ?_⟩
  · by_cases hb : b / 4 = wd
    · have hm : (byteMask pa bs.length wd).getLsbD (b % 4) = false := by
        rw [hmask b hb]
        simp
        omega
      have hs' := hs
      obtain ⟨hown, hknown, hval⟩ := hs
      rw [hb] at hown hknown hval
      obtain ⟨hknown', hval'⟩ := hmerged.old hown (b % 4) (Nat.mod_lt b (by omega)) hm
      refine ⟨?_, ?_, ?_⟩
      · rw [hb]
        exact hmerged.owned
      · rw [hb]
        exact hknown'.trans hknown
      · rw [hb]
        exact hval'.trans hval
    · exact storedByte_kept (hothers _ hb) hs
  · by_cases hwd : b / 4 = wd
    · have hm : (byteMask pa bs.length wd).getLsbD (b % 4) = true := by
        rw [hmask b hwd]
        simp
        omega
      obtain ⟨hknown, hval⟩ := hmerged.new (b % 4) (Nat.mod_lt b (by omega)) hm
      refine ⟨?_, ?_, ?_⟩
      · rw [hwd]
        exact hmerged.owned
      · rw [hwd]
        exact hknown
      · rw [hwd]
        refine hval.trans ((byte_bytesIn (Nat.mod_lt b (by omega)) (by omega)).trans ?_)
        rw [show 4 * wd + b % 4 = b by omega]
    · exact storedByte_kept (hothers _ hwd) (hb.resolve_left fun e => hwd (List.mem_singleton.1 e))
  · by_cases hwd : w = wd
    · rw [hwd]
      exact hmerged.clean
    · exact (hothers w hwd).clean hw
  · have hhome := Homes.homeDie_congr hframe.diest (4 * w)
    obtain ⟨hst, f, hf⟩ | ⟨hmem, hs⟩ := hw
    · refine ⟨?_, f, ?_⟩
      · by_cases hwd : w = wd
        · subst hwd
          exact (hmerged.kept (by rw [hst]; rfl)).trans hst
        · rw [(hothers w hwd).own (by rw [hst]; rfl)]
          exact hst
      · rw [hhome]
        exact hframe.inflight _ hf
    · obtain rfl := List.mem_singleton.1 hmem
      obtain ⟨f, hf⟩ := hask hs
      exact ⟨hmerged.taken hs, f, by rw [hhome]; exact hf⟩
  · exact (hothers w fun e => hw (List.mem_singleton.2 e)).free hs

theorem wrote_foldl (h : Hint) : ∀ (ws : List Nat) (s : State), (∀ wd ∈ ws, (l1Of s c wd).bad = false) → Wrote c r pa bs ws s (ws.foldl (storeStep c r pa bs h) s)
  | [], s, _ => .refl s
  | wd :: ws, s, hbad => by
    have hstep := wrote_storeStep (r := r) (pa := pa) (bs := bs) (hbad wd List.mem_cons_self) h
    exact hstep.trans (wrote_foldl h ws _ fun w hw => hstep.clean w (hbad w (List.mem_cons_of_mem wd hw)))

/-- The bytes of a lane stored through an L1. -/
theorem wrote_storeBytes (hbad : ∀ wd ∈ wordsOf pa bs.length, (l1Of s c wd).bad = false) (h : Hint) :
    Wrote c r pa bs (wordsOf pa bs.length) s (s.storeBytes c r pa bs h) := by
  rw [storeBytes_eq]
  exact wrote_foldl h _ s hbad

end

end Sys2Proof.Cached
end

section
/-! SUPPORT. Cached stores, lane by lane (R83, R99, R117, R308, R309). -/

namespace Sys2Proof.CachedStores
open Sys2Proof.Machine Sys2Proof.Safety Sys2Proof.Laws Sys2Proof.Claims Sys2Proof.Bytes Sys2Proof.Lanes Sys2Proof.Allocator Sys2Proof.Scratch Sys2Proof.Cached

/-! ### The lanes of a store in turn (R117) -/

/-- A lane's bytes stored where it leads. -/
def storeLane (r : RodId) (c : CoreId) (f : Nat → List Byte) (h : Hint) (s : State) (e : Nat × Spot) : State :=
  match e.2 with
  | .scr cid off => s.storeScr r cid off (f e.1) (some true)
  | .mem pa ent => if s.classOf pa ent = .cached then s.storeBytes c r pa (f e.1) h else s
  | _ => s

/-- Every place is in memory that goes through the L1. -/
def InCache (s : State) (sp : List (Nat × Spot)) : Prop := ∀ e ∈ sp, ∃ pa ent, e.2 = .mem pa ent ∧ s.classOf pa ent = .cached

theorem inCache_of_allCached {s : State} {sp : List (Nat × Spot)} (h : allCached s sp = true) : InCache s sp := by
  intro e he
  have hc := List.all_eq_true.1 h e he
  unfold State.cached at hc
  split at hc
  · next pa ent heq => exact ⟨pa, ent, heq, by simpa using hc⟩
  · cases hc

theorem classOf_congr {s t : State} (h : t.claimed = s.claimed) (pa : Nat) (ent : DWord) : t.classOf pa ent = s.classOf pa ent := by
  have hclaim : t.claim pa = s.claim pa := by simp only [State.claim, State.claimAt, h]
  unfold State.classOf
  rw [hclaim]

theorem violCause_inCache {s : State} {sp : List (Nat × Spot)} (h : InCache s sp) : violCause sp = 0 := by
  refine if_neg ?_
  rw [Bool.not_eq_true, List.any_eq_false]
  intro e he
  obtain ⟨pa, ent, heq, -⟩ := h e he
  simp [heq]

theorem homeWords_inCache {s : State} {sp : List (Nat × Spot)} (h : InCache s sp) (z : Nat) : s.homeWords z sp = [] := by
  refine congrArg List.eraseDups (List.flatMap_eq_nil_iff.2 fun e he => ?_)
  obtain ⟨pa, ent, heq, hc⟩ := h e he
  rw [heq]
  exact if_pos hc

/-- Stores that all go through the L1 are made lane by lane, with no request to home. -/
theorem storeLanes_inCache {s : State} {sp : List (Nat × Spot)} (h : InCache s sp) (i : Iss) (f : Nat → List Byte) (hint : Hint) :
    storeLanes s i sp f (some true) hint = sp.foldl (storeLane i.rid (s.coreOf i.rid) f hint) s := by
  unfold storeLanes
  simp only [violCause_inCache h, Blocks.raise_zero]
  rw [if_pos (List.filterMap_eq_nil_iff.2 fun e he => ?_)]
  · rfl
  · obtain ⟨pa, ent, heq, hc⟩ := h e he
    rw [heq]
    exact if_pos hc

/-- What the lanes of a store do to the L1 of their core, each with z bytes. -/
structure LanesStored (c : CoreId) (r : RodId) (z : Nat) (f : Nat → List Byte) (sp : List (Nat × Spot)) (s t : State) : Prop where
  frame : StoreFrame c r s t
  kept  : ∀ b v, (∀ e ∈ sp, ∀ p q, e.2 = .mem p q → b < p ∨ p + z ≤ b) → StoredByte s c b v → StoredByte t c b v
  last  : ∀ k m pa ent, sp[k]? = some (m, .mem pa ent) → ∀ j < z, (∀ e ∈ sp.drop (k + 1), ∀ p q, e.2 = .mem p q → pa + j < p ∨ p + z ≤ pa + j) →
    StoredByte t c (pa + j) ((f m).getD j 0)
  asked : ∀ wd, Asked s c wd ∨ ((∃ e ∈ sp, ∃ pa ent, e.2 = .mem pa ent ∧ wd ∈ wordsOf pa z) ∧ (l1Of s c wd).st.owned = false) → Asked t c wd

section
variable {c : CoreId} {r : RodId} {z : Nat} {f : Nat → List Byte} (hz : 0 < z) (hlen : ∀ m, (f m).length = z) (h : Hint)
include hz hlen

/-- One lane's store before those of the others. -/
theorem LanesStored.cons {m pa : Nat} {ent : DWord} {sp : List (Nat × Spot)} {s t u : State} (w : Wrote c r pa (f m) (wordsOf pa (f m).length) s t)
    (k : LanesStored c r z f sp t u) : LanesStored c r z f ((m, .mem pa ent) :: sp) s u := by
  rw [hlen] at w
  refine ⟨w.frame.trans k.frame, fun b v hout hs => ?_, fun n m' pa' ent' hat j hj hlater => ?_, fun wd hwd => ?_⟩
  · refine k.kept b v (fun e he => hout e (List.mem_cons_of_mem _ he)) (w.kept b v ?_ hs)
    rw [hlen]
    exact hout _ List.mem_cons_self pa ent rfl
  · cases n with
    | zero =>
      cases hat
      refine k.kept _ _ hlater ?_
      have hnew := w.new (pa + j) (by omega) (by rw [hlen]; omega) (.inl ((mem_wordsOf hz).2 (by omega)))
      rw [Nat.add_sub_cancel_left] at hnew
      exact hnew
    | succ n => exact k.last n m' pa' ent' hat j hj hlater
  · obtain hs | ⟨⟨e, he, p, q, heq, hmem⟩, hs⟩ := hwd
    · exact k.asked wd (.inl (w.asked wd (.inl hs)))
    · by_cases hw : wd ∈ wordsOf pa z
      · exact k.asked wd (.inl (w.asked wd (.inr ⟨hw, hs⟩)))
      · obtain rfl | he := List.mem_cons.1 he
        · cases heq
          exact absurd hmem hw
        · exact k.asked wd (.inr ⟨⟨e, he, p, q, heq, hmem⟩, w.unowned wd hw hs⟩)

theorem lanesStored_foldl : ∀ (sp : List (Nat × Spot)) (s : State), InCache s sp →
    (∀ e ∈ sp, ∀ pa ent, e.2 = .mem pa ent → ∀ wd ∈ wordsOf pa z, (l1Of s c wd).bad = false) → LanesStored c r z f sp s (sp.foldl (storeLane r c f h) s)
  | [], s, _, _ => ⟨.refl s, fun _ _ _ hs => hs, (fun _ _ _ _ hat => nomatch hat), fun _ hs => hs.resolve_right fun ⟨⟨_, he, _⟩, _⟩ => List.not_mem_nil he⟩
  | (m, p) :: sp, s, hin, hclean => by
    obtain ⟨pa, ent, rfl, hclass⟩ := hin _ List.mem_cons_self
    have hwrote : Wrote c r pa (f m) (wordsOf pa (f m).length) s (s.storeBytes c r pa (f m) h) :=
      wrote_storeBytes (by rw [hlen]; exact hclean _ List.mem_cons_self pa ent rfl) h
    have hstep : storeLane r c f h s (m, .mem pa ent) = s.storeBytes c r pa (f m) h := if_pos hclass
    rw [List.foldl_cons, hstep]
    refine LanesStored.cons hz hlen hwrote (lanesStored_foldl sp _ (fun e he => ?_) fun e he pa' ent' heq wd hwd => ?_)
    · obtain ⟨pa', ent', heq, hc⟩ := hin e (List.mem_cons_of_mem _ he)
      exact ⟨pa', ent', heq, (classOf_congr hwrote.frame.claimed ..).trans hc⟩
    · exact hwrote.clean wd (hclean e (List.mem_cons_of_mem _ he) pa' ent' heq wd hwd)

end

/-! ### The course of a store (R308) -/

/-- What a store through the L1 makes of the state after its translations. -/
def CacheStored (s' : State) (i : Iss) (sp : List (Nat × Spot)) (z : Nat) (data : Nat → List Byte) (u : State) : Prop :=
  KeepsRegisters s' u i.rid ∧
  (∀ c, coreKey c ≠ coreKey (s'.coreOf i.rid) → u.core c = s'.core c) ∧
  (∀ k m pa ent, sp[k]? = some (m, .mem pa ent) → ∀ j < z, (∀ e ∈ sp.drop (k + 1), ∀ p f, e.2 = .mem p f → pa + j < p ∨ p + z ≤ pa + j) →
    StoredByte u (s'.coreOf i.rid) (pa + j) ((data m).getD j 0)) ∧
  ∀ m pa ent, (m, .mem pa ent) ∈ sp → ∀ wd ∈ wordsOf pa z, ((s'.core (s'.coreOf i.rid)).l1Word wd).st.owned = false →
    ((u.core (s'.coreOf i.rid)).l1Word wd).st = .gp ∧ ∃ f, askMsg (s'.homeDie (4 * wd)) (s'.coreOf i.rid) wd f ∈ u.inflight

theorem cacheStored_of_lanes {s u : State} {i : Iss} {sp : List (Nat × Spot)} {z : Nat} {f : Nat → List Byte}
    (h : LanesStored (s.coreOf i.rid) i.rid z f sp s u) : CacheStored s i sp z f u := by
  refine ⟨⟨h.frame.mem, fun x hx => ?_⟩, h.frame.others, h.last, fun m pa ent hsp wd hwd hs => ?_⟩
  · obtain ⟨y, hy, hyx⟩ := h.frame.rod x hx
    exact ⟨y, hy, (congrArg (fun w : Rod => { w with flags := x.flags, mflags := x.mflags, iflags := x.iflags }) hyx :)⟩
  · obtain ⟨hst, n, hn⟩ := h.asked wd (.inr ⟨⟨_, hsp, pa, ent, rfl, hwd⟩, hs⟩)
    rw [Homes.homeDie_congr h.frame.diest] at hn
    exact ⟨hst, n, hn⟩

theorem actorsOf_none {i : Iss} {g : Guard} {a : Operand} (hnone : i.part g = 0 ∧ a.isS = true) : actorsOf i g a = [] := by
  obtain ⟨hp, ha⟩ := hnone
  match a, ha with
  | .s _, _ => exact if_pos hp

/-- With no lane to act, a store leads nowhere and changes nothing. -/
theorem no_places {s s' : State} {i : Iss} {g : Guard} {z : Nat} {a : Operand} {ad : MAddr} {sp : List (Nat × Spot)} (hnone : i.part g = 0 ∧ a.isS = true)
    (hplaces : Places s i .write z (addrsOf s i g ad z (actorsOf i g a)) s' sp) : s' = s.setRod i.rid i.rod ∧ sp = [] := by
  rw [actorsOf_none hnone] at hplaces
  cases hplaces
  exact ⟨rfl, rfl⟩

/-- A wait of a rod that is in its place puts the wait in its slot. -/
theorem wait_leaves {s : State} {i : Iss} {x : Rod} (hx : s.rod i.rid = some x) (w : Wait) :
    LeavesRod (wait s i w) i.rid (fun y => ∀ z, x.slot i.sl = some z → y.slot i.sl = some { z with wait := some w }) := by
  unfold wait State.waitOn
  rw [State.modRod_of _ _ _ _ hx]
  obtain ⟨-, y, hy, hyx⟩ := OnlyRod.setRod_checkHalt i.rid s (match x.slot i.sl with
    | some z => { x.setSlot i.sl (some { z with wait := some w }) with lastSlot := if x.run = .halting then i.sl else x.lastSlot }
    | none => x)
  refine ⟨_, y, rfl, hy, fun z hz => ?_⟩
  rw [hz] at hyx
  have hslot : y.slot i.sl = (x.setSlot i.sl (some { z with wait := some w })).slot i.sl := by
    cases hsl : i.sl with
    | a => rw [hsl] at hyx; exact (congrArg Rod.slotA hyx :)
    | b => rw [hsl] at hyx; exact (congrArg Rod.slotB hyx :)
  rw [hslot]
  cases i.sl <;> rfl

section
variable {s s' : State} {i : Iss} {g : Guard} {z regs : Nat} {a : Operand} {ad : MAddr} {sc : Scope} {sp : List (Nat × Spot)} {x : Rod}
  (hr : Ready s i [] ((a, regs) :: ad.regs)) (hmay : s.mayStore i sc .plain = true) (hin : InCache s' sp)
  (hplaces : Places s i .write z (addrsOf s i g ad z (actorsOf i g a)) s' sp)
include hr hmay hin hplaces

/-- A store of some lane comes to its places. -/
theorem storeForm_places (hsome : ¬ (i.part g = 0 ∧ a.isS = true)) (h : Hint) (f : Ctx → Nat → List Byte) : storeForm s g z regs a ad sc .plain h f =
    if Config.pendingRegs < (s'.core (s'.coreOf i.rid)).pending + newWords s' (s'.coreOf i.rid) z sp then wait s' i .memory
    else finish (storeLanes s' i sp (f (ctx0 s i g none)) (some true) h) i := by
  have hmay' : (s.setRod i.rid i.rod).mayStore i sc .plain = true := (mayStore_setRod (State.issuer_rod hr.1) ..).trans hmay
  have has : (actorsOf i g a).map (fun l => (l, (ctx0 s i g none).addr ad z l)) = addrsOf s i g ad z (actorsOf i g a) :=
    List.map_congr_left fun l _ => by rw [ctx0_addr]
  have hquiet : s'.homeReady (s'.coreOf i.rid) [] = true := rfl
  unfold storeForm
  rw [issue_ready hr]
  unfold Places at hplaces
  simp only [ctx0_g, ctx0_i, ctx0_s, actors_ctx0, if_neg hsome, hmay', not_true_eq_false, if_false, Ctx.spots, has, hplaces, homeWords_inCache hin, hquiet, or_false, gt_iff_lt,
    Order.acqs, Bool.false_eq_true]

theorem storeForm_issues (hz : 0 < z) (hclean : ∀ e ∈ sp, ∀ pa ent, e.2 = .mem pa ent → ∀ wd ∈ wordsOf pa z, (l1Of s' (s'.coreOf i.rid) wd).bad = false) (h : Hint)
    {f : Ctx → Nat → List Byte} (hlen : ∀ m, (f (ctx0 s i g none) m).length = z)
    (hpend : (s'.core (s'.coreOf i.rid)).pending + newWords s' (s'.coreOf i.rid) z sp ≤ Config.pendingRegs) :
    Issues (storeForm s g z regs a ad sc .plain h f) i (CacheStored s' i sp z (f (ctx0 s i g none))) := by
  by_cases hsome : i.part g = 0 ∧ a.isS = true
  · obtain ⟨rfl, rfl⟩ := no_places hsome hplaces
    refine ⟨s.setRod i.rid i.rod, ?_, cacheStored_of_lanes (lanesStored_foldl hz hlen h [] _ hin hclean)⟩
    unfold storeForm
    rw [issue_ready hr]
    exact if_pos hsome
  · refine ⟨_, (storeForm_places hr hmay hin hplaces hsome h f).trans (if_neg (Nat.not_lt.2 hpend)), ?_⟩
    rw [storeLanes_inCache hin]
    exact cacheStored_of_lanes (lanesStored_foldl hz hlen h sp s' hin hclean)

/-- A store waits while its core has too many registrations pending (R99). -/
theorem storeForm_waits (hsome : i.part g = 0 → a.isS = true → False) (h : Hint) (f : Ctx → Nat → List Byte) (hx : s'.rod i.rid = some x)
    (hpend : Config.pendingRegs < (s'.core (s'.coreOf i.rid)).pending + newWords s' (s'.coreOf i.rid) z sp) :
    LeavesRod (storeForm s g z regs a ad sc .plain h f) i.rid (fun y => ∀ z, x.slot i.sl = some z → y.slot i.sl = some { z with wait := some .memory }) := by
  rw [storeForm_places hr hmay hin hplaces (fun e => hsome e.1 e.2), if_pos hpend]
  exact wait_leaves hx .memory

end

theorem ivl_ctx0 (s : State) (i : Iss) (g : Guard) (m : Option SrcMod) (src : ModSrc) (v : View) (o : Operand) (l : Nat) :
    (ctx0 s i g m).ivl src v o l = (srcs s i g m).ivl src v o l := by
  cases o <;> rfl

/-- A compressed interval takes 8 bytes in view y and 4 in the others (R309). -/
theorem exec_stmr_form (g : Guard) (v : View) (a : Operand) (ad : MAddr) (sc : Scope) (o : Order) (h : Hint) (s : State) :
    exec (.stmr g v a ad sc o h) s = storeForm s g (if v = .y then 8 else 4) v.words a ad sc o h
      (fun c l => bytesOf (if v = .y then 8 else 4) (mrcCompress v.fmt ((c.ivl .a v a l).iv v.fmt))) := by
  cases v <;> rfl

theorem cachedStores : CachedStores := by
  intro s s' i g a ad sc h sp v sz x hmay hcached hx hclean
  have hin := inCache_of_allCached hcached
  have hbad : ∀ z, 0 < z → z ≤ 16 → ∀ e ∈ sp, ∀ pa ent, e.2 = .mem pa ent → ∀ wd ∈ wordsOf pa z, (l1Of s' (s'.coreOf i.rid) wd).bad = false := by
    intro z hz hz16 e he pa ent heq wd hwd
    refine hclean e he pa ent heq wd ((mem_wordsOf (by omega)).2 ?_)
    have := (mem_wordsOf hz).1 hwd
    omega
  have hsize : 0 < sz.bytes ∧ sz.bytes ≤ 16 := by cases sz <;> decide
  refine ⟨fun hr hplaces => ⟨fun hpend => ?_, fun hpend hact => ?_⟩, fun hr hplaces hpend => ?_⟩
  · rw [exec_st, execSt]
    obtain ⟨u, hu, hstored⟩ := storeForm_issues hr hmay hin hplaces hsize.1 (hbad _ hsize.1 hsize.2) h (f := fun c l => c.storeData a sz.bytes l)
      (fun m => length_storeData ..) hpend
    rw [show (fun l => (ctx0 s i g none).storeData a sz.bytes l) = (srcs s i g none).storeData a sz.bytes from funext (storeData_ctx0 s i g a sz.bytes)] at hstored
    exact ⟨u, hu, hstored⟩
  · rw [exec_st, execSt]
    exact storeForm_waits hr hmay hin hplaces (fun hp ha => hact ha hp) h _ hx hpend
  · rw [exec_stmr_form]
    have hzmr : 0 < (if v = .y then 8 else 4) ∧ (if v = .y then 8 else 4) ≤ 16 := by split <;> decide
    obtain ⟨u, hu, hstored⟩ := storeForm_issues hr hmay hin hplaces hzmr.1 (hbad _ hzmr.1 hzmr.2) h
      (f := fun c l => bytesOf (if v = .y then 8 else 4) (mrcCompress v.fmt ((c.ivl .a v a l).iv v.fmt))) (fun m => length_bytesOf ..) hpend
    simp only [ivl_ctx0] at hstored
    exact ⟨u, hu, hstored⟩

/-- Settles O17: stores to a scratchpad and through the L1, lane by lane, so that the last lane to store a byte supplies it. -/
theorem stores : Obligations.Stores := ⟨scratchpadStores, cachedStores⟩

end Sys2Proof.CachedStores
end

section
/-! SUPPORT. A step's choice and what it counts (R155, R444, R445; logs 1 and 20). -/

namespace Sys2Proof.Turns
open Sys2Proof.Machine Sys2Proof.Safety Sys2Proof.Laws Sys2Proof.Claims

/-! ### The choice of a step -/

/-- A pair that stands, with nothing to wait for, at a word of its started clause. -/
structure Stands (s : State) (r : RodId) (sl : SlotId) (x : Rod) (y : Slot) (i : Instr) : Prop where
  rod     : s.rod r = some x
  slot    : x.slot sl = some y
  started : y.started.isSome = true
  instr   : y.instr = some i
  idle    : y.wait = none
  goes    : y.stopped = false
  awake   : x.suspended = false
  free    : x.frozen = false
  runs    : x.run = .running
  here    : ((s.chain r.chain).map Chain.here).getD false = true
  winds   : s.windingUp r x = false
  young   : x.overdue s.cycle = none
  whole   : y.breaks = false

/-- A started clause's word at which a slot stands is the slot's instruction. -/
theorem instr_of_word {y : Slot} {c : Clause} {w : DWord} {i : Instr} (hc : y.started = some c) (hw : c.body[y.path.idx]? = some w) (hi : decode w = .ok i) :
    y.instr = some i := by
  have hword : y.word = some w := by rw [Slot.word, hc]; exact hw
  simp only [Slot.instr, hword, hi]

/-- A running rod of a resident chain whose launch is not cancelled winds up nothing. -/
theorem windingUp_running {s : State} {r : RodId} {x : Rod} {ch : Chain} (hrun : x.run = .running) (hch : s.chain r.chain = some ch)
    (hres : ch.state = .resident) (hcmd : ∀ cmd, s.cmd ch.launch = some cmd → cmd.cancelled = false) : s.windingUp r x = false := by
  have hcancel : ((s.cmd ch.launch).map (·.cancelled)).getD false = false := by
    cases h : s.cmd ch.launch with
    | none => rfl
    | some cmd => exact hcmd cmd h
  simp [State.windingUp, hrun, hch, hres, hcancel]

theorem pairNext_stands {s : State} {r : RodId} {sl : SlotId} {x : Rod} {y : Slot} {i : Instr} (h : Stands s r sl x y i) :
    s.pairNext r sl = some (.instr i) := by
  have hstarted : y.started.isNone = false := by simpa using h.started
  simp [State.pairNext, h.rod, h.slot, h.free, h.goes, h.runs, h.here, h.winds, h.awake, h.young, h.idle, h.whole, h.instr, hstarted]

/-- The first pair in round-robin order takes the turn when it stands. -/
theorem pickPair_stands {s : State} {r : RodId} {sl : SlotId} {rest : List (RodId × SlotId)} {x : Rod} {y : Slot} {i : Instr}
    (h : Stands s r sl x y i) (ho : s.order = (r, sl) :: rest) :
    s.pickPair = some ⟨.instr i, { s with cur := some (r, sl), rr := pairKey (r, sl) + 1 }, some (r, sl)⟩ := by
  rw [State.pickPair, ho, State.firstPair, pairNext_stands h]

/-- With nothing urgent, a pair has the turn where pairs have the first call, or where nothing else can act. -/
theorem select_pair {s : State} {p : Pick} (hurgent : s.pickUrgent = none)
    (hturn : s.cycle % 4 = 0 ∨ (s.pickMessage = none ∧ s.pickInput = none ∧ s.hardware = [])) (hp : s.pickPair = some p) : s.select = some p := by
  rw [State.select, hurgent]
  obtain h | ⟨hm, hi, hw⟩ := hturn
  · simp [h, hp]
  · have hh : s.pickHardware = none := by rw [State.pickHardware, hw]
    rw [hm, hi, hh, hp]
    split <;> rfl

section
variable {s : State} {p : Pick} (h : s.tick.select = some p)
include h

theorem step_next {t : State} (ht : p.turn.run p.state = .next t) : step s = .next (t.count (issuedIn p t)) := by simp only [step, h, ht]

theorem step_fault {f : Fault} (hf : p.turn.run p.state = .fault f) : step s = .fault f := by simp only [step, h, hf]

theorem step_refused {f : Refusal} (hf : p.turn.run p.state = .refused f) : step s = .refused f := by simp only [step, h, hf]

end

/-! ### What a step counts -/

/-- Between s and t nothing has changed but the counters of the dies, and the cycles counted. -/
def Counted (s t : State) : Prop :=
  { t with dies := s.dies, counted := s.counted } = s ∧ ∀ d, { t.die d with leaves := (s.die d).leaves } = s.die d

theorem Counted.refl (s : State) : Counted s s := ⟨rfl, fun _ => rfl⟩

theorem Counted.trans {s t u : State} (h : Counted s t) (k : Counted t u) : Counted s u := by
  refine ⟨?_, fun d => ?_⟩
  · have := congrArg (fun v : State => { v with dies := s.dies, counted := s.counted }) k.1
    exact this.trans h.1
  · have := congrArg (fun v : Die => { v with leaves := (s.die d).leaves }) (k.2 d)
    exact this.trans (h.2 d)

theorem Counted.foldl {α : Type} {f : State → α → State} (hf : ∀ s a, Counted s (f s a)) (l : List α) (s : State) : Counted s (l.foldl f s) := by
  induction l generalizing s with
  | nil => exact .refl s
  | cons a l ih => exact (hf s a).trans (ih _)

/-- A counter of a die is no more than that. -/
theorem counted_setLeaves (s : State) (d : Nat) (l : Tbl Nat) : Counted s (s.setDie d { s.die d with leaves := l }) := by
  refine ⟨rfl, fun e => ?_⟩
  by_cases h : e = d
  · subst h
    rw [State.die_setDie]
  · rw [Homes.die_setDie_other s _ h]

theorem counted_count (s : State) (o : Option (CoreId × Nat × Nat)) : Counted s (s.count o) := by
  unfold State.count
  refine Counted.trans (t := { s with counted := s.counted + 1 }) ⟨rfl, fun _ => rfl⟩ (Counted.foldl (fun s c => Counted.foldl (fun s q => ?_) _ s) _ _)
  extract_lets idle leaf x k
  split
  · exact .refl s
  · exact counted_setLeaves ..

/-! ### What a cycle brings -/

theorem upsetsDue_none {s : State} (h : ∀ x ∈ s.upsets, s.cycle < x.cycle) : s.upsetsDue = s := by
  have hdue : s.upsets.filter (fun u => decide (u.cycle ≤ s.cycle) && !u.onWay) = [] :=
    List.filter_eq_nil_iff.2 fun u hu => by simp [h u hu]
  have hleft : s.upsets.filter (fun u => decide (s.cycle < u.cycle) || u.onWay) = s.upsets :=
    List.filter_eq_self.2 fun u hu => by simp [h u hu]
  rw [State.upsetsDue, hdue, hleft]
  rfl

theorem inputAsks_none {s : State} (h : s.inputs = []) : s.inputAsks = s := by
  rw [State.inputAsks, h]

theorem checkLate_none {s : State} (h : ∀ io < 2, ∀ e ∈ (s.iod io).watches, e.2.late = false) : s.checkLate = s := by
  refine WholeWords.foldl_same fun io hio => WholeWords.foldl_same fun e he => ?_
  have hlt : io < 2 := by
    simp only [List.mem_cons, List.not_mem_nil, or_false] at hio
    omega
  rw [h io hlt e he]
  rfl

/-- With nothing from outside, no soft error due and no watch to check, a cycle charges the chains and runs the hold timers. -/
theorem tick_calm {s : State} (hin : s.inputs = []) (hup : ∀ x ∈ s.upsets, s.cycle + 1 < x.cycle)
    (hlate : ∀ io < 2, ∀ e ∈ (s.iod io).watches, e.2.late = false) : s.tick = ({ s with cycle := s.cycle + 1 }.chargeAll).holdTimers := by
  have h1 : ({ s with cycle := s.cycle + 1 } : State).upsetsDue = { s with cycle := s.cycle + 1 } := upsetsDue_none hup
  have h2 : ({ s with cycle := s.cycle + 1 } : State).inputAsks = { s with cycle := s.cycle + 1 } := inputAsks_none hin
  have h3 : ({ s with cycle := s.cycle + 1 } : State).checkLate = { s with cycle := s.cycle + 1 } := checkLate_none hlate
  rw [State.tick, h1, h2, h3]

/-! ### The instruction placed for the host's question (log 20) -/

/-- The rod of an instruction placed alone. -/
def placedRod : RodId := ⟨3, 0⟩

/-- Its slot, in the clause of the one word. -/
def placedSlot (w : Nat) : Slot :=
  { Slot.fresh { pc := 0, idx := 0, mask := 0xFFFFFFFF, frame := none, wait := 0 } 0 with
    started := some { count := 1, a := none, b := none, body := [BitVec.ofNat 64 w], brk := [false] } }

/-- A cycle after the instruction is placed its pair stands, in a cycle in which pairs have the first call. -/
theorem stands_withFetchWord {n w : Nat} {i : Instr} (h : decode (BitVec.ofNat 64 w) = .ok i) :
    Stands (State.reset.withFetchWord n w).tick placedRod .a { Rod.start Packet.probe 0 0 0 with slotA := some (placedSlot w) } (placedSlot w) i :=
  { rod := rfl, slot := rfl, started := rfl, instr := instr_of_word rfl rfl h, idle := rfl, goes := rfl, awake := rfl, free := rfl, runs := rfl,
    here := rfl, winds := rfl, young := rfl, whole := rfl }

theorem select_withFetchWord {n w : Nat} {i : Instr} (h : decode (BitVec.ofNat 64 w) = .ok i) :
    ((State.reset.withFetchWord n w).tick.select).map Pick.turn = some (.instr i) := by
  have hdie : ∀ d, (State.reset.withFetchWord n w).tick.die d = Die.moduleReset := fun _ => rfl
  have hurgent : (State.reset.withFetchWord n w).tick.pickUrgent = none := by
    simp [State.pickUrgent, State.sampleDue, hdie, Die.moduleReset, Die.reset]
  have hkeys : (State.reset.withFetchWord n w).tick.rods.keys = [96] := rfl
  have hrr : (State.reset.withFetchWord n w).tick.rr = 192 := rfl
  have hcycle : (State.reset.withFetchWord n w).tick.cycle = 4 := rfl
  have horder : (State.reset.withFetchWord n w).tick.order = [(placedRod, .a), (placedRod, .b)] := by
    rw [State.order, State.pairs, hkeys, hrr]
    rfl
  rw [select_pair hurgent (.inl (by rw [hcycle])) (pickPair_stands (stands_withFetchWord h) horder)]
  rfl

/-- Settles O52. -/
theorem stepRunsTheDecodedInstruction : Obligations.StepRunsTheDecodedInstruction := by
  refine ⟨?_, fun t o => counted_count t o, fun s hin hup hlate => ?_, fun n w i h => select_withFetchWord h⟩
  · intro s u v r sl rest x y c w i ch hu hurgent hturn horder hrod hslot hc hw hi hwait hstop hsusp hfroz hrun hch hhere hres hcmd hover hbrk hv
    subst hu
    have hstands : Stands s.tick r sl x y i :=
      { rod := hrod, slot := hslot, started := by simp [hc], instr := instr_of_word hc hw hi, idle := hwait, goes := hstop, awake := hsusp, free := hfroz, runs := hrun,
        here := by simp [hch, hhere], winds := windingUp_running hrun hch hres hcmd, young := hover, whole := by rw [Slot.breaks]; obtain h | h := hbrk <;> simp [h] }
    have hselect := select_pair hurgent hturn (pickPair_stands hstands horder)
    rw [← hv] at hselect
    refine ⟨?_, fun t ht => ⟨_, step_next hselect ht⟩, fun f hf => step_fault hselect hf, fun f hf => step_refused hselect hf⟩
    have hrod' : v.rod r = some x := by rw [hv]; exact hrod
    have hcur : v.cur = some (r, sl) := by rw [hv]
    simp [State.issuer, hcur, hrod', hslot]
  · rw [tick_calm hin hup hlate]
    rfl

end Sys2Proof.Turns
end

section
/-! SUPPORT. Stealing: a request at its victim, and an item that comes back (R172, R173). -/

namespace Sys2Proof.Stealing
open Sys2Proof.Machine Sys2Proof.Safety Sys2Proof.Laws Sys2Proof.Claims

/-! ### Requests (R172) -/

section
variable {s : State} {lid victim : Nat} {thief : CoreId}

/-- The launch has a chain on the die. -/
def holdsLaunch (s : State) (lid victim : Nat) : Bool :=
  s.chains.any (fun (e : Nat × Chain) => e.2.launch == lid && e.2.core.die == victim && e.2.here)

theorem holdsLaunch_of_chain (h : ∃ e ∈ s.chains, e.2.launch = lid ∧ e.2.core.die = victim ∧ e.2.here = true) : holdsLaunch s lid victim = true := by
  obtain ⟨e, he, hl, hd, hh⟩ := h
  exact List.any_eq_true.2 ⟨e, he, by simp [hl, hd, hh]⟩

theorem holdsLaunch_of_none (h : ∀ e ∈ s.chains, e.2.launch = lid → e.2.core.die = victim → e.2.here = false) : holdsLaunch s lid victim = false := by
  refine List.any_eq_false.2 fun e he => ?_
  rw [Bool.and_eq_true, Bool.and_eq_true, beq_iff_eq, beq_iff_eq]
  rintro ⟨⟨hl, hd⟩, hh⟩
  rw [h e he hl hd] at hh
  cases hh

/-- A request that its thief no longer waits for is nothing. -/
theorem stealRequest_stale (h : (s.core thief).stealFor ≠ some lid) : exec (.stealRequest lid victim thief) s = .next s := by
  rw [exec_stealRequest, execStealRequest, if_pos h]

variable (hfor : (s.core thief).stealFor = some lid)
include hfor

theorem stealRequest_joins (hserves : s.inService victim = true) (hheld : holdsLaunch s lid victim = true) (hroom : (s.die victim).mailbox.length < 96) :
    exec (.stealRequest lid victim thief) s =
      .next (s.setDie victim { s.die victim with mailbox := (s.die victim).mailbox ++ [{ launch := lid, thief := thief }] }) := by
  have hgoes : ¬ (¬ s.inService victim = true ∨ ¬ holdsLaunch s lid victim = true ∨ 96 ≤ (s.die victim).mailbox.length) := by
    simp [hserves, hheld, hroom]
  rw [exec_stealRequest, execStealRequest, if_neg (not_not_intro hfor)]
  exact if_neg hgoes

theorem stealRequest_empty (h : s.inService victim = false ∨ holdsLaunch s lid victim = false ∨ 96 ≤ (s.die victim).mailbox.length) :
    exec (.stealRequest lid victim thief) s = .next (s.setCore thief { s.core thief with stealFor := none }) := by
  have hback : ¬ s.inService victim = true ∨ ¬ holdsLaunch s lid victim = true ∨ 96 ≤ (s.die victim).mailbox.length := by
    simpa using h
  have hends : s.stealEnds lid thief = s.setCore thief { s.core thief with stealFor := none } := if_pos hfor
  rw [exec_stealRequest, execStealRequest, if_neg (not_not_intro hfor), ← hends]
  exact if_pos hback

end

/-! ### Items that come back (R173) -/

section
variable {s s' : State} {lid : Nat} {core : CoreId} {item : List Word} {p : Packet} (hp : s.packet lid = some p)
include hp

/-- An item waits while its launch is suspended, or while its core has stores that a release at die scope still waits for. -/
theorem stolenItemReturn_waits (h : s.cmdSusp lid = true ∨ s.coreReleased core = false) :
    exec (.stolenItemReturn lid core item) s = .next (s.send (.stolenItemReturn lid core item)) := by
  have hwaits : s.cmdSusp lid = true ∨ ¬ s.coreReleased core = true := by simpa using h
  rw [exec_stolenItemReturn, execStolenItemReturn, hp]
  exact if_pos hwaits

theorem stolenItemReturn_placed (hsusp : s.cmdSusp lid = false) (hrel : s.coreReleased core = true)
    (h : s.placeReturned (s.poolFor lid core) p item = .ok ((), s')) : exec (.stolenItemReturn lid core item) s = .next (s'.cmdDone lid) := by
  have hgoes : ¬ (s.cmdSusp lid = true ∨ ¬ s.coreReleased core = true) := by simp [hsusp, hrel]
  simp only [exec_stolenItemReturn, execStolenItemReturn, hp, if_neg hgoes, h]

end

section
variable {s s' : State} {u : PoolFor} {p : Packet} {item : List Word}

theorem placeReturned_stored (h : s.spillAll u p [item] = .ok (.stored, s')) : s.placeReturned u p item = .ok ((), s') := by
  simp only [State.placeReturned, h]

/-- An item that the spill area does not take goes to its core's segment, where that has room. -/
theorem placeReturned_segment {r : Spilled} {g : Segment} (h : s.spillAll u p [item] = .ok (r, s')) (hr : r ≠ .stored) (hg : s'.seg u.lid u.core = some g)
    (hroom : g.entries.length < p.poolE) :
    s.placeReturned u p item = .ok ((), s'.setSeg u.lid u.core (some { g with entries := item :: g.entries })) := by
  cases r with
  | stored => exact absurd rfl hr
  | noRoom | violation => simp only [State.placeReturned, h, hg, if_pos hroom]

end

/-- Settles O48. -/
theorem stealing : Obligations.Stealing := by
  refine ⟨fun s lid victim thief => ⟨stealRequest_stale, fun hfor hserves hheld hroom => ?_, fun hfor h => ?_⟩,
    fun s s' lid core item p hp hsusp hrel => ⟨fun h => ?_, fun r g h hr hg hroom => ?_⟩, fun s lid core item p hp h => stolenItemReturn_waits hp h⟩
  · exact stealRequest_joins hfor hserves (holdsLaunch_of_chain hheld) hroom
  · refine stealRequest_empty hfor (h.imp_right fun h => ?_)
    exact h.symm.imp_left holdsLaunch_of_none
  · exact stolenItemReturn_placed hp hsusp hrel (placeReturned_stored h)
  · exact stolenItemReturn_placed hp hsusp hrel (placeReturned_segment h hr hg hroom)

end Sys2Proof.Stealing
end

section
/-! SUPPORT. Register claim: `rgive` and `rtake` (R154, R261, R262). -/

namespace Sys2Proof.RegisterClaims
open Sys2Proof.Machine Sys2Proof.Safety Sys2Proof.Laws Sys2Proof.Claims

/-! ### Tables of which a part is kept -/

theorem find_keep {α : Type} (t : Tbl α) {p : Nat → Bool} {k : Nat} (hk : p k = true) : (t.keep (fun k _ => p k)).find k = t.find k := by
  induction t with
  | nil => rfl
  | cons e r ih =>
    obtain ⟨j, v⟩ := e
    unfold Tbl.keep at ih ⊢
    by_cases hj : j = k
    · subst hj
      rw [List.filter_cons_of_pos (by exact hk), Tbl.find_cons, Tbl.find_cons, if_pos rfl, if_pos rfl]
    · rw [List.filter_cons, Tbl.find_cons, if_neg hj]
      split
      · rw [Tbl.find_cons, if_neg hj, ih]
      · exact ih

/-! ### What the instructions make of a rod and its chain -/

/-- A rod whose window has shrunk to w words. -/
def shrunk (w : Nat) (x : Rod) : Rod :=
  { x with window := w, w := x.w.keep (fun k _ => decide (k < 32 * w)), regBad := x.regBad.filter (fun k => decide (k < 32 * w) || decide (8192 ≤ k)) }

/-- The words that remain keep their values. -/
theorem lw_shrunk {x : Rod} (hreg : x.regBad = []) {w k l : Nat} (hl : l < 32) (hk : k < w) : (shrunk w x).lw k l = x.lw k l := by
  have hin : decide (32 * k + l < 32 * w) = true := by
    rw [decide_eq_true_eq]
    omega
  simp only [Rod.lw, shrunk, hreg, List.filter_nil, Tbl.get, find_keep x.w (p := fun k => decide (k < 32 * w)) hin]

/-- A chain with n more words in its pool of a quadrant. -/
def richer (q n : Nat) (c : Chain) : Chain := { c with pool := c.pool.set q (c.pool.get q 0 + n) 0 }

/-- A chain whose pool of a quadrant has given n words to the only rod that waited. -/
def poorer (q n : Nat) (c : Chain) : Chain := { c with pool := c.pool.set q (c.pool.get q 0 - n) 0, rtakeQ := [] }

/-- A rod whose window has grown by n words. -/
def wider (n : Nat) (x : Rod) : Rod := { x with window := x.window + n }

theorem ctx0_once (s : State) (i : Iss) (g : Guard) (a : Operand) : (ctx0 s i g none).once a = onceOf s i g a :=
  congrArg BitVec.toNat (ctx0_d64 ..)

/-! ### `rgive` (R262) -/

section
variable {s : State} {i : Iss} {g : Guard} {a : Operand} {n : Nat} (hready : Ready s i [] [(a, 1)]) (hg : i.part g ≠ 0) (hn : n = onceOf s i g a) (hpos : n ≠ 0)
include hready hg hn hpos

theorem rgive_gives (hmul : n % 8 = 0) (hroom : n + 8 ≤ i.rod.window) (hops : s.rodOps i.rid = []) :
    exec (.rgive g a) s = finish ((s.setRod i.rid (shrunk (i.rod.window - n) i.rod)).modChain i.rid.chain (richer (quadOf i.rid) n)) i := by
  have hacts : ¬ (i.part g = 0 ∨ n = 0) := not_or.2 ⟨hg, hpos⟩
  have hfits : ¬ (n % 8 ≠ 0 ∨ i.rod.window < n + 8) := by omega
  have hform : (s.setRod i.rid i.rod).modRod i.rid (shrunk (i.rod.window - n)) = s.setRod i.rid (shrunk (i.rod.window - n) i.rod) := modRod_setRod ..
  rw [exec_rgive, execRgive, issue_ready hready]
  simp only [ctx0_once, ← hn]
  rw [if_neg (by exact hacts), if_neg (by exact hfits), show ((ctx0 s i g none).s.rodOps (ctx0 s i g none).i.rid) = [] from hops, List.any_nil, ← hform]
  rfl

/-- A count that is no multiple of 8, or leaves no 8 words, traps. -/
theorem rgive_traps (h : n % 8 ≠ 0 ∨ i.rod.window < n + 8) : exec (.rgive g a) s = trap s i Cause.regidx := by
  have hacts : ¬ (i.part g = 0 ∨ n = 0) := not_or.2 ⟨hg, hpos⟩
  rw [exec_rgive, execRgive, issue_ready hready]
  simp only [ctx0_once, ← hn]
  rw [if_neg (by exact hacts), if_pos (by exact h)]
  rfl

end

/-- What `rgive` leaves: a smaller window with the words that remain, and a richer pool. -/
theorem rgive_issues {s : State} {i : Iss} {g : Guard} {a : Operand} {n : Nat} {ch : Chain} (hready : Ready s i [] [(a, 1)]) (hg : i.part g ≠ 0)
    (hn : n = onceOf s i g a) (hpos : n ≠ 0) (hch : s.chain i.rid.chain = some ch) (hmul : n % 8 = 0) (hroom : n + 8 ≤ i.rod.window) (hops : s.rodOps i.rid = []) :
    Issues (exec (.rgive g a) s) i (fun u =>
      (∃ y, u.rod i.rid = some y ∧ y.window = i.rod.window - n ∧ ∀ k l, l < 32 → k < i.rod.window - n → y.lw k l = i.rod.lw k l) ∧
      ∃ c, u.chain i.rid.chain = some c ∧ c.pool.get (quadOf i.rid) 0 = ch.pool.get (quadOf i.rid) 0 + n) := by
  have hmod : (s.setRod i.rid (shrunk (i.rod.window - n) i.rod)).modChain i.rid.chain (richer (quadOf i.rid) n) =
      (s.setRod i.rid (shrunk (i.rod.window - n) i.rod)).setChain i.rid.chain (richer (quadOf i.rid) n ch) := by
    simp only [State.modChain, State.chain_setRod', hch]
  refine ⟨_, rgive_gives hready hg hn hpos hmul hroom hops, ?_, ?_⟩
  · rw [hmod]
    exact ⟨_, State.rod_setRod .., rfl, fun k l hl hk => lw_shrunk hready.2.2.2 hl hk⟩
  · rw [hmod]
    exact ⟨_, State.chain_setChain .., Tbl.get_set_self ..⟩

/-! ### `rtake` (R261) -/

/-- A count of words that a rod may take: the bounds of R154. -/
def Takeable (i : Iss) (ch : Chain) (p : Packet) (n : Nat) : Prop :=
  n % 8 = 0 ∧ i.rod.window + n ≤ 256 ∧ i.rod.window + n + 8 * (matesOf ch i.rid - 1) ≤ p.window * matesOf ch i.rid

section
variable {s : State} {i : Iss} {g : Guard} {a : Operand} {n : Nat} {ch : Chain} {p : Packet} (hready : Ready s i [] [(a, 1)]) (hg : i.part g ≠ 0)
  (hn : n = onceOf s i g a) (hpos : n ≠ 0) (hch : s.chain i.rid.chain = some ch) (hp : s.packet ch.launch = some p)
include hready hg hn hpos hch hp

theorem rtake_traps (h : ¬ Takeable i ch p n) : exec (.rtake g a) s = trap s i Cause.regidx := by
  have hacts : ¬ (i.part g = 0 ∨ n = 0) := not_or.2 ⟨hg, hpos⟩
  have hbad : n % 8 ≠ 0 ∨ 256 < i.rod.window + n ∨ p.window * matesOf ch i.rid < i.rod.window + n + 8 * (matesOf ch i.rid - 1) := by
    unfold Takeable at h
    omega
  have hch' : (ctx0 s i g none).s.chain (ctx0 s i g none).i.rid.chain = some ch := hch
  have hp' : (ctx0 s i g none).s.packet ch.launch = some p := hp
  rw [exec_rtake, execRtake, issue_ready hready]
  simp only [ctx0_once, ← hn, hch', hp']
  rw [if_neg (by exact hacts), if_pos (by exact hbad)]
  rfl

/-- With no other waiting, the rod is the first in the queue of its quadrant, and is served when the pool holds enough. -/
theorem rtake_alone (h : Takeable i ch p n) (hq : ch.rtakeQ = []) : exec (.rtake g a) s =
    if n ≤ ch.pool.get (quadOf i.rid) 0 then
      finish (((s.setRod i.rid i.rod).setChain i.rid.chain (poorer (quadOf i.rid) n ch)).modRod i.rid (wider n)) i
    else wait ((s.setRod i.rid i.rod).setChain i.rid.chain { ch with rtakeQ := [(i.rid.rod, i.sl)] }) i .rtake := by
  have hacts : ¬ (i.part g = 0 ∨ n = 0) := not_or.2 ⟨hg, hpos⟩
  have hfits : ¬ (n % 8 ≠ 0 ∨ 256 < i.rod.window + n ∨ p.window * matesOf ch i.rid < i.rod.window + n + 8 * (matesOf ch i.rid - 1)) := by
    unfold Takeable at h
    omega
  have hch' : (ctx0 s i g none).s.chain (ctx0 s i g none).i.rid.chain = some ch := hch
  have hp' : (ctx0 s i g none).s.packet ch.launch = some p := hp
  have hfirst : ([((ctx0 s i g none).i.rid.rod, (ctx0 s i g none).i.sl)].filter (fun e => e.1 % 4 == quadOf (ctx0 s i g none).i.rid)).head? =
      some ((ctx0 s i g none).i.rid.rod, (ctx0 s i g none).i.sl) := by
    simp [quadOf]
  have hleaves : [((ctx0 s i g none).i.rid.rod, (ctx0 s i g none).i.sl)].filter (· ≠ ((ctx0 s i g none).i.rid.rod, (ctx0 s i g none).i.sl)) = [] := by simp
  rw [exec_rtake, execRtake, issue_ready hready]
  simp only [ctx0_once, ← hn, hch', hp']
  rw [if_neg (by exact hacts), if_neg (by exact hfits)]
  simp only [hq, List.filter_nil, List.contains_nil, Bool.false_eq_true, if_false, List.nil_append, hfirst, true_and, hleaves]
  rfl

theorem rtake_issues (h : Takeable i ch p n) (hq : ch.rtakeQ = []) (hroom : n ≤ ch.pool.get (quadOf i.rid) 0) :
    Issues (exec (.rtake g a) s) i (fun u => u.rod i.rid = some (wider n i.rod) ∧
      ∃ c, u.chain i.rid.chain = some c ∧ c.pool.get (quadOf i.rid) 0 = ch.pool.get (quadOf i.rid) 0 - n) := by
  have hmod : ((s.setRod i.rid i.rod).setChain i.rid.chain (poorer (quadOf i.rid) n ch)).modRod i.rid (wider n) =
      (s.setRod i.rid (wider n i.rod)).setChain i.rid.chain (poorer (quadOf i.rid) n ch) := by
    have hrod : ((s.setRod i.rid i.rod).setChain i.rid.chain (poorer (quadOf i.rid) n ch)).rod i.rid = some i.rod := State.rod_setRod ..
    rw [State.modRod_of _ _ _ _ hrod]
    exact congrArg (fun t : State => t.setChain i.rid.chain (poorer (quadOf i.rid) n ch)) (State.setRod_setRod ..)
  have hexec := rtake_alone hready hg hn hpos hch hp h hq
  rw [if_pos hroom, hmod] at hexec
  exact ⟨_, hexec, State.rod_setRod .., _, State.chain_setChain .., Tbl.get_set_self ..⟩

theorem rtake_waits (h : Takeable i ch p n) (hq : ch.rtakeQ = []) (hroom : ch.pool.get (quadOf i.rid) 0 < n) :
    LeavesRod (exec (.rtake g a) s) i.rid (fun y => y.window = i.rod.window ∧ y.slot i.sl = some { i.slot with wait := some .rtake }) := by
  obtain ⟨t, y, ht, -, hy, hslot, -, hrest⟩ := Ports.wait_waits (s := (s.setRod i.rid i.rod).setChain i.rid.chain { ch with rtakeQ := [(i.rid.rod, i.sl)] })
    (State.rod_setRod ..) (State.issuer_slot hready.1) .rtake
  have hexec := rtake_alone hready hg hn hpos hch hp h hq
  rw [if_neg (by omega), ht] at hexec
  exact ⟨t, y, hexec, hy, (congrArg Rod.window hrest :), hslot⟩

end

/-! ### `RTAKE_GRANT` -/

/-- An instruction that goes on, whatever its operands, goes on from its issue. -/
theorem issue_goes {s : State} {i : Iss} (h : s.issuer = some i) (g : Guard) (m : Option SrcMod) (ds os : List (Operand × Nat)) {k : Ctx → Res}
    (hk : ∀ c, ∃ t, k c = .next t) : ∃ t, issue s g m ds os k = .next t := by
  rw [issue, withIss_of h]
  split
  · exact ⟨_, rfl⟩
  · dsimp only
    split
    · exact ⟨_, rfl⟩
    · split
      · exact ⟨_, rfl⟩
      · exact hk _

theorem rtake_goes {s : State} {i : Iss} (h : s.issuer = some i) (g : Guard) (a : Operand) : ∃ t, exec (.rtake g a) s = .next t := by
  rw [exec_rtake, execRtake]
  refine issue_goes h g none _ _ fun c => ?_
  split
  · exact ⟨_, rfl⟩
  · dsimp only
    split_ifs <;> exact ⟨_, rfl⟩

/-- The grant tries the waiting `rtake` again. -/
theorem rtakeGrant_goes {s : State} {r : RodId} {sl : SlotId} {x : Rod} {y : Slot} {w : DWord} {g : Guard} {a : Operand} (hx : s.rod r = some x)
    (hy : x.slot sl = some y) (hwait : y.wait = some .rtake) (hw : y.word = some w) (hd : decode w = .ok (.rtake g a)) :
    ∃ t, exec (.rtakeGrant r sl) s = .next t ∧ exec (.rtake g a) { s with cur := some (r, sl) } = .next t := by
  have hissuer : ({ s with cur := some (r, sl) } : State).issuer = some ⟨r, sl, x, y⟩ := by
    have hx' : ({ s with cur := some (r, sl) } : State).rod r = some x := hx
    simp [State.issuer, hx', hy]
  have hgrant : exec (.rtakeGrant r sl) s = exec (.rtake g a) { s with cur := some (r, sl) } := by
    simp only [exec_rtakeGrant, execRtakeGrant, exec_rtake, hx, Option.bind_some, hy, hwait, hw, Option.map_some, hd]
  obtain ⟨t, ht⟩ := rtake_goes hissuer g a
  exact ⟨t, hgrant.trans ht, ht⟩

/-- Settles O9. -/
theorem registerClaim : Obligations.RegisterClaim := by
  refine ⟨fun s i g a n ch hready hg hn hpos hch => ⟨fun hmul hroom hops => ?_, fun h => ?_, fun p hp => ⟨fun hmul hmax hshare hroom hq => ?_, fun h => ?_,
    fun hmul hmax hshare hroom hq => ?_⟩⟩, fun s r sl x y w g a hx hy hwait hw hd => rtakeGrant_goes hx hy hwait hw hd⟩
  · exact rgive_issues hready hg hn hpos hch hmul hroom hops
  · exact rgive_traps hready hg hn hpos h
  · exact rtake_issues hready hg hn hpos hch hp ⟨hmul, hmax, hshare⟩ hq hroom
  · refine rtake_traps hready hg hn hpos hch hp fun hok => ?_
    unfold Takeable at hok
    omega
  · exact rtake_waits hready hg hn hpos hch hp ⟨hmul, hmax, hshare⟩ hq hroom

end Sys2Proof.RegisterClaims
end

section
/-! SUPPORT. The paths of a rod: the lanes of a mask, the entries of the stack, and where a branch puts its sets (R156 to R159). -/

namespace Sys2Proof.Paths
open Sys2Proof.Machine Sys2Proof.Safety Sys2Proof.Laws Sys2Proof.Claims

/-! ### Lanes of a mask -/

theorem has_lt {m : Mask} {l : Nat} (h : m.has l = true) : l < 32 := BitVec.lt_of_getLsbD h

theorem mem_lanes {m : Mask} {l : Nat} : l ∈ lanes m ↔ m.has l = true := by
  rw [lanes, List.mem_filter, List.mem_range]
  exact ⟨fun h => h.2, fun h => ⟨has_lt h, h⟩⟩

theorem has_one_shift {k l : Nat} (hl : l < 32) : (1#32 <<< k).getLsbD l = decide (k = l) := by
  rw [BitVec.getLsbD_shiftLeft, BitVec.getLsbD_one]
  by_cases h : k = l
  · simp [h, hl]
  · rw [decide_eq_false h]
    by_cases hlt : l < k
    · simp [hlt]
    · have : ¬ (l - k = 0) := by omega
      simp [this]

/-- The lanes of a mask that is gathered lane by lane. -/
theorem has_foldl_lanes (p : Nat → Bool) {l : Nat} (hl : l < 32) (ks : List Nat) (m : Mask) :
    Mask.has (ks.foldl (fun m k => if p k then m ||| (1#32 <<< k) else m) m) l = (m.has l || (ks.contains l && p l)) := by
  induction ks generalizing m with
  | nil => simp
  | cons k ks ih =>
    rw [List.foldl_cons, ih]
    by_cases hk : k = l
    · subst hk
      cases hp : p k <;> simp [Mask.has, has_one_shift hl]
    · have hk' : l ≠ k := Ne.symm hk
      cases hp : p k <;> simp [Mask.has, has_one_shift hl, hk, hk']

theorem has_maskOf (p : Nat → Bool) {l : Nat} (hl : l < 32) : (maskOf p).has l = p l := by
  rw [maskOf, has_foldl_lanes p hl]
  simp [Mask.has, hl]

theorem has_rest {m p : Mask} {l : Nat} (hm : m.has l = true) (hp : p.has l = false) : (m &&& ~~~p).has l = true := by
  have hlt := has_lt hm
  unfold Mask.has at hm hp ⊢
  rw [BitVec.getLsbD_and, BitVec.getLsbD_not, hm, hp, decide_eq_true hlt]
  rfl

theorem ne_zero_of_has {m : Mask} {l : Nat} (h : m.has l = true) : m ≠ 0 := by
  rintro rfl
  simp [Mask.has] at h

/-! ### Entries of the stack (R158) -/

theorem entry_setEntry (r : Rod) (k j : Nat) (e : SEntry) : (r.setEntry k e).entry j = if j = k then e else r.entry j := Tbl.get_set ..

@[simp] theorem entry_setSlot (r : Rod) (sl : SlotId) (x : Option Slot) (j : Nat) : (r.setSlot sl x).entry j = r.entry j := by cases sl <;> rfl

theorem slot_setEntry (r : Rod) (k : Nat) (e : SEntry) (sl : SlotId) : (r.setEntry k e).slot sl = r.slot sl := by cases sl <;> rfl

theorem eq_or_eq_other (sl sl' : SlotId) : sl' = sl ∨ sl' = sl.other := by cases sl <;> cases sl' <;> decide

theorem slot_setSlot_ne (r : Rod) {sl sl' : SlotId} (x : Option Slot) (h : sl' ≠ sl) : (r.setSlot sl x).slot sl' = r.slot sl' := by
  obtain rfl := (eq_or_eq_other sl sl').resolve_left h
  exact Rod.slot_setSlot_other ..

theorem freeEntries_setSlot (r : Rod) (sl : SlotId) (x : Option Slot) : (r.setSlot sl x).freeEntries = r.freeEntries := by cases sl <;> rfl

theorem freeEntry_setSlot (r : Rod) (sl : SlotId) (x : Option Slot) : (r.setSlot sl x).freeEntry = r.freeEntry := by cases sl <;> rfl

theorem freeEntry_spec {r : Rod} {k : Nat} (h : r.freeEntry = some k) : k < r.depth ∧ r.entry k = .free := by
  unfold Rod.freeEntry at h
  exact ⟨List.mem_range.1 (List.mem_of_find?_eq_some h), by simpa using List.find?_some h⟩

theorem freeEntry_of_freeEntries {r : Rod} (h : 0 < r.freeEntries) : ∃ k, r.freeEntry = some k := by
  obtain ⟨k, hk⟩ := List.exists_mem_of_length_pos h
  rw [List.mem_filter] at hk
  exact Option.isSome_iff_exists.1 (List.find?_isSome.2 ⟨k, hk.1, hk.2⟩)

/-- An entry that is taken is one fewer to take. -/
theorem freeEntries_setEntry {r : Rod} {k : Nat} {e : SEntry} (h : r.freeEntry = some k) (he : e ≠ .free) :
    (r.setEntry k e).freeEntries = r.freeEntries - 1 := by
  obtain ⟨hk, hfree⟩ := freeEntry_spec h
  have hmem : k ∈ (List.range r.depth).filter (fun i => r.entry i == .free) := by simp [hk, hfree]
  have hnodup : ((List.range r.depth).filter (fun i => r.entry i == .free)).Nodup := List.nodup_range.filter _
  rw [Rod.freeEntries, Rod.freeEntries, ← List.length_erase_of_mem hmem, hnodup.erase_eq_filter, List.filter_filter]
  refine congrArg List.length (List.filter_congr fun j _ => ?_)
  rw [entry_setEntry]
  by_cases hj : j = k
  · simp [hj, he]
  · simp [hj]

/-- An empty stack has its whole depth free. -/
theorem freeEntries_of_empty {r : Rod} (h : r.stack = []) : r.freeEntries = r.depth := by
  have hentry : ∀ j, r.entry j = .free := fun j => by rw [Rod.entry, h]; rfl
  simp [Rod.freeEntries, hentry]

/-! ### Where a branch puts its sets (R158, R159) -/

/-- A set of lanes with where it goes and its frame. -/
abbrev LaneSet := Mask × DWord × Option Nat

/-- The path of a set. -/
def pathOf (now : Nat) (e : LaneSet) : Path := { pc := e.2.1, idx := 0, mask := e.1, frame := e.2.2, wait := now }

/-- The first set stays in the slot. -/
def firstPath (r : Rod) (sl : SlotId) (x : Slot) (now : Nat) (e : LaneSet) : Rod :=
  r.setSlot sl (some { x with path := { pathOf now e with wait := x.path.wait }, started := none, wait := none })

/-- A set takes the lowest free entry of the stack. -/
def stackPath (now : Nat) (r : Rod) (e : LaneSet) : Option Rod := r.freeEntry.map (fun k => r.setEntry k (.path (pathOf now e)))

/-- The second set takes the other slot, or goes on the stack. -/
def secondPath (sl : SlotId) (now : Nat) (r : Rod) (e : LaneSet) : Option Rod :=
  if (r.slot sl.other).isNone then some (r.enter sl.other (pathOf now e) now) else stackPath now r e

/-- The sets after the first. -/
def laterPaths (sl : SlotId) (now : Nat) (r : Rod) : List LaneSet → Option Rod
  | [] => some r
  | e :: es => (secondPath sl now r e).bind (fun r => es.foldlM (stackPath now) r)

theorem foldl_stackPath (now : Nat) (es : List LaneSet) (o : Option Rod) :
    es.foldl (fun o e => o.bind (fun r => stackPath now r e)) o = o.bind (fun r => es.foldlM (stackPath now) r) := by
  induction es generalizing o with
  | nil => cases o <;> rfl
  | cons e es ih =>
    rw [List.foldl_cons, ih]
    cases o <;> rfl

section
variable {r : Rod} {sl : SlotId} {x : Slot} {now : Nat} {sets : List LaneSet} (hx : r.slot sl = some x)
include hx

theorem divide_none (h : sets.filter (fun e => e.1 != 0) = []) : r.divide sl now sets = some r := by
  rw [Rod.divide, hx]
  simp only [h]

theorem divide_some {e : LaneSet} {es : List LaneSet} (h : sets.filter (fun e => e.1 != 0) = e :: es) :
    r.divide sl now sets = (laterPaths sl now (firstPath r sl x now e) es).map (fun r => r.settle sl now (r.depth + 3)) := by
  rw [Rod.divide, hx]
  simp only [h]
  cases es with
  | nil => rfl
  | cons e2 es => exact congrArg _ (foldl_stackPath now es _)

end

/-! ### Room for the sets -/

/-- A path of the rod carries the set at the start of its clause. -/
def Carries (r : Rod) (e : LaneSet) : Prop := ∃ pos p, r.pathAt pos = some p ∧ p.mask = e.1 ∧ p.pc = e.2.1 ∧ p.idx = 0

/-- The rod t is r with the sets placed beside the paths it had. -/
structure Placed (now : Nat) (r t : Rod) (es : List LaneSet) : Prop where
  moved  : RodMoved r t
  keeps  : ∀ pos p, r.pathAt pos = some p → t.pathAt pos = some p
  adds   : ∀ pos p, t.pathAt pos = some p → r.pathAt pos = some p ∨ ∃ e ∈ es, p = pathOf now e
  places : ∀ e ∈ es, Carries t e

theorem Placed.nil (now : Nat) (r : Rod) : Placed now r r [] := ⟨RodMoved.refl r, fun _ _ h => h, fun _ _ h => .inl h, nofun⟩

theorem Placed.carries {now : Nat} {r t : Rod} {es : List LaneSet} (h : Placed now r t es) {e : LaneSet} (he : Carries r e) : Carries t e := by
  obtain ⟨pos, p, hp, hrest⟩ := he
  exact ⟨pos, p, h.keeps pos p hp, hrest⟩

theorem Placed.cons {now : Nat} {r t u : Rod} {e : LaneSet} {es : List LaneSet} (h : Placed now r t [e]) (k : Placed now t u es) :
    Placed now r u (e :: es) := by
  refine ⟨RodMoved.trans h.moved k.moved, fun pos p hp => k.keeps pos p (h.keeps pos p hp), fun pos p hp => ?_, fun a ha => ?_⟩
  · obtain hold | ⟨a, ha, rfl⟩ := k.adds pos p hp
    · obtain hold | ⟨a, ha, rfl⟩ := h.adds pos p hold
      · exact .inl hold
      · exact .inr ⟨a, List.mem_cons.2 (.inl (List.mem_singleton.1 ha)), rfl⟩
    · exact .inr ⟨a, List.mem_cons_of_mem _ ha, rfl⟩
  · obtain rfl | ha := List.mem_cons.1 ha
    · exact k.carries (h.places _ (List.mem_singleton.2 rfl))
    · exact k.places a ha

/-- Placing a set at one position that held no path. -/
theorem placed_at {now : Nat} {r t : Rod} {e : LaneSet} (pos : Pos) (hmoved : RodMoved r t) (hfree : r.pathAt pos = none)
    (hat : t.pathAt pos = some (pathOf now e)) (hothers : ∀ q, q ≠ pos → t.pathAt q = r.pathAt q) : Placed now r t [e] := by
  refine ⟨hmoved, fun q p hp => ?_, fun q p hp => ?_, fun a ha => ?_⟩
  · have hq : q ≠ pos := by
      rintro rfl
      rw [hfree] at hp
      cases hp
    rw [hothers q hq, hp]
  · by_cases hq : q = pos
    · subst hq
      rw [hat, Option.some.injEq] at hp
      exact .inr ⟨e, List.mem_singleton.2 rfl, hp.symm⟩
    · exact .inl (hothers q hq ▸ hp)
  · rw [List.mem_singleton.1 ha]
    exact ⟨pos, _, hat, rfl, rfl, rfl⟩

theorem pathAt_setEntry_ne (r : Rod) {k : Nat} (e : SEntry) {q : Pos} (hq : q ≠ .stack k) : (r.setEntry k e).pathAt q = r.pathAt q := by
  cases q with
  | slot sl => rw [Rod.pathAt, Rod.pathAt, slot_setEntry]
  | stack j =>
    have hj : j ≠ k := fun h => hq (congrArg Pos.stack h)
    rw [Rod.pathAt, Rod.pathAt, entry_setEntry, if_neg hj]

theorem pathAt_setSlot_ne (r : Rod) {sl : SlotId} (x : Option Slot) {q : Pos} (hq : q ≠ .slot sl) : (r.setSlot sl x).pathAt q = r.pathAt q := by
  cases q with
  | stack j => rw [Rod.pathAt, Rod.pathAt, entry_setSlot]
  | slot sl' =>
    have hsl : sl' ≠ sl := fun h => hq (congrArg Pos.slot h)
    rw [Rod.pathAt, Rod.pathAt, slot_setSlot_ne _ _ hsl]

theorem pathAt_setSlot_self (r : Rod) (sl : SlotId) (x : Option Slot) : (r.setSlot sl x).pathAt (.slot sl) = x.map (·.path) := by
  rw [Rod.pathAt, Rod.slot_setSlot]

theorem stackPath_some {now : Nat} {r : Rod} {e : LaneSet} (h : 0 < r.freeEntries) :
    ∃ t, stackPath now r e = some t ∧ Placed now r t [e] ∧ t.freeEntries = r.freeEntries - 1 := by
  obtain ⟨k, hk⟩ := freeEntry_of_freeEntries h
  have hfree : r.pathAt (.stack k) = none := by rw [Rod.pathAt, (freeEntry_spec hk).2]
  have hat : (r.setEntry k (.path (pathOf now e))).pathAt (.stack k) = some (pathOf now e) := by rw [Rod.pathAt, entry_setEntry, if_pos rfl]
  rw [stackPath, hk]
  exact ⟨_, rfl, placed_at (.stack k) (RodMoved.setEntry ..) hfree hat (fun q hq => pathAt_setEntry_ne r _ hq), freeEntries_setEntry hk nofun⟩

theorem stackPaths_some {now : Nat} {es : List LaneSet} {r : Rod} (h : es.length ≤ r.freeEntries) :
    ∃ t, es.foldlM (stackPath now) r = some t ∧ Placed now r t es := by
  induction es generalizing r with
  | nil => exact ⟨r, rfl, .nil now r⟩
  | cons e es ih =>
    rw [List.length_cons] at h
    obtain ⟨t, ht, hplaced, hfree⟩ := stackPath_some (now := now) (e := e) (show 0 < r.freeEntries by omega)
    obtain ⟨u, hu, hplaced'⟩ := ih (r := t) (by omega)
    refine ⟨u, ?_, hplaced.cons hplaced'⟩
    rw [List.foldlM_cons, ht]
    exact hu

theorem enter_placed {now : Nat} {r : Rod} {sl : SlotId} {e : LaneSet} (h : r.slot sl = none) : Placed now r (r.enter sl (pathOf now e) now) [e] := by
  have hfree : r.pathAt (.slot sl) = none := by rw [Rod.pathAt, h]; rfl
  exact placed_at (.slot sl) (RodMoved.enter ..) hfree (pathAt_setSlot_self ..) (fun q hq => pathAt_setSlot_ne r _ hq)

theorem laterPaths_some {sl : SlotId} {now : Nat} {es : List LaneSet} {r : Rod} (h : es.length ≤ r.freeEntries) :
    ∃ t, laterPaths sl now r es = some t ∧ Placed now r t es := by
  cases es with
  | nil => exact ⟨r, rfl, .nil now r⟩
  | cons e es =>
    rw [List.length_cons] at h
    rw [laterPaths, secondPath]
    by_cases hother : (r.slot sl.other).isNone = true
    · obtain ⟨t, ht, hplaced⟩ := stackPaths_some (now := now) (es := es) (r := r.enter sl.other (pathOf now e) now)
        (by rw [Rod.enter, freeEntries_setSlot]; omega)
      rw [if_pos hother]
      exact ⟨t, ht, (enter_placed (Option.isNone_iff_eq_none.1 hother)).cons hplaced⟩
    · obtain ⟨t, ht, hplaced, hfree⟩ := stackPath_some (now := now) (e := e) (show 0 < r.freeEntries by omega)
      obtain ⟨u, hu, hplaced'⟩ := stackPaths_some (now := now) (es := es) (r := t) (by omega)
      rw [if_neg hother, ht]
      exact ⟨u, hu, hplaced.cons hplaced'⟩

/-- A branch into no more sets than the slot and the free entries take moves paths only. -/
theorem divide_moves {r : Rod} {sl : SlotId} {x : Slot} {now : Nat} {sets : List LaneSet} (hx : r.slot sl = some x)
    (h : sets.length ≤ r.freeEntries + 1) : ∃ t, r.divide sl now sets = some t ∧ RodMoved r t := by
  have hle := List.length_filter_le (fun e : LaneSet => e.1 != 0) sets
  cases hsets : sets.filter (fun e => e.1 != 0) with
  | nil => exact ⟨r, divide_none hx hsets, RodMoved.refl r⟩
  | cons e es =>
    rw [hsets, List.length_cons] at hle
    have hfirst : (firstPath r sl x now e).freeEntries = r.freeEntries := freeEntries_setSlot ..
    obtain ⟨t, ht, hplaced⟩ := laterPaths_some (sl := sl) (now := now) (es := es) (r := firstPath r sl x now e) (by omega)
    rw [divide_some hx hsets, ht]
    exact ⟨_, rfl, RodMoved.trans (RodMoved.trans (RodMoved.setSlot ..) hplaced.moved) (RodMoved.settle ..)⟩

/-- With the other slot taken and no entry free, a branch into two sets finds no room. -/
theorem divide_full {r : Rod} {sl : SlotId} {x : Slot} {now : Nat} {a b : LaneSet} (hx : r.slot sl = some x) (ha : a.1 ≠ 0) (hb : b.1 ≠ 0)
    (hother : (r.slot sl.other).isSome = true) (hfull : r.freeEntry = none) : r.divide sl now [a, b] = none := by
  have hsets : [a, b].filter (fun e => e.1 != 0) = [a, b] := by simpa using ⟨ha, hb⟩
  have hslot : ((firstPath r sl x now a).slot sl.other).isNone = false := by
    rw [firstPath, Rod.slot_setSlot_other]
    simpa using hother
  have hfree : (firstPath r sl x now a).freeEntry = none := (freeEntry_setSlot ..).trans hfull
  rw [divide_some hx hsets, laterPaths, secondPath, hslot, stackPath, hfree]
  rfl

/-! ### Paths in no frame -/

/-- Every path of the rod that runs or is stacked is in no frame. -/
def Frameless (r : Rod) : Prop := ∀ pos p, r.pathAt pos = some p → p.frame = none

theorem arrival_frameless {r : Rod} {p : Path} (h : p.frame = none) : r.arrival p = none := by rw [Rod.arrival, h]

/-- No path in a frame arrives anywhere. -/
theorem settle_frameless {r : Rod} (h : Frameless r) (sl : SlotId) (now n : Nat) : r.settle sl now n = r := by
  cases n with
  | zero => rfl
  | succ n =>
    have hnone : (r.positions sl).find? (fun pos => ((r.pathAt pos).bind r.arrival).isSome) = none := by
      refine List.find?_eq_none.2 fun pos _ => ?_
      cases hp : r.pathAt pos with
      | none => simp
      | some p => simp [arrival_frameless (h pos p hp)]
    rw [Rod.settle, hnone]

theorem Frameless.setSlot {r : Rod} (h : Frameless r) (sl : SlotId) {x : Option Slot} (hx : ∀ y, x = some y → y.path.frame = none) :
    Frameless (r.setSlot sl x) := by
  intro pos p hp
  cases pos with
  | stack k =>
    refine h (.stack k) p ?_
    rw [← hp, Rod.pathAt, Rod.pathAt, entry_setSlot]
  | slot sl' =>
    by_cases hsl : sl' = sl
    · subst hsl
      rw [Rod.pathAt, Rod.slot_setSlot, Option.map_eq_some_iff] at hp
      obtain ⟨y, hy, rfl⟩ := hp
      exact hx y hy
    · refine h (.slot sl') p ?_
      rw [← hp, Rod.pathAt, Rod.pathAt, slot_setSlot_ne _ _ hsl]

/-- A rod with one path, in no frame. -/
theorem frameless_alone {r : Rod} {sl : SlotId} {x : Slot} (hx : r.slot sl = some x) (hother : r.slot sl.other = none) (hstack : r.stack = [])
    (hframe : x.path.frame = none) : Frameless r := by
  intro pos p hp
  cases pos with
  | stack k =>
    have hentry : r.entry k = .free := by rw [Rod.entry, hstack]; rfl
    simp [Rod.pathAt, hentry] at hp
  | slot sl' =>
    obtain rfl | rfl := eq_or_eq_other sl sl'
    · rw [Rod.pathAt, hx, Option.map_some, Option.some.injEq] at hp
      exact hp ▸ hframe
    · rw [Rod.pathAt, hother] at hp
      cases hp

/-- In a rod whose paths are in no frame, a branch puts each of its sets where it goes. -/
theorem divide_places {r : Rod} {sl : SlotId} {x : Slot} {now : Nat} {sets : List LaneSet} (hx : r.slot sl = some x) (hr : Frameless r)
    (hframe : ∀ e ∈ sets, e.2.2 = none) (h : sets.length ≤ r.freeEntries + 1) :
    ∃ t, r.divide sl now sets = some t ∧ ∀ e ∈ sets, e.1 ≠ 0 → Carries t e := by
  have hle := List.length_filter_le (fun e : LaneSet => e.1 != 0) sets
  have hmem : ∀ e, e ∈ sets.filter (fun e => e.1 != 0) ↔ e ∈ sets ∧ e.1 ≠ 0 := fun e => by simp
  cases hsets : sets.filter (fun e => e.1 != 0) with
  | nil =>
    refine ⟨r, divide_none hx hsets, fun e he h0 => ?_⟩
    have := (hmem e).2 ⟨he, h0⟩
    rw [hsets] at this
    cases this
  | cons e es =>
    rw [hsets, List.length_cons] at hle
    rw [hsets] at hmem
    have hfirst : (firstPath r sl x now e).freeEntries = r.freeEntries := freeEntries_setSlot ..
    obtain ⟨t, ht, hplaced⟩ := laterPaths_some (sl := sl) (now := now) (es := es) (r := firstPath r sl x now e) (by omega)
    have hfirstless : Frameless (firstPath r sl x now e) := by
      refine hr.setSlot sl fun y hy => ?_
      cases hy
      exact hframe e ((hmem e).1 List.mem_cons_self).1
    have hless : Frameless t := by
      intro pos p hp
      obtain hold | ⟨a, ha, rfl⟩ := hplaced.adds pos p hp
      · exact hfirstless pos p hold
      · exact hframe a ((hmem a).1 (List.mem_cons_of_mem _ ha)).1
    have hslot : Carries (firstPath r sl x now e) e := ⟨.slot sl, _, pathAt_setSlot_self .., rfl, rfl, rfl⟩
    refine ⟨t, ?_, fun a ha h0 => ?_⟩
    · rw [divide_some hx hsets, ht, Option.map_some, settle_frameless hless]
    · obtain rfl | ha := List.mem_cons.1 ((hmem a).2 ⟨ha, h0⟩)
      · exact hplaced.carries hslot
      · exact hplaced.places a ha

end Sys2Proof.Paths
end

section
/-! SUPPORT. Control instructions: what they change, where their lanes go, and where they find no room (R157, R158, R252 to R260). -/

namespace Sys2Proof.Control
open Sys2Proof.Machine Sys2Proof.Safety Sys2Proof.Laws Sys2Proof.Claims Sys2Proof.Paths

/-! ### The end of a control transfer -/

/-- A control transfer to a rod whose paths have moved completes. -/
theorem transfer_completes {s : State} {i : Iss} {z r : Rod} (h : RodMoved z r) : Completes (transfer s i (some r)) s i.rid z := by
  obtain ⟨honly, y, hy, hrest⟩ := OnlyRod.setRod_checkHalt i.rid s (r.clauseEnd i.sl i.slot s.cycle)
  refine ⟨_, y, rfl, honly, hy, RodMoved.trans h (RodMoved.trans (RodMoved.clauseEnd r i.sl i.slot s.cycle) ?_)⟩
  unfold RodMoved
  rw [← hrest]

/-- The rod of a control transfer replaces whatever the state held of it. -/
theorem transfer_setRod (s : State) (i : Iss) (z r : Rod) : transfer (s.setRod i.rid z) i (some r) = transfer s i (some r) :=
  congrArg (fun t : State => Host.Outcome.next (t.checkHalt i.rid)) (State.setRod_setRod ..)

/-- The sets of a branch, each in the frame of the issuing path. -/
def inFrame (i : Iss) (sets : List (Mask × DWord)) : List LaneSet := sets.map (fun e => (e.1, e.2, i.slot.path.frame))

theorem length_inFrame (i : Iss) (sets : List (Mask × DWord)) : (inFrame i sets).length = sets.length := List.length_map ..

theorem slot_issued (x : Rod) (sl sl' : SlotId) : (x.issued sl).slot sl' = x.slot sl' := by cases sl' <;> rfl

/-- The slot of the issuing pair, once its instruction has issued. -/
theorem slot_issued_self {s : State} {i : Iss} (hi : s.issuer = some i) : (i.rod.issued i.sl).slot i.sl = some i.slot :=
  (slot_issued ..).trans (State.issuer_slot hi)

theorem branchTo_some {s : State} {i : Iss} {sets : List (Mask × DWord)} {r : Rod}
    (h : (i.rod.issued i.sl).divide i.sl s.cycle (inFrame i sets) = some r) : branchTo s i sets = transfer s i (some r) := congrArg (transfer s i) h

theorem branchTo_setRod {s : State} {i : Iss} {sets : List (Mask × DWord)} {r z : Rod}
    (h : (i.rod.issued i.sl).divide i.sl s.cycle (inFrame i sets) = some r) : branchTo (s.setRod i.rid z) i sets = branchTo s i sets := by
  rw [branchTo_some h, branchTo_some (s := s.setRod i.rid z) h, transfer_setRod]

section
variable {s : State} {i : Iss} (hi : s.issuer = some i)
include hi

theorem branchTo_moves {sets : List (Mask × DWord)} (h : sets.length ≤ i.rod.freeEntries + 1) :
    ∃ r, (i.rod.issued i.sl).divide i.sl s.cycle (inFrame i sets) = some r ∧ RodMoved i.rod r := by
  have hroom : (inFrame i sets).length ≤ (i.rod.issued i.sl).freeEntries + 1 := by rwa [length_inFrame]
  obtain ⟨r, hr, hmoved⟩ := divide_moves (slot_issued_self hi) hroom
  exact ⟨r, hr, RodMoved.trans (RodMoved.issued ..) hmoved⟩

/-- A branch for which the stack has room changes paths only. -/
theorem branchTo_completes {sets : List (Mask × DWord)} (h : sets.length ≤ i.rod.freeEntries + 1) : Completes (branchTo s i sets) s i.rid i.rod := by
  obtain ⟨r, hr, hmoved⟩ := branchTo_moves hi h
  rw [branchTo_some hr]
  exact transfer_completes hmoved

end

/-! ### The target sets of `jmpi` (R256) -/

theorem length_eraseDups_le {α : Type} [BEq α] (xs : List α) : xs.eraseDups.length ≤ xs.length := by
  induction hn : xs.length using Nat.strong_induction_on generalizing xs with
  | _ n ih =>
    cases xs with
    | nil => simp
    | cons x xs =>
      have hle := List.length_filter_le (fun b => !b == x) xs
      rw [List.length_cons] at hn
      rw [List.eraseDups_cons, List.length_cons]
      have := ih _ (by omega) (xs.filter fun b => !b == x) rfl
      omega

theorem length_targetSets_le (t : Nat → DWord) (ls : List Nat) : (targetSets t ls).length ≤ ls.length := by
  rw [targetSets, List.length_map]
  exact (length_eraseDups_le _).trans (List.length_map ..).le

/-- The target set of a lane. -/
theorem mem_targetSets {t : Nat → DWord} {ls : List Nat} {l : Nat} (h : l ∈ ls) :
    (maskOf (fun k => ls.contains k && t k == t l), t l) ∈ targetSets t ls :=
  List.mem_map.2 ⟨t l, List.mem_eraseDups.2 (List.mem_map_of_mem h), rfl⟩

/-- The sets into which `jmpi` divides its path. -/
def jmpiSets (s : State) (i : Iss) (g : Guard) (a : Operand) : List (Mask × DWord) :=
  targetSets (fun l => (srcs s i g none).d64 .a a l) (lanes (i.part g)) ++ [(i.slot.path.mask &&& ~~~i.part g, i.fall)]

theorem length_jmpiSets_le (s : State) (i : Iss) (g : Guard) (a : Operand) : (jmpiSets s i g a).length ≤ (lanes (i.part g)).length + 1 := by
  rw [jmpiSets, List.length_append]
  exact Nat.add_le_add_right (length_targetSets_le ..) 1

/-- A target that `jmpi` takes: of whole 8-byte words, in the address space. -/
def GoodTarget (t : DWord) : Prop := t.bits 2 0 = 0 ∧ t.bits 63 56 = 0

section
variable {s : State} {i : Iss} {g : Guard} {a : Operand} (hready : Ready s i [] [(a, 2)])
include hready

theorem jmpi_form : exec (.jmpi g a) s =
    if (lanes (i.part g)).any (fun l => ((srcs s i g none).d64 .a a l).bits 2 0 != 0 || ((srcs s i g none).d64 .a a l).bits 63 56 != 0)
    then trap s i Cause.illegal else branchTo (s.setRod i.rid i.rod) i (jmpiSets s i g a) := by
  rw [exec_jmpi, execJmpi, issue_ready hready]
  simp only [ctx0_d64]
  rfl

theorem jmpi_branches (h : ∀ l ∈ lanes (i.part g), GoodTarget ((srcs s i g none).d64 .a a l)) :
    exec (.jmpi g a) s = branchTo (s.setRod i.rid i.rod) i (jmpiSets s i g a) := by
  rw [jmpi_form hready, if_neg]
  rw [List.any_eq_true]
  rintro ⟨l, hl, hbad⟩
  obtain ⟨hlow, hhigh⟩ := h l hl
  simp [hlow, hhigh] at hbad

theorem jmpi_traps {l : Nat} (hl : l ∈ lanes (i.part g)) (h : ¬ GoodTarget ((srcs s i g none).d64 .a a l)) :
    exec (.jmpi g a) s = trap s i Cause.illegal := by
  rw [jmpi_form hready, if_pos]
  rw [List.any_eq_true]
  refine ⟨l, hl, ?_⟩
  rw [Bool.or_eq_true, bne_iff_ne, bne_iff_ne]
  exact not_and_or.1 h

end

/-! ### Control changes paths only -/

theorem openFrame_some {r : Rod} {sl : SlotId} {pc : DWord} {x : Slot} (hx : r.slot sl = some x) (h : 0 < r.freeEntries) :
    ∃ t, r.openFrame sl pc = some t ∧ RodMoved r t := by
  obtain ⟨k, hk⟩ := freeEntry_of_freeEntries h
  rw [Rod.openFrame, hx, hk]
  exact ⟨_, rfl, RodMoved.trans (RodMoved.setEntry ..) (RodMoved.setSlot ..)⟩

/-- The rod of a `call` with the frame of its lanes. -/
def framed (i : Iss) (k : Nat) (m : Mask) : Rod := (i.rod.issued i.sl).setEntry k (.frame i.fall m 0 i.slot.path.frame)

/-- The slot of the rod put another way: the instruction is done and has moved paths only. -/
theorem finish_setSlot (s : State) (i : Iss) (x : Option Slot) : Completes (finish (s.setRod i.rid (i.rod.setSlot i.sl x)) i) s i.rid i.rod := by
  obtain ⟨t, y, ht, honly, hy, hmoved⟩ := finish_setRod s i (i.rod.setSlot i.sl x)
  exact ⟨t, y, ht, honly, hy, RodMoved.trans (RodMoved.setSlot ..) hmoved⟩

theorem sleep_completes {s : State} {i : Iss} {g : Guard} {a : Operand} (hready : Ready s i [] [(a, 1)]) : Completes (exec (.sleep g a) s) s i.rid i.rod := by
  rw [exec_sleep, execSleep, issue_ready hready]
  split
  · exact finish_setRod s i i.rod
  · have hform : ∀ f : Rod → Rod, (ctx0 s i g none).s.modRod i.rid f = s.setRod i.rid (f i.rod) := fun f => modRod_setRod ..
    rw [show (ctx0 s i g none).i = i from rfl, hform]
    exact finish_setSlot s i _

section
variable {s : State} {i : Iss} (hi : s.issuer = some i)
include hi

theorem nop_completes (g : Guard) : Completes (exec (.nop g) s) s i.rid i.rod := by
  rw [exec_nop, execNop, withIss_of hi]
  exact finish_same s i (State.issuer_rod hi)

theorem yield_completes (g : Guard) : Completes (exec (.yield g) s) s i.rid i.rod := by
  rw [exec_yield, execYield, withIss_of hi]
  split
  · exact finish_same s i (State.issuer_rod hi)
  · exact finish_setSlot s i _

theorem br_completes (g : Guard) (off : BitVec 48) (h : 1 ≤ i.rod.freeEntries) : Completes (exec (.br g off) s) s i.rid i.rod := by
  rw [exec_br, execBr, withIss_of hi]
  exact branchTo_completes hi (show 2 ≤ _ by omega)

theorem br3_completes (q : BitVec 4) (t f u : BitVec 16) (h : 2 ≤ i.rod.freeEntries) : Completes (exec (.br3 q t f u) s) s i.rid i.rod := by
  rw [exec_br3, execBr3, withIss_of hi]
  exact branchTo_completes hi (show 3 ≤ _ by omega)

theorem join_completes (off : BitVec 48) (h : 1 ≤ i.rod.freeEntries) : Completes (exec (.join off) s) s i.rid i.rod := by
  obtain ⟨r, hr, hmoved⟩ := openFrame_some (pc := i.target (off.signExtend 64)) (State.issuer_slot hi) h
  obtain ⟨t, y, ht, honly, hy, hmoved'⟩ := finish_setRod s i r
  rw [exec_join, execJoin, withIss_of hi, hr]
  exact ⟨t, y, ht, honly, hy, RodMoved.trans hmoved hmoved'⟩

theorem call_completes (g : Guard) (off : BitVec 48) (h : 2 ≤ i.rod.freeEntries) : Completes (exec (.call g off) s) s i.rid i.rod := by
  rw [exec_call, execCall, withIss_of hi]
  by_cases hg : i.part g = 0
  · rw [if_pos hg]
    exact branchTo_completes hi (Nat.le_add_left 1 _)
  · obtain ⟨k, hk⟩ := freeEntry_of_freeEntries (r := i.rod) (by omega)
    have hslot : (framed i k (i.part g)).slot i.sl = some i.slot := by
      rw [framed, slot_setEntry, slot_issued_self hi]
    have hfree : (framed i k (i.part g)).freeEntries = i.rod.freeEntries - 1 := freeEntries_setEntry (r := i.rod.issued i.sl) hk nofun
    obtain ⟨r, hr, hmoved⟩ := divide_moves (now := s.cycle)
      (sets := [(i.part g, i.target (off.signExtend 64), some k), (i.slot.path.mask &&& ~~~i.part g, i.fall, i.slot.path.frame)])
      hslot (show 2 ≤ _ by omega)
    have hform : RodMoved i.rod (framed i k (i.part g)) := RodMoved.trans (RodMoved.issued ..) (RodMoved.setEntry ..)
    rw [if_neg hg, hk]
    dsimp only
    rw [← framed, hr]
    exact transfer_completes (RodMoved.trans hform hmoved)

theorem ret_completes (g : Guard) {f : Nat} {pc : DWord} {e a : Mask} {p : Option Nat} (hf : i.slot.path.frame = some f)
    (hentry : i.rod.entry f = .frame pc e a p) : Completes (exec (.ret g) s) s i.rid i.rod := by
  rw [exec_ret, execRet, withIss_of hi]
  by_cases hg : i.part g = 0
  · rw [if_pos hg]
    exact branchTo_completes hi (Nat.le_add_left 1 _)
  · simp only [if_neg hg, hf, Option.map_some, hentry]
    split
    · exact transfer_completes (RodMoved.trans (RodMoved.issued i.rod i.sl) (RodMoved.goto ..))
    · have hslot : ((i.rod.issued i.sl).setEntry f (.frame pc e (a ||| i.part g) p)).slot i.sl = some i.slot := by
        rw [slot_setEntry, slot_issued_self hi]
      obtain ⟨r, hr, hmoved⟩ := divide_moves (now := s.cycle) (sets := [(i.slot.path.mask &&& ~~~i.part g, i.fall, some f)])
        hslot (Nat.le_add_left 1 _)
      rw [hr]
      exact transfer_completes (RodMoved.trans (RodMoved.trans (RodMoved.issued ..) (RodMoved.setEntry ..)) hmoved)

theorem jmpi_completes {g : Guard} {a : Operand} (hready : Ready s i [] [(a, 2)]) (h : (lanes (i.part g)).length ≤ i.rod.freeEntries)
    (hgood : ∀ l ∈ lanes (i.part g), GoodTarget ((srcs s i g none).d64 .a a l)) : Completes (exec (.jmpi g a) s) s i.rid i.rod := by
  have hroom : (jmpiSets s i g a).length ≤ i.rod.freeEntries + 1 := (length_jmpiSets_le s i g a).trans (Nat.add_le_add_right h 1)
  obtain ⟨r, hr, -⟩ := branchTo_moves hi hroom
  rw [jmpi_branches hready hgood, branchTo_setRod hr]
  exact branchTo_completes hi hroom

end

theorem controlChangesPathsOnly : ControlChangesPathsOnly := fun _ _ g hi =>
  ⟨nop_completes hi g, yield_completes hi g,
    fun hroom off => ⟨br_completes hi g off hroom, join_completes hi off hroom⟩,
    fun hroom q t f u off => ⟨br3_completes hi q t f u hroom, call_completes hi g off hroom⟩,
    fun _ _ _ _ _ _ hf hentry => ret_completes hi g hf hentry,
    fun _ hready => sleep_completes hready,
    fun _ hready hroom hgood => jmpi_completes hi hready hroom hgood⟩

/-! ### Where the lanes go -/

/-- The end of a clause with no `yield` pending leaves every path where it stands. -/
theorem pathAt_clauseEnd (r : Rod) (sl : SlotId) {b : Slot} (hb : b.yields = false) (now : Nat) (pos : Pos) :
    (r.clauseEnd sl b now).pathAt pos = r.pathAt pos := by
  unfold Rod.clauseEnd
  rw [hb]
  cases hx : r.slot sl with
  | none => rfl
  | some x =>
    dsimp only
    split
    · rfl
    · rw [if_neg Bool.false_ne_true]
      by_cases hpos : pos = .slot sl
      · rw [hpos, pathAt_setSlot_self, Rod.pathAt, hx]
        rfl
      · exact pathAt_setSlot_ne r _ hpos

/-- What the rod is halted or counted for does not move its paths. -/
theorem pathAt_of_run {y r : Rod} (h : { y with run := r.run, skid := r.skid } = r) (pos : Pos) : y.pathAt pos = r.pathAt pos := by
  rw [← h]
  cases pos with
  | slot sl => cases sl <;> rfl
  | stack k => rfl

/-- A lane of a set that a rod carries runs next where the set goes. -/
theorem laneAt_of_carries {y : Rod} {e : LaneSet} (h : Carries y e) {l : Nat} (hl : e.1.has l = true) : LaneAt y l e.2.1 := by
  obtain ⟨pos, p, hp, hmask, hpc, hidx⟩ := h
  refine ⟨p, hmask ▸ hl, hpc, hidx, ?_⟩
  cases pos with
  | slot sl =>
    obtain ⟨x, hx, hxp⟩ := Option.map_eq_some_iff.1 hp
    exact .inl ⟨sl, x, hx, hxp⟩
  | stack k =>
    refine .inr ⟨k, ?_⟩
    rw [Rod.pathAt] at hp
    split at hp
    · next q hq => rw [hq, Option.some.inj hp]
    · cases hp

section
variable {s : State} {i : Iss} (hi : s.issuer = some i) (halone : Lone i) (hdepth : 32 ≤ i.rod.depth)
include hi halone hdepth

/-- The rod of a lone path with a deep stack has a place for every set of a branch. -/
theorem branchTo_places {sets : List (Mask × DWord)} (h : sets.length ≤ 33) :
    ∃ r, (i.rod.issued i.sl).divide i.sl s.cycle (inFrame i sets) = some r ∧
      LeavesRod (branchTo s i sets) i.rid (fun y => ∀ e ∈ sets, ∀ l, e.1.has l = true → LaneAt y l e.2) := by
  have hless : Frameless (i.rod.issued i.sl) :=
    frameless_alone (slot_issued_self hi) ((slot_issued ..).trans halone.other) halone.stack halone.frame
  have hfree : (i.rod.issued i.sl).freeEntries = i.rod.depth := freeEntries_of_empty halone.stack
  have hframe : ∀ e ∈ inFrame i sets, e.2.2 = none := by
    intro e he
    obtain ⟨d, -, rfl⟩ := List.mem_map.1 he
    exact halone.frame
  obtain ⟨r, hr, hplaces⟩ := divide_places (now := s.cycle) (slot_issued_self hi) hless hframe (by rw [length_inFrame]; omega)
  obtain ⟨-, y, hy, hrest⟩ := OnlyRod.setRod_checkHalt i.rid s (r.clauseEnd i.sl i.slot s.cycle)
  refine ⟨r, hr, _, y, branchTo_some hr, hy, fun e he l hl => ?_⟩
  obtain ⟨pos, p, hp, hrest'⟩ := hplaces (e.1, e.2, i.slot.path.frame) (List.mem_map_of_mem he) (ne_zero_of_has hl)
  refine laneAt_of_carries (e := (e.1, e.2, i.slot.path.frame)) ⟨pos, p, ?_, hrest'⟩ hl
  rw [pathAt_of_run hrest, pathAt_clauseEnd r i.sl halone.yield, hp]

/-- Each lane goes to the target of a set that has it. -/
theorem branchTo_lanes {sets : List (Mask × DWord)} (h : sets.length ≤ 33) (tgt : Nat → DWord)
    (hsets : ∀ l, i.slot.path.mask.has l = true → ∃ e ∈ sets, e.1.has l = true ∧ e.2 = tgt l) :
    LeavesRod (branchTo s i sets) i.rid (fun y => ∀ l, i.slot.path.mask.has l = true → LaneAt y l (tgt l)) := by
  obtain ⟨-, -, t, y, ht, hy, hplaces⟩ := branchTo_places hi halone hdepth h
  refine ⟨t, y, ht, hy, fun l hl => ?_⟩
  obtain ⟨e, he, hel, htgt⟩ := hsets l hl
  exact htgt ▸ hplaces e he l hel

theorem br_lanes (g : Guard) (off : BitVec 48) : LeavesRod (exec (.br g off) s) i.rid (fun y => ∀ l, i.slot.path.mask.has l = true →
    LaneAt y l (if (i.part g).has l then i.slot.path.pc + off.signExtend 64 * 8 else i.fall)) := by
  rw [exec_br, execBr, withIss_of hi]
  refine branchTo_lanes hi halone hdepth (Nat.le_of_ble_eq_true rfl) _ fun l hl => ?_
  cases hpart : (i.part g).has l with
  | true => exact ⟨_, List.mem_cons_self, hpart, (if_pos rfl).symm⟩
  | false => exact ⟨_, List.mem_cons_of_mem _ List.mem_cons_self, has_rest hl hpart, (if_neg Bool.false_ne_true).symm⟩

theorem br3_lanes (q : BitVec 4) (t f u : BitVec 16) : LeavesRod (exec (.br3 q t f u) s) i.rid (fun y => ∀ l, i.slot.path.mask.has l = true →
    LaneAt y l (i.slot.path.pc + (if i.rod.pred q.toNat l = 1 then t else if i.rod.pred q.toNat l = 0 then f else u).signExtend 64 * 8)) := by
  rw [exec_br3, execBr3, withIss_of hi]
  refine branchTo_lanes hi halone hdepth (Nat.le_of_ble_eq_true rfl) _ fun l hl => ?_
  have hset : ∀ v, qNorm (i.rod.pred q.toNat l) = v →
      (maskOf (fun k => i.slot.path.mask.has k && qNorm (i.rod.pred q.toNat k) == v)).has l = true := by
    intro v hv
    rw [has_maskOf _ (has_lt hl), hl, hv, beq_self_eq_true, Bool.and_self]
  have hcases : ∀ v : BitVec 2, v = 1 ∧ qNorm v = qT ∨ v = 0 ∧ qNorm v = qF ∨ v ≠ 1 ∧ v ≠ 0 ∧ qNorm v = qU := by decide
  obtain ⟨h1, hv⟩ | ⟨h0, hv⟩ | ⟨h1, h0, hv⟩ := hcases (i.rod.pred q.toNat l)
  · exact ⟨_, List.mem_cons_self, hset qT hv, by rw [if_pos h1]; rfl⟩
  · exact ⟨_, List.mem_cons_of_mem _ List.mem_cons_self, hset qF hv, by rw [h0, if_neg (by decide), if_pos rfl]; rfl⟩
  · exact ⟨_, List.mem_cons_of_mem _ (List.mem_cons_of_mem _ List.mem_cons_self), hset qU hv, by rw [if_neg h1, if_neg h0]; rfl⟩

theorem jmpi_lanes {g : Guard} {a : Operand} (hready : Ready s i [] [(a, 2)])
    (hgood : ∀ l ∈ lanes (i.part g), GoodTarget ((srcs s i g none).d64 .a a l)) :
    LeavesRod (exec (.jmpi g a) s) i.rid (fun y => ∀ l, i.slot.path.mask.has l = true →
      LaneAt y l (if (i.part g).has l then (srcs s i g none).d64 .a a l else i.fall)) := by
  have hlanes : (lanes (i.part g)).length ≤ 32 := by
    rw [lanes]
    exact (List.length_filter_le ..).trans (List.length_range).le
  have hroom : (jmpiSets s i g a).length ≤ 33 := (length_jmpiSets_le s i g a).trans (by omega)
  obtain ⟨r, hr, -⟩ := branchTo_places hi halone hdepth hroom
  rw [jmpi_branches hready hgood, branchTo_setRod hr]
  refine branchTo_lanes hi halone hdepth hroom _ fun l hl => ?_
  cases hpart : (i.part g).has l with
  | true =>
    refine ⟨_, List.mem_append_left _ (mem_targetSets (mem_lanes.2 hpart)), ?_, (if_pos rfl).symm⟩
    rw [has_maskOf _ (has_lt hl), beq_self_eq_true, Bool.and_true, List.contains_iff_mem]
    exact mem_lanes.2 hpart
  | false =>
    exact ⟨_, List.mem_append_right _ (List.mem_singleton.2 rfl), has_rest hl hpart, (if_neg Bool.false_ne_true).symm⟩

end

theorem branchTargets : BranchTargets := fun _ _ g hi halone hdepth =>
  ⟨br_lanes hi halone hdepth g, br3_lanes hi halone hdepth, fun _ hready hgood => jmpi_lanes hi halone hdepth hready hgood,
    fun _ hready ⟨_, hl, hbad⟩ => jmpi_traps hready hl (not_and_or.2 hbad)⟩

/-! ### No room on the stack -/

section
variable {s : State} {i : Iss} (hi : s.issuer = some i) (hfull : i.rod.freeEntry = none)
include hi hfull

theorem join_overflows (off : BitVec 48) : exec (.join off) s = trap s i Cause.divovf := by
  rw [exec_join, execJoin, withIss_of hi, Rod.openFrame, State.issuer_slot hi, hfull]

theorem call_overflows {g : Guard} (off : BitVec 48) (hg : i.part g ≠ 0) : exec (.call g off) s = trap s i Cause.divovf := by
  rw [exec_call, execCall, withIss_of hi, if_neg hg, hfull]

theorem br_overflows {g : Guard} (off : BitVec 48) (hother : (i.rod.slot i.sl.other).isSome = true) (hg : i.part g ≠ 0)
    (hrest : i.slot.path.mask &&& ~~~ i.part g ≠ 0) : exec (.br g off) s = trap s i Cause.divovf := by
  have hother' : ((i.rod.issued i.sl).slot i.sl.other).isSome = true := by rwa [slot_issued]
  rw [exec_br, execBr, withIss_of hi]
  exact congrArg (transfer s i) (divide_full (slot_issued_self hi) hg hrest hother' hfull)

end

theorem divergenceOverflowTraps : DivergenceOverflowTraps := fun _ _ _ off hi hfull =>
  ⟨join_overflows hi hfull off, call_overflows hi hfull off, br_overflows hi hfull off⟩

/-- Settles O7: a branch places its sets in the slot, the other slot and the free entries of the stack, and no path in no frame arrives anywhere. -/
theorem controlInstructions : Obligations.ControlInstructions := ⟨controlChangesPathsOnly, branchTargets, divergenceOverflowTraps⟩

end Sys2Proof.Control
end

section
/-! SUPPORT. The end of an instruction, of a clause and of a lane (R160, R202, R257 to R259). -/

namespace Sys2Proof.Endings
open Sys2Proof.Machine Sys2Proof.Safety Sys2Proof.Laws Sys2Proof.Claims Sys2Proof.Paths Sys2Proof.Control

/-! ### The rod that an instruction leaves -/

/-- The rod y is x but for what it is halted or counted for. -/
def SameButRun (x y : Rod) : Prop := { y with run := x.run, skid := x.skid } = x

theorem SameButRun.slot {x y : Rod} (h : SameButRun x y) (sl : SlotId) : y.slot sl = x.slot sl := by
  unfold SameButRun at h
  rw [← h]
  cases sl <;> rfl

theorem SameButRun.held {x y : Rod} (h : SameButRun x y) : y.held = x.held := by
  unfold SameButRun at h
  rw [← h]

theorem advance_setRod (s : State) (i : Iss) (z : Rod) :
    (s.setRod i.rid z).advance i.rid i.sl = (s.setRod i.rid (z.advance i.sl s.cycle)).checkHalt i.rid := by
  rw [State.advance, modRod_setRod]
  rfl

theorem finish_leaves (s : State) (i : Iss) (z : Rod) : LeavesRod (finish (s.setRod i.rid z) i) i.rid (SameButRun (z.advance i.sl s.cycle)) := by
  obtain ⟨-, y, hy, hrest⟩ := OnlyRod.setRod_checkHalt i.rid s (z.advance i.sl s.cycle)
  rw [finish, advance_setRod]
  exact ⟨_, y, rfl, hy, hrest⟩

theorem finish_issuer {s : State} {i : Iss} (hi : s.issuer = some i) : finish s i = finish (s.setRod i.rid i.rod) i := by
  rw [finish, finish, advance_setRod, State.advance, State.modRod_of _ _ _ _ (State.issuer_rod hi)]

theorem LeavesRod.mono {out : Host.Outcome State Fault Refusal} {r : RodId} {P Q : Rod → Prop} (h : LeavesRod out r P) (hPQ : ∀ y, P y → Q y) :
    LeavesRod out r Q := by
  obtain ⟨t, y, ht, hy, hP⟩ := h
  exact ⟨t, y, ht, hy, hPQ y hP⟩

/-! ### The end of an instruction and of a clause -/

section
variable {z : Rod} {sl : SlotId} {x : Slot} {c : Clause} {now : Nat} (hx : z.slot sl = some x) (hc : x.started = some c)
include hx hc

/-- An instruction that is not the last of its clause goes on to the next. -/
theorem slot_advance_mid (h : x.path.idx + 1 < c.count) :
    (z.advance sl now).slot sl = some { x with path := { x.path with idx := x.path.idx + 1, broke := false }, wait := none } := by
  unfold Rod.advance
  simp only [slot_issued, hx, hc, if_pos h, Rod.slot_setSlot]

/-- The slot of a path that goes on at the clause that follows. -/
def movedOn (x : Slot) (c : Clause) : Slot :=
  { x with path := { x.path with pc := nextClause x.path.pc c.count, idx := 0, broke := false }, started := none, wait := none }

/-- The last instruction of a clause goes on to the clause that follows, and the clause ends. -/
theorem advance_end (h : ¬ x.path.idx + 1 < c.count) (hless : Frameless z) :
    z.advance sl now = ((z.issued sl).setSlot sl (some (movedOn x c))).clauseEnd sl x now := by
  have hissued : Frameless (z.issued sl) := by
    intro pos p hp
    refine hless pos p ?_
    rw [← hp]
    cases pos with
    | slot sl' => rw [Rod.pathAt, Rod.pathAt, slot_issued]
    | stack k => rfl
  have hmoved : Frameless ((z.issued sl).setSlot sl (some (movedOn x c))) := by
    refine hissued.setSlot sl fun y hy => ?_
    cases hy
    exact hless (.slot sl) x.path (by rw [Rod.pathAt, hx]; rfl)
  have hslot : (z.issued sl).slot sl = some x := (slot_issued ..).trans hx
  unfold Rod.advance
  simp only [hslot, hc, if_neg h]
  rw [Rod.goto, hslot]
  exact congrArg (Rod.clauseEnd · sl x now) (settle_frameless hmoved ..)

end

section
variable {r : Rod} {sl : SlotId} {x b : Slot} (now : Nat) (hx : r.slot sl = some x) (hsince : x.since = b.since)
include hx hsince

theorem clauseEnd_plain (hy : b.yields = false) (hn : b.napFor = none) :
    (r.clauseEnd sl b now).slot sl = some { x with napFor := none, yields := false } := by
  simp [Rod.clauseEnd, hx, hsince, hy, hn]

/-- A path that yields with no path stacked forgoes a turn (R258). -/
theorem clauseEnd_yield (hy : b.yields = true) (hn : b.napFor = none) (hstack : r.stack = []) :
    (r.clauseEnd sl b now).slot sl = some { x with napFor := none, yields := false, wait := some .turn } := by
  have hlongest : r.longest = none := by rw [Rod.longest, Rod.runnable, hstack]; rfl
  simp [Rod.clauseEnd, hx, hsince, hy, hn, hlongest]

/-- A path that sleeps waits for its time (R259). -/
theorem clauseEnd_sleep {n : Nat} (hy : b.yields = false) (hn : b.napFor = some n) (hpos : 0 < n) :
    (r.clauseEnd sl b now).slot sl = some { x with napFor := none, yields := false, wait := some (.sleep (now + n)) } := by
  have h0 : n ≠ 0 := Nat.ne_of_gt hpos
  simp [Rod.clauseEnd, hx, hsince, hy, hn, h0]

end

theorem setSlot_self {r : Rod} {sl : SlotId} {x : Slot} (h : r.slot sl = some x) : r.setSlot sl (some x) = r := by
  cases sl <;> rw [← h] <;> rfl

theorem stack_setSlots {r : Rod} (h : r.stack = []) (sl : SlotId) (x y : Option Slot) : (((r.setSlot sl x).issued sl).setSlot sl y).stack = [] := by
  rw [← h]
  cases sl <;> rfl

theorem fall_eq {i : Iss} {c : Clause} (hc : i.slot.started = some c) : i.fall = nextClause i.slot.path.pc c.count := by
  rw [Iss.fall, hc]
  rfl

/-- The last instruction of the clause of a lone path, which has put x in its slot: the clause ends with the path at the clause that follows. -/
theorem finish_ends {s : State} {i : Iss} {c : Clause} (h : i.slot.path.idx + 1 = c.count) (halone : Lone i) {x : Slot}
    (hpath : x.path = i.slot.path) (hstarted : x.started = some c) :
    LeavesRod (finish (s.setRod i.rid (i.rod.setSlot i.sl (some x))) i) i.rid (fun y =>
      y.slot i.sl = ((((i.rod.setSlot i.sl (some x)).issued i.sl).setSlot i.sl (some (movedOn x c))).clauseEnd i.sl x s.cycle).slot i.sl) := by
  have hless : Frameless (i.rod.setSlot i.sl (some x)) := by
    refine frameless_alone (Rod.slot_setSlot ..) ?_ ?_ (hpath ▸ halone.frame)
    · rw [Rod.slot_setSlot_other, halone.other]
    · rw [← halone.stack]
      cases i.sl <;> rfl
  refine LeavesRod.mono (finish_leaves s i _) fun y hy => (hy.slot i.sl).trans ?_
  rw [advance_end (Rod.slot_setSlot ..) hstarted (by rw [hpath]; omega) hless]

section
variable {s : State} {i : Iss} {g : Guard} {c : Clause} (hi : s.issuer = some i) (hc : i.slot.started = some c)
include hi hc

theorem nop_advances (h : i.slot.path.idx + 1 < c.count) : LeavesRod (exec (.nop g) s) i.rid (fun y =>
    y.slot i.sl = some { i.slot with path := { i.slot.path with idx := i.slot.path.idx + 1, broke := false }, wait := none }) := by
  rw [exec_nop, execNop, withIss_of hi, finish_issuer hi]
  exact LeavesRod.mono (finish_leaves s i i.rod) fun y hy => (hy.slot i.sl).trans (slot_advance_mid (State.issuer_slot hi) hc h)

/-- With no `sleep` or `yield` the path stands at the clause that follows. -/
theorem nop_ends (h : i.slot.path.idx + 1 = c.count) (halone : Lone i) : LeavesRod (exec (.nop g) s) i.rid (fun y =>
    At y i.sl (i.slot.path.pc + BitVec.ofNat 64 (8 * (c.count + 1))) i.slot.path.mask none) := by
  rw [exec_nop, execNop, withIss_of hi, finish_issuer hi, ← setSlot_self (State.issuer_slot hi)]
  refine LeavesRod.mono (finish_ends h halone rfl hc) fun y hy => ?_
  exact ⟨_, hy.trans (clauseEnd_plain s.cycle (Rod.slot_setSlot ..) rfl halone.yield halone.nap), rfl, rfl, rfl, rfl, rfl, halone.frame⟩

theorem yield_ends (h : i.slot.path.idx + 1 = c.count) (halone : Lone i) (hg : i.part g ≠ 0) :
    LeavesRod (exec (.yield g) s) i.rid (fun y => ∃ x, y.slot i.sl = some x ∧ x.wait = some .turn ∧ x.path.pc = i.fall) := by
  rw [exec_yield, execYield, withIss_of hi, if_neg hg]
  refine LeavesRod.mono (finish_ends h halone (x := { i.slot with yields := true }) rfl hc) fun y hy => ?_
  exact ⟨_, hy.trans (clauseEnd_yield s.cycle (Rod.slot_setSlot ..) rfl rfl halone.nap (stack_setSlots halone.stack ..)), rfl, (fall_eq hc).symm⟩

end

theorem sleep_ends {s : State} {i : Iss} {g : Guard} {c : Clause} (hc : i.slot.started = some c) (h : i.slot.path.idx + 1 = c.count)
    (halone : Lone i) (hg : i.part g ≠ 0) {a : Operand} {n : Nat} (hready : Ready s i [] [(a, 1)])
    (hn : n = ((srcs s i g none).int .a a false 32 (lowest (i.part g))).toNat) (hpos : 0 < n) :
    LeavesRod (exec (.sleep g a) s) i.rid (fun y => ∃ x, y.slot i.sl = some x ∧ x.wait = some (.sleep (s.cycle + n)) ∧ x.path.pc = i.fall) := by
  have hval : ((ctx0 s i g none).w32 .a a (ctx0 s i g none).low).toNat = n := by
    rw [hn, ← ctx0_int]
    rfl
  have hform : ∀ f : Rod → Rod, (ctx0 s i g none).s.modRod i.rid f = s.setRod i.rid (f i.rod) := fun f => modRod_setRod ..
  rw [exec_sleep, execSleep, issue_ready hready, if_neg (by exact hg), hval, show (ctx0 s i g none).i = i from rfl, hform]
  refine LeavesRod.mono (finish_ends h halone (x := { i.slot with napFor := some n }) rfl hc) fun y hy => ?_
  exact ⟨_, hy.trans (clauseEnd_sleep s.cycle (Rod.slot_setSlot ..) rfl halone.yield rfl hpos), rfl, (fall_eq hc).symm⟩

theorem clauseAdvance : ClauseAdvance := fun _ _ _ _ hi hc =>
  ⟨nop_advances hi hc, fun h halone => ⟨nop_ends hi hc h halone, yield_ends hi hc h halone,
    fun hg _ _ hready hn hpos => sleep_ends hc h halone hg hready hn hpos⟩⟩

/-! ### The end of a lane -/

theorem rods_withdrawSteals (s : State) (p : Nat → CoreId → Bool) : (s.withdrawSteals p).rods = s.rods := rfl

@[simp] theorem rods_outstand (s : State) (lid : Nat) (n : Int) : (s.outstand lid n).rods = s.rods := by
  unfold State.outstand State.modCmd
  cases hcmd : s.cmd lid with
  | none => simp only [hcmd]
  | some x =>
    dsimp only
    split
    · split
      · rfl
      · exact rods_withdrawSteals ..
    · rfl

theorem rod_outstand (s : State) (lid : Nat) (n : Int) (r : RodId) : (s.outstand lid n).rod r = s.rod r := by
  rw [State.rod, rods_outstand]
  rfl

/-- A rod one of whose slots has lanes is live. -/
theorem live_ne_zero {r : Rod} {sl : SlotId} {x : Slot} (hstack : r.stack = []) (hx : r.slot sl = some x) (hm : x.path.mask ≠ 0) : r.live ≠ 0 := by
  intro hlive
  simp only [Rod.live, hstack, List.foldl_nil] at hlive
  obtain ⟨hshadowed, -⟩ := BitVec.or_eq_zero_iff.1 hlive
  obtain ⟨hslots, -⟩ := BitVec.or_eq_zero_iff.1 hshadowed
  obtain ⟨hA, hB⟩ := BitVec.or_eq_zero_iff.1 hslots
  cases sl with
  | a =>
    rw [show r.slotA = some x from hx] at hA
    exact hm hA
  | b =>
    rw [show r.slotB = some x from hx] at hB
    exact hm hB

/-- What is left of a slot's path when lanes leave it. -/
def cutSlot (m : Mask) (x : Slot) : Option Slot :=
  if x.path.mask &&& ~~~m = 0 then none else some { x with path := { x.path with mask := x.path.mask &&& ~~~m } }

theorem slot_dropLanes (r : Rod) (m : Mask) (sl : SlotId) : (r.dropLanes m).slot sl = (r.slot sl).bind (cutSlot m) := by cases sl <;> rfl

theorem slot_mergeOld (r : Rod) (now : Nat) (sl : SlotId) : (r.mergeOld now).slot sl = r.slot sl := by
  unfold Rod.mergeOld
  split
  · rfl
  · cases sl <;> rfl

theorem held_mergeOld (r : Rod) (now : Nat) : (r.mergeOld now).held = r.held := by
  unfold Rod.mergeOld
  split <;> rfl

theorem stack_mergeOld {r : Rod} (h : r.stack = []) (now : Nat) : (r.mergeOld now).stack = [] := by
  unfold Rod.mergeOld
  split
  · exact h
  · exact congrArg _ h

theorem stack_dropLanes {r : Rod} (h : r.stack = []) (m : Mask) : (r.dropLanes m).stack = [] := by
  rw [Rod.dropLanes, h]
  rfl

theorem stack_setSlot (r : Rod) (sl : SlotId) (x : Option Slot) : (r.setSlot sl x).stack = r.stack := by cases sl <;> rfl

theorem held_setSlot (r : Rod) (sl : SlotId) (x : Option Slot) : (r.setSlot sl x).held = r.held := by cases sl <;> rfl

theorem and_not_of_disjoint {m p : Mask} (h : m &&& p = 0) : m &&& ~~~p = m := by
  refine BitVec.eq_of_getLsbD_eq fun k hk => ?_
  have hk' : (m &&& p).getLsbD k = false := by rw [h]; simp
  rw [BitVec.getLsbD_and] at hk'
  rw [BitVec.getLsbD_and, BitVec.getLsbD_not, decide_eq_true hk, Bool.true_and]
  revert hk'
  cases m.getLsbD k <;> cases p.getLsbD k <;> decide

/-- Lanes that share nothing with a path leave it as it was. -/
theorem cutSlot_disjoint {m : Mask} {x : Slot} (h : x.path.mask &&& m = 0) (hx : x.path.mask ≠ 0) : cutSlot m x = some x := by
  rw [cutSlot, and_not_of_disjoint h, if_neg hx]

/-- The only path of a slot leaves with all its lanes: with nothing on the stack the slot stays empty. -/
theorem exitLanes_empty {r : Rod} {sl : SlotId} {x : Slot} {m : Mask} (now : Nat) (hx : r.slot sl = some x) (hall : x.path.mask &&& ~~~m = 0)
    (hstack : r.stack = []) : r.exitLanes sl m now = ((r.dropLanes m).mergeOld now).setSlot sl none := by
  have hslot : ((r.dropLanes m).mergeOld now).slot sl = none := by
    rw [slot_mergeOld, slot_dropLanes, hx, Option.bind_some, cutSlot, if_pos hall]
  have hstack' : ((r.dropLanes m).mergeOld now).stack = [] := stack_mergeOld (stack_dropLanes hstack m) now
  have hcomplete : ((r.dropLanes m).mergeOld now).complete = none := by rw [Rod.complete, hstack']; rfl
  have hlongest : ((r.dropLanes m).mergeOld now).longest = none := by rw [Rod.longest, Rod.runnable, hstack']; rfl
  rw [Rod.exitLanes, hslot]
  simp only [hcomplete, Rod.refill, hlongest]

/-- A rod of which lanes no longer hold items. -/
def released (m : Mask) (x : Rod) : Rod := { x with held := x.held &&& ~~~m }

theorem slot_issued_released (m : Mask) (r : Rod) (sl sl' : SlotId) : ((released m r).issued sl).slot sl' = r.slot sl' := by cases sl' <;> rfl

/-- The issuing rod once all lanes of its path have left. -/
def exited (s : State) (i : Iss) (g : Guard) : Rod := ((released (i.part g) i.rod).issued i.sl).exitLanes i.sl (i.part g) s.cycle

/-- The state in which the items of the lanes that exit have finished. -/
def finished (s : State) (i : Iss) (m : Mask) : State := s.outstand (s.launchOf i.rid) (-(count (m &&& i.rod.held) : Int))

section
variable {s : State} {i : Iss} {g : Guard} (hi : s.issuer = some i)
include hi

theorem rod_finished (m : Mask) : (finished s i m).rod i.rid = some i.rod := (rod_outstand ..).trans (State.issuer_rod hi)

theorem exit_none (hg : i.part g = 0) : Completes (exec (.exit g) s) s i.rid i.rod := by
  rw [exec_exit, execExit, withIss_of hi, if_pos hg]
  exact finish_same s i (State.issuer_rod hi)

theorem exit_waits (hg : i.part g ≠ 0) (hops : s.opsDone i.rid = false) : Waits (exec (.exit g) s) s i .ops := by
  rw [exec_exit, execExit, withIss_of hi, if_neg hg, if_pos (by rw [hops]; exact Bool.false_ne_true)]
  exact Ports.issuer_waits hi .ops

theorem exit_traps (hg : i.part g ≠ 0) (hops : s.opsDone i.rid = true) (hlate : i.rod.lateCauses ≠ 0) (hin : i.rod.inHandler = false) :
    exec (.exit g) s = trap s i 0 := by
  rw [exec_exit, execExit, withIss_of hi, if_neg hg, if_neg (not_not.2 hops), if_pos ⟨hlate, hin⟩]

/-- Lanes of a path leave while others of it go on. -/
theorem exit_some (hg : i.part g ≠ 0) (hops : s.opsDone i.rid = true) (hlate : i.rod.lateCauses = 0) (hrest : i.slot.path.mask &&& ~~~ i.part g ≠ 0) :
    Issues (exec (.exit g) s) i (fun u => u.rod i.rid = some (((released (i.part g) i.rod).dropLanes (i.part g)).mergeOld s.cycle)) := by
  rw [exec_exit, execExit, withIss_of hi, if_neg hg, if_neg (not_not.2 hops), if_neg (fun h => h.1 hlate)]
  dsimp only
  rw [← finished, State.modRod_of _ _ _ _ (rod_finished hi _), modRod_setRod, if_pos hrest]
  exact ⟨_, rfl, State.rod_setRod ..⟩

/-- The rod whose only path on the stack and in the slot has left with all its lanes. -/
theorem exited_eq (hrest : i.slot.path.mask &&& ~~~ i.part g = 0) (hstack : i.rod.stack = []) :
    exited s i g = ((((released (i.part g) i.rod).issued i.sl).dropLanes (i.part g)).mergeOld s.cycle).setSlot i.sl none :=
  exitLanes_empty s.cycle ((slot_issued_released ..).trans (State.issuer_slot hi)) hrest hstack

theorem stack_exited (hrest : i.slot.path.mask &&& ~~~ i.part g = 0) (hstack : i.rod.stack = []) : (exited s i g).stack = [] := by
  rw [exited_eq hi hrest hstack, stack_setSlot]
  exact stack_mergeOld (stack_dropLanes (r := (released (i.part g) i.rod).issued i.sl) hstack _) _

theorem held_exited (hrest : i.slot.path.mask &&& ~~~ i.part g = 0) (hstack : i.rod.stack = []) : (exited s i g).held = i.rod.held &&& ~~~ i.part g := by
  rw [exited_eq hi hrest hstack, held_setSlot, held_mergeOld]
  rfl

theorem slot_exited_other (hrest : i.slot.path.mask &&& ~~~ i.part g = 0) (hstack : i.rod.stack = []) {x : Slot} (hx : i.rod.slot i.sl.other = some x)
    (hdisj : x.path.mask &&& i.part g = 0) (hm : x.path.mask ≠ 0) : (exited s i g).slot i.sl.other = some x := by
  rw [exited_eq hi hrest hstack, Rod.slot_setSlot_other, slot_mergeOld, slot_dropLanes, slot_issued_released, hx]
  exact cutSlot_disjoint hdisj hm

/-- All lanes of a path leave, and the rod's other path goes on. -/
theorem exit_all (hall : i.part g = i.slot.path.mask) (hg : i.part g ≠ 0) (hops : s.opsDone i.rid = true) (hlate : i.rod.lateCauses = 0)
    (hstack : i.rod.stack = []) {x : Slot} (hx : i.rod.slot i.sl.other = some x) (hdisj : x.path.mask &&& i.part g = 0) (hm : x.path.mask ≠ 0) :
    LeavesRod (exec (.exit g) s) i.rid (fun y => y.slot i.sl = none ∧ y.held = i.rod.held &&& ~~~ i.part g ∧
      ∃ z, y.slot i.sl.other = some z ∧ z.path = x.path) := by
  have hrest : i.slot.path.mask &&& ~~~ i.part g = 0 := by rw [hall]; exact BitVec.and_not_self ..
  have hlive : (exited s i g).live ≠ 0 := live_ne_zero (stack_exited hi hrest hstack) (slot_exited_other hi hrest hstack hx hdisj hm) hm
  obtain ⟨-, y, hy, hrun⟩ := OnlyRod.setRod_checkHalt i.rid (finished s i (i.part g)) (exited s i g)
  have hsame : SameButRun (exited s i g) y := hrun
  refine ⟨_, y, ?_, hy, ?_, ?_, x, ?_, rfl⟩
  · rw [exec_exit, execExit, withIss_of hi, if_neg hg, if_neg (not_not.2 hops), if_neg (fun h => h.1 hlate)]
    dsimp only
    rw [← finished, State.modRod_of _ _ _ _ (rod_finished hi _), modRod_setRod, if_neg (not_not.2 hrest), modRod_setRod, ← released, ← exited,
      State.rod_setRod, if_pos (by exact hlive)]
  · rw [hsame.slot, exited_eq hi hrest hstack, Rod.slot_setSlot]
  · rw [hsame.held, held_exited hi hrest hstack]
  · rw [hsame.slot, slot_exited_other hi hrest hstack hx hdisj hm]

end

theorem exitRemovesLanes : ExitRemovesLanes := fun _ _ _ hi =>
  ⟨exit_none hi, exit_waits hi, exit_traps hi, exit_some hi, fun hall hg hops hlate hstack _ hx hdisj hm => exit_all hi hall hg hops hlate hstack hx hdisj hm⟩

/-- Settles O8: no path in no frame arrives anywhere at the end of its clause, and lanes that exit leave the slots in which they stand. -/
theorem clauseAdvanceAndExit : Obligations.ClauseAdvanceAndExit := ⟨clauseAdvance, exitRemovesLanes⟩

end Sys2Proof.Endings
end

section
/-! SUPPORT. The work pool: segments, pushes, pops and the pool instructions (R168 to R170, R174, R263 to R269). -/

namespace Sys2Proof.WorkPool
open Sys2Proof.Machine Sys2Proof.Safety Sys2Proof.Laws Sys2Proof.Claims Sys2Proof.Paths Sys2Proof.Control

/-! ### Words and predicates of lanes -/

/-- Words written from word k on, of lane l: word j of lane m. -/
theorem lw_foldl_zipIdx (ws : List Word) (k n : Nat) {l m : Nat} (hl : l < 32) (hm : m < 32) (x : Rod) (j : Nat) :
    ((ws.zipIdx n).foldl (fun (x : Rod) e => x.setLw (k + e.2) l e.1) x).lw j m =
      if k + n ≤ j ∧ j < k + n + ws.length ∧ m = l then ws.getD (j - (k + n)) 0 else x.lw j m := by
  induction ws generalizing n x with
  | nil =>
    rw [if_neg (by simp; omega)]
    rfl
  | cons w ws ih =>
    rw [List.zipIdx_cons, List.foldl_cons, ih, Rod.lw_setLw _ _ _ _ _ _ hl hm, List.length_cons]
    by_cases hj : j = k + n ∧ m = l
    · obtain ⟨rfl, rfl⟩ := hj
      rw [if_neg (by omega), if_pos ⟨rfl, rfl⟩, if_pos (by omega), Nat.sub_self]
      rfl
    · rw [if_neg (c := j = k + n ∧ m = l) hj]
      by_cases hin : k + (n + 1) ≤ j ∧ j < k + (n + 1) + ws.length ∧ m = l
      · rw [if_pos hin, if_pos (by omega), show j - (k + n) = (j - (k + (n + 1))) + 1 by omega]
        rfl
      · rw [if_neg hin, if_neg (by omega)]

theorem lw_setWords (x : Rod) (k : Nat) {l m : Nat} (hl : l < 32) (hm : m < 32) (ws : List Word) (j : Nat) :
    (x.setWords k l ws).lw j m = if k ≤ j ∧ j < k + ws.length ∧ m = l then ws.getD (j - k) 0 else x.lw j m :=
  lw_foldl_zipIdx ws k 0 hl hm x j

/-- Words given to lanes, an entry of 16 for each. -/
def giveWords (d : Nat) (got : List (Nat × List Word)) (x : Rod) : Rod := got.foldl (fun (x : Rod) e => x.setWords d e.1 e.2) x

section
variable {d l : Nat} (hl : l < 32) {got : List (Nat × List Word)} (hgot : ∀ e ∈ got, e.1 < 32)
include hl hgot

/-- A lane that gets nothing keeps its words. -/
theorem lw_giveWords_other (x : Rod) (h : ∀ e ∈ got, e.1 ≠ l) (j : Nat) : (giveWords d got x).lw j l = x.lw j l := by
  induction got generalizing x with
  | nil => rfl
  | cons e r ih =>
    rw [giveWords, List.foldl_cons]
    refine (ih (fun a ha => hgot a (List.mem_cons_of_mem _ ha)) _ (fun a ha => h a (List.mem_cons_of_mem _ ha))).trans ?_
    rw [lw_setWords _ _ (hgot e List.mem_cons_self) hl, if_neg]
    rintro ⟨-, -, hle⟩
    exact h e List.mem_cons_self hle.symm

/-- A lane that gets an entry reads its words. -/
theorem lw_giveWords (x : Rod) (hnodup : (got.map Prod.fst).Nodup) {w : List Word} (hw : (l, w) ∈ got) {k : Nat} (hk : k < w.length) :
    (giveWords d got x).lw (d + k) l = w.getD k 0 := by
  induction got generalizing x with
  | nil => cases hw
  | cons e r ih =>
    have hr : ∀ a ∈ r, a.1 < 32 := fun a ha => hgot a (List.mem_cons_of_mem _ ha)
    rw [List.map_cons, List.nodup_cons] at hnodup
    rw [giveWords, List.foldl_cons]
    obtain rfl | hw := List.mem_cons.1 hw
    · refine (lw_giveWords_other hl hr _ (fun a ha hal => hnodup.1 (by rw [← show a.1 = l from hal]; exact List.mem_map.2 ⟨a, ha, rfl⟩)) _).trans ?_
      rw [lw_setWords _ _ hl hl, if_pos ⟨Nat.le_add_right .., Nat.add_lt_add_left hk d, rfl⟩, Nat.add_sub_cancel_left]
    · exact ih hr _ hnodup.2 hw

end

theorem setPreds_congr {x : Rod} {m : Mask} {n : Nat} {f f' : Nat → BitVec 2} (h : ∀ l ∈ lanes m, f l = f' l) : x.setPreds m n f = x.setPreds m n f' :=
  List.foldl_ext _ _ _ fun y l hl => by rw [h l hl]

theorem lw_setPreds (x : Rod) (m : Mask) (n : Nat) (f : Nat → BitVec 2) (j l : Nat) : (x.setPreds m n f).lw j l = x.lw j l := by
  have hfold : ∀ ls : List Nat, ∀ y : Rod, (ls.foldl (fun y l => y.setPred n l (f l)) y).lw j l = y.lw j l := by
    intro ls
    induction ls with
    | nil => exact fun y => rfl
    | cons k ls ih =>
      intro y
      rw [List.foldl_cons, ih, Rod.lw, Rod.lw, Rod.setPred_regBad, Rod.setPred_w]
  exact hfold (lanes m) x

theorem held_setPreds (x : Rod) (m : Mask) (n : Nat) (f : Nat → BitVec 2) : (x.setPreds m n f).held = x.held :=
  List.foldlRecOn (motive := fun y : Rod => y.held = x.held) (lanes m) _ rfl fun y hy l _ => (Rod.setPred_held y n l (f l)).trans hy

/-- A lane whose predicate is written reads it. -/
theorem pred_setPreds {x : Rod} {m : Mask} {n l : Nat} {f : Nat → BitVec 2} (h0 : n ≠ 0) (hn : n < 16) (hl : l ∈ lanes m) :
    (x.setPreds m n f).pred n l = f l := by
  have hfold : ∀ ls : List Nat, ∀ y : Rod, (y.pred n l = f l ∨ l ∈ ls) → (ls.foldl (fun y l => y.setPred n l (f l)) y).pred n l = f l := by
    intro ls
    induction ls with
    | nil => exact fun y hy => hy.resolve_right (List.not_mem_nil)
    | cons k ls ih =>
      intro y hy
      refine ih _ ?_
      by_cases hk : l = k
      · subst hk
        exact .inl (by rw [Rod.pred_setPred _ _ _ _ _ _ hn hn, if_pos ⟨rfl, rfl, h0⟩])
      · rw [Rod.pred_setPred _ _ _ _ _ _ hn hn, if_neg (fun h => hk h.2.1)]
        exact hy.imp_right fun hmem => (List.mem_cons.1 hmem).resolve_left hk
  exact hfold (lanes m) x (.inr hl)

theorem toNat_ne_zero {n : Nat} {q : BitVec n} (h : q ≠ 0) : q.toNat ≠ 0 := fun h0 => h (BitVec.eq_of_toNat_eq h0)

/-! ### The segment and the outstanding count (R168, R174) -/

/-- A launch has n items outstanding, and the segment on a core. -/
def Stock (s : State) (u : PoolFor) (n : Nat) (g : Segment) : Prop :=
  ∃ c, s.cmd u.lid = some c ∧ c.outstanding = n ∧ c.segs.find (coreKey u.core) = some g

theorem Stock.of_cmds {s t : State} {u : PoolFor} {n : Nat} {g : Segment} (h : Stock s u n g) (hcmds : t.cmds = s.cmds) : Stock t u n g := by
  obtain ⟨c, hc, hrest⟩ := h
  exact ⟨c, by rw [← hc, State.cmd, State.cmd, hcmds], hrest⟩

theorem cmds_withdrawSteals (s : State) (p : Nat → CoreId → Bool) : (s.withdrawSteals p).cmds = s.cmds := rfl

section
variable {s : State} {u : PoolFor} {n : Nat} {g : Segment} (h : Stock s u n g)
include h

theorem Stock.seg : s.seg u.lid u.core = some g := by
  obtain ⟨c, hc, -, hg⟩ := h
  rw [State.seg, hc]
  exact hg

theorem Stock.outstanding : (s.cmd u.lid).map (·.outstanding) = some n := by
  obtain ⟨c, hc, hn, -⟩ := h
  rw [hc, Option.map_some, hn]

theorem Stock.setSeg (g' : Segment) : Stock (s.setSeg u.lid u.core (some g')) u n g' := by
  obtain ⟨c, hc, hn, -⟩ := h
  refine ⟨{ c with segs := c.segs.put (coreKey u.core) g' }, ?_, hn, Tbl.find_put_self ..⟩
  rw [State.setSeg, State.modCmd, hc]
  exact Tbl.find_put_self ..

theorem Stock.outstand (k : Int) : Stock (s.outstand u.lid k) u ((n : Int) + k).toNat g := by
  obtain ⟨c, hc, rfl, hg⟩ := h
  have hcmd : (s.modCmd u.lid (fun x => { x with outstanding := ((x.outstanding : Int) + k).toNat })).cmd u.lid =
      some { c with outstanding := ((c.outstanding : Int) + k).toNat } := by
    rw [State.modCmd, hc]
    exact Tbl.find_put_self ..
  have hstock : Stock (s.modCmd u.lid (fun x => { x with outstanding := ((x.outstanding : Int) + k).toNat })) u ((c.outstanding : Int) + k).toNat g :=
    ⟨_, hcmd, rfl, hg⟩
  unfold State.outstand
  simp only [hcmd]
  split
  · exact hstock
  · exact hstock.of_cmds (cmds_withdrawSteals ..)

end

theorem cmds_modRod (s : State) (r : RodId) (f : Rod → Rod) : (s.modRod r f).cmds = s.cmds := by
  unfold State.modRod
  split <;> rfl

theorem cmds_inherit (s : State) (r : RodId) : (s.inherit r).cmds = s.cmds := by
  unfold State.inherit
  split
  · rfl
  · exact cmds_modRod ..

theorem rods_setSeg (s : State) (lid : Nat) (c : CoreId) (g : Option Segment) : (s.setSeg lid c g).rods = s.rods := by
  unfold State.setSeg State.modCmd
  split <;> rfl

theorem dies_setSeg (s : State) (lid : Nat) (c : CoreId) (g : Option Segment) : (s.setSeg lid c g).dies = s.dies := by
  unfold State.setSeg State.modCmd
  split <;> rfl

/-- While items stay outstanding no steal request is withdrawn. -/
theorem Stock.dies_outstand {s : State} {u : PoolFor} {n : Nat} {g : Segment} (h : Stock s u n g) : (s.outstand u.lid 1).dies = s.dies := by
  obtain ⟨c, hc, rfl, -⟩ := h
  have hcmd : (s.modCmd u.lid (fun x => { x with outstanding := ((x.outstanding : Int) + 1).toNat })).cmd u.lid =
      some { c with outstanding := ((c.outstanding : Int) + 1).toNat } := by
    rw [State.modCmd, hc]
    exact Tbl.find_put_self ..
  have hpos : ((c.outstanding : Int) + 1).toNat ≠ 0 := by omega
  unfold State.outstand
  simp only [hcmd, if_pos hpos]
  rw [State.modCmd, hc]
  rfl

/-! ### Pushes and pops (R169, R170) -/

section
variable {t : State} {u : PoolFor} {n : Nat} {g : Segment} {p : Packet}

/-- With room and no thief waiting an item goes to the segment. -/
theorem push_item (h : Stock t u n g) (hmail : (t.die u.core.die).mailbox = []) (hroom : g.entries.length < p.poolE) (rel : Bool) (item : List Word) :
    ∃ t', t.poolPushItem u p rel item = .ok (0, t') ∧ Stock t' u (n + 1) { g with entries := item :: g.entries } ∧
      (t'.die u.core.die).mailbox = [] ∧ t'.rods = t.rods := by
  have hput := h.setSeg { g with entries := item :: g.entries }
  refine ⟨(t.setSeg u.lid u.core (some { g with entries := item :: g.entries })).outstand u.lid 1, ?_, hput.outstand 1, ?_, ?_⟩
  · unfold State.poolPushItem
    simp only [hmail, List.find?_nil, h.seg, if_pos hroom]
  · rw [State.die, hput.dies_outstand, dies_setSeg]
    exact hmail
  · rw [Endings.rods_outstand, rods_setSeg]

theorem pushLanes_stock (rel : Bool) (k : Word) (items : List (Nat × List Word)) (h : Stock t u n g) (hmail : (t.die u.core.die).mailbox = [])
    (hroom : g.entries.length + items.length ≤ p.poolE) : ∃ t', pushLanes u p rel items t k = .ok (k, t') ∧
      Stock t' u (n + items.length) { g with entries := (items.map Prod.snd).reverse ++ g.entries } ∧ t'.rods = t.rods := by
  induction items generalizing t n g with
  | nil => exact ⟨t, rfl, h, rfl⟩
  | cons e items ih =>
    rw [List.length_cons] at hroom
    obtain ⟨t', hpush, h', hmail', hrods⟩ := push_item (p := p) h hmail (by omega) rel e.2
    obtain ⟨t2, hpushes, h2, hrods2⟩ := ih h' hmail' (by rw [List.length_cons]; omega)
    refine ⟨t2, ?_, ?_, hrods2.trans hrods⟩
    · have hk : k ||| 0 = k := BitVec.or_zero
      rw [pushLanes, hpush]
      simp only [hk]
      exact hpushes
    · rw [List.length_cons, List.map_cons, List.reverse_cons, List.append_assoc, Nat.add_comm items.length, ← Nat.add_assoc]
      exact h2

/-- A lane pops the newest entry of a segment that has received none from another. -/
theorem pop_own (h : Stock t u n g) (hrecv : g.recv = none) {e : List Word} {rest : List (List Word)} (hentries : g.entries = e :: rest) :
    t.poolPopItem u p = .ok (.own e, t.setSeg u.lid u.core (some { g with entries := rest })) := by
  unfold State.poolPopItem
  simp only [h.seg, hrecv, hentries]

theorem popLanes_own (ls : List Nat) (k : Taken) (h : Stock t u n g) (hrecv : g.recv = none) (hlen : ls.length ≤ g.entries.length) :
    ∃ t', popLanes u p ls t k = .ok ({ k with got := k.got ++ ls.zip g.entries }, t') ∧
      Stock t' u n { g with entries := g.entries.drop ls.length } ∧ t'.rods = t.rods := by
  induction ls generalizing t g k with
  | nil => exact ⟨t, by rw [popLanes, List.zip_nil_left, List.append_nil], h, rfl⟩
  | cons l ls ih =>
    cases hentries : g.entries with
    | nil => simp [hentries] at hlen
    | cons e rest =>
      rw [hentries, List.length_cons, List.length_cons] at hlen
      obtain ⟨t', hpops, h', hrods⟩ := ih { k with got := k.got ++ [(l, e)] } (h.setSeg { g with entries := rest }) hrecv (Nat.le_of_succ_le_succ hlen)
      refine ⟨t', ?_, h', hrods.trans (rods_setSeg ..)⟩
      rw [popLanes, pop_own h hrecv hentries]
      simp only [hpops, List.zip_cons_cons, List.append_assoc, List.singleton_append]

/-- With nothing in the segment and no spill area no lane pops anything. -/
theorem popLanes_nothing (ls : List Nat) (k : Taken) (h : Stock t u n g) (hrecv : g.recv = none) (hentries : g.entries = []) (hsp : p.spCap = 0) :
    popLanes u p ls t k = .ok (k, t) := by
  have hpop : t.poolPopItem u p = .ok (.nothing, t) := by
    unfold State.poolPopItem
    simp only [h.seg, hrecv, hentries, if_pos hsp]
  induction ls with
  | nil => rfl
  | cons l ls ih =>
    rw [popLanes, hpop]
    exact ih

end

/-! ### The course of a pool form (R263) -/

/-- For whom the pool works when a pair issues. -/
def poolOf (s : State) (i : Iss) : PoolFor := { lid := s.launchOf i.rid, core := s.coreOf i.rid, denied := i.denied, rod := some i.rid }

section
variable {s : State} {i : Iss} {p : Packet} {g : Guard} {ds os : List (Operand × Nat)} (hready : Ready s i ds os)
  (hp : s.packet (s.launchOf i.rid) = some p) (k : Ctx → Packet → PoolFor → Res)
include hready hp

theorem poolForm_pool (hpool : p.poolK ≠ 0) : poolForm s g ds os k = k (ctx0 s i g none) p (poolOf s i) := by
  have hp' : (ctx0 s i g none).s.packet ((ctx0 s i g none).s.launchOf (ctx0 s i g none).i.rid) = some p := hp
  rw [poolForm, issue_ready hready]
  simp only [hp', if_neg hpool]
  rfl

theorem poolForm_illegal (hpool : p.poolK = 0) : poolForm s g ds os k = trap s i Cause.illegal := by
  have hp' : (ctx0 s i g none).s.packet ((ctx0 s i g none).s.launchOf (ctx0 s i g none).i.rid) = some p := hp
  rw [poolForm, issue_ready hready]
  simp only [hp', if_pos hpool]
  rfl

end

section
variable {s : State} {i : Iss} {p : Packet} {cmd : Cmd} {seg : Segment} (hpr : PoolReady s i p cmd seg)
include hpr

theorem packet_ready : s.packet (s.launchOf i.rid) = some p := by
  rw [State.packet, hpr.hasCmd, Option.bind_some, Cmd.packet, hpr.hasPacket]

theorem poolForm_ready {g : Guard} {ds os : List (Operand × Nat)} (hready : Ready s i ds os) (k : Ctx → Packet → PoolFor → Res) :
    poolForm s g ds os k = k (ctx0 s i g none) p (poolOf s i) := poolForm_pool hready (packet_ready hpr) k hpr.hasPool

theorem stock_ready : Stock s (poolOf s i) cmd.outstanding seg := ⟨cmd, hpr.hasCmd, rfl, hpr.hasSeg⟩

end

/-! ### `fork` and `split` (R264, R265, R267) -/

theorem any_fst {α : Type} (items : List (Nat × α)) (l : Nat) : items.any (·.1 == l) = (items.map Prod.fst).contains l := by
  rw [List.contains_eq_any_beq, List.any_map]
  congr 1
  funext e
  exact Bool.beq_comm

/-- Pushes for which the segment has room: every lane's predicate is T. -/
theorem pushForm_issues {c : Ctx} {p : Packet} {u : PoolFor} {items : List (Nat × List Word)} {n : Nat} {seg : Segment} {x : Rod} (q : BitVec 4)
    (put : Rod → Rod) (hrel : c.s.released c.i.rid .core = true) (hheld : ∀ l ∈ lanes c.g, c.i.rod.held.has l = true)
    (hlanes : items.map Prod.fst = lanes c.g) (h : Stock c.s u n seg) (hmail : (c.s.die u.core.die).mailbox = [])
    (hroom : seg.entries.length + (lanes c.g).length ≤ p.poolE) (hrod : c.s.rod c.i.rid = some x) :
    Issues (pushForm c p u items q put) c.i (fun t =>
      Stock t u (n + (lanes c.g).length) { seg with entries := (items.map Prod.snd).reverse ++ seg.entries } ∧
      t.rod c.i.rid = some ((put x).setPreds c.g q.toNat (fun _ => 1))) := by
  have hlen : items.length = (lanes c.g).length := by rw [← hlanes, List.length_map]
  have hnone : (lanes c.g).any (fun l => !c.i.rod.held.has l) = false := List.any_eq_false.2 fun l hl => by simp [hheld l hl]
  obtain ⟨t, hpush, ht, hrods⟩ := pushLanes_stock (c.s.released c.i.rid .die) 0 items h hmail (hlen ▸ hroom)
  have htrod : t.rod c.i.rid = some x := by rw [← hrod, State.rod, State.rod, hrods]
  have hpreds : ∀ l ∈ lanes c.g, (if items.any (·.1 == l) then (1 : BitVec 2) else 0) = 1 := by
    intro l hl
    rw [any_fst, hlanes, List.contains_iff_mem.2 hl, if_pos rfl]
  refine ⟨(t.modRod c.i.rid put).modRod c.i.rid (fun x => x.setPreds c.g q.toNat (fun l => if items.any (·.1 == l) then 1 else 0)), ?_, ?_, ?_⟩
  · unfold pushForm
    simp only [hnone, Bool.false_eq_true, if_false, hpush, Blocks.raise_zero]
    rw [if_neg (not_not.2 hrel)]
    rfl
  · rw [← hlen]
    exact ht.of_cmds ((cmds_modRod ..).trans (cmds_modRod ..))
  · rw [State.modRod_of _ _ _ _ htrod, modRod_setRod, State.rod_setRod, setPreds_congr hpreds]

theorem held_of_part {m h : Mask} (hmh : m &&& ~~~h = 0) : ∀ l ∈ lanes m, h.has l = true := by
  intro l hl
  by_contra hno
  exact ne_zero_of_has (has_rest (mem_lanes.1 hl) (Bool.eq_false_iff.2 hno)) hmh

/-- What `split` makes of a lane: the interval that stays with it and the entry that it pushes. -/
def cutOf (i : Iss) (v : View) (x b : BitVec 8) (n : BitVec 4) (l : Nat) : Option (Nat × List Word × List Word) :=
  if ¬ i.rod.held.has l then none
  else (splitIv v.fmt ((Pair.ofWords v (i.rod.lws x.toNat v.words l)).iv v.fmt)).map (fun e =>
    (l, (v.fmt.out e.1 false).pair.words v, poolEntry ((v.fmt.out e.2 false).pair.words v ++ i.rod.lws b.toNat n.toNat l)))

/-- With every interval divisible each lane has a cut. -/
theorem map_fst_cuts {i : Iss} {v : View} {x b : BitVec 8} {n : BitVec 4} {ls : List Nat} (hhas : ∀ l ∈ ls, i.rod.held.has l = true)
    (hsplit : ∀ l ∈ ls, (splitIv v.fmt ((Pair.ofWords v (i.rod.lws x.toNat v.words l)).iv v.fmt)).isSome = true) :
    (ls.filterMap (cutOf i v x b n)).map Prod.fst = ls := by
  induction ls with
  | nil => rfl
  | cons l ls ih =>
    obtain ⟨e, he⟩ := Option.isSome_iff_exists.1 (hsplit l List.mem_cons_self)
    have hcut : ∃ w, cutOf i v x b n l = some (l, w) := by
      rw [cutOf, if_neg (not_not.2 (hhas l List.mem_cons_self)), he]
      exact ⟨_, rfl⟩
    obtain ⟨w, hw⟩ := hcut
    rw [List.filterMap_cons_some hw, List.map_cons, ih (fun k hk => hhas k (List.mem_cons_of_mem _ hk)) (fun k hk => hsplit k (List.mem_cons_of_mem _ hk))]

section
variable {s : State} {i : Iss} {p : Packet} {cmd : Cmd} {seg : Segment} {g : Guard} (hpr : PoolReady s i p cmd seg)
  (hrel : s.released i.rid .core = true) (hheld : i.part g &&& ~~~ i.rod.held = 0) (hroom : seg.entries.length + (lanes (i.part g)).length ≤ p.poolE)
include hpr hrel hheld hroom

/-- What pushes of one item a lane leave. -/
theorem push_issues (hi : s.issuer = some i) {items : List (Nat × List Word)} (q : BitVec 4) (put : Rod → Rod)
    (hlanes : items.map Prod.fst = lanes (i.part g)) :
    Issues (pushForm (ctx0 s i g none) p (poolOf s i) items q put) i (fun t =>
      Stock t (poolOf s i) (cmd.outstanding + (lanes (i.part g)).length) { seg with entries := (items.map Prod.snd).reverse ++ seg.entries } ∧
      t.rod i.rid = some ((put i.rod).setPreds (i.part g) q.toNat (fun _ => 1))) := by
  exact pushForm_issues (c := ctx0 s i g none) q put ((Lanes.released_setRod (State.issuer_rod hi) _).trans hrel) (held_of_part hheld) hlanes
    ((stock_ready hpr).of_cmds rfl) hpr.noThief hroom (State.rod_setRod ..)

theorem fork_issues (q : BitVec 4) {b : BitVec 8} {n : BitVec 4} (hready : Ready s i [] [(.w b, n.toNat + 1)]) :
    Issues (exec (.fork g q b n) s) i (fun u =>
      u.seg (s.launchOf i.rid) (s.coreOf i.rid) = some { seg with
        entries := ((lanes (i.part g)).map (fun l => poolEntry (i.rod.lws b.toNat (n.toNat + 1) l))).reverse ++ seg.entries } ∧
      ((u.cmd (s.launchOf i.rid)).map (·.outstanding)) = some (cmd.outstanding + (lanes (i.part g)).length) ∧
      u.rod i.rid = some (i.rod.setPreds (i.part g) q.toNat (fun _ => 1))) := by
  have hall : i.part g &&& i.rod.held = i.part g := by
    have := Endings.and_not_of_disjoint hheld
    rwa [BitVec.not_not] at this
  have hlanes : ((lanes (i.part g)).map (fun l => (l, poolEntry (i.rod.lws b.toNat (n.toNat + 1) l)))).map Prod.fst = lanes (i.part g) := by
    rw [List.map_map]
    exact List.map_id _
  obtain ⟨t, ht, hstock, hrod⟩ := push_issues hpr hrel hheld hroom hready.1 q id hlanes
  refine ⟨t, ?_, ?_, hstock.outstanding, hrod⟩
  · rw [exec_fork, execFork, poolForm_ready hpr hready, show (ctx0 s i g none).g &&& (ctx0 s i g none).i.rod.held = i.part g from hall]
    exact ht
  · rw [List.map_map] at hstock
    exact hstock.seg

theorem split_issues (v : View) {x : BitVec 8} (q : BitVec 4) {b : BitVec 8} {n : BitVec 4} (hready : Ready s i [(.w x, v.words)] [(.w x, v.words), (.w b, n.toNat)])
    (hsplit : ∀ l ∈ lanes (i.part g), (splitIv v.fmt ((Pair.ofWords v (i.rod.lws x.toNat v.words l)).iv v.fmt)).isSome = true) :
    Issues (exec (.split g v x q b n) s) i (fun u =>
      (∃ sg, u.seg (s.launchOf i.rid) (s.coreOf i.rid) = some sg ∧ sg.entries.length = seg.entries.length + (lanes (i.part g)).length) ∧
      ((u.cmd (s.launchOf i.rid)).map (·.outstanding)) = some (cmd.outstanding + (lanes (i.part g)).length) ∧
      ∃ y, u.rod i.rid = some y ∧ ∀ l ∈ lanes (i.part g), q ≠ 0 → y.pred q.toNat l = 1) := by
  have hlanes : (((lanes (i.part g)).filterMap (cutOf i v x b n)).map (fun e => (e.1, e.2.2))).map Prod.fst = lanes (i.part g) := by
    rw [List.map_map]
    exact map_fst_cuts (held_of_part hheld) hsplit
  obtain ⟨t, ht, hstock, hrod⟩ := push_issues hpr hrel hheld hroom hready.1 q
    (fun y => ((lanes (i.part g)).filterMap (cutOf i v x b n)).foldl (fun (y : Rod) e => y.setWords x.toNat e.1 e.2.1) y) hlanes
  refine ⟨t, ?_, ⟨_, hstock.seg, ?_⟩, hstock.outstanding, _, hrod, fun l hl hq => pred_setPreds (toNat_ne_zero hq) q.isLt hl⟩
  · rw [exec_split, execSplit, poolForm_ready hpr hready]
    exact ht
  · have hlen := congrArg List.length hlanes
    rw [List.length_map] at hlen
    rw [List.length_append, List.length_reverse, List.length_map, hlen, Nat.add_comm]

end

theorem poolPush : PoolPush := fun _ _ _ _ _ _ q _ _ hpr hrel hheld hroom =>
  ⟨fork_issues hpr hrel hheld hroom q, fun v _ hready hsplit => split_issues hpr hrel hheld hroom v q hready hsplit⟩

/-! ### `take` (R174, R266) -/

/-- The state in which the items that the lanes held have finished. -/
def ended (s : State) (i : Iss) (g : Guard) : State :=
  (s.setRod i.rid (Endings.released (i.part g) i.rod)).outstand (s.launchOf i.rid) (-(count (i.part g &&& i.rod.held) : Int))

/-- The rod whose lanes have popped what they got, with n items outstanding. -/
def takenRod (d : BitVec 8) (q : BitVec 4) (m : Mask) (got : List (Nat × List Word)) (n : Nat) (x : Rod) : Rod :=
  Rod.setPreds { giveWords d.toNat got x with held := (giveWords d.toNat got x).held ||| maskOf (fun l => got.any (·.1 == l)) } m q.toNat
    (fun l => if got.any (·.1 == l) then 1 else if n = 0 then 0 else 2)

/-- The state in which the lanes have popped what they got. -/
def taken (i : Iss) (d : BitVec 8) (q : BitVec 4) (m : Mask) (got : List (Nat × List Word)) (n : Nat) (t : State) : State :=
  if got ≠ [] then (t.modRod i.rid (takenRod d q m got n)).inherit i.rid else t.modRod i.rid (takenRod d q m got n)

section
variable {s : State} {i : Iss} {p : Packet} {cmd : Cmd} {seg : Segment} {g : Guard} {d : BitVec 8} (q : BitVec 4) (hpr : PoolReady s i p cmd seg)
  (hg : i.part g ≠ 0) (hready : Ready s i [(.w d, 16)] [])
include hpr hg hready

theorem exec_take_popped {got : List (Nat × List Word)} {t : State} {n : Nat}
    (hpop : popLanes (poolOf s i) p (lanes (i.part g)) (ended s i g) ⟨[], false, none⟩ = .ok (⟨got, false, none⟩, t))
    (hleft : (t.cmd (s.launchOf i.rid)).map (·.outstanding) = some n) :
    exec (.take g d q) s = finish (if got.length < (lanes (i.part g)).length ∧ n ≠ 0 then (taken i d q (i.part g) got n t).postSteal (poolOf s i)
      else taken i d q (i.part g) got n t) i := by
  let c := ctx0 s i g none
  have hended : (c.s.modRod c.i.rid (fun x => { x with held := x.held &&& ~~~c.g })).outstand (poolOf s i).lid
      (-((count (c.g &&& c.i.rod.held) : Nat) : Int)) = ended s i g := congrArg (fun t : State => t.outstand _ _) (modRod_setRod ..)
  have hpop' : popLanes (poolOf s i) p (lanes c.g) ((c.s.modRod c.i.rid (fun x => { x with held := x.held &&& ~~~c.g })).outstand (poolOf s i).lid
      (-((count (c.g &&& c.i.rod.held) : Nat) : Int))) ⟨[], false, none⟩ = .ok (⟨got, false, none⟩, t) := hended ▸ hpop
  have hleft' : ((t.cmd (poolOf s i).lid).map (·.outstanding)).getD 0 = n := by rw [show (poolOf s i).lid = s.launchOf i.rid from rfl, hleft]; rfl
  rw [exec_take, execTake, poolForm_ready hpr hready, if_neg (by exact hg)]
  dsimp only
  rw [hpop']
  dsimp only
  rw [hleft', if_neg Bool.false_ne_true]
  rfl

end

theorem held_giveWords (d : Nat) (got : List (Nat × List Word)) (x : Rod) : (giveWords d got x).held = x.held :=
  List.foldlRecOn (motive := fun y : Rod => y.held = x.held) got _ rfl fun _ hy e _ =>
    List.foldlRecOn (motive := fun z : Rod => z.held = x.held) e.2.zipIdx _ hy fun _ hz _ _ => hz

/-- The lanes of a mask that is gathered from its lanes. -/
theorem maskOf_lanes {got : List (Nat × List Word)} {m : Mask} (h : got.map Prod.fst = lanes m) : maskOf (fun l => got.any (·.1 == l)) = m := by
  refine BitVec.eq_of_getLsbD_eq fun l hl => (has_maskOf _ hl).trans ?_
  rw [any_fst, h, Bool.eq_iff_iff, List.contains_iff_mem, mem_lanes]
  rfl

theorem and_not_or (h m : Mask) : h &&& ~~~m ||| m = h ||| m := by
  refine BitVec.eq_of_getLsbD_eq fun l hl => ?_
  rw [BitVec.getLsbD_or, BitVec.getLsbD_or, BitVec.getLsbD_and, BitVec.getLsbD_not, decide_eq_true hl, Bool.true_and]
  cases h.getLsbD l <;> cases m.getLsbD l <;> rfl

theorem nodup_lanes (m : Mask) : (lanes m).Nodup := List.nodup_range.filter _

/-- Every lane has popped an entry: it holds an item, its predicate is T, and it has the entry's words. -/
theorem takenRod_got {d : BitVec 8} {q : BitVec 4} {m h : Mask} {got : List (Nat × List Word)} {n : Nat} {x : Rod} (hlanes : got.map Prod.fst = lanes m)
    (hwords : ∀ e ∈ got, e.2.length = 16) (hx : x.held = h &&& ~~~m) :
    (takenRod d q m got n x).held = h ||| m ∧ ∀ e ∈ got, (q ≠ 0 → (takenRod d q m got n x).pred q.toNat e.1 = 1) ∧
      ∀ k < 16, (takenRod d q m got n x).lw (d.toNat + k) e.1 = e.2.getD k 0 := by
  have hmem : ∀ e ∈ got, e.1 ∈ lanes m := fun e he => hlanes ▸ List.mem_map_of_mem he
  have hlt : ∀ e ∈ got, e.1 < 32 := fun e he => has_lt (mem_lanes.1 (hmem e he))
  refine ⟨?_, fun e he => ⟨fun hq => ?_, fun k hk => ?_⟩⟩
  · rw [takenRod, held_setPreds, held_giveWords, maskOf_lanes hlanes, hx, and_not_or]
  · rw [takenRod, pred_setPreds (toNat_ne_zero hq) q.isLt (hmem e he), if_pos]
    exact List.any_eq_true.2 ⟨e, he, beq_self_eq_true _⟩
  · rw [takenRod, lw_setPreds]
    exact lw_giveWords (hlt e he) hlt x (hlanes ▸ nodup_lanes m) he (by rwa [hwords e he])

/-- A rod that has popped nothing. -/
theorem takenRod_nothing {d : BitVec 8} {q : BitVec 4} {m : Mask} {n l : Nat} {x : Rod} (hl : l ∈ lanes m) (hq : q ≠ 0) :
    (takenRod d q m [] n x).pred q.toNat l = if n = 0 then 0 else 2 := by
  rw [takenRod, pred_setPreds (toNat_ne_zero hq) q.isLt hl, List.any_nil, if_neg Bool.false_ne_true]

section
variable {i : Iss} {d : BitVec 8} {q : BitVec 4} {m : Mask} {got : List (Nat × List Word)} {n : Nat} {t : State}

theorem cmds_taken : (taken i d q m got n t).cmds = t.cmds := by
  unfold taken
  split
  · exact (cmds_inherit ..).trans (cmds_modRod ..)
  · exact cmds_modRod ..

/-- The rod that has popped; it may have taken over stores of its core (R86). -/
theorem rod_taken {x : Rod} (h : t.rod i.rid = some x) : ∃ l, (taken i d q m got n t).rod i.rid = some { takenRod d q m got n x with stores := l } := by
  have hrod : (t.modRod i.rid (takenRod d q m got n)).rod i.rid = some (takenRod d q m got n x) := by
    rw [State.modRod_of _ _ _ _ h, State.rod_setRod]
  unfold taken
  split
  · exact Allocator.rod_inherit hrod
  · exact ⟨_, hrod⟩

end

theorem stock_ended {s : State} {i : Iss} {p : Packet} {cmd : Cmd} {seg : Segment} (g : Guard) (hpr : PoolReady s i p cmd seg) :
    Stock (ended s i g) (poolOf s i) (cmd.outstanding - count (i.part g &&& i.rod.held)) seg := by
  have hstock : Stock (s.setRod i.rid (Endings.released (i.part g) i.rod)) (poolOf s i) cmd.outstanding seg := (stock_ready hpr).of_cmds rfl
  have hout := hstock.outstand (-(count (i.part g &&& i.rod.held) : Int))
  rwa [show ((cmd.outstanding : Int) + -(count (i.part g &&& i.rod.held) : Int)).toNat = cmd.outstanding - count (i.part g &&& i.rod.held) by omega] at hout

theorem rod_ended (s : State) (i : Iss) (g : Guard) : (ended s i g).rod i.rid = some (Endings.released (i.part g) i.rod) :=
  (Endings.rod_outstand ..).trans (State.rod_setRod ..)

section
variable {s : State} {i : Iss} {p : Packet} {cmd : Cmd} {seg : Segment} {g : Guard} {d : BitVec 8} (q : BitVec 4) (hpr : PoolReady s i p cmd seg)
  (hg : i.part g ≠ 0) (hready : Ready s i [(.w d, 16)] []) (hrecv : seg.recv = none)
include hpr hg hready hrecv

theorem take_own (hlen : (lanes (i.part g)).length ≤ seg.entries.length) (hwords : ∀ e ∈ seg.entries, e.length = 16) :
    Issues (exec (.take g d q) s) i (fun u =>
      (∃ sg, u.seg (s.launchOf i.rid) (s.coreOf i.rid) = some sg ∧ sg.entries = seg.entries.drop (lanes (i.part g)).length) ∧
      ∃ y, u.rod i.rid = some y ∧ y.held = i.rod.held ||| i.part g ∧
        ∀ (j l : Nat) (e : List Word), (lanes (i.part g))[j]? = some l → seg.entries[j]? = some e →
          (q ≠ 0 → y.pred q.toNat l = 1) ∧ ∀ k < 16, y.lw (d.toNat + k) l = e.getD k 0) := by
  obtain ⟨t, hpops, ht, hrods⟩ := popLanes_own (p := p) (lanes (i.part g)) ⟨[], false, none⟩ (stock_ended g hpr) hrecv hlen
  have htrod : t.rod i.rid = some (Endings.released (i.part g) i.rod) := by rw [← rod_ended s i g, State.rod, State.rod, hrods]
  have hfst : ((lanes (i.part g)).zip seg.entries).map Prod.fst = lanes (i.part g) := List.map_fst_zip hlen
  have hsnd : ∀ e ∈ (lanes (i.part g)).zip seg.entries, e.2.length = 16 := fun e he => hwords _ (List.of_mem_zip he).2
  have hall : ((lanes (i.part g)).zip seg.entries).length = (lanes (i.part g)).length := by rw [← List.length_map Prod.fst, hfst]
  obtain ⟨l, hrod⟩ := rod_taken (d := d) (q := q) (m := i.part g) (got := (lanes (i.part g)).zip seg.entries)
    (n := cmd.outstanding - count (i.part g &&& i.rod.held)) htrod
  obtain ⟨hheld, hgot⟩ := takenRod_got (d := d) (q := q) (n := cmd.outstanding - count (i.part g &&& i.rod.held))
    (x := Endings.released (i.part g) i.rod) hfst hsnd rfl
  have hexec := exec_take_popped q hpr hg hready hpops ht.outstanding
  rw [if_neg (fun h => (Nat.ne_of_lt h.1) hall)] at hexec
  refine ⟨_, hexec, ⟨_, (ht.of_cmds cmds_taken).seg, rfl⟩, _, hrod, hheld, fun j l e hl he => ?_⟩
  exact hgot (l, e) (List.mem_of_getElem? (List.getElem?_zip_eq_some.2 ⟨hl, he⟩))

theorem take_nothing (hentries : seg.entries = []) (hsp : p.spCap = 0) (hsteal : seg.steal = false) {l : Nat} (hl : l ∈ lanes (i.part g)) (hq : q ≠ 0) :
    Issues (exec (.take g d q) s) i (fun u => ∃ y c, u.rod i.rid = some y ∧ u.cmd (s.launchOf i.rid) = some c ∧
      c.outstanding = cmd.outstanding - count (i.part g &&& i.rod.held) ∧ y.pred q.toNat l = (if c.outstanding = 0 then 0 else 2)) := by
  have hstock := stock_ended g hpr
  have hpops := popLanes_nothing (p := p) (lanes (i.part g)) ⟨[], false, none⟩ hstock hrecv hentries hsp
  have hafter := hstock.of_cmds (cmds_taken (i := i) (d := d) (q := q) (m := i.part g) (got := []) (n := cmd.outstanding - count (i.part g &&& i.rod.held)))
  have hpost : ∀ t, Stock t (poolOf s i) (cmd.outstanding - count (i.part g &&& i.rod.held)) seg → t.postSteal (poolOf s i) = t := by
    intro t ht
    unfold State.postSteal
    simp [ht.seg, hsteal]
  obtain ⟨st, hrod⟩ := rod_taken (d := d) (q := q) (m := i.part g) (got := []) (n := cmd.outstanding - count (i.part g &&& i.rod.held)) (rod_ended s i g)
  have hexec := exec_take_popped q hpr hg hready hpops hstock.outstanding
  rw [hpost _ hafter, ite_self] at hexec
  obtain ⟨c, hc, hn, -⟩ := hafter
  refine ⟨_, hexec, _, c, hrod, hc, hn, ?_⟩
  rw [hn]
  exact takenRod_nothing hl hq

end

theorem poolTake : PoolTake := fun _ _ _ _ _ _ q _ hpr hg hready hrecv =>
  ⟨take_own q hpr hg hready hrecv, fun hentries hsp hsteal _ hl hq => take_nothing q hpr hg hready hrecv hentries hsp hsteal hl hq⟩

/-! ### `poolcfg` and `poolst` (R268, R269) -/

/-- Three bits above eleven. -/
theorem bits_eq_sum (a b c : Bool) {n : Nat} (hn : n < 2048) :
    BitVec.ofNat 32 ((if a then 2 ^ 13 else 0) + (if b then 2 ^ 12 else 0) + (if c then 2 ^ 11 else 0) + n) =
      BitVec.setWidth 32 (BitVec.ofBool a ++ BitVec.ofBool b ++ BitVec.ofBool c ++ BitVec.ofNat 11 n) := by
  have hlow : (BitVec.ofBool a ++ BitVec.ofBool b ++ BitVec.ofBool c ++ BitVec.ofNat 11 n).toNat =
      (BitVec.ofBool a ++ BitVec.ofBool b ++ BitVec.ofBool c).toNat * 2 ^ 11 + n := by
    rw [BitVec.toNat_append, BitVec.toNat_ofNat, Nat.mod_eq_of_lt hn, ← Nat.shiftLeft_add_eq_or_of_lt hn, Nat.shiftLeft_eq]
  have hhigh : (BitVec.ofBool a ++ BitVec.ofBool b ++ BitVec.ofBool c).toNat * 2 ^ 11 =
      (if a then 2 ^ 13 else 0) + (if b then 2 ^ 12 else 0) + (if c then 2 ^ 11 else 0) := by cases a <;> cases b <;> cases c <;> rfl
  refine BitVec.eq_of_toNat_eq ?_
  rw [BitVec.toNat_ofNat, BitVec.toNat_setWidth, hlow, hhigh]

/-- The word that `poolst` gives a lane. -/
def poolWord (s : State) (i : Iss) (seg : Segment) (l : Nat) : Word :=
  BitVec.ofBool seg.recv.isSome ++ BitVec.ofBool (s.core (s.coreOf i.rid)).stealFor.isSome ++ BitVec.ofBool (i.rod.held.has l) ++
    BitVec.ofNat 11 seg.entries.length |>.setWidth 32

section
variable {s : State} {i : Iss} {p : Packet} {cmd : Cmd} {seg : Segment} {g : Guard} (hpr : PoolReady s i p cmd seg) (hg : i.part g ≠ 0)
include hpr hg

theorem poolcfg_issues {a : Operand} (hready : Ready s i [] [(a, 1)]) :
    Issues (exec (.poolcfg g a) s) i (fun u => u.seg (s.launchOf i.rid) (s.coreOf i.rid) =
      some { seg with spill := (onceOf s i g a).testBit 0, steal := (onceOf s i g a).testBit 1 }) := by
  have hstock : Stock (s.setRod i.rid i.rod) (poolOf s i) cmd.outstanding seg := (stock_ready hpr).of_cmds rfl
  have hseg : (ctx0 s i g none).s.seg (poolOf s i).lid (poolOf s i).core = some seg := hstock.seg
  have hspill : decide (onceOf s i g a % 2 = 1) = (onceOf s i g a).testBit 0 := by rw [Nat.testBit_eq_decide_div_mod_eq, pow_zero, Nat.div_one]
  have hsteal : decide (onceOf s i g a / 2 % 2 = 1) = (onceOf s i g a).testBit 1 := by rw [Nat.testBit_eq_decide_div_mod_eq, pow_one]
  refine ⟨_, ?_, (hstock.setSeg { seg with spill := (onceOf s i g a).testBit 0, steal := (onceOf s i g a).testBit 1 }).seg⟩
  rw [exec_poolcfg, execPoolcfg, poolForm_ready hpr hready, if_neg (by exact hg), hseg]
  simp only [RegisterClaims.ctx0_once, ← hspill, ← hsteal]
  rfl

end

theorem poolst_completes {s : State} {i : Iss} {p : Packet} {cmd : Cmd} {seg : Segment} {g : Guard} {d : BitVec 8} (hpr : PoolReady s i p cmd seg)
    (hready : Ready s i [(.w d, 1)] []) (hlen : seg.entries.length < 2048) :
    Completes (exec (.poolst g d) s) s i.rid (i.rod.setLws (i.part g) d.toNat (poolWord s i seg)) := by
  have hstock : Stock (s.setRod i.rid i.rod) (poolOf s i) cmd.outstanding seg := (stock_ready hpr).of_cmds rfl
  have hseg : (ctx0 s i g none).s.seg (poolOf s i).lid (poolOf s i).core = some seg := hstock.seg
  have hform : ∀ f : Rod → Rod, (ctx0 s i g none).s.modRod i.rid f = s.setRod i.rid (f i.rod) := fun f => modRod_setRod ..
  rw [exec_poolst, execPoolst, poolForm_ready hpr hready, hseg]
  simp only [Option.getD_some, Ctx.putWords, Lanes.ctx0_i, hform, Lines.foldl_or_zero, Lines.setIflags_zero]
  have hword : poolWord s i seg = fun l => BitVec.ofNat 32 ((if seg.recv.isSome then 2 ^ 13 else 0) +
      (if (s.core (s.coreOf i.rid)).stealFor.isSome then 2 ^ 12 else 0) + (if i.rod.held.has l then 2 ^ 11 else 0) + seg.entries.length) :=
    funext fun l => (bits_eq_sum _ _ _ hlen).symm
  rw [hword]
  exact finish_setRod s i _

section
variable {s : State} {i : Iss} {p : Packet} (g : Guard) (hp : s.packet (s.launchOf i.rid) = some p) (hk : p.poolK = 0)
include hp hk

theorem split_illegal {v : View} {x : BitVec 8} {q : BitVec 4} {b : BitVec 8} {n : BitVec 4}
    (hready : Ready s i [(.w x, v.words)] [(.w x, v.words), (.w b, n.toNat)]) : exec (.split g v x q b n) s = trap s i Cause.illegal := by
  rw [exec_split, execSplit, poolForm_illegal hready hp _ hk]

theorem fork_illegal {q : BitVec 4} {b : BitVec 8} {n : BitVec 4} (hready : Ready s i [] [(.w b, n.toNat + 1)]) :
    exec (.fork g q b n) s = trap s i Cause.illegal := by
  rw [exec_fork, execFork, poolForm_illegal hready hp _ hk]

theorem take_illegal {d : BitVec 8} {q : BitVec 4} (hready : Ready s i [(.w d, 16)] []) : exec (.take g d q) s = trap s i Cause.illegal := by
  rw [exec_take, execTake, poolForm_illegal hready hp _ hk]

theorem poolcfg_illegal {a : Operand} (hready : Ready s i [] [(a, 1)]) : exec (.poolcfg g a) s = trap s i Cause.illegal := by
  rw [exec_poolcfg, execPoolcfg, poolForm_illegal hready hp _ hk]

theorem poolst_illegal {d : BitVec 8} (hready : Ready s i [(.w d, 1)] []) : exec (.poolst g d) s = trap s i Cause.illegal := by
  rw [exec_poolst, execPoolst, poolForm_illegal hready hp _ hk]

end

theorem poolConfigStatus : PoolConfigStatus :=
  ⟨fun _ _ _ _ _ _ hpr hg => ⟨fun _ hready => poolcfg_issues hpr hg hready, fun _ hready hlen => poolst_completes hpr hready hlen⟩,
    fun _ _ _ g hp hk => ⟨fun _ _ _ _ _ => split_illegal g hp hk, fun _ _ _ => fork_illegal g hp hk, fun _ _ => take_illegal g hp hk,
      fun _ => poolcfg_illegal g hp hk, fun _ => poolst_illegal g hp hk⟩⟩

/-- Settles O10: pushes and pops one lane after another, with the segment and the launch's outstanding count kept along. -/
theorem poolInstructions : Obligations.PoolInstructions := ⟨poolPush, poolTake, poolConfigStatus⟩

end Sys2Proof.WorkPool
end

section
/-! SUPPORT. Words written whole at their homes, whatever owner they had, and a counter stepped there (R75, R91, R143). -/

namespace Sys2Proof.WholeWrites
open Sys2Proof.Machine Sys2Proof.Safety Sys2Proof.Laws Sys2Proof.Claims Sys2Proof.Bytes Sys2Proof.Homes Sys2Proof.Perform

/-! ### A word that its home answers for -/

/-- A home-performed read of the word finds the value at home. -/
structure Reads (s : State) (wd : Nat) (v : Word) : Prop where
  owner : s.ownerCore wd = none
  here  : s.homeOf wd ≠ some .lost
  mem   : s.memWord wd = v
  whole : s.poison.contains wd = false
  found : s.poisonLost.contains wd = false

theorem seen_of_reads {s : State} {wd : Nat} {v : Word} (h : Reads s wd v) : (s.curWord wd).seen = v := by
  have hcur : s.curWord wd = { val := s.memWord wd, bad := s.poison.contains wd || s.poisonLost.contains wd, lost := s.poisonLost.contains wd } := by
    unfold State.curWord
    split
    · next hlost => exact absurd hlost h.here
    · rw [h.owner]
  rw [hcur, h.whole, h.found]
  exact h.mem

/-- Bytes whose words read as theirs. -/
theorem curBytes_of_reads {s : State} {pa : Nat} {bs : List Byte} (h : ∀ wd ∈ wordsOf pa bs.length, Reads s wd (bytesIn pa bs wd)) :
    s.curBytes pa bs.length = bs := by
  refine List.ext_getElem (by simp [State.curBytes]) fun k hk hk' => ?_
  have hword : (pa + k) / 4 ∈ wordsOf pa bs.length := (mem_wordsOf (by omega)).2 (by omega)
  have hat : 4 * ((pa + k) / 4) + (pa + k) % 4 = pa + k := Nat.div_add_mod ..
  simp only [State.curBytes, List.getElem_map, List.getElem_range]
  rw [State.curByte, seen_of_reads (h _ hword), byte_bytesIn (Nat.mod_lt _ (by decide)) (by omega), hat, Nat.add_sub_cancel_left]
  exact (List.getElem_eq_getD 0).symm

theorem curNat_of_reads {s : State} {pa n X : Nat} (h : ∀ wd ∈ wordsOf pa n, Reads s wd (bytesIn pa (bytesOf n X) wd)) :
    s.curNat pa n = X % 256 ^ n := by
  have hbytes := curBytes_of_reads (s := s) (pa := pa) (bs := bytesOf n X) (by rwa [length_bytesOf])
  rw [length_bytesOf] at hbytes
  rw [State.curNat, hbytes, ofBytes_bytesOf]

/-! ### States that agree in a word -/

/-- Two states agree in what is recorded of a word, in the dies in service and in the operations under way. -/
structure SameAt (wd : Nat) (s t : State) : Prop where
  diest : t.diest = s.diest
  home  : t.homeOf wd = s.homeOf wd
  mem   : t.memWord wd = s.memWord wd
  whole : t.poison.contains wd = s.poison.contains wd
  found : t.poisonLost.contains wd = s.poisonLost.contains wd
  ops   : t.ops = s.ops

theorem SameAt.refl (wd : Nat) (s : State) : SameAt wd s s := ⟨rfl, rfl, rfl, rfl, rfl, rfl⟩

theorem SameAt.trans {wd : Nat} {s t u : State} (h : SameAt wd s t) (k : SameAt wd t u) : SameAt wd s u :=
  ⟨k.diest.trans h.diest, k.home.trans h.home, k.mem.trans h.mem, k.whole.trans h.whole, k.found.trans h.found, k.ops.trans h.ops⟩

theorem sameAt_of_sameWords {s t : State} (h : SameWords s t) (wd : Nat) : SameAt wd s t :=
  ⟨h.diest, h.homeOf wd, h.memWord wd, by rw [h.poison], by rw [h.poisonLost], h.ops⟩

/-- Whether a core owns a word is what its home records of it. -/
theorem ownerCore_none_of_homeOf {s t : State} {wd : Nat} (hh : t.homeOf wd = s.homeOf wd) (h : s.ownerCore wd = none) : t.ownerCore wd = none := by
  unfold State.ownerCore at h ⊢
  rw [hh]
  split at h <;> simp_all

theorem Reads.of_sameAt {s t : State} {wd : Nat} {v : Word} (h : Reads s wd v) (k : SameAt wd s t) : Reads t wd v :=
  ⟨ownerCore_none_of_homeOf k.home h.owner, by rw [k.home]; exact h.here, k.mem.trans h.mem, k.whole.trans h.whole, k.found.trans h.found⟩

theorem Reads.endOp {s : State} {wd : Nat} {v : Word} (h : Reads s wd v) (n : Nat) : Reads (s.endOp n) wd v := by
  have hsame := sameHomes_endOp s n
  cases hop : s.op n with
  | none =>
    unfold State.endOp
    rw [hop]
    exact h
  | some o =>
    obtain ⟨hrest, -, -⟩ := Gather.endOp_rest hop
    exact ⟨ownerCore_none_of_homeOf (hsame.homeOf wd) h.owner, by rw [hsame.homeOf wd]; exact h.here, (hsame.memWord wd).trans h.mem,
      ((congrArg (fun t : State => t.poison.contains wd) hrest :)).trans h.whole, ((congrArg (fun t : State => t.poisonLost.contains wd) hrest :)).trans h.found⟩

/-! ### What a write of one word leaves of another -/

theorem contains_insertNat {n x : Nat} (h : x ≠ n) (l : List Nat) : (insertNat n l).contains x = l.contains x := by
  induction l with
  | nil => simp [insertNat, h]
  | cons y l ih =>
    unfold insertNat
    split
    · simp [h]
    · split
      · rfl
      · simp only [List.contains_cons, ih]

theorem contains_filter_ne {n x : Nat} (h : x ≠ n) (l : List Nat) : (l.filter (· ≠ n)).contains x = l.contains x := by
  rw [Bool.eq_iff_iff, List.contains_iff_mem, List.contains_iff_mem, List.mem_filter]
  simp [h]

section
variable {w wd : Nat} (hne : w ≠ wd) (s : State)
include hne

theorem sameAt_setPoison (bad : Bool) : SameAt w s (s.setPoison wd bad) := by
  refine ⟨rfl, rfl, rfl, ?_, contains_filter_ne hne _, rfl⟩
  cases bad
  · exact contains_filter_ne hne _
  · exact contains_insertNat hne _

theorem sameAt_setMemWord (v : Word) : SameAt w s (s.setMemWord wd v) := by
  have hbyte : ∀ k < 4, (s.setMemWord wd v).byte (4 * w + k) = s.byte (4 * w + k) := fun k hk => State.byte_setMemWord_other s v (by omega)
  have hbyte0 : (s.setMemWord wd v).byte (4 * w) = s.byte (4 * w) := hbyte 0 (by decide)
  refine ⟨?_, homeOf_setMemWord .., ?_, ?_, ?_, ?_⟩
  · simp only [State.setMemWord, State.setByte_diest]
  · rw [State.memWord, State.memWord, hbyte0, hbyte 1 (by decide), hbyte 2 (by decide), hbyte 3 (by decide)]
  · simp only [State.setMemWord, State.setByte_poison]
  · simp only [State.setMemWord, State.setByte_poisonLost]
  · simp only [State.setMemWord, State.setByte_ops]

theorem sameAt_free_home : SameAt w s (s.setHome wd none) := by
  refine ⟨diest_setHome .., ?_, memWord_setHome .., rfl, rfl, ops_setHome ..⟩
  unfold State.homeOf
  rw [homeDie_setHome]
  by_cases hd : s.homeDie (4 * w) = s.homeDie (4 * wd)
  · rw [hd, State.setHome, State.die_setDie]
    exact Tbl.find_erase_other _ hne
  · rw [State.setHome, die_setDie_other _ _ hd]

theorem sameAt_recall : SameAt w s (s.recall wd) := by
  unfold State.recall
  split
  · exact .refl w s
  · next c _ =>
    extract_lets x t u
    have ht : SameWords s t := sameWords_setCore ..
    have hu : SameWords t u := by
      unfold u
      split
      · exact sameWords_setDie rfl rfl
      · exact sameWords_setDie rfl rfl
      · exact .refl t
    exact (sameAt_of_sameWords (ht.trans hu) w).trans (((sameAt_free_home hne _).trans (sameAt_setMemWord hne _ _)).trans (sameAt_setPoison hne _ _))

/-- A word written whole leaves every other word as it was. -/
theorem sameAt_putWord (v : Word) : SameAt w s (s.putWord wd v 15) := by
  unfold State.putWord
  extract_lets t x
  have ht : SameAt w s t := ((sameAt_of_sameWords (sameWords_hostLine s wd .owned false) w).trans (sameAt_recall hne _)).trans
    (sameAt_of_sameWords ((sameWords_noteWriteOn ..).trans (sameWords_markHeld ..)) w)
  rw [if_pos rfl]
  refine ht.trans (((?_ : SameAt w t _).trans (sameAt_setMemWord hne _ v)).trans (sameAt_setPoison hne _ false))
  split
  · exact sameAt_free_home hne t
  · exact .refl w t

end

theorem ops_putWord (s : State) (wd : Nat) (v : Word) : (s.putWord wd v 15).ops = s.ops := (sameAt_putWord (Nat.succ_ne_self wd) s v).ops

/-! ### A word written whole -/

theorem ownerCore_of_homeOf_none {s : State} {wd : Nat} (h : s.homeOf wd = none) : s.ownerCore wd = none := by rw [State.ownerCore, h]

theorem ownerCore_recall (s : State) (wd : Nat) : (s.recall wd).ownerCore wd = none := by
  unfold State.recall
  split
  · next h => exact h
  · next c _ =>
    extract_lets x t u
    refine ownerCore_of_homeOf_none ?_
    rw [(sameHomes_setPoison _ wd _).homeOf, homeOf_setMemWord, homeOf_setHome]

theorem reads_setMemWord {s : State} {wd : Nat} (howner : s.ownerCore wd = none) (hhere : s.homeOf wd ≠ some .lost) (v : Word) :
    Reads ((s.setMemWord wd v).setPoison wd false) wd v := by
  have hmarks := sameHomes_setPoison (s.setMemWord wd v) wd false
  have hhome : ((s.setMemWord wd v).setPoison wd false).homeOf wd = s.homeOf wd := (hmarks.homeOf wd).trans (homeOf_setMemWord s wd v wd)
  refine ⟨ownerCore_none_of_homeOf hhome howner, by rw [hhome]; exact hhere, (hmarks.memWord wd).trans (memWord_setMemWord s wd v), ?_, ?_⟩
  · simp [State.setPoison]
  · simp [State.setPoison]

/-- A word written whole reads as what was written, whoever owned it. -/
theorem reads_putWord (s : State) (wd : Nat) (v : Word) : Reads (s.putWord wd v 15) wd v := by
  unfold State.putWord
  extract_lets t x
  have howner : t.ownerCore wd = none :=
    ownerCore_none_of_homeOf (((sameWords_noteWriteOn ..).trans (sameWords_markHeld ..)).homeOf wd) (ownerCore_recall (s.hostLine wd .owned) wd)
  rw [if_pos rfl]
  split
  · refine reads_setMemWord (ownerCore_of_homeOf_none (homeOf_setHome t wd none)) ?_ v
    rw [homeOf_setHome]
    exact nofun
  · next hhere => exact reads_setMemWord howner hhere v

/-! ### A number written whole -/

/-- Words written whole, one after another. -/
def putAll (f : Nat → Word) (s : State) (ws : List Nat) : State := ws.foldl (fun s wd => s.putWord wd (f wd) 15) s

theorem ops_putAll (f : Nat → Word) (s : State) (ws : List Nat) : (putAll f s ws).ops = s.ops :=
  List.foldlRecOn (motive := fun t : State => t.ops = s.ops) ws _ rfl fun t ht wd _ => (ops_putWord t wd (f wd)).trans ht

theorem sameAt_putAll {f : Nat → Word} {s : State} {ws : List Nat} {w : Nat} (h : w ∉ ws) : SameAt w s (putAll f s ws) :=
  List.foldlRecOn (motive := SameAt w s) ws _ (.refl w s) fun t ht wd hwd => ht.trans (sameAt_putWord (by rintro rfl; exact h hwd) t (f wd))

theorem reads_putAll {f : Nat → Word} {ws : List Nat} (hnodup : ws.Nodup) (s : State) : ∀ wd ∈ ws, Reads (putAll f s ws) wd (f wd) := by
  induction ws generalizing s with
  | nil => exact nofun
  | cons w ws ih =>
    obtain ⟨hw, hrest⟩ := List.nodup_cons.1 hnodup
    intro wd hwd
    obtain rfl | hwd := List.mem_cons.1 hwd
    · exact (reads_putWord s wd (f wd)).of_sameAt (sameAt_putAll hw)
    · exact ih hrest _ wd hwd

section
variable {pa n : Nat} (hpa : pa % 4 = 0) (hn : n % 4 = 0)
include hpa hn

/-- Aligned bytes cover their words whole. -/
theorem byteMask_whole {wd : Nat} (hwd : wd ∈ wordsOf pa n) : byteMask pa n wd = 15 := by
  have hpos : 0 < n := by
    rcases Nat.eq_zero_or_pos n with rfl | h
    · simp [wordsOf, hpa] at hwd
    · exact h
  have hin := (mem_wordsOf hpos).1 hwd
  refine BitVec.eq_of_getLsbD_eq fun i hi => ?_
  rw [getLsbD_byteMask _ _ _ hi, show (15 : BitVec 4).getLsbD i = true by interval_cases i <;> rfl, decide_eq_true (by omega), decide_eq_true (by omega)]
  rfl

theorem putNat_whole (s : State) (X : Nat) : s.putNat pa n X = putAll (bytesIn pa (bytesOf n X)) s (wordsOf pa n) := by
  rw [State.putNat, State.putBytes, length_bytesOf, putAll]
  exact List.foldl_ext _ _ _ fun t wd hwd => by rw [byteMask_whole hpa hn hwd]

theorem reads_putNat (s : State) (X : Nat) : ∀ wd ∈ wordsOf pa n, Reads (s.putNat pa n X) wd (bytesIn pa (bytesOf n X) wd) := by
  have hnodup : (wordsOf pa n).Nodup := List.nodup_range.map fun a b h => Nat.add_left_cancel h
  rw [putNat_whole hpa hn]
  exact reads_putAll hnodup s

end

/-! ### A counter stepped (R143) -/

/-- An undamaged counter that nothing watches reads one higher. -/
theorem counterAdd_reads {s : State} {pa : Nat} (r : RodId) (hpa : pa % 8 = 0) (hreach : s.reach pa = .memory)
    (hclean : ∀ wd ∈ wordsOf pa 8, (s.curWord wd).bad = false) (hun : Unwatched s pa) :
    (s.counterAdd (some r) pa 1).ops = s.ops ∧
      ∀ wd ∈ wordsOf pa 8, Reads (s.counterAdd (some r) pa 1) wd (bytesIn pa (bytesOf 8 ((s.curNat pa 8 + 1) % 2 ^ 64)) wd) := by
  have hbad : (wordsOf pa 8).any (fun wd => (s.curWord wd).bad && !(s.curWord wd).lost) = false :=
    List.any_eq_false.2 fun wd hwd => by simp [hclean wd hwd]
  have hamo : amoApply .add (8 * 8) (s.curNat pa 8) 1 0 = (s.curNat pa 8 + 1) % 2 ^ 64 := by
    simp [amoApply]
  have hrun : runAcc { lane := 0, pa := pa, size := 8, act := .amo .add 1 0 } s =
      (s.curNat pa 8, s.wordCauses (wordsOf pa 8), s.putNat pa 8 ((s.curNat pa 8 + 1) % 2 ^ 64)) := by
    simp only [runAcc, HomeAcc.words, hreach, ne_eq, not_true_eq_false, if_false, hbad, Bool.false_eq_true, hamo]
  obtain ⟨q, rfl⟩ : ∃ q, pa = 8 * q := ⟨pa / 8, by omega⟩
  have hsame : SameWords (s.putNat (8 * q) 8 ((s.curNat (8 * q) 8 + 1) % 2 ^ 64)) (s.counterAdd (some r) (8 * q) 1) := by
    unfold State.counterAdd
    rw [hrun]
    exact (sameWords_raise ..).trans (sameWords_noteCounters hun ..)
  have hpa4 : 8 * q % 4 = 0 := by omega
  refine ⟨hsame.ops.trans ?_, fun wd hwd => (reads_putNat hpa4 (by decide) s _ wd hwd).of_sameAt (sameAt_of_sameWords hsame wd)⟩
  rw [putNat_whole hpa4 (by decide)]
  exact ops_putAll ..

end Sys2Proof.WholeWrites
end

section
/-! SUPPORT. Copies of the streamer: their issue, their lines as they land, and their end (R153, R329, R331, R332). -/

namespace Sys2Proof.CopyEngine
open Sys2Proof.Machine Sys2Proof.Safety Sys2Proof.Laws Sys2Proof.Claims Sys2Proof.Scratch Sys2Proof.WholeWrites

/-! ### What barriers and causes leave alone -/

/-- Two states agree but for barriers, messages under way and the causes of rods. -/
structure SameButBars (s t : State) : Prop where
  mem    : t.mem = s.mem
  ops    : t.ops = s.ops
  nextId : t.nextId = s.nextId
  rod    : ∀ r x, s.rod r = some x → ∃ k, t.rod r = some { x with cause := k }
  chain  : ∀ c y, s.chain c = some y → ∃ b, t.chain c = some { y with bars := b }

theorem SameButBars.refl (s : State) : SameButBars s s := ⟨rfl, rfl, rfl, fun _ x h => ⟨x.cause, h⟩, fun _ y h => ⟨y.bars, h⟩⟩

theorem SameButBars.trans {s t u : State} (h : SameButBars s t) (k : SameButBars t u) : SameButBars s u := by
  refine ⟨k.mem.trans h.mem, k.ops.trans h.ops, k.nextId.trans h.nextId, fun r x hx => ?_, fun c y hy => ?_⟩
  · obtain ⟨e, he⟩ := h.rod r x hx
    obtain ⟨e', he'⟩ := k.rod r _ he
    exact ⟨e', he'⟩
  · obtain ⟨e, he⟩ := h.chain c y hy
    obtain ⟨e', he'⟩ := k.chain c _ he
    exact ⟨e', he'⟩

theorem SameButBars.op {s t : State} (h : SameButBars s t) (n : Nat) : t.op n = s.op n := by rw [State.op, State.op, h.ops]

theorem sameButBars_send (s : State) (m : Instr) : SameButBars s (s.send m) :=
  ⟨rfl, rfl, rfl, fun _ x h => ⟨x.cause, h⟩, fun _ y h => ⟨y.bars, h⟩⟩

theorem sameButBars_raise (s : State) (r : RodId) (b : Word) : SameButBars s (s.raise r b) := by
  unfold State.raise
  split
  · exact .refl s
  · have hrest := modRod_rest s r (·.raise b)
    refine ⟨(congrArg State.mem hrest :), (congrArg State.ops hrest :), (congrArg State.nextId hrest :), fun k x h => ?_, fun c y h => ⟨y.bars, ?_⟩⟩
    · obtain h' | h' := Gather.rod_modRod_cases h r (·.raise b)
      · exact ⟨_, h'⟩
      · exact ⟨x.cause, h'⟩
    · exact ((congrArg (fun t : State => t.chain c) hrest :)).trans h

theorem chain_modBars {s : State} {c k : Nat} {y : Chain} (h : s.chain k = some y) (f : Chain → Tbl Bar) :
    ∃ b, (s.modChain c (fun y => { y with bars := f y })).chain k = some { y with bars := b } := by
  unfold State.modChain
  by_cases hk : k = c
  · subst hk
    rw [h]
    exact ⟨_, State.chain_setChain ..⟩
  · split
    · exact ⟨y.bars, (Tbl.find_put_other _ _ hk).trans h⟩
    · exact ⟨y.bars, h⟩

theorem modChain_rest (s : State) (c : Nat) (f : Chain → Chain) : { s.modChain c f with chains := s.chains } = s := by
  unfold State.modChain
  split <;> rfl

theorem sameButBars_setBar (s : State) (b : BarId) (x : Bar) : SameButBars s (s.setBar b x) := by
  cases b with
  | chain c n =>
    have hrest := modChain_rest s c (fun y => { y with bars := y.bars.set n x Bar.reset })
    exact ⟨(congrArg State.mem hrest :), (congrArg State.ops hrest :), (congrArg State.nextId hrest :),
      fun r z h => ⟨z.cause, ((congrArg (fun t : State => t.rod r) hrest :)).trans h⟩, fun _ _ h => chain_modBars h _⟩
  | furlong f n =>
    unfold State.setBar
    dsimp only
    split
    · exact ⟨rfl, rfl, rfl, fun _ z h => ⟨z.cause, h⟩, fun _ y h => ⟨y.bars, h⟩⟩
    · exact .refl s
  | launch l n =>
    unfold State.setBar State.modCmd
    dsimp only
    split
    · exact ⟨rfl, rfl, rfl, fun _ z h => ⟨z.cause, h⟩, fun _ y h => ⟨y.bars, h⟩⟩
    · exact .refl s

theorem sameButBars_checkBar (s : State) (b : BarId) : SameButBars s (s.checkBar b) := by
  unfold State.checkBar
  split
  · exact (sameButBars_setBar ..).trans (sameButBars_send ..)
  · exact .refl s

theorem sameButBars_landBytes (s : State) (r : RodId) (tag : Option (BarId × Nat)) (n : Nat) : SameButBars s (s.landBytes r tag n) := by
  unfold State.landBytes
  split
  · exact .refl s
  · next b p =>
    extract_lets less left k t
    have hless : ∀ s k, SameButBars s (less s k) := fun s k => (sameButBars_setBar ..).trans (sameButBars_checkBar ..)
    split
    · exact .refl s
    · split
      · exact sameButBars_raise ..
      · have ht : SameButBars s t := hless s k
        split
        · exact ht
        · split
          · exact ht.trans (hless ..)
          · exact ht.trans (sameButBars_raise ..)

theorem sameButBars_issueCopy (s : State) (r : RodId) (op : CopyOp) (n : Nat) (k : Word) : SameButBars s (s.issueCopy r op n k) := by
  unfold State.issueCopy
  extract_lets t u
  have hu : SameButBars t u := by
    unfold u
    split
    · exact sameButBars_setBar ..
    · exact .refl t
  exact ((sameButBars_raise ..).trans hu).trans (sameButBars_landBytes ..)

/-! ### `cpy` and `cpyo` (R153, R329) -/

section
variable {s : State} {i : Iss} {g : Guard} {a b k : Operand} (bar : Option CopyBar) (h : Hint) (seq : Option (BitVec 6))
  (hready : Ready s i [] [(a, 1), (b, 2), (k, 1)]) (hg : i.part g ≠ 0)
include hready hg

/-- Only rod 0 copies. -/
theorem copyForm_traps (out : Bool) (hrole : i.rod.role ≠ 0) : copyForm s g out a b k bar seq h = trap s i Cause.copyr := by
  unfold copyForm
  rw [issue_ready hready, if_neg (by exact hg), if_pos (by exact hrole)]
  rfl

/-- A copy that the streamer has room for is taken on as an operation. -/
theorem copyForm_issues {out : Bool} {bid : Option BarId} {op : CopyOp} {n : Nat} {w : Word} (hrole : i.rod.role = 0)
    (hbar : s.copyBar i.rid (match bar with | none => 0 | some x => if x.furlong then 2 else 1) (match bar with | none => 0 | some x => x.no.toNat) = some bid)
    (hflag : i.flagFull = false) (hroom : s.copiesOn (s.coreOf i.rid) < Config.copyOps)
    (heng : s.engineReady i.rid (if seq.isSome then .package else .furlong) = true)
    (hmake : s.makeCopy i.rid out ((srcs s i g none).int .a a false 32 (lowest (i.part g))).toNat ((srcs s i g none).d64 .b b (lowest (i.part g)))
      ((srcs s i g none).int .c k false 32 (lowest (i.part g))).toNat bid (seq.map (fun r => i.rod.un r.toNat)) false h = (op, n, w)) :
    Issues (copyForm s g out a b k bar seq h) i (fun u => KeepsRegisters s u i.rid ∧
      u.op s.nextId = some { rod := i.rid, flags := flagsOf i true, kind := .copy op, susp := false, denied := [] }) := by
  have hrod := State.issuer_rod hready.1
  have hform : copyForm s g out a b k bar seq h = finish (((s.setRod i.rid i.rod).issueCopy i.rid op n w).addOp i (.copy op)).2 i := by
    rw [← ctx0_int, ← ctx0_d64, ← ctx0_int] at hmake
    unfold copyForm
    rw [issue_ready hready, if_neg (by exact hg), if_neg (not_not.2 (by exact hrole))]
    split
    · next hnone => exact absurd (hbar.symm.trans hnone) nofun
    · next bid' hsome =>
      obtain rfl := Option.some.inj (hbar.symm.trans hsome)
      have hmake' : (ctx0 s i g none).s.makeCopy (ctx0 s i g none).i.rid out ((ctx0 s i g none).w32 .a a (ctx0 s i g none).low).toNat
          ((ctx0 s i g none).d64 .b b (ctx0 s i g none).low) ((ctx0 s i g none).w32 .c k (ctx0 s i g none).low).toNat bid
          (seq.map (fun r => (ctx0 s i g none).i.rod.un r.toNat)) false h = (op, n, w) := hmake
      have heng' : (ctx0 s i g none).s.engineReady (ctx0 s i g none).i.rid (if seq.isSome then .package else .furlong) = true :=
        (Gather.engineReady_setRod hrod _).trans heng
      rw [if_neg (by rw [show (ctx0 s i g none).i.flagFull = false from hflag]; exact Bool.false_ne_true), if_neg (not_not.2 heng'),
        if_neg (Nat.not_le.2 (by exact hroom)), hmake']
      rfl
  have hsame := sameButBars_issueCopy (s.setRod i.rid i.rod) i.rid op n w
  obtain ⟨e, he⟩ := hsame.rod i.rid i.rod (State.rod_setRod ..)
  obtain ⟨l, hl⟩ := Gather.rod_addOp he (.copy op)
  refine ⟨_, hform, ⟨(Gather.mem_addOp ..).trans hsame.mem, fun x hx => ⟨_, hl, ?_⟩⟩, ?_⟩
  · obtain rfl : i.rod = x := Option.some.inj (hrod.symm.trans hx)
    rfl
  · rw [show s.nextId = ((s.setRod i.rid i.rod).issueCopy i.rid op n w).nextId from hsame.nextId.symm]
    exact Lines.op_addOp ..

end

/-! ### A line lands (R331, R332) -/

/-- The state in which a line's bytes have landed. -/
def landed (s : State) (n : Nat) (o : Op) (c : CopyOp) (x : Landing) : State :=
  (((s.raise o.rod x.cause).mflag o.rod (if x.sprd then 1 else 0)).setOpKind n
    (.copy { c with lines := c.lines.drop 1, caused := c.caused || x.cause != 0 })).landBytes o.rod c.bar x.count

theorem landed_spec {s : State} {n : Nat} {o : Op} (hop : s.op n = some o) (c : CopyOp) (x : Landing) :
    (landed s n o c x).mem = s.mem ∧
      (landed s n o c x).op n = some { o with kind := .copy { c with lines := c.lines.drop 1, caused := c.caused || x.cause != 0 } } ∧
      ∀ k y, s.chain k = some y → ∃ b, (landed s n o c x).chain k = some { y with bars := b } := by
  have hraise := sameButBars_raise s o.rod x.cause
  have hflag := modRod_rest (s.raise o.rod x.cause) o.rod (fun y => { y with mflags := y.mflags ||| (if x.sprd then 1 else 0) })
  have hop' : ((s.raise o.rod x.cause).mflag o.rod (if x.sprd then 1 else 0)).op n = some o :=
    ((congrArg (fun t : State => t.op n) hflag :)).trans ((hraise.op n).trans hop)
  unfold landed State.setOpKind
  rw [hop']
  have hland := sameButBars_landBytes (((s.raise o.rod x.cause).mflag o.rod (if x.sprd then 1 else 0)).setOp n
    { o with kind := .copy { c with lines := c.lines.drop 1, caused := c.caused || x.cause != 0 } }) o.rod c.bar x.count
  refine ⟨hland.mem.trans (((congrArg State.mem hflag :)).trans hraise.mem), (hland.op n).trans (State.op_setOp ..), fun k y hy => ?_⟩
  obtain ⟨b, hb⟩ := hraise.chain k y hy
  exact hland.chain k { y with bars := b } (((congrArg (fun t : State => t.chain k) hflag :)).trans hb)

section
variable {s s1 s2 : State} {n line : Nat} {o : Op} {c : CopyOp} {ch : Chain} {ps : List (CopyElem × Where)} {x : Landing}
  (hl : LandReady s n line o c ch)
  (hps : s.copyPlaces n o (if c.out then .write else .read) ((c.elemsOn line).filter (fun e => e.inb || !c.out)) [] = .ok (ps, s1))
include hl hps

theorem land_in {t0 : Tbl WordRead} (hout : c.out = false) (hcan : s1.engineCan (s1.coreOf o.rod) (copyAccesses c line ps) = true)
    (hread : s1.readParts (s1.coreOf o.rod) (copyAccesses c line ps) c.hint = (t0, s2))
    (hx : ps.foldl (fun (x : Landing) p => s1.landIn t0 c line p.1 p.2 x) ⟨[], [], 0, 0, false⟩ = x) :
    exec (.copyLineLand n line) s =
      .next (landed (s2.modChain o.rod.chain (fun ch => (ch.putCells x.cells x.bad).setFull line true)) n o c x) := by
  obtain ⟨hop, hkind, hchain, hgoes, hnext, hfull⟩ := hl
  have hcond : ¬ (o.susp = true ∨ c.lines.head? ≠ some line ∨ ch.full line ≠ c.out) := by simp [hgoes, hnext, hfull]
  rw [exec_copyLineLand, execCopyLineLand, hop]
  simp only [hkind, hchain, if_neg hcond, hps]
  simp only [hout, Bool.false_eq_true, if_false, hcan, not_true_eq_false, hread, hx, landed]

theorem land_out (hout : c.out = true) (hmay : s1.engineMay (s1.coreOf o.rod) (copyAccesses c line ps) = true)
    (hx : ps.foldl (fun (acc : Landing × State) p => acc.2.landOut o.rod c line p.1 p.2 acc.1) (⟨[], [], 0, 0, false⟩, s1) = (x, s2)) :
    exec (.copyLineLand n line) s = .next (landed s2 n o c x) := by
  obtain ⟨hop, hkind, hchain, hgoes, hnext, hfull⟩ := hl
  have hcond : ¬ (o.susp = true ∨ c.lines.head? ≠ some line ∨ ch.full line ≠ c.out) := by simp [hgoes, hnext, hfull]
  rw [exec_copyLineLand, execCopyLineLand, hop]
  simp only [hkind, hchain, if_neg hcond, hps]
  simp only [hout, if_true, hmay, not_true_eq_false, if_false, hx, landed]

/-- A line that has come in is full. -/
theorem land_in_lands {t0 : Tbl WordRead} {c2 : Chain} (hout : c.out = false) (hcan : s1.engineCan (s1.coreOf o.rod) (copyAccesses c line ps) = true)
    (hread : s1.readParts (s1.coreOf o.rod) (copyAccesses c line ps) c.hint = (t0, s2))
    (hx : ps.foldl (fun (x : Landing) p => s1.landIn t0 c line p.1 p.2 x) ⟨[], [], 0, 0, false⟩ = x) (hc2 : s2.chain o.rod.chain = some c2)
    (hop2 : s2.op n = some o) : ∃ t y, exec (.copyLineLand n line) s = .next t ∧ t.mem = s2.mem ∧
      t.op n = some { o with kind := .copy { c with lines := c.lines.drop 1, caused := c.caused || x.cause != 0 } } ∧ t.chain o.rod.chain = some y ∧
      y.full line = true ∧ y.scr = (c2.putCells x.cells x.bad).scr := by
  have hmod : s2.modChain o.rod.chain (fun ch => (ch.putCells x.cells x.bad).setFull line true) =
      s2.setChain o.rod.chain ((c2.putCells x.cells x.bad).setFull line true) := by rw [State.modChain, hc2]
  have hexec := land_in hl hps hout hcan hread hx
  rw [hmod] at hexec
  obtain ⟨hmem, hop', hchain⟩ := landed_spec (s := s2.setChain o.rod.chain ((c2.putCells x.cells x.bad).setFull line true)) hop2 c x
  obtain ⟨e, he⟩ := hchain o.rod.chain _ (State.chain_setChain ..)
  exact ⟨_, _, hexec, hmem, hop', he, (full_setFull (c2.putCells x.cells x.bad) line true line).trans (if_pos rfl), rfl⟩

theorem land_out_lands (hout : c.out = true) (hmay : s1.engineMay (s1.coreOf o.rod) (copyAccesses c line ps) = true)
    (hx : ps.foldl (fun (acc : Landing × State) p => acc.2.landOut o.rod c line p.1 p.2 acc.1) (⟨[], [], 0, 0, false⟩, s1) = (x, s2))
    (hop2 : s2.op n = some o) : ∃ t, exec (.copyLineLand n line) s = .next t ∧ t.mem = s2.mem ∧
      t.op n = some { o with kind := .copy { c with lines := c.lines.drop 1, caused := c.caused || x.cause != 0 } } := by
  obtain ⟨hmem, hop', -⟩ := landed_spec hop2 c x
  exact ⟨_, land_out hl hps hout hmay hx, hmem, hop'⟩

end

/-! ### The end of a copy (R331, R332) -/

section
variable {s : State} {n : Nat} {o : Op} {c : CopyOp} (hop : s.op n = some o) (hkind : o.kind = .copy c)
include hop hkind

theorem land_idle {line : Nat} {ch : Chain} (hchain : s.chain o.rod.chain = some ch) (h : c.lines.head? ≠ some line ∨ ch.full line ≠ c.out ∨ o.susp = true) :
    exec (.copyLineLand n line) s = .next s := by
  have hcond : o.susp = true ∨ c.lines.head? ≠ some line ∨ ch.full line ≠ c.out := by
    obtain h | h | h := h
    · exact .inr (.inl h)
    · exact .inr (.inr h)
    · exact .inl h
  rw [exec_copyLineLand, execCopyLineLand, hop]
  simp only [hkind, hchain, if_pos hcond]

theorem complete_idle (h : c.lines ≠ [] ∨ o.susp = true) : exec (.copyComplete n) s = .next s := by
  rw [exec_copyComplete, execCopyComplete, hop]
  simp only [hkind, if_pos h.symm]

section
variable (hlines : c.lines = []) (hgoes : o.susp = false) (hraw : c.raw = false)
include hlines hgoes hraw

theorem complete_plain (hseq : c.seq = none) : exec (.copyComplete n) s = .next (s.endOp n) := by
  have hcond : ¬ (o.susp = true ∨ c.lines ≠ []) := by simp [hlines, hgoes]
  rw [exec_copyComplete, execCopyComplete, hop]
  simp only [hkind, if_neg hcond, hseq, State.copyEnd, hraw, Bool.false_eq_true, if_false, Blocks.raise_zero]

theorem complete_unaligned {va : DWord} (hseq : c.seq = some va) (hva : va.toNat % 8 ≠ 0) :
    exec (.copyComplete n) s = .next ((s.raise o.rod Cause.accv).endOp n) := by
  have hcond : ¬ (o.susp = true ∨ c.lines ≠ []) := by simp [hlines, hgoes]
  rw [exec_copyComplete, execCopyComplete, hop]
  simp only [hkind, if_neg hcond, hseq, if_pos hva, State.copyEnd, hraw, Bool.false_eq_true, if_false]

theorem complete_steps {va : DWord} {pa : Nat} {ent : DWord} {s1 : State} (hseq : c.seq = some va) (hva : va.toNat % 8 = 0)
    (hres : s.resolve (.core (s.coreOf o.rod)) (s.asidOf o.rod) o.denied va .write = (.mem pa ent, s1)) (hcnt : Pte.cnt ent = true)
    (hreach : s1.reach pa = .memory) (hput : s1.canPut (stopOf (s1.coreOf o.rod).die) pa 8 = true) :
    exec (.copyComplete n) s = .next ((s1.counterAdd (some o.rod) pa 1).endOp n) := by
  have hcond : ¬ (o.susp = true ∨ c.lines ≠ []) := by simp [hlines, hgoes]
  rw [exec_copyComplete, execCopyComplete, hop]
  simp only [hkind, if_neg hcond, hseq, hva, ne_eq, not_true_eq_false, if_false, hres, hcnt, hreach, hput, and_false, and_self, if_true, State.copyEnd, hraw,
    Bool.false_eq_true, Blocks.raise_zero]

end

end

/-- The counter that SEQ names is one higher, and the copy is over. -/
theorem endOp_counts {s : State} {n pa : Nat} {o : Op} (hpa : pa % 8 = 0) (hreach : s.reach pa = .memory)
    (hclean : ∀ wd ∈ wordsOf pa 8, (s.curWord wd).bad = false) (hop : s.op n = some o) (hun : Unwatched s pa) :
    OpOver ((s.counterAdd (some o.rod) pa 1).endOp n) n ∧ ((s.counterAdd (some o.rod) pa 1).endOp n).curNat pa 8 = (s.curNat pa 8 + 1) % 2 ^ 64 := by
  obtain ⟨hops, hreads⟩ := counterAdd_reads o.rod hpa hreach hclean hun
  have hop' : (s.counterAdd (some o.rod) pa 1).op n = some o := by rw [State.op, hops]; exact hop
  obtain ⟨-, hgone, -⟩ := Gather.endOp_rest hop'
  refine ⟨by rw [OpOver, State.op, hgone]; exact Tbl.find_erase_self .., ?_⟩
  rw [curNat_of_reads fun wd hwd => (hreads wd hwd).endOp n]
  norm_num

/-! ### The statement -/

/-- Settles O39: a copy's issue and its lines touch barriers and causes beside what they name, and the counter is written whole at its home. -/
theorem copies : Obligations.Copies := by
  refine ⟨fun s i g a b k bar h seq bid hready hg => ⟨fun hrole => ⟨copyForm_traps bar h none hready hg false hrole, copyForm_traps bar h seq hready hg true hrole⟩, ?_⟩,
    fun s n line o c ch hl ps s1 x s2 t0 core hcore hps => ?_, fun s n line o c ch hop hkind hchain =>
      ⟨land_idle hop hkind hchain, complete_idle hop hkind, ?_⟩⟩
  · rintro hrole hbar hflag hroom va x y rfl rfl rfl
    exact ⟨fun heng _ _ _ hmake => copyForm_issues bar h none hready hg hrole hbar hflag hroom heng hmake,
      fun heng _ _ _ hmake => copyForm_issues bar h seq hready hg hrole hbar hflag hroom heng hmake⟩
  · subst hcore
    exact ⟨fun hout hcan hread hx _ hc2 hop => land_in_lands hl hps hout hcan hread hx hc2 hop, land_out_lands hl hps⟩
  · intro hlines hgoes hraw
    refine ⟨complete_plain hop hkind hlines hgoes hraw, fun va pa ent s1 hseq hva hres hcnt hreach hpa hput hclean hop1 hun => ?_,
      fun va hseq hva => complete_unaligned hop hkind hlines hgoes hraw hseq hva⟩
    exact ⟨_, complete_steps hop hkind hlines hgoes hraw hseq hva hres hcnt hreach hput, endOp_counts hpa hreach hclean hop1 hun⟩

end Sys2Proof.CopyEngine
end
